-- ==== Sys2Proof/Word.lean ====
section
/-! DEFINITION. The words of the module: bytes, 32-bit register words, packed lines, and plain bit fields (R10, R12, R47). -/
namespace Sys2Proof

/-- One byte. -/
abbrev Byte := BitVec 8

/-- One 32-bit register word, or one FP32 pattern (R12). -/
abbrev Word := BitVec 32

/-- A packed line: 72 bytes, the byte at the lowest address first (R47). -/
abbrev Line := List Byte

/-- A sparse table: strictly rising keys, no entry equal to what an unlisted key reads as. -/
abbrev Sparse (α : Type) := List (Nat × α)

/-- Bits `[lo + w - 1 : lo]` of a number (R10). -/
def bitsOf (x lo w : Nat) : Nat := x / 2 ^ lo % 2 ^ w

/-- Ceiling of a quotient; 0 when the divisor is 0. -/
def ceilDiv (a b : Nat) : Nat := (a + b - 1) / b

end Sys2Proof
end

