-- ==== Sys2Proof/Syntax.lean ====
section
/-! DEFINITION. The commands of the module, one constructor of `Instr` for each row of spec/opcode_table.json,
and the plain data that their operands and the programs of a scroll are made of. -/
namespace Sys2Proof

/-! ### Places and accesses -/

/-- Where a run of lines or bytes lies: T0 of a nib, the well of a die, T2 by line address, a raw address (R221, R228). -/
inductive Space where
  | t0 (nib : Nat)
  | well (die : Nat)
  | line
  | raw
  deriving DecidableEq, Repr, Inhabited

/-- A place: a space and an index in it (line index, line address, or byte address for `raw`). -/
structure Place where
  space : Space
  at_ : Nat
  deriving DecidableEq, Repr, Inhabited

/-- A buffer that a program set declares: `count` lines (bytes when raw) from a place. -/
structure Buffer where
  place : Place
  count : Nat
  deriving DecidableEq, Repr, Inhabited

/-- One access of a stroke entry: which stage, which unit of work (product, mover descriptor, collective or step),
what it touches, how, and the units it waits for. -/
structure Access where
  stage : Nat
  unit : Nat
  mover : Bool
  atomic : Bool
  write : Bool
  buf : Buffer
  after : List Nat
  deriving DecidableEq, Repr, Inhabited

/-- What a read of stored lines met beneath the check code (R223, R224). -/
inductive EccResult where
  | clean | corrected | uncorrectable
  deriving DecidableEq, Repr, Inhabited

/-! ### Movers and collectives -/

/-- Mover operations (R235). -/
inductive MoverOp where
  | nop | copy | zero | add | mxImport | mxExport
  deriving DecidableEq, Repr, Inhabited

/-- A mover descriptor (R235). -/
structure MoverDesc where
  mxint8 : Bool
  rows : Nat
  lines : Nat
  src : Place
  dst : Place
  srcStride : Nat
  dstStride : Nat
  k : Nat
  mxscale : Nat
  deriving DecidableEq, Repr, Inhabited

/-- A mover: of compute die 0 or 1, or of the IO die (2), and its number (R233). -/
structure MoverRef where
  die : Nat
  num : Nat
  deriving DecidableEq, Repr, Inhabited

/-- Collective operations (R321). -/
inductive CollOp where
  | allGather | reduceScatter | allReduce | allToAll | transfer
  deriving DecidableEq, Repr, Inhabited

/-- A collective descriptor (R321). -/
structure CollDesc where
  op : CollOp
  members : BitVec 128
  sender : Nat
  redMax : Bool
  inFmt : Nat
  wireFmt : Nat
  dstFmt : Nat
  lines : Nat
  src : Place
  dst : Place
  tmo : Nat
  deriving DecidableEq, Repr, Inhabited

/-! ### Products -/

/-- Where the outlier channels of a segment's row operand come from on the reading side (R115, R116):
T0 lines of the index lines, and the side tensor's header and rows. -/
structure FlourishIn where
  index : List Nat
  sideHdr : Nat
  sideLine : Nat
  sideStride : Nat
  deriving DecidableEq, Repr, Inhabited

/-- One K-segment of a product, as T0 lines of the gang's nibs (R77, R82): `lines` is its number of line positions. -/
structure Segment where
  lines : Nat
  aHdr : Nat
  aLine : Nat
  aStride : Nat
  bHdr : Nat
  bLine : Nat
  bStride : Nat
  flourish : Option FlourishIn
  deriving DecidableEq, Repr, Inhabited

/-- A convolution descriptor (R198) with the tap offsets and the lines of one segment (R202), the input channels of its group (R211) and the
well lines of its input (R195, R199). -/
structure ConvDesc where
  kt : Nat
  kh : Nat
  kw : Nat
  st : Nat
  sh : Nat
  sw : Nat
  dt : Nat
  dh : Nat
  dw : Nat
  ut : Nat
  uh : Nat
  uw : Nat
  ot : Int
  oh : Int
  ow : Int
  inT : Nat
  inH : Nat
  inW : Nat
  outT : Nat
  outH : Nat
  outW : Nat
  cIn : Nat
  cOut : Nat
  inFmt : Nat
  inScale : Word
  span : Nat
  replicate : Bool
  carry : Nat
  segs : Nat
  tapT : Nat
  tapH : Nat
  tapW : Nat
  line0 : Nat
  lineN : Nat
  chan0 : Nat
  chanN : Nat
  inputAt : Nat
  carryAt : Nat
  deriving DecidableEq, Repr, Inhabited

/-- A wait of the engine before it loads a halo row: the row-ready counter, the value that the stage program gives, the segment that reads the row (R215). -/
structure HaloWait where
  counter : Nat
  value : Nat
  seg : Nat
  deriving DecidableEq, Repr, Inhabited

/-- The convolution engine's part of one tile: the number of the layer and of its pass over the stripe (one for each range of output channels), the descriptor
of each segment, the output position of the tile's first pixel (frame, row, column), the waits on its halo rows, how many cycles they took (R201, R215), and the
lines, by their well line, in which the line buffer's error correction finds an error (R223). -/
structure ConvFeed where
  layer : Nat
  pass : Nat
  segs : List ConvDesc
  outT : Nat
  outH : Nat
  outW : Nat
  waits : List HaloWait
  haloWait : Nat
  bufEcc : List (Nat × EccResult)
  deriving DecidableEq, Repr, Inhabited

/-- Functions of the SFU (R138, R148). -/
inductive SfuFn where
  | exp | exp2 | log | log2 | rcp | rsqrt | gelu | silu | tanh
  deriving DecidableEq, Repr, Inhabited

/-- Formats of a conversion (R134, R67). -/
inductive WideFmt where
  | f32 | bf16 | f16 | e4m3 | e5m2
  deriving DecidableEq, Repr, Inhabited

/-- Element format of a vector operation. -/
inductive VForm where
  | f32 | bf16
  deriving DecidableEq, Repr, Inhabited

/-- Comparisons of VCMP (R134). -/
inductive VCond where
  | eq | lt | le | unord
  deriving DecidableEq, Repr, Inhabited

/-- An operand of an epilogue's operation on a row: a row register, of which 0 holds the row's results; one word for each lane; one word in every lane; the row's line
positions of a tensor in the lead nib's T0, `stride` lines apart from row to row, in the register form of its format; the mean or the variance of the row's
statistic record, four a line (R155, R156). -/
inductive EpiArg where
  | reg (k : Nat)
  | lanes (c : List Word)
  | splat (c : Word)
  | tensor (fmt : Nat) (hdr : Option Nat) (line stride positions : Nat)
  | mean (line : Nat)
  | variance (line : Nat)
  deriving DecidableEq, Repr, Inhabited

/-- Elementwise operations of two operands (R134). -/
inductive EpiBin where
  | add | sub | mul | min | max | copysign
  deriving DecidableEq, Repr, Inhabited

/-- Reductions over 64 lanes (R134, R137). -/
inductive EpiRed where
  | sum | max | min
  deriving DecidableEq, Repr, Inhabited

/-- One operation of an epilogue that a stage program attaches to a product's row groups (R133), row by row: the vector operations of R134 on row registers and
row predicates, of which `preds` sets one and a reduction works on each 64 lanes; SFU functions and micro-programs (R138, R143); a row statistic, whose records go to
consecutive T0 lines (R153, R155); the row maximum, kept one row a lane from a vector register upwards (R166). -/
inductive EpiOp where
  | bin (op : EpiBin) (form : VForm) (dst : Nat) (a b : EpiArg)
  | fma (form : VForm) (dst : Nat) (a b c : EpiArg)
  | dot2 (dst : Nat) (acc a b : EpiArg)
  | abs (form : VForm) (dst : Nat) (a : EpiArg)
  | neg (form : VForm) (dst : Nat) (a : EpiArg)
  | cmp (cond : VCond) (pred : Nat) (a b : EpiArg)
  | preds (pred : Nat) (lanes : List Bool)
  | sel (dst pred : Nat) (a b : EpiArg)
  | mask (form : VForm) (dst pred : Nat) (a : EpiArg)
  | cvt (source target : WideFmt) (dst : Nat) (a : EpiArg)
  | red (op : EpiRed) (dst : Nat) (a : EpiArg)
  | fn (f : SfuFn) (form : VForm) (out : WideFmt) (dst : Nat) (a : EpiArg)
  | prog (k : Nat) (form : VForm) (out : WideFmt) (dst : Nat) (a : EpiArg)
  | stat (line : Nat) (a : EpiArg)
  | rowMax (maxReg : Nat) (a : EpiArg)
  deriving DecidableEq, Repr, Inhabited

/-- The flourish source of an output tensor (R117). -/
inductive FlourishOut where
  | none
  | static (lists : List (List Nat)) (sideHdr sideLine sideStride : Nat) (sideScale : Word)
  | dynamic (theta : Word) (indexLine sideHdr sideLine sideStride : Nat) (sideScale : Word)
  deriving DecidableEq, Repr, Inhabited

/-- How a unit writes an output tensor (R54, R56): T0 lines of the writing nib, format, scales, rounding, header fields.
`tileScale = none` is a dynamic tile scale, `blockScale = none` the chosen mode. -/
structure OutDesc where
  fmt : Nat
  hdr : Option Nat
  line : Nat
  stride : Nat
  tileScale : Option Word
  blockScale : Option Byte
  sr : Bool
  stream : Nat
  tileIndex : Nat
  rows : Nat
  validK : Nat
  row0 : Nat
  col0 : Nat
  layer : Nat
  flourish : FlourishOut
  deriving DecidableEq, Repr, Inhabited

/-- A block-list slot in T2: the list's first line address and the slot number (R185). -/
structure ListSlot where
  list : Nat
  slot : Nat
  deriving DecidableEq, Repr, Inhabited

/-- An attention descriptor (R163) with the number of its stage, its areas, the blocks of its key window, and the first query heads it is used with. The score areas
begin at a well line of the stage's die and at a line address, the row records at a place. -/
structure AttnDesc where
  stage : Nat
  qrows : Nat
  gqa : Nat
  kvRatio : Nat
  headDim : Nat
  kvForm : Nat
  scoreFmt : Nat
  scoreScale : Word
  maskKind : Nat
  window : Nat
  wellKeys : Nat
  pmode : Nat
  pscale : Nat
  pround : Nat
  pstream : Nat
  path : Nat
  blocks : Nat
  wellAt : Nat
  wellLines : Nat
  spillAt : Nat
  spillLines : Nat
  recordsAt : Place
  heads0 : List Nat
  list : Nat
  slot0 : Nat
  q0 : Nat
  deriving DecidableEq, Repr, Inhabited

/-- A query block in a stroke: its descriptor, the first query head h_0, the number QB, and the T0 lines of its Q tile (R164, R166, R169). -/
structure QueryBlock where
  desc : AttnDesc
  head0 : Nat
  qb : Nat
  qHdr : Nat
  qLine : Nat
  qStride : Nat
  deriving DecidableEq, Repr, Inhabited

/-- What a tile is in its stage: a plain product; sweep one of a query block against block `w` of its window, from query row `row0`, with the
vector register from which the running maxima stand (R166); or a PV chain whose segments are the blocks from `w` (R172). -/
inductive TileRole where
  | plain
  | scores (q : QueryBlock) (w row0 maxReg : Nat)
  | pv (q : QueryBlock) (w row0 : Nat)
  deriving DecidableEq, Repr, Inhabited

/-- One array tile, or chain of K-segments, on one gang (R75 to R92). `ticket` is the counter whose ticket names it, where one does, and `sole` says that
no other array tile writes its output storage tile (R283); `feedWait` holds the feed waits of each nib of the gang (R85, R101). -/
structure TileDesc where
  quill : Nat
  gang : Nat
  ticket : Option Nat
  tileIndex : Nat
  sole : Bool
  mt : Nat
  nt : Nat
  g : Nat
  rows : Nat
  cols : Nat
  free : Bool
  segs : List Segment
  conv : Option ConvFeed
  epilogue : List EpiOp
  role : TileRole
  out : OutDesc
  feedWait : List Nat
  drainWait : Nat
  deriving DecidableEq, Repr, Inhabited

/-- A fault of an array's integers, in a segment and step: in the block integers of one issue cycle (row of the row group, block position, digit pass), by how much
those of each slot differ; in a slot register, from row `from_` of the step until it is loaded anew; or in the row operand register of a row. A register's fault
changes the integer of one digit of an element of a block (R106, R107). -/
inductive IssueFault where
  | dpu (seg step row block pass : Nat) (delta : List (Nat × Int))
  | slot (seg step from_ slot block elem digit : Nat) (delta : Int)
  | row (seg step row block elem digit : Nat) (delta : Int)
  deriving DecidableEq, Repr, Inhabited

/-- What the nib at position `nib` of a quill detects in one attempt at a tile: causes 0x2 to 0x5 of the array fault table, and the faults that its checksum DPU
judges (R94, R107). -/
structure NibFault where
  nib : Nat
  parity : List Nat
  faults : List IssueFault
  deriving DecidableEq, Repr, Inhabited

/-! ### Vector unit -/

/-- A source of a vector operation: a vector register, 64 results of the accumulator file through the drain port
(R131: row group buffer, row and first column), one lane in all lanes (a row's scalar, R156), or the mean and the variance of the partials whose
counts and means or M2 two registers hold (R152). -/
inductive VSrc where
  | reg (n : Nat)
  | drain (buf row col : Nat)
  | splat (n lane : Nat)
  | mean (n mu : Nat)
  | variance (n m2 : Nat)
  deriving DecidableEq, Repr, Inhabited

/-- The counts of the second partials of a merge, and how they are merged: lane by lane, or the `k` lowest lanes into one (R152, R153). -/
inductive MergeCount where
  | each (n : VSrc)
  | fold (n : VSrc) (k : Nat)
  deriving DecidableEq, Repr, Inhabited

/-- What a vector load reads: a line of values in a format, or four statistic or row records, which go to neighbouring lanes of three or four
registers (R155, R171). -/
inductive LoadKind where
  | values (fmt : Nat)
  | statRecords
  | rowRecords
  deriving DecidableEq, Repr, Inhabited

/-- What a vector store holds: plain values; values of which the named rows are fully masked and written zero (R174); the sums of the chain results
of a row (R172); statistic records (R155) or row records (R171) from the lanes of three or four registers; sweep two of rows of a query block over its
window, whose parts are those of the nibs that share it, with the T0 line of each block's probability tile (R169 to R171, R174); the wide path of rows of a
query block (R176). -/
inductive StoreKind where
  | plain
  | probs (full : List Bool)
  | chains (n : Nat)
  | statRecords
  | rowRecords
  | sweepTwo (q : QueryBlock) (row0 rows : Nat) (parts tiles : List Nat)
  | wide (q : QueryBlock) (row0 rows : Nat)
  deriving DecidableEq, Repr, Inhabited

/-! ### KV blocks -/

/-- A KV pool that the scroll declares (R183). -/
structure KvPool where
  form : Nat
  heads : Nat
  headDim : Nat
  pages : List Nat
  tailPages : List Nat
  deriving DecidableEq, Repr, Inhabited

/-- Tile scales and stream that a scatter descriptor gives an allocation (R182, R186). -/
structure KvScales where
  keys : List Word
  values : List Word
  stream : Nat
  deriving DecidableEq, Repr, Inhabited

/-- A mover's read of a KV block: its slot, the first line and number of lines of the block, and where they go (R185, R187). -/
structure LeaseDesc where
  mover : MoverRef
  target : ListSlot
  first : Nat
  count : Nat
  dst : Place
  deriving DecidableEq, Repr, Inhabited

/-- A scatter step (R191): its block-list slot, first position within the block, number of positions, and the first well line of each part of the
staging area, in the well of the die on which its nib lies. -/
structure ScatterDesc where
  target : ListSlot
  first : Nat
  count : Nat
  keysAt : Nat
  valuesAt : Nat
  replace : Bool
  scales : KvScales
  nib : Nat
  deriving DecidableEq, Repr, Inhabited

/-! ### Program sets -/

/-- A ticket counter's setting in a stroke entry (R278, R284): the grid of a product follows from its tile shape, its tiling mode, the valid and
padded rows of A and columns of B, and is held against the output's storage (R285, R503). -/
structure CounterCfg where
  die : Nat
  num : Nat
  order : Nat
  block : Nat
  deal : Bool
  tidxBase : Nat
  takers : List (Nat × Nat)
  aligned : Bool
  mt : Nat
  nt : Nat
  aRows : Nat
  aPadded : Nat
  bCols : Nat
  bPadded : Nat
  storageRows : Nat
  storageCols : Nat
  outFmt : Nat
  deriving DecidableEq, Repr, Inhabited

/-- A storage tile of an output tensor: its rows and columns, and whether its scale is dynamic (R60). -/
structure StorageTile where
  row0 : Nat
  rows : Nat
  col0 : Nat
  cols : Nat
  dyn : Bool
  deriving DecidableEq, Repr, Inhabited

/-- What ruling judges of one product (R60, R89, R92, R117): its tile grid, the rows, columns and line positions for which each operand's and the output's
buffers have room, the output's extent and storage tiles. -/
structure ProductDecl where
  mt : Nat
  nt : Nat
  tr : Nat
  tc : Nat
  segLines : List Nat
  k : Nat
  g : Nat
  gangMode : Nat
  aligned : Bool
  aRows : Nat
  aLines : Nat
  bCols : Nat
  bLines : Nat
  outRows : Nat
  outCols : Nat
  validRows : Nat
  validCols : Nat
  tiles : List StorageTile
  dynList : Bool
  wholeInT0 : Bool
  staticLists : List (List Nat)
  validK : Nat
  deriving DecidableEq, Repr, Inhabited

/-- A row or group statistic (R153, R158, R159). -/
structure StatDecl where
  extents : List Nat
  group : Bool
  lastPartial : Nat
  appliedAt : Nat
  eps : Word
  deriving DecidableEq, Repr, Inhabited

/-- What ruling judges of a scatter in a stroke entry (R188, R189, R192): the block list, the positions it writes, the pool of its blocks, and whether it rewrites
published positions (REPLACE), begins its block (ALLOC) or can copy it (COW). -/
structure ScatterDecl where
  list : Nat
  firstPos : Nat
  count : Nat
  pool : Nat
  replace : Bool
  allocs : Bool
  cows : Bool
  deriving DecidableEq, Repr, Inhabited

/-- A wait of a quill on a row-ready counter: for which value, and its place in the order of that quill's waits and increments in the stroke (R215). -/
structure HaloDecl where
  quill : Nat
  value : Nat
  place : Nat
  deriving DecidableEq, Repr, Inhabited

/-- Use of a row-ready counter in a stroke entry (R216): the quills that increment it, the place of each increment in its quill's order, and the waits on it. -/
structure RowReadyDecl where
  die : Nat
  num : Nat
  producers : List Nat
  increments : List Nat
  waits : List HaloDecl
  deriving DecidableEq, Repr, Inhabited

/-- A run of output rows, in each frame of a layer's band, that belongs to one quill (R213). -/
structure Stripe where
  quill : Nat
  row0 : Nat
  rows : Nat
  deriving DecidableEq, Repr, Inhabited

/-- One layer of a convolution stage in a stroke (R202, R213): its band of output frames and rows, the stripes that share it, its kernel, the segments of its
chain, the well line at which its output tensor begins, and the lines of one row of that tensor with its headers (R195). -/
structure ConvLayer where
  stage : Nat
  frame0 : Nat
  frames : Nat
  row0 : Nat
  rows : Nat
  stripes : List Stripe
  kernel : Nat × Nat × Nat
  segs : List ConvDesc
  outAt : Nat
  outLines : Nat
  deriving DecidableEq, Repr, Inhabited

/-- A mover descriptor in a queue, with the line format of the tile that an MX export reads (R235, R236). -/
structure MoverDecl where
  op : MoverOp
  desc : MoverDesc
  die : Nat
  srcFmt : Nat
  deriving DecidableEq, Repr, Inhabited

/-- A mover's read of a KV block: the positions whose lines it copies (R192). -/
structure KvRead where
  list : Nat
  firstPos : Nat
  count : Nat
  deriving DecidableEq, Repr, Inhabited

/-- A gang that takes from a ticket counter in a stroke (R278, R281): the logical quill, the gang, the counter's die and its number. -/
structure TakeDecl where
  quill : Nat
  gang : Nat
  die : Nat
  num : Nat
  deriving DecidableEq, Repr, Inhabited

/-- One stroke entry: the work of every stage in one stroke (R275). -/
structure StrokeEntry where
  factor : Nat
  gangs : List (Nat × Nat)
  conv : List (Nat × Nat)
  active : List Nat
  counters : List CounterCfg
  takes : List TakeDecl
  accesses : List Access
  products : List ProductDecl
  stats : List StatDecl
  maskedFmts : List Nat
  attention : List AttnDesc
  convs : List ConvLayer
  rowReady : List RowReadyDecl
  scatters : List ScatterDecl
  kvReads : List KvRead
  freezes : Nat
  movers : List MoverDecl
  colls : List CollDesc
  addLines : Nat × Nat
  bankWrites : List Nat
  encodes : List (Nat × Nat × Nat)
  deriving DecidableEq, Repr, Inhabited

/-- A coordinate of a stroke entry (chunk, pass, sliver): `base` plus the count of whole runs of `run` strokes since the range's first stroke, modulo
`wrap` where that is not 0 (R275). -/
structure Coord where
  base : Nat
  run : Nat
  wrap : Nat
  deriving DecidableEq, Repr, Inhabited

/-- A run of strokes that the stroke map gives one entry (R275): strokes `first` to `last`, for jobs whose launch parameters lie in every range of `given`
(number of the PARAM, least and largest value), with the entry's coordinates; `mirror` marks `last` as a mirror stroke (R341). -/
structure MapRange where
  first : Nat
  last : Nat
  given : List (Nat × Nat × Nat)
  entry : Nat
  coords : List Coord
  mirror : Bool
  deriving DecidableEq, Repr, Inhabited

/-- The mirror set of a program set (R340, R341). -/
structure MirrorSet where
  bank0 : Nat × Nat
  bank1 : Nat × Nat
  pools : List Nat
  image : Nat × Nat
  delay : Nat
  deriving DecidableEq, Repr, Inhabited

/-- A stream context (R372). -/
structure StreamCtx where
  decode : Bool
  hevc : Bool
  bits : Nat
  width : Nat
  height : Nat
  lead : Nat
  gang : Nat
  ctx : Nat
  bufs : Nat
  rateMode : Nat
  bitrate : Nat
  peak : Nat
  fpsNum : Nat
  fpsDen : Nat
  qpMin : Nat
  qpMax : Nat
  qpFix : Nat
  keyInt : Nat
  keyMult : Nat
  refs : Nat
  unitRows : Nat
  ringPage : Nat
  depth : Nat
  outArea : Nat
  outLines : Nat
  descArea : Nat
  descLines : Nat
  ready : List Nat
  freeAt : List Nat
  deriving DecidableEq, Repr, Inhabited

/-- The blotter settings that a program set writes at launch (R128). -/
structure BlotterSet where
  k : Nat
  rel : Nat
  abs : Nat
  action : Bool
  deriving DecidableEq, Repr, Inhabited

/-- A stage: the logical quills that own it and its table image (R145, R275). -/
structure Stage where
  quills : List Nat
  image : List Word
  deriving DecidableEq, Repr, Inhabited

/-- A program set (R275, R277). -/
structure ProgramSet where
  diag : Bool
  standIn : List Nat
  stages : List Stage
  buffers : List (Buffer × Bool)
  pools : List KvPool
  prefixes : List ListSlot
  mirror : Option MirrorSet
  blotter : BlotterSet
  thresholds : List (Nat × Word)
  capture : Nat × Nat
  addLog : Nat × Nat
  vcuGangs : List (Nat × Nat)
  vcuPool : Nat × Nat
  streams : List StreamCtx
  entries : List StrokeEntry
  map : List MapRange
  deriving DecidableEq, Repr, Inhabited

/-! ### Link map and configuration -/

/-- A member of the group in the link map (R314). -/
structure Member where
  rank : Nat
  rack : Nat
  slot : Nat
  mirror : Option Nat
  deriving DecidableEq, Repr, Inhabited

/-- One link entry of a member (R314): ROLE 0 unused, 1 pair, 2 mirror, 3 mirror and pair. -/
structure LinkEntry where
  rank : Nat
  link : Nat
  role : Nat
  peerRank : Nat
  peerLink : Nat
  delay : Nat
  asym : Int
  deriving DecidableEq, Repr, Inhabited

/-- The link map (R314). -/
structure LinkMap where
  groupTag : Word
  members : List Member
  pairLinks : Nat
  masters : List Nat
  links : List LinkEntry
  deriving DecidableEq, Repr, Inhabited

/-- The configuration section of a scroll (R396): lendable own pages, raw own pages, and default thresholds: the row of the sensor threshold
table, ALERT and THROTTLE (R444). -/
structure ScrollConfig where
  lendable : List Nat
  rawPages : List Nat
  thresholds : List (Nat × Option Int × Option Int)
  deriving DecidableEq, Repr, Inhabited

/-! ### Operands of events -/

/-- What is lost of a take: nothing, the take itself, or its reply (R280). -/
inductive TakeLoss where
  | none | request | reply
  deriving DecidableEq, Repr, Inhabited

/-- Causes of R491 that open the hot-swap switch. -/
inductive ProtectCause where
  | overPower | underVoltage | overVoltage | powerGoodEnded
  deriving DecidableEq, Repr, Inhabited

/-- The condition of R488 that failed. -/
inductive GoodCause where
  | auxWindow | mateLoop | vin54 | ref100 | rail
  deriving DecidableEq, Repr, Inhabited

/-- What a boot meets outside the module's own state: straps, silicon, the wipe's read-back and duration, and flash devices whose erases and programs fail from
then on (R401 to R405, R457). -/
structure BootEnv where
  rackId : BitVec 8
  slotId : BitVec 6
  failSites : List Nat
  stackFail : List Nat
  fabricFail : Bool
  ioFail : Bool
  readBackOk : Bool
  wipeUs : Nat
  timeMs : Nat
  trained : List Nat
  flashFail : List Nat := []
  deriving DecidableEq, Repr, Inhabited

/-- A page named in a REQUEST (R244). -/
structure LoanPage where
  t3 : Nat
  homeRank : Nat
  homePage : Nat
  homeTag : Nat
  deriving DecidableEq, Repr, Inhabited

/-- A page named in a GRANT (R244). -/
structure LoanGrant where
  t3 : Nat
  page : Nat
  tag : Nat
  deriving DecidableEq, Repr, Inhabited

/-- The requester of a register access (R465). -/
inductive Requester where
  | pcie | scribe
  deriving DecidableEq, Repr, Inhabited

/-- A read of the host: its BAR0 offset and its width in bytes (R12); where the counter of STK_ERR.UE advances in its cycle, the page in the stack and the line of that
uncorrectable read (R261). -/
structure RegRead where
  offset : Nat
  width : Nat
  ue : Nat × Nat := (0, 0)
  deriving DecidableEq, Repr, Inhabited

/-- What a coded superblock, frame or sequence can use of the tools of both standards: those that R365 lists and those that it rules out. -/
inductive EncTool where
  | block (w h : Nat)
  | dct (w h : Nat)
  | adst (w h : Nat)
  | flipAdst (w h : Nat)
  | identity (w h : Nat)
  | dst (n : Nat)
  | transformSkip (n : Nat)
  | directional | smoothIntra | paeth | chromaFromLuma | intraEdgeFilter
  | hevcIntra (mode : Nat)
  | single | compoundAverage | compoundDistance | regularInterpolation | merge | amvp
  | deblocking | cdef | wiener | selfGuided | sao
  | deltaQ | signHiding
  | palette | intraBlockCopy | obmc | warped | globalMotion | wedge | differenceWeighted | interIntra | switchableInterpolation
  | eighthSample | superres | referenceScaling | filmGrain
  | wavefront | dependentSlices | tiles (columns : Nat) | pcm | weightedPrediction | scalingLists | longTerm | transquantBypass | fieldCoding
  deriving DecidableEq, Repr, Inhabited

/-- An inter block of a superblock: its place in it, the reference picture, and its vector and the merge or predictor candidate that was chosen,
in quarter samples (R378). -/
structure InterBlock where
  x : Nat
  y : Nat
  w : Nat
  h : Nat
  ref : Nat
  mvx : Int
  mvy : Int
  candX : Int
  candY : Int
  deriving DecidableEq, Repr, Inhabited

/-- A superblock as an encode pipe coded it: the bits that it adds to the frame, headers included, its quantiser, tools and inter blocks, its reconstructed samples, a list
for each of its lines in the order Y, Cb, Cr, and those of each superblock across a band edge that the in-loop filters now reach (R362, R365, R371, R378, R380). -/
structure CodedSb where
  bits : Nat
  qp : Nat := 0
  tools : List EncTool
  blocks : List InterBlock
  recon : List (List Nat)
  across : List (List (List Nat)) := []
  deriving DecidableEq, Repr, Inhabited

/-- What a sequence header says of a bitstream to be decoded (R364, R366, R387): profile as the standard numbers it, bit depth, chroma (0 monochrome,
1 4:2:0, 2 4:2:2, 3 4:4:4), level as 10 times its number, whether it uses large-scale tiles or an HEVC extension, picture size, buffers needed. -/
structure SeqInfo where
  profile : Nat
  bits : Nat
  chroma : Nat
  level : Nat
  largeScaleTile : Bool
  extension : Bool
  width : Nat
  height : Nat
  buffers : Nat
  deriving DecidableEq, Repr, Inhabited

/-- What cannot be decoded (R385): nothing; the rest of a tile group or slice, `remains` giving its superblocks from this one on as first and count of runs in raster
order; or a sequence or frame header. -/
inductive DecodeError where
  | none
  | unit (remains : List (Nat × Nat))
  | header
  deriving DecidableEq, Repr, Inhabited

/-- What the headers of a picture and its unit say (R384 to R387): the sequence, the frame buffer of the context that takes the picture, how many input bytes from the
context's position on its data reach, whether it is an AV1 key frame or HEVC IRAP picture, the reference slots or picture set entries that it refers to, those that it
fills, whether it has film grain parameters, and what cannot be decoded. -/
structure DecodeOutcome where
  seq : SeqInfo
  buf : Nat
  length : Nat := 0
  key : Bool := false
  refs : List Nat := []
  fills : List Nat := []
  grain : Bool
  error : DecodeError := .none
  deriving DecidableEq, Repr, Inhabited

/-- A decoded picture, a single field of an HEVC field pair among them, whose copy closes (R366, R368, R375, R383): whether it belongs to operating point 0, its number
in output order, the context's frame buffer that holds it, the input position of its first byte, its length, the input bytes consumed since the frame before, units
and quantiser. -/
structure DecodedFrame where
  inPoint0 : Bool
  frame : Nat := 0
  buf : Nat
  position : Nat
  length : Nat
  consumed : Nat
  units : Nat
  qp : Nat
  deriving DecidableEq, Repr, Inhabited

/-- An OBU or a NAL unit of a bitstream: its type as the standard numbers it, and its payload (R367, R381). -/
structure StreamUnit where
  type : Nat
  payload : List Byte
  deriving DecidableEq, Repr, Inhabited

/-- Sideband sums of FEC for the codewords of one flit (R335), and the slots of it, in their order, that the receive pool's code finds uncorrectable (R224). -/
structure FecCounts where
  words : Nat
  corrected : Nat
  symbols : Nat
  uncorrectable : Nat
  pool : List Nat := []
  deriving DecidableEq, Repr, Inhabited

/-! ### The commands -/

/-- One command for each row of spec/opcode_table.json, in its order. The table gives no operands: log entry 3. -/
inductive Instr where
  | powerGood (env : BootEnv)
  | gtcLock (masterGtc : BitVec 64) (master : Nat)
  | masterTakeover
  | standby
  | hotswapRampStart (vinWasAbsent : Bool)
  | mateLoopOpen
  | inputProtection (cause : ProtectCause)
  | powerGoodEnd (cause : GoodCause)
  | auxSupplyLoss
  | auxHoldupEnd
  | flr
  | hotReset
  | perstNAssert
  | d3hot
  | pcieLinkLoss
  | sensorSample (id : Nat) (reading : Option (BitVec 16))
  | flowEstimate
  | throttleEvaluation
  | logEntryWrite
  | patrolScrub (stack page line : Nat) (result : EccResult)
  | stackRefresh (stack delayed : Nat)
  | releaseRequest
  | releaseReady
  | quiesceAck
  | quiesceComplete
  | doorbell (ring : Nat) (value : Word)
  | ringCqheadWrite (ring : Nat) (value : Word)
  | ringEnable (ring : Nat) (value : Word)
  | ringAbort (ring : Nat)
  | ringFeeddoneWrite (ring : Nat) (value : Word)
  | jobFetch (descriptor : Option (List Byte)) (rulingNs : Nat)
  | jobLaunch
  | stallPoint (busy : List Nat)
  | strokeBoundary
  | stall (sender n e cause : Nat)
  | rateMessage (sender c clock factor : Nat)
  | jobEnd (sender c status detail : Nat)
  | trip (sender stroke : Nat)
  | collAbort (sender stroke coll step status origin : Nat)
  | chunkNak (sender stroke coll step first : Nat)
  | peerLost (rank : Nat)
  | linkTrained (link : Nat)
  | ident (link : Nat) (groupTag : Word) (rank rack slot peerLink : Nat) (lmapTag : Word)
  | flitReceive (link : Nat) (flit : List Byte) (fec : FecCounts)
  | flitSend (link : Nat)
  | ackTimer (link : Nat)
  | linkRxTimeout (link : Nat)
  | laneLockLoss (link lane : Nat)
  | disciplineExchange
  | discSync (sender exchange : Nat) (t2 : Int)
  | discFollow (sender exchange : Nat) (t1 t3 : Int)
  | discDreq (sender exchange : Nat) (t4 : Int)
  | discDresp (sender exchange : Nat) (t4 : Int)
  | holdoverEntry
  | holdoverExpiry
  | masterSilenceTimeout
  | gtcStep (masterGtc : BitVec 64)
  | bundleDownTimeout
  | mHello (bootCount : Word) (setLines imageLines : Nat)
  | mirrorPushDone
  | mPrepare (epoch chunks lines : Nat)
  | mAccept (epoch : Nat) (fail : Bool)
  | mReady (sender epoch : Nat) (fail : Bool)
  | mCommit (epoch : Nat)
  | leaving (sender m : Nat)
  | mRestoreReq (epoch : Nat)
  | imageReturnDone
  | mRestoreDone (epoch status : Nat)
  | offer (sender pages notice share : Nat)
  | request (sender notice : Nat) (pages : List LoanPage)
  | grant (sender : Nat) (pages : List LoanGrant)
  | loanFillDone (borrower : Nat)
  | filled (sender : Nat) (t3 : List Nat)
  | recall (sender notice : Nat) (t3 : List Nat)
  | released (sender : Nat) (t3 : List Nat)
  | return (sender : Nat) (t3 : List Nat)
  | recallTimeout (borrower : Nat)
  | loanRead (sender page line count tag : Nat) (home : Bool)
  | notLent (sender page line count : Nat)
  | loanReadTimeout (t3 : Nat)
  | ticketTake (die counter quill gang : Nat) (loss : TakeLoss)
  | ticketTimeout (die counter quill gang : Nat) (loss : TakeLoss)
  | tileClose (tile : TileDesc)
  | arrayFault (tile : TileDesc) (nibs : List Nat) (parity : List (List Nat)) (cycles : List (List IssueFault)) (steps : Nat)
  | blotCheckDone (die half : Nat) (chains : List Nat)
  | rowReadyIncrement (die counter : Nat)
  | atomicAdd (nib src dst : Nat)
  | nop (mover : MoverRef)
  | copy (mover : MoverRef) (d : MoverDesc) (ecc : List (Nat × EccResult))
  | zero (mover : MoverRef) (d : MoverDesc)
  | add (mover : MoverRef) (d : MoverDesc)
  | mxImport (mover : MoverRef) (d : MoverDesc)
  | mxExport (mover : MoverRef) (d : MoverDesc)
  | moverDescriptorDone (mover : MoverRef)
  | allGather (coll : Nat) (d : CollDesc)
  | reduceScatter (coll : Nat) (d : CollDesc)
  | allReduce (coll : Nat) (d : CollDesc)
  | allToAll (coll : Nat) (d : CollDesc)
  | transfer (coll : Nat) (d : CollDesc)
  | alloc (target : ListSlot) (pool : Nat) (scales : KvScales)
  | ref (index : Nat)
  | deref (index : Nat)
  | freeze (index : Nat)
  | lease (d : LeaseDesc) (prefetch : Bool)
  | cow (target : ListSlot) (scales : KvScales)
  | replace (target : ListSlot) (scales : KvScales)
  | scatter (d : ScatterDesc)
  | vadd (nib : Nat) (form : VForm) (dst : Nat) (a b : VSrc)
  | vsub (nib : Nat) (form : VForm) (dst : Nat) (a b : VSrc)
  | vmul (nib : Nat) (form : VForm) (dst : Nat) (a b : VSrc)
  | vfma (nib : Nat) (form : VForm) (dst : Nat) (a b c : VSrc)
  | vdot2 (nib dst : Nat) (acc a b : VSrc)
  | vmin (nib : Nat) (form : VForm) (dst : Nat) (a b : VSrc)
  | vmax (nib : Nat) (form : VForm) (dst : Nat) (a b : VSrc)
  | vabs (nib : Nat) (form : VForm) (dst : Nat) (a : VSrc)
  | vneg (nib : Nat) (form : VForm) (dst : Nat) (a : VSrc)
  | vcopysign (nib : Nat) (form : VForm) (dst : Nat) (a b : VSrc)
  | vcmp (nib : Nat) (cond : VCond) (pred : Nat) (a b : VSrc)
  | vsel (nib dst pred : Nat) (a b : VSrc)
  | vcvt (nib : Nat) (source target : WideFmt) (dst : Nat) (a : VSrc)
  | vredsum (nib dst : Nat) (a : VSrc)
  | vredmax (nib dst : Nat) (a : VSrc)
  | vredmin (nib dst : Nat) (a : VSrc)
  | vwelf (nib n mu m2 : Nat) (x : VSrc)
  | vwmerge (nib n mu m2 : Nat) (bn : MergeCount) (bmu bm2 : VSrc)
  | vmask (nib : Nat) (form : VForm) (dst pred : Nat) (a : VSrc)
  | vectorLoad (nib dst line : Nat) (kind : LoadKind) (hdr : Option Nat) (col0 quarter : Nat) (ecc : EccResult)
  | vectorStore (nib : Nat) (rows : List (List Nat)) (cols : Nat) (out : OutDesc) (kind : StoreKind)
  | exp (nib dst : Nat) (form : VForm) (src : VSrc) (out : WideFmt)
  | exp2 (nib dst : Nat) (form : VForm) (src : VSrc) (out : WideFmt)
  | log (nib dst : Nat) (form : VForm) (src : VSrc) (out : WideFmt)
  | log2 (nib dst : Nat) (form : VForm) (src : VSrc) (out : WideFmt)
  | rcp (nib dst : Nat) (form : VForm) (src : VSrc) (out : WideFmt)
  | rsqrt (nib dst : Nat) (form : VForm) (src : VSrc) (out : WideFmt)
  | gelu (nib dst : Nat) (form : VForm) (src : VSrc) (out : WideFmt)
  | silu (nib dst : Nat) (form : VForm) (src : VSrc) (out : WideFmt)
  | tanh (nib dst : Nat) (form : VForm) (src : VSrc) (out : WideFmt)
  | microProgram (nib prog dst : Nat) (form : VForm) (src : VSrc) (out : WideFmt)
  | vcuFrameStart (pipe : Nat)
  | superblockDone (pipe sb : Nat) (coded : CodedSb) (outcome : DecodeOutcome)
  | unitEmit (pipe : Nat) (parts : List StreamUnit)
  | decodeCopyDone (pipe ctx : Nat) (d : DecodedFrame) (outcome : DecodeOutcome)
  | vcuCtxHostposWrite (pipe ctx : Nat) (value : Word)
  | vcuCtxDescrdWrite (pipe ctx : Nat) (value : Word)
  | glbBar2MapWrite (slot : Nat) (value : Word)
  | bar2Write (offset : Nat) (bytes : List Byte)
  | bar2Read (offset count : Nat)
  | msixIntervalEnd (vector : Nat)
  | w1cClear (offset : Nat) (value : Word) (hwSets : BitVec 8)
  | rcRead (access : RegRead) (inc : Nat)
  | lowWordRead (requester : Requester) (offset : Nat)
  | highWordRead (requester : Requester) (offset : Nat)
  | wellBlotctlWrite (die : Nat) (value : Word)
  | wellBlottolWrite (die : Nat) (value : Word)
  | registerWrite (offset width value : Nat)
  | identify
  | sensors
  | logRead
  | telemetry
  | mapImage
  | pmapRead
  | kvtRead
  | scrollWrite
  | scrollVerify
  | trial
  | commit
  | reset (env : BootEnv)
  | provision (env : BootEnv)
  | enable (env : BootEnv)
  | diagEnter (env : BootEnv)
  | diagExit (env : BootEnv)
  | decommission (env : BootEnv)
  | retire (env : BootEnv)
  | clearFences
  | loanOffer
  | loanRequest
  | loanRecall
  | loanReturn
  | pageKind
  | release
  | restore
  | discardImage
  | rate
  | threshold
  | mailboxCompletion
  | monitorLine (text : List Byte)
  | smbStatus
  | smbTemperatures
  | smbPower
  | smbIdentity
  | alertCause
  | smbCommandWrite (bytes : List Byte) (pec : Option Byte)
  | smbResultRead
  | smbResultNext
  | alertResponseAddress
  | wellPortTransfer (nib : Nat) (toWell : Bool) (t0 well count : Nat)
  | cablePresenceChange (connector : Nat) (present : Bool)
  deriving DecidableEq, Repr

end Sys2Proof
end

