-- ==== Sys2Proof/Config.lean ====
section
/-! DEFINITION. The free values of the model: constants without a body, so that nothing can be proved of which value they take.
Each is named in a log entry under notes/assumptions. -/
namespace Sys2Proof

/-- A free 64-bit value for each draw of the time discipline, numbered by `State.free` (log entry 13). -/
opaque Config.freeWord : Nat → BitVec 64

/-- A free 64-bit value for each site at which the spec leaves a value open, number `k` of those that operands `operands` take there (log entry 13). It hangs on nothing
else, so that runs which R297 has give the same results do. -/
opaque Config.freeOf : (site : Nat) → (operands : List Nat) → (k : Nat) → BitVec 64

/-- Where the SFU function `fn` turns to the FP32 value of ordinal `value` or beyond: the ordinal of the input at which it does.
Its users keep the result inside the error bound of R140 or R148 (log entry 9). -/
opaque Config.sfuTurn : (fn : Nat) → (value : Int) → Int

/-- Whether a seam of library function `fn` lies just below the input at position `key`: R148 gives no breakpoints (log entry 9). -/
opaque Config.sfuSeam : (fn : Nat) → (key : Int) → Bool

/-- Whether term `i` is summed before term `j` in FP64 by the blotter at check `check`, told by stroke and tile: R123 gives no order (log entry 11). -/
opaque Config.fp64Before : (check : List Nat) → (i j : Nat) → Bool

/-- Whether members `a` and `b` have an UP pair link between them at a GTC: the state of other modules' links, which R320 takes as
known and no register holds (log entry 20). -/
opaque Config.peersLinked : (now a b : Nat) → Bool

/-- Firmware's choice under VBR: the ratio in 1/65,536 that R379 bounds between 0.5 and 2, from what its users know of the frame and those before it (R363, R379;
log entry 10). -/
opaque Config.vbrRatio : List Nat → Nat

/-- Firmware's choice of the frame quantiser, bounded by QP_MIN and QP_MAX by its user (R363, R379; log entry 10). -/
opaque Config.frameQp : List Nat → Nat

/-- Sample `k` of those that the decoding process of a standard gives for `what` (superblock and line) of the picture whose data end the bytes `stream`, which begin at a
random access point (R363, R366; log entry 115). -/
opaque Config.decoded : (decl what : List Nat) → (stream : List Byte) → (k : Nat) → Nat

/-- The program set that a program-set section of a scroll encodes; none where the bytes encode none. The spec gives a program set's
contents, not its encoding (R396; log entry 6). -/
opaque Config.programSetOf : List Byte → Option ProgramSet

/-- The link map that the link-map section encodes (R314, R396; log entry 6). -/
opaque Config.linkMapOf : List Byte → LinkMap

/-- The provisioning record with which a module leaves the factory, in both copies, and the root-signed scroll with its signature in slot A (R403; log entry 4). -/
opaque Config.factoryRecord : List Byte
opaque Config.factoryScroll : List Byte

/-- The configuration that the configuration section encodes (R396; log entry 6). -/
opaque Config.scrollConfigOf : List Byte → ScrollConfig

/-- Byte `b` of what a read delivers at line `line` of the T0 of nib `unit`, or (from 4,096) of the well of die `unit` - 4,096, where that memory has no such line: R221
gives its size, and no rule says what a read beyond it gives (log entry 74). -/
opaque Config.outsideByte : (unit line b : Nat) → Byte

end Sys2Proof
end

