-- ==== Sys2Proof/Machine/Num.lean ====
section
/-! DEFINITION. Exact numbers behind the number formats: a value is a NaN, an infinity or a signed rational magnitude, and every
rounding is one call of `roundNat`. IEEE formats and the FP8 formats decode to and encode from these values (R67, R68, R135, R136). -/
namespace Sys2Proof.Machine

/-- A value of a wide format: NaN, an infinity, or a sign and an exact magnitude. -/
inductive FV where
  | nan
  | inf (neg : Bool)
  | num (neg : Bool) (mag : Rat)
  deriving DecidableEq, Repr, Inhabited

/-- Two to an integer power, exactly. -/
def pow2 (e : Int) : Rat :=
  if 0 ≤ e then ((2 ^ e.toNat : Nat) : Rat) else mkRat 1 (2 ^ (-e).toNat)

/-- Floor of the binary logarithm of a positive rational. -/
def ilog2 (r : Rat) : Int :=
  let d : Int := (Nat.log2 r.num.toNat : Int) - (Nat.log2 r.den : Int)
  if pow2 d ≤ r then d else d - 1

/-- Floor of a non-negative rational. -/
def floorNat (r : Rat) : Nat := r.num.toNat / r.den

/-- Ceiling of a non-negative rational. -/
def ceilNat (r : Rat) : Nat := (r.num.toNat + r.den - 1) / r.den

/-- A non-negative rational rounded to the nearest natural, ties to even. -/
def roundNat (r : Rat) : Nat :=
  let n := r.num.toNat
  let q := n / r.den
  let rem2 := 2 * (n % r.den)
  if rem2 < r.den then q else if r.den < rem2 then q + 1 else q + q % 2

/-- Absolute value of a rational. -/
def ratAbs (r : Rat) : Rat := if r < 0 then -r else r

/-! ### Binary formats -/

/-- A binary interchange layout: exponent bits, mantissa bits, and the code of the largest finite magnitude. -/
structure Layout where
  eb : Nat
  mb : Nat
  top : Nat
  deriving DecidableEq, Repr, Inhabited

/-- Exponent of the smallest normal number. -/
def Layout.emin (f : Layout) : Int := 2 - (2 ^ (f.eb - 1) : Nat)

/-- Magnitude of a code (the bits below the sign) at or below the largest finite one. -/
def Layout.magOf (f : Layout) (code : Nat) : Rat :=
  let e := code / 2 ^ f.mb
  let m := code % 2 ^ f.mb
  if e = 0 then (m : Rat) * pow2 (f.emin - f.mb)
  else ((2 ^ f.mb + m : Nat) : Rat) * pow2 (f.emin - f.mb + (e - 1 : Int))

/-- Number of quanta of a magnitude and the code at which its binade starts: the code is their sum once the quanta are rounded. -/
def Layout.scaled (f : Layout) (mag : Rat) : Rat × Nat :=
  let e := if ilog2 mag < f.emin then f.emin else ilog2 mag
  (mag * pow2 (f.mb - e), (e - f.emin).toNat * 2 ^ f.mb)

/-- Code of a magnitude rounded to nearest even, as if the exponent were unbounded above. -/
def Layout.codeRne (f : Layout) (mag : Rat) : Nat :=
  if mag = 0 then 0 else (f.scaled mag).2 + roundNat (f.scaled mag).1

/-- Code of a magnitude rounded towards zero, as if the exponent were unbounded above. -/
def Layout.codeDown (f : Layout) (mag : Rat) : Nat :=
  if mag = 0 then 0 else (f.scaled mag).2 + floorNat (f.scaled mag).1

/-- Code of a magnitude rounded away from zero, as if the exponent were unbounded above. -/
def Layout.codeUp (f : Layout) (mag : Rat) : Nat :=
  if mag = 0 then 0 else (f.scaled mag).2 + ceilNat (f.scaled mag).1

def lay32 : Layout := { eb := 8, mb := 23, top := 0x7F7FFFFF }
def lay64 : Layout := { eb := 11, mb := 52, top := 0x7FEFFFFFFFFFFFFF }
def layBf16 : Layout := { eb := 8, mb := 7, top := 0x7F7F }
def layF16 : Layout := { eb := 5, mb := 10, top := 0x7BFF }
def layE5m2 : Layout := { eb := 5, mb := 2, top := 0x7B }
def layE4m3 : Layout := { eb := 4, mb := 3, top := 0x7E }

/-- Decode a layout with IEEE infinities and NaNs above its largest finite code. -/
def Layout.decode (f : Layout) (x : Nat) : FV :=
  let code := x % 2 ^ (f.eb + f.mb)
  let neg := x / 2 ^ (f.eb + f.mb) % 2 = 1
  if code ≤ f.top then .num neg (f.magOf code)
  else if code = f.top + 1 then .inf neg
  else .nan

/-- Encode by RNE with IEEE overflow to infinity and the given canonical NaN (R68). -/
def Layout.encode (f : Layout) (nan : Nat) : FV → Nat
  | .nan => nan
  | .inf neg => (if neg then 2 ^ (f.eb + f.mb) else 0) + (f.top + 1)
  | .num neg mag =>
    let c := f.codeRne mag
    (if neg then 2 ^ (f.eb + f.mb) else 0) + (if f.top < c then f.top + 1 else c)

/-- True when a value is finite and beyond the range of a layout, in the sense of R68. -/
def Layout.beyond (f : Layout) : FV → Bool
  | .num _ mag => f.top < f.codeRne mag
  | _ => false

def dec32 (w : Word) : FV := lay32.decode w.toNat
def enc32 (v : FV) : Word := BitVec.ofNat 32 (lay32.encode 0x7FC00000 v)
def decBf16 (x : Nat) : FV := layBf16.decode (x % 65536)
def encBf16 (v : FV) : Nat := layBf16.encode 0x7FC0 v
def decF16 (x : Nat) : FV := layF16.decode (x % 65536)
def encF16 (v : FV) : Nat := layF16.encode 0x7E00 v

/-- FP8 E4M3 (OCP): no infinity, 0x7F and 0xFF are NaN. -/
def decE4m3 (x : Nat) : FV :=
  if x % 128 = 127 then .nan else .num (x / 128 % 2 = 1) (layE4m3.magOf (x % 128))

/-- FP8 E4M3: values beyond the range and infinities become ±448 (R68). -/
def encE4m3 : FV → Nat
  | .nan => 0x7F
  | .inf neg => (if neg then 128 else 0) + 0x7E
  | .num neg mag => (if neg then 128 else 0) + min (layE4m3.codeRne mag) 0x7E

def decE5m2 (x : Nat) : FV := layE5m2.decode (x % 256)

/-- FP8 E5M2: finite values beyond the range become ±57,344, infinities stay (R68). -/
def encE5m2 : FV → Nat
  | .nan => 0x7F
  | .inf neg => (if neg then 128 else 0) + 0x7C
  | .num neg mag => (if neg then 128 else 0) + min (layE5m2.codeRne mag) 0x7B

/-! ### Exact arithmetic on values -/

/-- The value of an exact real, with the sign that an exact zero takes. -/
def FV.ofRat (zeroNeg : Bool) (r : Rat) : FV :=
  if r = 0 then .num zeroNeg 0 else .num (r < 0) (ratAbs r)

/-- The real of a finite value; 0 otherwise. -/
def FV.toRat : FV → Rat
  | .num neg mag => if neg then -mag else mag
  | _ => 0

def FV.isNan : FV → Bool
  | .nan => true
  | _ => false

def FV.isInf : FV → Bool
  | .inf _ => true
  | _ => false

def FV.isFinite : FV → Bool
  | .num _ _ => true
  | _ => false

def FV.isZero : FV → Bool
  | .num _ mag => mag = 0
  | _ => false

/-- Sign of a value; a NaN has none. -/
def FV.isNeg : FV → Bool
  | .nan => false
  | .inf neg => neg
  | .num neg _ => neg

def FV.withSign (neg : Bool) : FV → FV
  | .nan => .nan
  | .inf _ => .inf neg
  | .num _ mag => .num neg mag

def FV.neg (a : FV) : FV := a.withSign (!a.isNeg)

def FV.abs (a : FV) : FV := a.withSign false

/-- Exact sum before rounding, with the zero signs of RNE (R135). -/
def FV.add : FV → FV → FV
  | .nan, _ => .nan
  | _, .nan => .nan
  | .inf a, .inf b => if a = b then .inf a else .nan
  | .inf a, .num _ _ => .inf a
  | .num _ _, .inf b => .inf b
  | .num a x, .num b y => FV.ofRat (a && b) ((FV.num a x).toRat + (FV.num b y).toRat)

def FV.sub (a b : FV) : FV := a.add b.neg

/-- Exact product before rounding. -/
def FV.mul : FV → FV → FV
  | .nan, _ => .nan
  | _, .nan => .nan
  | .inf a, .inf b => .inf (a != b)
  | .inf a, .num b y => if y = 0 then .nan else .inf (a != b)
  | .num a x, .inf b => if x = 0 then .nan else .inf (a != b)
  | .num a x, .num b y => .num (a != b) (x * y)

/-- Exact quotient before rounding. -/
def FV.div : FV → FV → FV
  | .nan, _ => .nan
  | _, .nan => .nan
  | .inf _, .inf _ => .nan
  | .inf a, .num b _ => .inf (a != b)
  | .num a _, .inf b => .num (a != b) 0
  | .num a x, .num b y => if y = 0 then (if x = 0 then .nan else .inf (a != b)) else .num (a != b) (x / y)

/-- Order of two values that are not NaN, with infinities at the ends; +0 and -0 are equal. -/
def FV.lt (a b : FV) : Bool :=
  match a, b with
  | .nan, _ => false
  | _, .nan => false
  | .inf x, .inf y => x && !y
  | .inf x, .num _ _ => x
  | .num _ _, .inf y => !y
  | .num _ _, .num _ _ => a.toRat < b.toRat

/-- Equality as IEEE compares: false with a NaN, true between the zeros. -/
def FV.eq (a b : FV) : Bool :=
  match a, b with
  | .nan, _ => false
  | _, .nan => false
  | .inf x, .inf y => x = y
  | .num _ _, .num _ _ => a.toRat = b.toRat
  | _, _ => false

/-- Maximum with the NaN and zero rules of R136. -/
def FV.max (a b : FV) : FV :=
  if a.isNan || b.isNan then .nan
  else if a.eq b then (if a.isNeg then b else a)
  else if a.lt b then b else a

/-- Minimum with the NaN and zero rules of R136. -/
def FV.min (a b : FV) : FV :=
  if a.isNan || b.isNan then .nan
  else if a.eq b then (if a.isNeg then a else b)
  else if a.lt b then a else b

/-! ### FP32 operations, each rounded once (R135) -/

def add32 (a b : Word) : Word := enc32 ((dec32 a).add (dec32 b))
def sub32 (a b : Word) : Word := enc32 ((dec32 a).sub (dec32 b))
def mul32 (a b : Word) : Word := enc32 ((dec32 a).mul (dec32 b))
def div32 (a b : Word) : Word := enc32 ((dec32 a).div (dec32 b))
def fma32 (a b c : Word) : Word := enc32 (((dec32 a).mul (dec32 b)).add (dec32 c))
def max32 (a b : Word) : Word := enc32 ((dec32 a).max (dec32 b))
def min32 (a b : Word) : Word := enc32 ((dec32 a).min (dec32 b))

/-- FP32 pattern of an exact real, zero positive. -/
def rat32 (r : Rat) : Word := enc32 (FV.ofRat false r)

def isNan32 (w : Word) : Bool := (dec32 w).isNan

/-- FP64 sum and difference of exact values, rounded once (R123). -/
def enc64 (v : FV) : FV := lay64.decode (lay64.encode 0x7FF8000000000000 v)

end Sys2Proof.Machine
end

