-- ==== Sys2Proof/Machine/Formats.lean ====
section
/-! DEFINITION. Narrow formats and packed lines: element codes, the UE5M3 block scale, the check code, the tile-scale header, the reading
of blocks and values, and the writing of lines (R38 to R55, R65, R68, R69). -/
namespace Sys2Proof.Machine

/-! ### Bytes -/

/-- Byte `i` of a list; 0 beyond its end. -/
def byteAt (l : List Byte) (i : Nat) : Nat := (l.getD i 0#8).toNat

/-- `n` little-endian bytes from byte `i` (R10). -/
def leAt (l : List Byte) (i : Nat) : Nat → Nat
  | 0 => 0
  | n + 1 => byteAt l i + 256 * leAt l (i + 1) n

/-- The `n` little-endian bytes of a number (R10). -/
def leBytes : Nat → Nat → List Byte
  | 0, _ => []
  | n + 1, x => BitVec.ofNat 8 (x % 256) :: leBytes n (x / 256)

/-- Sum over the 16-bit words of a byte list, as the pair (a, b) of R50. -/
def fletcher : List Byte → Nat × Nat → Nat × Nat
  | lo :: hi :: rest, (a, b) =>
    let a' := (a + lo.toNat + 256 * hi.toNat) % 65535
    fletcher rest (a', (b + a') % 65535)
  | _, ab => ab

/-- The check code of a line's first 68 bytes (R50). -/
def checkCode (body : List Byte) : Nat :=
  let ab := fletcher body (0, 0)
  ab.2 * 65536 + ab.1

/-- Whether the stored check code of a line is right (R50, R52). -/
def lineOk (l : Line) : Bool := checkCode (l.take 68) = leAt l 68 4

/-- A line with the check code of its first 68 bytes (R51). -/
def sealLine (l : Line) : Line := l.take 68 ++ leBytes 4 (checkCode (l.take 68))

/-- A line from its data field and scale bytes. -/
def mkLine (data scales : List Byte) : Line := sealLine (data ++ scales)

def zeroLine : Line := List.replicate 72 0#8

/-- A line poisoned on delivery: the data bytes stay, the scale bytes become 0xFF, the check code follows (R52). -/
def poisonLine (l : Line) : Line := mkLine (l.take 64) (List.replicate 4 0xFF#8)

/-- What a verifying reader delivers: the line, or the line poisoned when its check fails (R52). -/
def checkedLine (l : Line) : Line := if lineOk l then l else poisonLine l

def scaleByte (l : Line) (b : Nat) : Nat := byteAt l (64 + b)

/-! ### Elements and scales -/

/-- FP4 in half units (R39). -/
def fp4Half (code : Nat) : Int :=
  let m : Nat := [0, 1, 2, 3, 4, 6, 8, 12].getD (code % 8) 0
  if code / 8 % 2 = 1 then -(m : Int) else m

/-- 4-bit two's complement (R38). -/
def int4 (code : Nat) : Int := if code % 16 < 8 then (code % 16 : Nat) else (code % 16 : Nat) - 16

/-- Value of a UE5M3 byte; 0 for 0x00, and of no use for 0xFF (R41). -/
def ueVal (b : Nat) : Rat :=
  if b / 8 = 0 then (b : Rat) * pow2 (-17) else ((8 + b % 8 : Nat) : Rat) * pow2 ((b / 8 : Nat) - 18)

/-- Least UE5M3 byte whose value is at least `s`, for 0 < s ≤ 114,688 (R57). -/
def leastUe (s : Rat) : Nat :=
  let e := if ilog2 s < -14 then -14 else ilog2 s
  ceilNat (s * pow2 (3 - e)) + (e + 14).toNat * 8

/-- The nibble `j` of quarter `b` of a 4-bit line (R48). -/
def nibbleAt (l : Line) (b j : Nat) : Nat := byteAt l (16 * b + j / 2) / 16 ^ (j % 2) % 16

/-- A block as the arrays read it: scale byte and the integers of its 32 elements. -/
structure Blk where
  scale : Nat
  elems : List Int
  deriving DecidableEq, Repr, Inhabited

def Blk.poisoned (b : Blk) : Bool := b.scale = 0xFF

/-- The four blocks of a line position: one line in formats 0x1 and 0x2, a pair in format 0x3 (R45, R48, R65).
`keep` says how many elements from the first one of the position lie inside the tensor (R55); a scale of 0xFF poisons its block there too (log entry 98). -/
def lineBlocks (fmt : Nat) (hi lo : Line) (keep : Nat) : List Blk :=
  (List.range 4).map fun b =>
    let elem := fun j =>
      if 32 * b + j < keep then
        (if fmt = 1 then fp4Half (nibbleAt hi b j)
         else if fmt = 2 then int4 (nibbleAt hi b j)
         else 16 * int4 (nibbleAt hi b j) + (nibbleAt lo b j : Int))
      else 0
    let s := if fmt = 3 && scaleByte hi b != scaleByte lo b then 0xFF else scaleByte hi b
    { scale := s, elems := (List.range 32).map elem }

/-- Denominator of the unit of a format's block integers: FP4 is read in half units (R45). -/
def unitDen (fmt : Nat) : Nat := if fmt = 1 then 2 else 1

/-- The exact block integer D of two blocks (R45, R66). -/
def blockDot (a b : Blk) : Int := (List.zipWith (· * ·) a.elems b.elems).foldl (· + ·) 0

/-- The FP32 block product: NaN for poison, +0 for a zero block, else D × u × s_a × s_b rounded once (R43, R46, R66). -/
def blockProduct (fa fb : Nat) (a b : Blk) : Word :=
  if a.poisoned || b.poisoned then 0x7FC00000#32
  else if a.scale = 0 || b.scale = 0 then 0#32
  else rat32 (mkRat (blockDot a b) (unitDen fa * unitDen fb) * ueVal a.scale * ueVal b.scale)

/-! ### The tile-scale header -/

/-- A tile-scale header as read, with `bad` where R55 poisons the whole tile. -/
structure TileHdr where
  scale : Word
  fmt : Nat
  flags : Nat
  linesPerRow : Nat
  rows : Nat
  stream : Nat
  tileIndex : Nat
  validK : Nat
  bad : Bool
  deriving DecidableEq, Repr, Inhabited

/-- A positive, finite, normal FP32 value (R54). -/
def normalPos (w : Word) : Bool := 0x00800000 ≤ w.toNat && w.toNat ≤ 0x7F7FFFFF

/-- Elements that a row of `n` lines can hold (R55). -/
def rowCapacity (fmt n : Nat) : Nat :=
  if fmt = 1 || fmt = 2 then n * 128 else if fmt = 3 then n / 2 * 128 else n * 64

/-- Read a header line (R54, R55). -/
def readHdr (l : Line) : TileHdr :=
  let scale := BitVec.ofNat 32 (leAt l 0 4)
  let fmt := byteAt l 4
  let n := leAt l 6 2
  let rows := leAt l 8 2
  let vk := leAt l 16 2
  { scale := scale, fmt := fmt, flags := byteAt l 5, linesPerRow := n, rows := rows, stream := leAt l 10 2,
    tileIndex := leAt l 12 4, validK := vk,
    bad := (List.range 4).any (fun b => scaleByte l b = 0xFF) || !lineOk l || !normalPos scale
      || fmt = 0 || 5 < fmt || rowCapacity fmt n < vk || (fmt = 3 && n % 2 = 1)
      || n = 0 || 256 < n || rows = 0 || 4096 < rows || vk = 0 || 16384 < vk }

/-- Write a header line; the scale bytes are all 0x00, or all 0xFF for a poisoned tile (R54). -/
def writeHdr (h : TileHdr) : Line :=
  mkLine (leBytes 4 h.scale.toNat ++ leBytes 1 h.fmt ++ leBytes 1 h.flags ++ leBytes 2 h.linesPerRow ++ leBytes 2 h.rows
    ++ leBytes 2 h.stream ++ leBytes 4 h.tileIndex ++ leBytes 2 h.validK ++ List.replicate 46 0#8)
    (List.replicate 4 (if h.bad then 0xFF#8 else 0#8))

/-! ### Values of a line -/

/-- Elements of one line position in a format: 128 in 0x1 to 0x3, 64 in FP8, 32 in BF16 and FP16, 16 in FP32 (R48). -/
def elemsPerLine (fmt : Nat) : Nat :=
  if fmt ≤ 3 then 128 else if fmt ≤ 5 then 64 else if fmt ≤ 7 then 32 else 16

/-- The wide value of a 4-bit, INT8 or FP8 element with its block scale, zero and poison read by R43 and R69. -/
def scaledElem (scale : Nat) (v : FV) : FV :=
  if scale = 0xFF then .nan
  else if scale = 0 then .num false 0
  else v.mul (.num false (ueVal scale))

/-- The exact values of one line position, before any tile scale (R48, R49, R69). DESIGN CHOICE (log entry 98): the elements of a poisoned block are NaN also where
they lie at or beyond VALID_K. -/
def lineValues (fmt : Nat) (hi lo : Line) (keep : Nat) : List FV :=
  if fmt ≤ 3 then
    (lineBlocks fmt hi lo keep).flatMap fun b =>
      b.elems.map fun e => scaledElem b.scale (FV.ofRat false (mkRat e (unitDen fmt)))
  else if fmt ≤ 5 then
    (List.range 64).map fun i =>
      if i < keep then scaledElem (scaleByte hi (i / 16)) ((if fmt = 4 then decE4m3 else decE5m2) (byteAt hi i))
      else if scaleByte hi (i / 16) = 0xFF then .nan else .num false 0
  else
    let n := elemsPerLine fmt
    (List.range n).map fun i =>
      match scaleByte hi (i / (n / 4)) with
      | 0x00 => .num false 0
      | 0x78 =>
        if fmt = 6 then decBf16 (leAt hi (2 * i) 2)
        else if fmt = 7 then decF16 (leAt hi (2 * i) 2)
        else dec32 (BitVec.ofNat 32 (leAt hi (4 * i) 4))
      | _ => .nan

/-! ### Writing lines -/

/-- Pack nibbles, the even one low (R48). -/
def packNibbles : List Nat → List Byte
  | a :: b :: rest => BitVec.ofNat 8 (a % 16 + 16 * (b % 16)) :: packNibbles rest
  | _ => []

/-- A block or quarter to be written: scale byte and element codes (INT8 as the integer itself modulo 256). -/
structure OutBlk where
  scale : Nat
  codes : List Nat
  deriving DecidableEq, Repr, Inhabited

/-- High digit code and low digit of an INT8 element held modulo 256 (R65). -/
def int8Digits (x : Nat) : Nat × Nat := (x / 16 % 16, x % 16)

/-- The lines of four blocks or quarters: one line, or the pair of format 0x3 (R48, R65). -/
def packBlocks (fmt : Nat) (bs : List OutBlk) : List Line :=
  let scales := bs.map fun b => BitVec.ofNat 8 b.scale
  if fmt = 3 then
    [mkLine (packNibbles (bs.flatMap fun b => b.codes.map fun c => (int8Digits c).1)) scales,
     mkLine (packNibbles (bs.flatMap fun b => b.codes.map fun c => (int8Digits c).2)) scales]
  else if fmt ≤ 2 then [mkLine (packNibbles (bs.flatMap (·.codes))) scales]
  else [mkLine (bs.flatMap fun b => b.codes.map fun c => BitVec.ofNat 8 c) scales]

/-- A line of format 0x6 to 0x8 of given values, each converted by R68, with valid tags (R49, R132). -/
def wideLine (fmt : Nat) (vs : List FV) (tags : List Byte) : Line :=
  let n := elemsPerLine fmt
  mkLine ((List.range n).flatMap fun i =>
    let v := vs.getD i (.num false 0)
    if fmt = 6 then leBytes 2 (encBf16 v) else if fmt = 7 then leBytes 2 (encF16 v) else leBytes 4 (enc32 v).toNat) tags

/-! ### Hashes -/

/-- The hash step of R63, modulo 2^64. -/
def mix (z : Nat) : Nat :=
  let m := 2 ^ 64
  let z := (z + 0x9E3779B97F4A7C15) % m
  let z := (z ^^^ (z >>> 30)) * 0xBF58476D1CE4E5B9 % m
  let z := (z ^^^ (z >>> 27)) * 0x94D049BB133111EB % m
  z ^^^ (z >>> 31)

/-- The hash of a tensor tile in one stroke of a job: launch count, stroke number, stream and tile index (R63). -/
def tileHash (launch stroke stream tile : Nat) : Nat :=
  mix (mix (mix launch ^^^ stroke) ^^^ (stream * 2 ^ 32 + tile) % 2 ^ 64)

/-- The 16-bit random value of element `e` of block `k` (R63). -/
def srValue (h k e : Nat) : Nat := mix (h ^^^ (k * 32 + e)) % 65536

/-! ### Cyclic redundancy checks -/

/-- One bit of a most-significant-bit-first CRC of width `w` with polynomial `poly`. -/
def crcBit (w poly crc : Nat) (bit : Bool) : Nat :=
  let top := crc / 2 ^ (w - 1) % 2 = 1
  let sh := crc * 2 % 2 ^ w
  if top != bit then sh ^^^ poly else sh

/-- A most-significant-bit-first CRC over bytes, byte after byte. -/
def crcMsb (w poly init : Nat) (l : List Byte) : Nat :=
  l.foldl (fun crc b => (List.range 8).foldl (fun c i => crcBit w poly c (b.toNat / 2 ^ (7 - i) % 2 = 1)) crc) init

/-- CRC-16 with polynomial 0x1021 and initial value 0xFFFF (R33). -/
def crc16 (l : List Byte) : Nat := crcMsb 16 0x1021 0xFFFF l

/-- CRC-32C: reflected, polynomial 0x1EDC6F41, initial value and final inversion all ones (R324). -/
def crc32c (l : List Byte) : Nat :=
  0xFFFFFFFF ^^^ l.foldl (fun crc b =>
    (List.range 8).foldl (fun c _ => if c % 2 = 1 then (c / 2) ^^^ 0x82F63B78 else c / 2) (crc ^^^ b.toNat)) 0xFFFFFFFF

end Sys2Proof.Machine
end

