-- ==== Sys2Proof/Machine/Sparse.lean ====
section
/-! DEFINITION. Sparse tables: reading with a default for unlisted keys, writing that keeps the one canonical form (keys strictly
rising, no entry equal to its default), and the check of that form. -/
namespace Sys2Proof.Machine

/-- Value at a key; `d` gives what an unlisted key reads as. -/
def sget {α : Type} (d : Nat → α) : Sparse α → Nat → α
  | [], k => d k
  | (k', v) :: rest, k => if k = k' then v else sget d rest k

/-- Put an entry at its place among rising keys. -/
def sput {α : Type} : Sparse α → Nat → α → Sparse α
  | [], k, v => [(k, v)]
  | (k', v') :: rest, k, v =>
    if k < k' then (k, v) :: (k', v') :: rest else if k = k' then (k, v) :: rest else (k', v') :: sput rest k v

/-- Write a value at a key; writing the default removes the entry. -/
def sset {α : Type} [DecidableEq α] (d : Nat → α) (m : Sparse α) (k : Nat) (v : α) : Sparse α :=
  if v = d k then m.filter (fun e => e.1 ≠ k) else sput m k v

/-- The canonical form from a least key upwards. -/
def sAbove {α : Type} [DecidableEq α] (d : Nat → α) : Nat → Sparse α → Bool
  | _, [] => true
  | lo, (k, v) :: rest => lo ≤ k && v ≠ d k && sAbove d (k + 1) rest

/-- The canonical form. -/
def swf {α : Type} [DecidableEq α] (d : Nat → α) (m : Sparse α) : Bool := sAbove d 0 m

end Sys2Proof.Machine
end

