-- ==== Sys2Proof/Machine/Crypto.lean ====
section
/-! DEFINITION. The published algorithms that R392, R395 and R397 name: SHA-384 (FIPS 180-4) and the verification of an ECDSA signature on P-384
(FIPS 186-5, SEC 1), over Nat so that the kernel evaluates them (log entry 7). -/
namespace Sys2Proof.Machine

/-- Hand a value on once it is computed; the same as `f n`. -/
def forced {α : Type} (n : Nat) (f : Nat → α) : α :=
  match n with
  | 0 => f 0
  | m + 1 => f (m + 1)

/-- The number whose bytes, most significant first, are these. -/
def beNat (bs : List Byte) : Nat := bs.foldl (fun a b => a * 256 + b.toNat) 0

/-- The `n` bytes of a number, most significant first. -/
def beBytes (n w : Nat) : List Byte := (leBytes n w).reverse

/-! ### SHA-384 -/

def rotr64 (x n : Nat) : Nat := x / 2 ^ n + x % 2 ^ n * 2 ^ (64 - n)

/-- The 80 constants of the rounds. -/
def shaConst : List Nat :=
  [0x428a2f98d728ae22, 0x7137449123ef65cd, 0xb5c0fbcfec4d3b2f, 0xe9b5dba58189dbbc]
    ++ [0x3956c25bf348b538, 0x59f111f1b605d019, 0x923f82a4af194f9b, 0xab1c5ed5da6d8118]
    ++ [0xd807aa98a3030242, 0x12835b0145706fbe, 0x243185be4ee4b28c, 0x550c7dc3d5ffb4e2]
    ++ [0x72be5d74f27b896f, 0x80deb1fe3b1696b1, 0x9bdc06a725c71235, 0xc19bf174cf692694]
    ++ [0xe49b69c19ef14ad2, 0xefbe4786384f25e3, 0x0fc19dc68b8cd5b5, 0x240ca1cc77ac9c65]
    ++ [0x2de92c6f592b0275, 0x4a7484aa6ea6e483, 0x5cb0a9dcbd41fbd4, 0x76f988da831153b5]
    ++ [0x983e5152ee66dfab, 0xa831c66d2db43210, 0xb00327c898fb213f, 0xbf597fc7beef0ee4]
    ++ [0xc6e00bf33da88fc2, 0xd5a79147930aa725, 0x06ca6351e003826f, 0x142929670a0e6e70]
    ++ [0x27b70a8546d22ffc, 0x2e1b21385c26c926, 0x4d2c6dfc5ac42aed, 0x53380d139d95b3df]
    ++ [0x650a73548baf63de, 0x766a0abb3c77b2a8, 0x81c2c92e47edaee6, 0x92722c851482353b]
    ++ [0xa2bfe8a14cf10364, 0xa81a664bbc423001, 0xc24b8b70d0f89791, 0xc76c51a30654be30]
    ++ [0xd192e819d6ef5218, 0xd69906245565a910, 0xf40e35855771202a, 0x106aa07032bbd1b8]
    ++ [0x19a4c116b8d2d0c8, 0x1e376c085141ab53, 0x2748774cdf8eeb99, 0x34b0bcb5e19b48a8]
    ++ [0x391c0cb3c5c95a63, 0x4ed8aa4ae3418acb, 0x5b9cca4f7763e373, 0x682e6ff3d6b2b8a3]
    ++ [0x748f82ee5defb2fc, 0x78a5636f43172f60, 0x84c87814a1f0ab72, 0x8cc702081a6439ec]
    ++ [0x90befffa23631e28, 0xa4506cebde82bde9, 0xbef9a3f7b2c67915, 0xc67178f2e372532b]
    ++ [0xca273eceea26619c, 0xd186b8c721c0c207, 0xeada7dd6cde0eb1e, 0xf57d4f7fee6ed178]
    ++ [0x06f067aa72176fba, 0x0a637dc5a2c898a6, 0x113f9804bef90dae, 0x1b710b35131c471b]
    ++ [0x28db77f523047d84, 0x32caab7b40c72493, 0x3c9ebe0a15c9bebc, 0x431d67c49c100d4c]
    ++ [0x4cc5d4becb3e42b6, 0x597f299cfc657e2a, 0x5fcb6fab3ad6faec, 0x6c44198c4a475817]

/-- The value at the start. -/
def shaStart : List Nat :=
  [0xcbbb9d5dc1059ed8, 0x629a292a367cd507, 0x9159015a3070dd17, 0x152fecd8f70e5939]
    ++ [0x67332667ffc00b31, 0x8eb44a8768581511, 0xdb0c2e0d64f98fa7, 0x47b5481dbefa4fa4]

/-- `n` further words of the schedule; the newest word stands first. -/
def shaSchedule : Nat → List Nat → List Nat
  | 0, ws => ws
  | n + 1, ws =>
    let w1 := ws.getD 1 0
    let w14 := ws.getD 14 0
    forced (((rotr64 w1 19 ^^^ rotr64 w1 61 ^^^ w1 / 2 ^ 6) + ws.getD 6 0 + (rotr64 w14 1 ^^^ rotr64 w14 8 ^^^ w14 / 2 ^ 7) + ws.getD 15 0) % 2 ^ 64)
      fun w => shaSchedule n (w :: ws)

/-- The rounds for the words, each with its constant. -/
def shaRounds (v : List Nat) : List (Nat × Nat) → List Nat
  | [] => v
  | (k, w) :: rest =>
    match v with
    | [a, b, c, d, e, f, g, h] =>
      forced ((h + (rotr64 e 14 ^^^ rotr64 e 18 ^^^ rotr64 e 41) + ((e &&& f) ^^^ ((2 ^ 64 - 1 - e) &&& g)) + k + w) % 2 ^ 64) fun t =>
        forced ((t + (rotr64 a 28 ^^^ rotr64 a 34 ^^^ rotr64 a 39) + ((a &&& b) ^^^ (a &&& c) ^^^ (b &&& c))) % 2 ^ 64) fun a' =>
          forced ((d + t) % 2 ^ 64) fun e' => shaRounds [a', a, b, c, e', e, f, g] rest
    | _ => v

/-- Big-endian words of 64 bits. -/
def shaWords : Nat → List Byte → List Nat
  | 0, _ => []
  | n + 1, bs => forced (beNat (bs.take 8)) fun w => w :: shaWords n (bs.drop 8)

def shaBlock (v : List Nat) (block : List Byte) : List Nat :=
  let ws := (shaSchedule 64 (shaWords 16 block).reverse).reverse
  List.zipWith (fun x y => (x + y) % 2 ^ 64) v (shaRounds v (shaConst.zip ws))

def shaBlocks : Nat → List Nat → List Byte → List Nat
  | 0, v, _ => v
  | n + 1, v, bs => shaBlocks n (shaBlock v (bs.take 128)) (bs.drop 128)

/-- SHA-384 of a string of bytes: 48 bytes. -/
@[irreducible] def sha384 (m : List Byte) : List Byte :=
  let pad := 128 - (m.length + 17) % 128
  let whole := m ++ [0x80#8] ++ List.replicate (pad % 128) 0#8 ++ beBytes 16 (8 * m.length)
  ((shaBlocks (whole.length / 128) shaStart whole).take 6).flatMap fun w => beBytes 8 w

/-! ### P-384 -/

def p384 : Nat := 2 ^ 384 - 2 ^ 128 - 2 ^ 96 + 2 ^ 32 - 1
def p384Order : Nat := 0xffffffffffffffffffffffffffffffffffffffffffffffffc7634d81f4372ddf581a0db248b0a77aecec196accc52973
def p384B : Nat := 0xb3312fa7e23ee7e4988e056be3f82d19181d9c6efe8141120314088f5013875ac656398d8a2ed19d2a85c8edd3ec2aef

/-- A point in Jacobian coordinates; the neutral one has z = 0. -/
structure Point where
  x : Nat
  y : Nat
  z : Nat
  deriving DecidableEq, Repr

def Point.base : Point :=
  { x := 0xaa87ca22be8b05378eb1c71ef320ad746e1d3b628ba79b9859f741e082542a385502f25dbf55296c3a545e3872760ab7
    y := 0x3617de4a96262c6f5d9e98bf9292dc29f8f41dbd289a147ce9da3113b5f0b8c00a60b1ce1d7e819d7a431d7c90ea0e5f
    z := 1 }

def Point.zero : Point := { x := 1, y := 1, z := 0 }

/-- Difference modulo the field's prime of two numbers below it. -/
def subP (a b : Nat) : Nat := (a + p384 - b) % p384

def Point.double (a : Point) : Point :=
  forced (a.z * a.z % p384) fun d => forced (a.y * a.y % p384) fun g => forced (a.x * g % p384) fun b =>
    forced (3 * subP a.x d * (a.x + d) % p384) fun m =>
      forced (subP (m * m % p384) (8 * b % p384)) fun x => forced (2 * a.y * a.z % p384) fun z =>
        forced (subP (m * subP (4 * b % p384) x % p384) (8 * g * g % p384)) fun y => { x := x, y := y, z := z }

def Point.add (a b : Point) : Point :=
  if a.z = 0 then b
  else if b.z = 0 then a
  else
    forced (a.z * a.z % p384) fun za => forced (b.z * b.z % p384) fun zb =>
      forced (a.x * zb % p384) fun u => forced (subP (b.x * za % p384) u) fun h =>
        forced (a.y * zb * b.z % p384) fun t => forced (subP (b.y * za * a.z % p384) t) fun r =>
          if h = 0 then (if r = 0 then a.double else Point.zero)
          else
            forced (h * h % p384) fun h2 => forced (h * h2 % p384) fun h3 => forced (u * h2 % p384) fun v =>
              forced (subP (subP (r * r % p384) h3) (2 * v % p384)) fun x =>
                forced (subP (r * subP v x % p384) (t * h3 % p384)) fun y => forced (h * a.z * b.z % p384) fun z =>
                  { x := x, y := y, z := z }

/-- The bits of a number below 2^384, most significant first. -/
def bits384 (n : Nat) : List Bool := (List.range 384).reverse.map n.testBit

/-- Power modulo `m`, by the exponent's bits. -/
def powMod (m b : Nat) (acc : Nat) : List Bool → Nat
  | [] => acc
  | e :: rest => forced (acc * acc % m) fun q => if e then forced (q * b % m) fun q => powMod m b q rest else powMod m b q rest

/-- Inverse modulo a prime. -/
def invMod (m a : Nat) : Nat := powMod m a 1 (bits384 (m - 2))

/-- u G + v Q by the bits of both factors. -/
def twoMul (q gq : Point) (acc : Point) : List (Bool × Bool) → Point
  | [] => acc
  | (u, v) :: rest =>
    match acc.double with
    | { x := x, y := y, z := z } =>
      let d : Point := { x := x, y := y, z := z }
      match (if u then (if v then d.add gq else d.add Point.base) else if v then d.add q else d) with
      | { x := x, y := y, z := z } => twoMul q gq { x := x, y := y, z := z } rest

/-- The point that 97 bytes encode uncompressed, when it lies on the curve (SEC 1). -/
def pointOf (key : List Byte) : Option Point :=
  let x := beNat ((key.drop 1).take 48)
  let y := beNat ((key.drop 49).take 48)
  if key.length = 97 && byteAt key 0 = 4 && x < p384 && y < p384 && (x * x * x + (p384 - 3) * x + p384B) % p384 = y * y % p384 then
    some { x := x, y := y, z := 1 }
  else none

/-- ECDSA on P-384 with SHA-384: the signature, r then s, is one of the message under the key. -/
@[irreducible] def signatureVerifies (key message signature : List Byte) : Bool :=
  match pointOf key with
  | none => false
  | some q =>
    forced (beNat (signature.take 48)) fun r => forced (beNat ((signature.drop 48).take 48)) fun s =>
      if r = 0 || p384Order ≤ r || s = 0 || p384Order ≤ s then false
      else
        forced (invMod p384Order s) fun w => forced (beNat (sha384 message) * w % p384Order) fun u => forced (r * w % p384Order) fun v =>
          let t := twoMul q (q.add Point.base) Point.zero ((bits384 u).zip (bits384 v))
          t.z ≠ 0 && (t.x * invMod p384 (t.z * t.z % p384) % p384) % p384Order = r

end Sys2Proof.Machine
end

