-- ==== Sys2Proof/Machine/State.lean ====
section
/-! DEFINITION. The state of the module as plain data, and its value at the instant of power-good.
A register array is a sparse table: a number that is not listed has the array's reset value (Machine/Ops.lean). -/
namespace Sys2Proof.Machine

/-- Why the machine stops. Both stops are safe: nothing is claimed of what would follow. -/
inductive Fault where
  /-- A command names a nib, quill, mover, link, pipe or ring that is not on this module (R3, R27). Raised where a unit
  is looked up to execute. Safe. -/
  | absentUnit
  /-- A mover descriptor is not one that 64 bytes of R235 spell, or names a source or target that its operation cannot have (R236, R255). Raised by the
  commands of the movers. Safe. -/
  | badDescriptor
  deriving DecidableEq, Repr

/-- Why a command has no meaning. -/
inductive Refusal where
  /-- No meaning has been given to the command of this mnemonic. Raised by `exec` alone. Safe. -/
  | notModelled (mnemonic : String)
  deriving DecidableEq, Repr

/-- The answer of a step. -/
abbrev Out (σ : Type) : Type := Host.Outcome σ Fault Refusal

/-! ### Flags and counters -/

/-- A W1C flag register and the RC counters of its bits (R15, R16, R472). -/
structure Events where
  flags : BitVec 8
  counts : Sparse Word
  deriving DecidableEq, Repr, Inhabited

/-! ### Fuses, flash and the log -/

/-- One-time fuses (R392, R493). -/
structure Fuses where
  f512 : Bool
  defect : List Nat
  rootHash : List Byte
  fuseVer : Nat
  prov : Bool
  ret : Bool
  vcore : List Nat
  deriving DecidableEq, Repr, Inhabited

/-- Lifecycle states (R407, R410). -/
inductive Life where
  | blank | provisioned | operational | diagnostic | retired
  deriving DecidableEq, Repr, Inhabited

/-- A boot state record (R398); `trial = none` is 0xFF. -/
structure BootRec where
  seq : Word
  active : Bool
  trial : Option Bool
  trialLeft : Nat
  state : Life
  rbPending : Bool
  bootCount : Word
  crcOk : Bool := true
  deriving DecidableEq, Repr, Inhabited

/-- A log entry (R450). -/
structure LogEntry where
  seq : Nat
  gtc : Nat
  boot : Nat
  type : Nat
  severity : Nat
  flags : Nat
  count : Nat
  payload : List Word
  deriving DecidableEq, Repr, Inhabited

/-- A log position: erased, holding a whole entry, or holding one whose write was interrupted (R450, R451). -/
inductive LogCell where
  | erased
  | whole (e : LogEntry)
  | torn
  deriving DecidableEq, Repr, Inhabited

/-- One flash device: bytes outside the structured regions, boot state records newest first, log positions (R393); `bad` while its erases and programs fail
(R457). -/
structure Flash where
  bytes : Sparse Byte
  boot : List BootRec
  log : Sparse LogCell
  bad : Bool := false
  deriving DecidableEq, Repr, Inhabited

/-! ### Power, pins and boot -/

/-- Supplies, rails and protection (R486 to R497, R441, R453). `holdup` counts the log entries that were queued when V3P3_AUX failed and are not
yet written. -/
structure Power where
  aux : Bool
  vin : Bool
  mate : Bool
  ref100 : Bool
  switchClosed : Bool
  rampDone : Bool
  good : Bool
  vio : Bool
  vlane : Bool
  vwell : Bool
  vcore : Bool
  vstk : Bool
  vddq : Bool
  latchedOpen : Bool
  holdup : Option Nat
  standby : Bool
  scribe : Bool
  tripped : Bool
  deriving DecidableEq, Repr, Inhabited

/-- Sideband pins (R482, R497, R502). -/
structure Pins where
  thermtrip : Bool
  relRdy : Bool
  relReq : Bool
  cblPrsnt : BitVec 12
  vcbl : BitVec 12
  deriving DecidableEq, Repr, Inhabited

/-- Boot and lifecycle state (R398 to R410). -/
structure Boot where
  code : BitVec 8
  phase : BitVec 4
  noPset : Bool
  rbPending : Bool
  timeMs : BitVec 16
  active : Bool
  booted : Bool
  trial : Bool
  trialLeft : Nat
  resA : Nat
  resB : Nat
  secVer : Nat
  life : Life
  keys : Nat
  revoked : BitVec 4
  fwVer : Word
  count : Word
  serial : BitVec 64
  recordSeq : Word
  fullSelfTest : Bool
  config : ScrollConfig
  deriving DecidableEq, Repr, Inhabited

/-- What the disabled-unit map gives: image entries of both dies, counts and tag (R26, R31 to R33). -/
structure UnitMap where
  map0 : List (BitVec 16)
  map1 : List (BitVec 16)
  quills0 : Nat
  quills1 : Nat
  spares0 : Nat
  spares1 : Nat
  tag : BitVec 16
  deriving DecidableEq, Repr, Inhabited

/-- GLB_WIPESTAT (R263). -/
structure Wipe where
  wiping : Bool
  done : Bool
  rbOk : Bool
  rbFail : Bool
  us : BitVec 16
  deriving DecidableEq, Repr, Inhabited

/-! ### Pages and loans -/

/-- A page-map entry (R230). -/
structure PageEntry where
  kind : BitVec 2
  state : BitVec 3
  pinned : Bool
  shadowEn : Bool
  lent : Bool
  shadow : BitVec 17
  homeRank : BitVec 7
  homePage : BitVec 17
  homeTag : BitVec 16
  lenderRank : BitVec 7
  lenderPage : BitVec 17
  loanTag : BitVec 16
  deriving DecidableEq, Repr, Inhabited

/-- What a change of a page-map entry does (R242, R245, R249 to R251, R456). -/
inductive PageOp where
  | filling (lender homeRank homePage homeTag : Nat)
  | granted (page tag : Nat)
  | loaned
  | home
  | pin (tag : Nat)
  | unpin
  | lend (tag : Nat)
  | unlend
  | shadow (t3 : Nat)
  | unshadow
  | kind (raw : Bool)
  deriving DecidableEq, Repr, Inhabited

/-- A page-map change that waits for a publication (R231). -/
structure PageChange where
  index : Nat
  op : PageOp
  deriving DecidableEq, Repr, Inhabited

/-- An offer, a loan granted or a recall under way (R244, R249, R250). -/
structure Offer where
  rank : Nat
  pages : Nat
  notice : Nat
  share : Nat
  deriving DecidableEq, Repr, Inhabited

/-- A loan as its lender or its borrower holds it (R244, R250): `peer` is the other side. -/
structure Granted where
  peer : Nat
  t3 : Nat
  page : Nat
  tag : Nat
  homeRank : Nat
  homePage : Nat
  homeTag : Nat
  filled : Bool
  recalled : Bool
  deriving DecidableEq, Repr, Inhabited

/-- Lines of a loaned read that are still awaited: T3 index, first line, count, where they go, lender or home, tag (R246, R248). `hold` says that they are to be
kept for a command that waits for them. -/
structure ReadWait where
  t3 : Nat
  hold : Bool
  first : Nat
  count : Nat
  rank : Nat
  home : Bool
  mover : Nat
  dst : Place
  deriving DecidableEq, Repr, Inhabited

/-- A loaned or home read that was served: to whom, the page, first line and count, whether it was refused, and whether it was sent again
(R247, R329). -/
structure Served where
  rank : Nat
  page : Nat
  first : Nat
  count : Nat
  refused : Bool
  resent : Bool
  deriving DecidableEq, Repr, Inhabited

/-- A recall received as a borrower: the lender, the named indices and the strokes left (R249); `unasked` where the borrower gives the pages back
itself (R244). -/
structure RecallDue where
  lender : Nat
  t3 : List Nat
  wait : Nat
  unasked : Bool
  deriving DecidableEq, Repr, Inhabited

/-- Loan state and registers (R244 to R254, R263): `pins` lists (home page, borrower, T3 index), `returnDue` (module, T3 index) of loans that a
reset ended at their lender, and, with `true`, of home pages that the index named, `fetched` lines that came over a link for a command in `parked`, by T3 line address, with the number of its mover or collective (R246). -/
structure Loan where
  err : Events
  errIndex : BitVec 17
  errFlag : BitVec 3
  t3reads : Word
  homereads : Word
  lentserved : Word
  iomovchk : Word
  offersIn : List Offer
  offersOut : List Offer
  granted : List Granted
  held : List Granted
  recalls : List RecallDue
  reads : List ReadWait
  served : List Served
  pins : List (Nat × Nat × Nat)
  returnDue : List (Nat × Nat × Bool)
  fetched : Sparse (Option Line)
  parked : List (Nat × Instr)
  tagSeq : Nat
  share : Nat
  deriving DecidableEq, Repr, Inhabited

/-! ### Stacks and wells -/

/-- A stack controller (R261). -/
structure Stack where
  trained : Bool
  hot : Bool
  wiped : Bool
  err : Events
  ce : Word
  errPage : BitVec 13
  errLine : BitVec 18
  refwait : Word
  atomadds : Word
  deriving DecidableEq, Repr, Inhabited

/-- An atomic add recorded in the add log: who issued it, its target and the source line (R258). -/
structure AddRec where
  mover : Bool
  unit : Nat
  sub : Nat
  dst : Place
  src : Line
  deriving DecidableEq, Repr, Inhabited

/-- The blotter's captured tile (R122, R124): what it needs to check the tile again. -/
structure Capture where
  tile : TileDesc
  results : List (List Word)
  stroke : Nat
  deriving DecidableEq, Repr, Inhabited

/-- A ticket counter (R278 to R284, R302), with the tile shape of its product (R283). -/
structure Counter where
  next : BitVec 17
  limit : BitVec 17
  deal : Bool
  order : BitVec 2
  block : BitVec 4
  tidxBase : Nat
  tr : Nat
  tc : Nat
  mt : Nat
  nt : Nat
  takers : List (Nat × Nat)
  deriving DecidableEq, Repr, Inhabited

/-- A taker's record at the homes of its die: latest counter, tag and reply, and the array tile index that its ticket names;
`none` is EMPTY (R279, R283). -/
structure TakerRec where
  counter : Nat
  tag : BitVec 8
  reply : Option Nat
  tile : Option Nat
  deriving DecidableEq, Repr, Inhabited

/-- The registers of a well control block and the engines behind them (R128, R220, R262, R302). -/
structure Well where
  memerr : Events
  eccce : Word
  mxflush : Word
  atomadds : Word
  addlog : List AddRec
  tktretry : Word
  tktempty : Word
  counters : Sparse Counter
  takers : Sparse (Option TakerRec)
  dealt : Sparse Nat
  blotK : BitVec 5
  blotEn : Bool
  blotAct : Bool
  blotRel : BitVec 5
  blotAbs : BitVec 8
  nowK : BitVec 5
  nowEn : Bool
  nowAct : Bool
  nowRel : BitVec 5
  nowAbs : BitVec 8
  blotstat : Events
  blotdone : Word
  blotskip : Word
  blotctx : Word
  blotstrk : Word
  fspevt : Events
  fspLayer : BitVec 8
  fspill : Sparse Word
  fspthr : Sparse Word
  thrNow : Sparse Word
  capture0 : Option Capture
  capture1 : Option Capture
  rowrdy : Sparse (BitVec 16)
  deriving DecidableEq, Repr, Inhabited

/-! ### Nibs and quills -/

/-- A nib (R64, R84, R101 to R103, R127, R130, R145, R162, R193). `slots` is the double-buffered slot register: the column lines of the latest
two loads (R72, R84). -/
structure Nib where
  qflush : Word
  qsat : Word
  qpoison : Word
  lchkerr : Word
  feedwait : Word
  drainwait : Word
  maskissue : Word
  pinput : Word
  csmism : Word
  cscure : Word
  flchan : Word
  vinvalid : Word
  vmclamp : Word
  sfuovf : Word
  attfull : Word
  attnan : Word
  attspill : Word
  issue : BitVec 64
  image : List Word
  vregs : Sparse (List Word)
  pregs : Sparse (BitVec 64)
  acc : Sparse Word
  slots : List (List Line)
  deriving DecidableEq, Repr, Inhabited

/-- A tile that was abandoned and is being recomputed, with the positions of the nibs that detected the fault (R109). -/
structure Attempt where
  tile : TileDesc
  nibs : List Nat
  deriving DecidableEq, Repr, Inhabited

/-- A take without its reply: the gang, the counter and the tag (R279, R280). -/
structure Asked where
  gang : Nat
  counter : Nat
  tag : BitVec 8
  deriving DecidableEq, Repr, Inhabited

/-- A ticket that a gang holds, until its tile closes: the array tile index that it names and the tile's origin (R280, R283). -/
structure Ticket where
  gang : Nat
  counter : Nat
  ticket : Nat
  tile : Nat
  row : Nat
  col : Nat
  deriving DecidableEq, Repr, Inhabited

/-- A quill (R97 to R100, R219). `attempt` holds the tiles being recomputed, `tags` the next tag of each gang, `asked` and `tickets` the takes without
reply and the tickets held. Of the convolution engine: `lineBuf` holds lines by their well line as they entered, `window` the row-operand lines of the latest
step and the one before it (R203), `halo` the counter and value that it waits for (R215), `convLast` the tile fed last (R201). -/
structure Quill where
  gang : BitVec 2
  convGang : BitVec 3
  convEn : Bool
  active : Bool
  fenced : BitVec 8
  gfault : Events
  gfctx : Sparse Word
  attempt : List Attempt
  tags : Sparse (BitVec 8)
  asked : List Asked
  tickets : List Ticket
  lineBuf : Sparse (Option Line)
  window : List (List Line)
  halo : Option (Nat × Nat)
  convLast : Option TileDesc
  convBusy : Bool
  hwaitNow : Bool
  convCounter : BitVec 8
  convSeg : BitVec 4
  convHwait : Word
  convLines : Word
  convPad : Word
  deriving DecidableEq, Repr, Inhabited

/-! ### KV block table -/

/-- A KV block table entry (R184). -/
structure KvEntry where
  page : BitVec 17
  line : BitVec 18
  pool : BitVec 4
  state : BitVec 3
  fill : BitVec 9
  refcnt : BitVec 16
  leaseEnd : BitVec 16
  leased : Bool
  tail : BitVec 12
  gen : BitVec 8
  deriving DecidableEq, Repr, Inhabited

/-- A change of the KV table that waits for the boundary (R189). -/
inductive KvChange where
  | fill (index count : Nat)
  | retarget (slot : ListSlot) (word : Nat)
  | freeze (index : Nat)
  deriving DecidableEq, Repr, Inhabited

/-- The KV block table and its registers (R183 to R194). `counted` is what the stroke's changes take of the publication budget, `deferred` lists entries
whose freeing an earlier boundary put off (R189), `stuck` those whose REFCNT saturated (R190), `held` those that R344 keeps PENDING, with the mirror point that releases them, 0 once released. -/
structure Kvt where
  table : Sparse KvEntry
  pending : List KvChange
  counted : Nat
  deferred : List Nat
  stuck : List Nat
  held : List (Nat × Nat)
  err : Events
  errIndex : BitVec 18
  errFlag : BitVec 2
  allocs : Word
  cows : Word
  frees : Word
  deriving DecidableEq, Repr, Inhabited

/-! ### Time and strokes -/

/-- An exchange under way (R318), in units of 1/8 ns. -/
structure Exchange where
  num : Nat
  t1 : Option Int
  t2 : Int
  t3 : Option Int
  deriving DecidableEq, Repr, Inhabited

/-- The GTC and its discipline (R264 to R268, R301). -/
structure Gtc where
  now : BitVec 64
  locked : Bool
  master : Bool
  holdover : Bool
  masterRank : BitVec 7
  offset : BitVec 16
  evt : Events
  window : List Int
  slewPpm : Int
  slewAcc : Int
  exch : Option Exchange
  exchNum : Nat
  stepDue : Bool
  deriving DecidableEq, Repr, Inhabited

/-- A feed or result area of a job (R422). -/
structure FeedArea where
  first : Nat
  lines : Nat
  due : Nat
  deriving DecidableEq, Repr, Inhabited

/-- A job descriptor's fields (R422). -/
structure JobDesc where
  kind : Nat
  ordered : Bool
  standin : Bool
  notify : Bool
  pset : Nat
  baseClock : Nat
  guard : Nat
  stallMax : Nat
  progShift : Nat
  feeds : Nat
  jobId : Nat
  launch : Nat
  strokes : Nat
  basePeriod : Nat
  chunk : Nat
  groupTag : Nat
  epoch : Nat
  params : List Word
  feed : List FeedArea
  result : FeedArea
  deriving DecidableEq, Repr, Inhabited

/-- A STALL known (R286, R287). -/
structure StallMsg where
  stroke : Nat
  rank : Nat
  ext : Nat
  cause : Nat
  own : Bool
  deriving DecidableEq, Repr, Inhabited

/-- A rate request of a member from a stroke onward (R291). -/
structure RateReq where
  rank : Nat
  stroke : Nat
  clock : Nat
  factor : Nat
  deriving DecidableEq, Repr, Inhabited

/-- A JOB_END known (R430). -/
structure EndMsg where
  rank : Nat
  own : Bool
  stroke : Nat
  status : Nat
  detail : Nat
  deriving DecidableEq, Repr, Inhabited

/-- A job, queued or running (R270 to R295, R421 to R433). `desc.pset` is the program set that it runs, a restore's from its job record (R433); `lead` the stall lead of
the stroke or extension once it is decided (R272); `unmirrored` says that it has run unmirrored (R349, R431); `refs` lists the KV entries of shared prefixes that its
launch references (R186). -/
structure Job where
  ring : Nat
  desc : JobDesc
  first : Nat
  stroke : Nat
  start : Nat
  period : Nat
  clock : Nat
  factor : Nat
  ext : Nat
  lead : Option Nat
  stalls : List StallMsg
  rates : List RateReq
  ends : List EndMsg
  failure : Option (Nat × Nat)
  collAbort : Option (Nat × Nat × Nat)
  noCommit : Bool
  written : List (Nat × Place)
  poisoned : List Nat
  stretches : Nat
  overrun : Bool
  isVoid : Bool
  fence : Bool
  unmirrored : Bool
  courseLost : Bool
  epoch : Nat
  commit : Option (Nat × Nat)
  resumes : Nat
  refs : List Nat
  stopped : Bool
  deriving DecidableEq, Repr, Inhabited

/-- Stroke registers and the jobs held (R301, R421). -/
structure Strk where
  evt : Events
  ovrctx : Word
  ovrstrk : Word
  stretches : Word
  clock : BitVec 5
  guard : BitVec 5
  ordered : Bool
  isVoid : Bool
  run : Option Job
  queued : Option Job
  lastEnd : Nat
  deriving DecidableEq, Repr, Inhabited

/-- Ruling registers (R301). -/
structure Rule where
  code : BitVec 16
  pset : BitVec 2
  kind : BitVec 2
  result : BitVec 2
  item : BitVec 16
  entry : BitVec 16
  deriving DecidableEq, Repr, Inhabited

/-- A program set of the running scroll and the result of its scroll ruling: 0 is passed (R299). -/
structure PSet where
  set : ProgramSet
  code : Nat
  deriving DecidableEq, Repr, Inhabited

/-! ### Group, links and collectives -/

/-- Group identity (R313, R336). -/
structure Grp where
  linkMap : Option LinkMap
  rank : BitVec 7
  rankValid : Bool
  rackId : BitVec 8
  slotId : BitVec 6
  mirrorRank : BitVec 7
  lmapTag : Word
  deriving DecidableEq, Repr, Inhabited

/-- States of a link (R335). -/
inductive LinkSt where
  | disabled | down | training | ident | up | miswired
  deriving DecidableEq, Repr, Inhabited

/-- A chunk header or trailer's fields (R323). -/
structure ChunkHdr where
  op : Nat
  src : Nat
  dst : Nat
  stroke : Nat
  coll : Nat
  step : Nat
  relayed : Bool
  resend : Bool
  dhash : Nat
  lines : Nat
  first : Nat
  deriving DecidableEq, Repr, Inhabited

/-- A chunk with its payload and trailer CRC (R323, R324). -/
structure Chunk where
  hdr : ChunkHdr
  lines : List Line
  crc : Nat
  deriving DecidableEq, Repr, Inhabited

/-- A chunk or a message record that waits to be sent on a link, with the number of its slots that have left (R308, R317, R323). What this module relays came on
link `inLink` and channel `inVc`, of whose pool slots it still takes `owing` (R311, R320). -/
structure Slots where
  msg : Bool
  slots : List Line
  chunk : Option ChunkHdr
  sent : Nat
  inLink : Nat := 96
  inVc : Nat := 0
  owing : Nat := 0
  deriving DecidableEq, Repr, Inhabited

/-- A sent flit kept for replay: its SEQ, channel, slots, and the replay episodes that it has needed (R309, R312). -/
structure SentFlit where
  seq : Nat
  vc : Nat
  msg : Bool
  slots : List Line
  episodes : Nat
  deriving DecidableEq, Repr, Inhabited

/-- A chunk that has left whole, kept until the flit with its last slot is acknowledged (R312, R330). -/
structure Outgoing where
  last : Nat
  vc : Nat
  entry : Slots
  deriving DecidableEq, Repr, Inhabited

/-- A chunk in reception on a channel, with the number of its slots that still take pool space (R311, R323). -/
structure RxChunk where
  hdr : ChunkHdr
  lines : List Line
  held : Nat
  deriving DecidableEq, Repr, Inhabited

/-- A whole chunk of a later stroke, which waits in the pool: the link and channel it came on, and the slots it takes (R311, R323). -/
structure EarlyChunk where
  link : Nat
  vc : Nat
  held : Nat
  chunk : Chunk
  deriving DecidableEq, Repr, Inhabited

/-- A link (R303 to R312, R335): `occ` and `granted` are the receiver's pool slots in use and the shared ones granted, `owed` the credits to return,
`sinceAck` the flits received since the last acknowledgement, `fresh` the records received, by SEQ, that the sender may not know to be acknowledged, `uncorrAt` the
uncorrectable codewords of the last 1 ms with their instants, `rr` the channel to be tried first. -/
structure LinkState where
  st : LinkSt
  laneLock : BitVec 4
  err : Events
  peerRank : BitVec 7
  peerValid : Bool
  peerLink : BitVec 7
  credit : List Nat
  occ : List Nat
  granted : List Nat
  fecCw : Word
  fecCorr : Word
  fecSym : Word
  fecUncorr : Word
  crcerr : Word
  retry : Word
  uncorrAt : List (Nat × Nat)
  txSeq : Nat
  rxSeq : Nat
  nakSent : Bool
  nakDue : Bool
  sinceAck : Nat
  fresh : List (Nat × Line)
  replay : List SentFlit
  resend : List SentFlit
  outgoing : List Outgoing
  vc0 : List Slots
  vc1 : List Slots
  vc2 : List Slots
  vc3 : List Slots
  rr : Nat
  owed : List Nat
  rx0 : Option RxChunk
  rx1 : Option RxChunk
  rx2 : Option RxChunk
  deriving DecidableEq, Repr, Inhabited

/-- A message record delivered and not yet consumed (R311, R317). -/
structure Record where
  link : Nat
  kind : Nat
  sender : Nat
  addressee : Nat
  body : List Byte
  deriving DecidableEq, Repr, Inhabited

/-- A flit that left: the link and its 592 bytes (the model's own output). -/
structure Sent where
  link : Nat
  bytes : List Byte
  deriving DecidableEq, Repr, Inhabited

/-- Lines of a contribution that wait in the pool until every lower rank's line for the same elements has been added (R327): the link and channel they came on, and how
many of the `lines` from `first` still wait. -/
structure PoolWait where
  link : Nat
  vc : Nat
  rank : Nat
  first : Nat
  lines : Nat
  held : Nat
  deriving DecidableEq, Repr, Inhabited

/-- A collective step of the current stroke (R321 to R332): chunks received whole (source, first, lines), chunks asked for again,
chunks sent again, and for a reduction the contributions that have arrived to each wire line, in order. -/
structure CollStep where
  coll : Nat
  step : Nat
  desc : CollDesc
  issued : Bool
  status : Option Nat
  got : List (Nat × Nat × Nat)
  nakked : List (Nat × Nat)
  resent : List (Nat × Nat)
  parts : Sparse (List (Nat × Line))
  waits : List PoolWait := []
  deriving DecidableEq, Repr, Inhabited

/-- Collective registers and steps (R323, R336). `pinned` lists the links UP at the stroke's start and `lost` those that went DOWN since (R312,
R319); `doubles` lists records received on a link that has gone DOWN since, which a sender may send again on another route (R312); `stranded` chunks to relay whose
second hop has no link (R320). -/
structure Coll where
  stat : BitVec 8
  origin : BitVec 8
  evt : Events
  ctxRank : BitVec 7
  ctxColl : BitVec 16
  ctxStep : Bool
  strk : Word
  stale : Word
  resends : Word
  steps : List CollStep
  early : List EarlyChunk
  unrouted : List Slots
  pinned : List Nat
  lost : List Nat
  doubles : List (Nat × Line)
  stranded : List Slots
  deriving DecidableEq, Repr, Inhabited

/-! ### Mirror -/

/-- States of a course (R359). -/
inductive MirSt where
  | none | forming | mirroring | lost | holding | restoring | leaving | released
  deriving DecidableEq, Repr, Inhabited

/-- A job record (R340, R388): epoch, stroke, launch parameters, rates, VCU stream state. -/
structure JobRec where
  epoch : Nat
  stroke : Nat
  launch : List Nat
  rates : List RateReq
  streams : List (Nat × List Nat)
  deriving DecidableEq, Repr, Inhabited

/-- A snapshot of a mirror point: the KV block table and the job record (R340). -/
structure Snapshot where
  epoch : Nat
  table : Sparse KvEntry
  job : JobRec
  deriving DecidableEq, Repr, Inhabited

/-- The return of an image to the partner (R352): its epoch, the chunks sent again, and whether M_RESTORE_DONE has gone out. -/
structure Serving where
  epoch : Nat
  resent : List Nat
  sent : Bool
  deriving DecidableEq, Repr, Inhabited

/-- A push under way (R345): FIRST of its chunks in order, its lines, the GTC of its mirror point, and the chunks sent again. -/
structure Push where
  epoch : Nat
  firsts : List Nat
  lines : Nat
  start : Nat
  prepared : Bool
  resent : List Nat
  deriving DecidableEq, Repr, Inhabited

/-- The image slots of the partner (R345, R347): the pushed bytes of table snapshot and job record as received. -/
structure ImageSlot where
  epoch : Nat
  tail : Sparse Line
  deriving DecidableEq, Repr, Inhabited

/-- Mirror state and registers (R337 to R359). `leaver` is the rank whose LEAVING counts, 0x7F for this module; `serving` the epoch being returned to the
partner and the chunks sent again; `formed` that the course has formed and is not lost, `gone` that it is lost and has not formed again; `prior` the state
before a restore; `lastSet` the program set of the latest job; `recvGot` the chunks received, by FIRST; `recvEpoch` the epoch bits of the push that is being
received, `recvClosed` those of the latest one that ended (R323). -/
structure Mir where
  st : MirSt
  ownEpoch : BitVec 16
  imageEpoch : BitVec 16
  evt : Events
  lostCause : BitVec 4
  pushlines : Word
  pushtime : BitVec 24
  dirty : List Nat
  peerBoots : Option Word
  peerLines : Nat
  peerImage : Nat
  push : Option Push
  ready : List (Nat × Nat × Bool)
  snapshots : List Snapshot
  pend : Option ImageSlot
  image : Option ImageSlot
  recvChunks : Nat
  recvLines : Nat
  recvTail : Sparse Line
  recvBad : Bool
  recvNak : List Nat
  recvGot : List Nat
  leaving : Option Nat
  leaver : Nat
  releaseStep : Nat
  restoreEpoch : Option Nat
  restored : Option Nat
  serving : Option Serving
  formed : Bool
  gone : Bool
  prior : MirSt
  lastSet : Option Nat
  recvEpoch : Option Nat
  recvClosed : Option Nat
  deriving DecidableEq, Repr, Inhabited

/-! ### Video codec unit -/

/-- The frame that a gang codes, held at its lead pipe (R379 to R382): `buf` is the context's frame buffer of its reconstruction and `refs` those
of its reference pictures; `sb` counts superblocks done; of a decoded picture `named` are the references that it names, `fills` those that it fills, and
`lost` the runs of superblocks that cannot be decoded (R384, R385). -/
structure VcuFrame where
  ctx : Nat
  frame : Nat
  key : Bool
  slot : Nat
  release : Nat
  nominal : Nat
  budget : Nat
  qp : Nat
  buf : Nat
  refs : List Nat
  bits : Nat
  sb : Nat
  guardSb : Option Nat
  clamped : Nat
  poison : Bool
  unit : Nat
  bytes : Nat
  dropping : Bool
  concealed : Nat
  flags : Nat
  named : List Nat := []
  fills : List Nat := []
  lost : List (Nat × Nat) := []
  deriving DecidableEq, Repr, Inhabited

/-- The reconstructed lines of a superblock in the edge row of a neighbour's band (R362). -/
structure EdgeSb where
  sb : Nat
  lines : List (List Nat)
  deriving DecidableEq, Repr, Inhabited

/-- One column of a search window: 64 × 256 luma samples and 32 × 128 of each chroma plane, row by row (R377). -/
structure WindowCol where
  luma : List (List Nat)
  cb : List (List Nat)
  cr : List (List Nat)
  deriving DecidableEq, Repr, Inhabited

/-- A pipe (R390, R391); `last` is the context of its latest frame in the job, `bandSb` counts the superblocks of its band done in the frame under way (R362),
`edges` the edge rows that its neighbours in the gang sent, `windows` a search window of seven columns for each reference picture (R376), `input` the converted samples of
the superblock coded last (R369). -/
structure Pipe where
  gang : BitVec 2
  lead : BitVec 4
  ctx : BitVec 5
  switching : Bool
  evt : Events
  evCtx : BitVec 5
  evFlag : BitVec 3
  evFrame : BitVec 24
  frames : Word
  units : Word
  bytes : Word
  overbits : Word
  inclamp : Word
  cswitch : Word
  frame : Option VcuFrame
  last : Option Nat
  bandSb : Nat
  windows : List (List WindowCol)
  edges : List EdgeSb := []
  input : List (List Nat) := []
  deriving DecidableEq, Repr, Inhabited

/-- An encode request that waits to run: its slot and release stroke (R374). -/
structure EncReq where
  slot : Nat
  release : Nat
  stroke : Nat
  deriving DecidableEq, Repr, Inhabited

/-- A decoded or reconstructed picture in a frame buffer of its context, with the flags and concealed superblocks that its descriptor carries (R371, R383 to R387). -/
structure Pic where
  buf : Nat
  flags : Nat
  concealed : Nat
  deriving DecidableEq, Repr, Inhabited

/-- A reference slot (AV1) or decoded picture (HEVC) that the decoder holds; `tainted` where it was concealed or predicted from what was (R384, R386). -/
structure RefSlot where
  id : Nat
  tainted : Bool
  deriving DecidableEq, Repr, Inhabited

/-- An open stream context (R371, R372, R379, R388, R427, R440): `firstBuf` is the first page of its frame buffers, `pics` its latest decoded or
reconstructed pictures, newest first, `record` its state at the last frame boundary (R388), `qpLast` the
quantiser of the frame before, `slots` the references that a decoder holds; of a decoder's input `stream` holds the bytes consumed since the latest random access point,
`ahead` those read beyond the position, and after a resumption `back` counts those below it that it reads again and `catching` says that no frame was copied yet. -/
structure Ctx where
  decl : StreamCtx
  firstBuf : Nat
  pics : List Pic
  record : List Nat
  isOpen : Bool
  hostpos : Word
  descrd : Word
  vcupos : Word
  descwr : Word
  drops : Word
  carry : Int
  next : Nat
  offset : Nat
  sinceKey : Nat
  forceKey : Bool
  resumes : Nat
  epoch : Nat
  requests : List EncReq
  lastRap : Nat
  inherited : Bool
  bitsLast : List Nat
  qpLast : Nat := 0
  slots : List RefSlot := []
  stream : List Byte := []
  ahead : List Byte := []
  back : Nat := 0
  catching : Bool := false
  deriving DecidableEq, Repr, Inhabited

/-! ### Host interface -/

/-- A job ring (R419 to R426, R438); `cleared` from a host-interface reset until the ring is enabled again (R413). -/
structure Ring where
  en : Bool
  sz : BitVec 4
  base : BitVec 64
  cqbase : BitVec 64
  tail : BitVec 12
  head : BitVec 12
  cqtail : BitVec 12
  cqhead : BitVec 12
  phase : Bool
  evt : Events
  prog : BitVec 64
  feeddone : BitVec 4
  cleared : Bool
  deriving DecidableEq, Repr, Inhabited

/-- A completion record before its PHASE and HELD bits are set (R431). -/
structure CplRec where
  ring : Nat
  status : Nat
  origin : Nat
  flags : Nat
  detail : Nat
  jobId : Nat
  strokesRun : Nat
  endGtc : Nat
  epoch : Nat
  stretches : Nat
  notify : Bool
  deriving DecidableEq, Repr, Inhabited

/-- An entry of the MSI-X table (R464). -/
structure MsixEntry where
  addr : BitVec 64
  data : Word
  control : Word
  deriving DecidableEq, Repr, Inhabited

/-- Host-interface state outside the rings (R413 to R416, R434 to R439). -/
structure HostIf where
  quiesceReq : Bool
  quiesceAck : Bool
  quiesced : Bool
  evt : Events
  errSlot : BitVec 12
  bar2 : Sparse Word
  held : List CplRec
  lastRing : Nat
  msixTable : Sparse MsixEntry
  msixPba : Sparse Bool
  msixOpen : List Nat
  msixMerged : List Nat
  deriving DecidableEq, Repr, Inhabited

/-- A latched high word: the requester, the offset of the pair's low word, and the word (R12, R465). -/
structure Latch where
  who : Requester
  off : Nat
  word : Word
  deriving DecidableEq, Repr, Inhabited

/-- What the module has sent to the host, oldest first: interrupt messages and posted writes (the model's own output). -/
inductive PcieOut where
  | msix (vector : Nat)
  | dma (addr : Nat) (bytes : List Byte)
  deriving DecidableEq, Repr, Inhabited

/-! ### Scribe -/

/-- A sensor's last value, consecutive missed samples, and whether its alert is armed off (R443, R446). -/
structure Sensor where
  value : BitVec 16
  missed : Nat
  alerted : Bool
  deriving DecidableEq, Repr, Inhabited

/-- The command channels (R456). -/
inductive Channel where
  | mailbox | uart | smbus
  deriving DecidableEq, Repr, Inhabited

/-- A command waiting at the scribe; data is in the mailbox's buffer (R456 to R460). -/
structure CmdReq where
  ch : Channel
  op : Nat
  tag : Nat
  args : List Word
  deriving DecidableEq, Repr, Inhabited

/-- A command that has run: status, result words and data (R457, R458). -/
structure CmdDone where
  req : CmdReq
  status : Nat
  res : List Word
  data : List Byte
  deriving DecidableEq, Repr, Inhabited

/-- Telemetry fields that each channel reads since its last read (R455). -/
structure Tele where
  tmaxDie : BitVec 16
  tmaxStack : BitVec 16
  tmaxOut : BitVec 16
  pmax : Nat
  throttleMs : Nat
  steps : Nat
  alerts : Nat
  flowMin : Nat
  drops : Nat
  deriving DecidableEq, Repr, Inhabited

/-- The mailbox registers (R461). -/
structure Mbx where
  args : List Word
  res : List Word
  data : Sparse Byte
  busy : Bool
  status : BitVec 8
  tag : BitVec 8
  evt : Events
  ignored : Word
  deriving DecidableEq, Repr, Inhabited

/-- SMBus result buffer (R459). -/
structure Smb where
  status : BitVec 8
  result : List Byte
  pos : Nat
  tag : Nat := 0
  deriving DecidableEq, Repr, Inhabited

/-- The throttle ladder (R448, R449): `downPending` is the stroke from which a requested step down takes effect, `downMs` the ms for which it stays
pending after that, `coolMs` the evaluations in a row that found every reading low enough for a step up. -/
structure Throttle where
  rung : Nat
  cause : BitVec 6
  downPending : Option Nat
  downMs : Nat
  coolMs : Nat
  sinceUpMs : Nat
  hostReq : Option (Nat × Nat)
  deriving DecidableEq, Repr, Inhabited

/-- The scribe (R441 to R461). -/
structure Scribe where
  sensors : Sparse Sensor
  powerWin : List Nat
  powerAlerted : Bool
  flowSum : Nat
  flowCount : Nat
  flowAlerted : Bool
  thr : Sparse (Option Int × Option Int)
  latch : BitVec 8
  latchSeen : BitVec 8
  alert : Events
  throttle : Throttle
  teleM : Tele
  teleU : Tele
  teleS : Tele
  energyNj : Nat
  uptimeNs : Nat
  trips : Nat
  logQueue : List LogEntry
  logSeq : Nat
  logHead : Nat
  gap : Nat
  gapHeld : Nat
  typeCount : Sparse Nat
  suppressed : Sparse Nat
  typeSecond : Nat
  mbx : Mbx
  queue : List CmdReq
  wait : List CmdReq
  finish : Option CmdDone
  released : Bool
  smb : Smb
  uart : List Byte
  deriving DecidableEq, Repr, Inhabited

/-! ### The module -/

/-- The state of the module. `mem` holds T0, the wells and T2 by byte, `upset` the stored lines, by the address of their first byte, whose error-correction
code does not fit them (R223, R224), `clamps` the rows, by record area and row, of which sweep one has raised a score (R171); `pmap` and `kvt.table` the two tables; `free` counts the
free values drawn; `pending` is the queue of commands. -/
structure State where
  fuses : Fuses
  flash0 : Flash
  flash1 : Flash
  power : Power
  pins : Pins
  boot : Boot
  units : UnitMap
  wipe : Wipe
  mem : List Host.Cell
  upset : Sparse EccResult
  clamps : List (Place × Nat)
  pmap : Sparse PageEntry
  pmapPending : List PageChange
  loan : Loan
  stackRegs : Sparse Stack
  wells : Sparse Well
  movers : Sparse Nat
  nibs : Sparse Nib
  quills : Sparse Quill
  kvt : Kvt
  gtc : Gtc
  strk : Strk
  rule : Rule
  psets : List (Option PSet)
  grp : Grp
  coll : Coll
  links : Sparse LinkState
  inbox : List Record
  linkOut : List Sent
  mir : Mir
  pipes : Sparse Pipe
  ctxs : Sparse (Option Ctx)
  rings : Sparse Ring
  host : HostIf
  latches : List Latch
  pcieOut : List PcieOut
  rdata : BitVec 64
  rbytes : List Byte
  scr : Scribe
  free : Nat
  pending : List Instr
  deriving DecidableEq, Repr

/-! ### The state at power-good -/

/-- No flag set, no event counted (R472). -/
def Events.none : Events := { flags := 0, counts := [] }

def Flash.erased : Flash := { bytes := [], boot := [], log := [] }

/-- Bytes at an offset of an erased device. -/
def flashCells (a : Nat) (bs : List Byte) : Sparse Byte :=
  bs.zipIdx.filterMap fun e => if e.1 = 0xFF#8 then none else some (a + e.2, e.1)

/-- A device as the module leaves the factory: the factory provisioning record, and in flash 0 the factory scroll (R403; log entry 4). -/
def Flash.factory (scroll : List Byte) : Flash := { Flash.erased with bytes := flashCells 0 Config.factoryRecord ++ flashCells 0x200000 scroll }

def Fuses.reset : Fuses :=
  { f512 := true, defect := [], rootHash := sha384 ((Config.factoryRecord.drop 48).take 97), fuseVer := 0, prov := false, ret := false,
    vcore := [600, 617, 634, 650, 667, 684, 700, 717, 734, 750, 600, 617, 634, 650, 667, 684, 700, 717, 734, 750] }

def Power.reset : Power :=
  { aux := true, vin := true, mate := true, ref100 := true, switchClosed := true, rampDone := true, good := true,
    vio := false, vlane := false, vwell := false, vcore := false, vstk := false, vddq := false,
    latchedOpen := false, holdup := none, standby := false, scribe := true, tripped := false }

def Pins.reset : Pins := { thermtrip := false, relRdy := false, relReq := false, cblPrsnt := 0, vcbl := 0 }

def Boot.reset : Boot :=
  { code := 0x00, phase := 0x1, noPset := false, rbPending := true, timeMs := 0, active := false, booted := false,
    trial := false, trialLeft := 0, resA := 0, resB := 0, secVer := 0, life := .blank, keys := 0, revoked := 0,
    fwVer := 0, count := 0, serial := 0, recordSeq := 0, fullSelfTest := false,
    config := { lendable := [], rawPages := [], thresholds := [] } }

def UnitMap.reset : UnitMap := { map0 := [], map1 := [], quills0 := 0, quills1 := 0, spares0 := 0, spares1 := 0, tag := 0 }

def Wipe.reset : Wipe := { wiping := true, done := false, rbOk := false, rbFail := false, us := 0 }

/-- The reset value of a page-map entry of KIND 0x0 (R230). -/
def PageEntry.ownLine : PageEntry :=
  { kind := 0, state := 0, pinned := false, shadowEn := false, lent := false, shadow := 0, homeRank := 0, homePage := 0,
    homeTag := 0, lenderRank := 0, lenderPage := 0, loanTag := 0 }

def Loan.reset : Loan :=
  { err := Events.none, errIndex := 0, errFlag := 0, t3reads := 0, homereads := 0, lentserved := 0, iomovchk := 0,
    offersIn := [], offersOut := [], granted := [], held := [], recalls := [], reads := [], served := [], pins := [], returnDue := [], fetched := [], parked := [], tagSeq := 1, share := 4 }

def Stack.reset : Stack :=
  { trained := false, hot := false, wiped := false, err := Events.none, ce := 0, errPage := 0, errLine := 0, refwait := 0,
    atomadds := 0 }

def Counter.reset : Counter :=
  { next := 0, limit := 0, deal := false, order := 0, block := 0, tidxBase := 0, tr := 0, tc := 0, mt := 0, nt := 0, takers := [] }

def Well.reset : Well :=
  { memerr := Events.none, eccce := 0, mxflush := 0, atomadds := 0, addlog := [], tktretry := 0, tktempty := 0,
    counters := [], takers := [], dealt := [], blotK := 0x0C, blotEn := true, blotAct := true, blotRel := 0x0D, blotAbs := 0x7E,
    nowK := 0x0C, nowEn := true, nowAct := true, nowRel := 0x0D, nowAbs := 0x7E, blotstat := Events.none, blotdone := 0,
    blotskip := 0, blotctx := 0, blotstrk := 0, fspevt := Events.none, fspLayer := 0, fspill := [], fspthr := [], thrNow := [],
    capture0 := Option.none, capture1 := Option.none, rowrdy := [] }

def Nib.reset : Nib :=
  { qflush := 0, qsat := 0, qpoison := 0, lchkerr := 0, feedwait := 0, drainwait := 0, maskissue := 0, pinput := 0,
    csmism := 0, cscure := 0, flchan := 0, vinvalid := 0, vmclamp := 0, sfuovf := 0, attfull := 0, attnan := 0, attspill := 0,
    issue := 0, image := [], vregs := [], pregs := [], acc := [], slots := [] }

def Quill.reset : Quill :=
  { gang := 0, convGang := 0, convEn := false, active := false, fenced := 0, gfault := Events.none, gfctx := [], attempt := [],
    tags := [], asked := [], tickets := [], lineBuf := [], window := [], halo := none, convLast := none, convBusy := false, hwaitNow := false, convCounter := 0, convSeg := 0, convHwait := 0, convLines := 0, convPad := 0 }

/-- The reset value of a KV block table entry: FREE, no tail (R184). -/
def KvEntry.reset : KvEntry :=
  { page := 0, line := 0, pool := 0, state := 0, fill := 0, refcnt := 0, leaseEnd := 0, leased := false, tail := 0xFFF, gen := 0 }

def Kvt.reset : Kvt :=
  { table := [], pending := [], counted := 0, deferred := [], stuck := [], held := [], err := Events.none, errIndex := 0, errFlag := 0, allocs := 0, cows := 0, frees := 0 }

def Gtc.reset : Gtc :=
  { now := 0, locked := false, master := false, holdover := false, masterRank := 0, offset := 0, evt := Events.none, window := [],
    slewPpm := 0, slewAcc := 0, exch := none, exchNum := 0, stepDue := false }

def Strk.reset : Strk :=
  { evt := Events.none, ovrctx := 0, ovrstrk := 0, stretches := 0, clock := 0x12, guard := 0x04, ordered := false,
    isVoid := false, run := none, queued := none, lastEnd := 0 }

def Rule.reset : Rule := { code := 0, pset := 0, kind := 0, result := 0, item := 0, entry := 0 }

def Grp.reset : Grp :=
  { linkMap := none, rank := 0, rankValid := false, rackId := 0, slotId := 0, mirrorRank := 0x7F, lmapTag := 0 }

def LinkState.reset : LinkState :=
  { st := .disabled, laneLock := 0, err := Events.none, peerRank := 0, peerValid := false, peerLink := 0,
    credit := [0, 0, 0, 0], occ := [0, 0, 0, 0], granted := [0, 0, 0], fecCw := 0, fecCorr := 0, fecSym := 0, fecUncorr := 0, crcerr := 0, retry := 0,
    uncorrAt := [], txSeq := 0, rxSeq := 0, nakSent := false, nakDue := false, sinceAck := 0, fresh := [], replay := [],
    resend := [], outgoing := [], vc0 := [], vc1 := [], vc2 := [], vc3 := [], rr := 0, owed := [0, 0, 0, 0], rx0 := none, rx1 := none,
    rx2 := none }

def Coll.reset : Coll :=
  { stat := 0, origin := 0, evt := Events.none, ctxRank := 0, ctxColl := 0, ctxStep := false, strk := 0, stale := 0,
    resends := 0, steps := [], early := [], unrouted := [], pinned := [], lost := [], doubles := [], stranded := [] }

def Mir.reset : Mir :=
  { st := .none, ownEpoch := 0, imageEpoch := 0, evt := Events.none, lostCause := 0, pushlines := 0, pushtime := 0, dirty := [],
    peerBoots := Option.none, peerLines := 0, peerImage := 0, push := Option.none, ready := [], snapshots := [],
    pend := Option.none, image := Option.none, recvChunks := 0, recvLines := 0, recvTail := [], recvBad := false, recvNak := [], recvGot := [],
    leaving := Option.none, leaver := 0x7F, releaseStep := 0, restoreEpoch := Option.none, restored := Option.none,
    serving := Option.none, formed := false, gone := false, prior := .none, lastSet := Option.none, recvEpoch := Option.none, recvClosed := Option.none }

/-- A pipe at reset; LEAD reads the pipe's own number (R391). -/
def Pipe.reset (pipe : Nat) : Pipe :=
  { gang := 0, lead := BitVec.ofNat 4 pipe, ctx := 0, switching := false, evt := Events.none, evCtx := 0, evFlag := 0,
    evFrame := 0, frames := 0, units := 0, bytes := 0, overbits := 0, inclamp := 0, cswitch := 0, frame := none, last := none, bandSb := 0, windows := [] }

def Ring.reset : Ring :=
  { en := false, sz := 0x4, base := 0, cqbase := 0, tail := 0, head := 0, cqtail := 0, cqhead := 0, phase := false,
    evt := Events.none, prog := 0, feeddone := 0, cleared := false }

/-- A vector at reset: masked, as the PCIe base specification has it (R464; log entry 14). -/
def MsixEntry.reset : MsixEntry := { addr := 0, data := 0, control := 1 }

def HostIf.reset : HostIf :=
  { quiesceReq := false, quiesceAck := false, quiesced := false, evt := Events.none, errSlot := 0, bar2 := [], held := [],
    lastRing := 63, msixTable := [], msixPba := [], msixOpen := [], msixMerged := [] }

def Sensor.reset : Sensor := { value := 0, missed := 0, alerted := false }

def Tele.reset : Tele :=
  { tmaxDie := 0x8000, tmaxStack := 0x8000, tmaxOut := 0x8000, pmax := 0, throttleMs := 0, steps := 0, alerts := 0,
    flowMin := 0xFFFF, drops := 0 }

def Mbx.reset : Mbx :=
  { args := List.replicate 16 0, res := List.replicate 16 0, data := [], busy := false, status := 0, tag := 0,
    evt := Events.none, ignored := 0 }

def Throttle.reset : Throttle :=
  { rung := 0, cause := 0, downPending := none, downMs := 0, coolMs := 0, sinceUpMs := 1000, hostReq := none }

def Scribe.reset : Scribe :=
  { sensors := [], powerWin := [], powerAlerted := false, flowSum := 0, flowCount := 0, flowAlerted := false, thr := [],
    latch := 0, latchSeen := 0, alert := Events.none, throttle := Throttle.reset, teleM := Tele.reset, teleU := Tele.reset,
    teleS := Tele.reset, energyNj := 0, uptimeNs := 0, trips := 0, logQueue := [], logSeq := 0, logHead := 0, gap := 0, gapHeld := 0,
    typeCount := [], suppressed := [], typeSecond := 0, mbx := Mbx.reset, queue := [], wait := [], finish := none,
    released := false, smb := { status := 0, result := [], pos := 0 }, uart := [] }

/-- The module at the instant of power-good, before step 1 of R401: every register at the Reset column of its table; the values
that the spec leaves to fuses, flash, straps and inputs are those of log entry 4. -/
def State.reset : State :=
  { fuses := Fuses.reset, flash0 := Flash.factory Config.factoryScroll, flash1 := Flash.factory [], power := Power.reset, pins := Pins.reset,
    boot := Boot.reset, units := UnitMap.reset, wipe := Wipe.reset, mem := [], upset := [], clamps := [], pmap := [], pmapPending := [],
    loan := Loan.reset, stackRegs := [], wells := [], movers := [], nibs := [], quills := [], kvt := Kvt.reset, gtc := Gtc.reset,
    strk := Strk.reset, rule := Rule.reset, psets := [], grp := Grp.reset, coll := Coll.reset, links := [], inbox := [],
    linkOut := [], mir := Mir.reset, pipes := [], ctxs := [], rings := [], host := HostIf.reset, latches := [], pcieOut := [],
    rdata := 0, rbytes := [], scr := Scribe.reset, free := 0, pending := [] }

end Sys2Proof.Machine
end

