-- ==== Sys2Proof/Machine/Ops.lean ====
section
/-! DEFINITION. Named operations over the state: register arrays, counters and flags, interrupts, the scribe log, free values, which
units are present, and what a failure in a job leads to. -/
namespace Sys2Proof.Machine

/-! ### Register arrays -/

def State.nib (s : State) (n : Nat) : Nib := sget (fun _ => Nib.reset) s.nibs n
def State.setNib (s : State) (n : Nat) (x : Nib) : State := { s with nibs := sset (fun _ => Nib.reset) s.nibs n x }
def State.modNib (s : State) (n : Nat) (f : Nib → Nib) : State := s.setNib n (f (s.nib n))

def State.quill (s : State) (q : Nat) : Quill := sget (fun _ => Quill.reset) s.quills q
def State.setQuill (s : State) (q : Nat) (x : Quill) : State := { s with quills := sset (fun _ => Quill.reset) s.quills q x }
def State.modQuill (s : State) (q : Nat) (f : Quill → Quill) : State := s.setQuill q (f (s.quill q))

/-- Change every quill that has left its reset value. -/
def State.mapQuills (s : State) (f : Nat → Quill → Quill) : State := s.quills.foldl (fun s e => s.modQuill e.1 (f e.1)) s

def State.well (s : State) (d : Nat) : Well := sget (fun _ => Well.reset) s.wells d
def State.setWell (s : State) (d : Nat) (x : Well) : State := { s with wells := sset (fun _ => Well.reset) s.wells d x }
def State.modWell (s : State) (d : Nat) (f : Well → Well) : State := s.setWell d (f (s.well d))

def State.stack (s : State) (k : Nat) : Stack := sget (fun _ => Stack.reset) s.stackRegs k
def State.setStack (s : State) (k : Nat) (x : Stack) : State := { s with stackRegs := sset (fun _ => Stack.reset) s.stackRegs k x }
def State.modStack (s : State) (k : Nat) (f : Stack → Stack) : State := s.setStack k (f (s.stack k))

def State.link (s : State) (l : Nat) : LinkState := sget (fun _ => LinkState.reset) s.links l
def State.setLink (s : State) (l : Nat) (x : LinkState) : State := { s with links := sset (fun _ => LinkState.reset) s.links l x }
def State.modLink (s : State) (l : Nat) (f : LinkState → LinkState) : State := s.setLink l (f (s.link l))

def State.pipe (s : State) (p : Nat) : Pipe := sget Pipe.reset s.pipes p
def State.setPipe (s : State) (p : Nat) (x : Pipe) : State := { s with pipes := sset Pipe.reset s.pipes p x }
def State.modPipe (s : State) (p : Nat) (f : Pipe → Pipe) : State := s.setPipe p (f (s.pipe p))

/-- The open context `c` on lead pipe `p`, keyed by 32 p + c. -/
def State.ctx (s : State) (p c : Nat) : Option Ctx := sget (fun _ => none) s.ctxs (32 * p + c)
def State.setCtx (s : State) (p c : Nat) (x : Option Ctx) : State := { s with ctxs := sset (fun _ => none) s.ctxs (32 * p + c) x }

def State.ring (s : State) (r : Nat) : Ring := sget (fun _ => Ring.reset) s.rings r
def State.setRing (s : State) (r : Nat) (x : Ring) : State := { s with rings := sset (fun _ => Ring.reset) s.rings r x }
def State.modRing (s : State) (r : Nat) (f : Ring → Ring) : State := s.setRing r (f (s.ring r))

/-- Reset value of page-map entry `i`: KIND 0x0 below index 73,728, KIND 0x3 from there (R230). -/
def pageReset (i : Nat) : PageEntry := if i < 73728 then PageEntry.ownLine else { PageEntry.ownLine with kind := 3 }

def State.page (s : State) (i : Nat) : PageEntry := sget pageReset s.pmap i
def State.setPage (s : State) (i : Nat) (e : PageEntry) : State := { s with pmap := sset pageReset s.pmap i e }

def State.kv (s : State) (i : Nat) : KvEntry := sget (fun _ => KvEntry.reset) s.kvt.table i
def State.setKv (s : State) (i : Nat) (e : KvEntry) : State :=
  { s with kvt := { s.kvt with table := sset (fun _ => KvEntry.reset) s.kvt.table i e } }

def State.sensor (s : State) (i : Nat) : Sensor := sget (fun _ => Sensor.reset) s.scr.sensors i
def State.setSensor (s : State) (i : Nat) (x : Sensor) : State :=
  { s with scr := { s.scr with sensors := sset (fun _ => Sensor.reset) s.scr.sensors i x } }

/-! ### Counters and flags -/

/-- An RC counter that grows by `n`, saturating (R16). -/
def satAdd (w : Word) (n : Nat) : Word := BitVec.ofNat 32 (min (w.toNat + n) 0xFFFFFFFF)

def Events.count (e : Events) (i : Nat) : Word := sget (fun _ => 0#32) e.counts i
def Events.setCount (e : Events) (i : Nat) (w : Word) : Events := { e with counts := sset (fun _ => 0#32) e.counts i w }

/-- Hardware sets flag `i`: its counter counts the event (R16, R472). -/
def Events.raise (e : Events) (i : Nat) : Events :=
  { (e.setCount i (satAdd (e.count i) 1)) with flags := e.flags ||| BitVec.ofNat 8 (2 ^ i) }

/-- Hardware sets every flag of a mask. -/
def Events.raiseMask (e : Events) (mask : BitVec 8) : Events :=
  (List.range 8).foldl (fun e i => if mask.getLsbD i then e.raise i else e) e

/-- A write of `mask` to the flag register: the named flags clear (R14). -/
def Events.clear (e : Events) (mask : BitVec 8) : Events := { e with flags := e.flags &&& ~~~mask }

/-- True when flag `i` is set. -/
def Events.has (e : Events) (i : Nat) : Bool := e.flags.getLsbD i

/-! ### Interrupts (R434, R435, R464) -/

/-- A vector is masked in its table entry (R464). -/
def State.msixMasked (s : State) (v : Nat) : Bool := (sget (fun _ => MsixEntry.reset) s.host.msixTable v).control.getLsbD 0

/-- Send the message of a vector, or set its pending bit while it is masked. -/
def State.deliver (s : State) (v : Nat) : State :=
  if s.msixMasked v then
    { s with host := { s.host with msixPba := sset (fun _ => false) s.host.msixPba v true } }
  else { s with pcieOut := s.pcieOut ++ [.msix v] }

/-- A source of a vector fires: a masked vector sets its pending bit; else a message at most once per 2 µs, later firings merge; none once quiesced, and none
while the endpoint is without power (R435, R436). -/
def State.fire (s : State) (v : Nat) : State :=
  if s.host.quiesced || !s.power.vio then s
  else if s.msixMasked v then s.deliver v
  else if s.host.msixOpen.contains v then
    (if s.host.msixMerged.contains v then s else { s with host := { s.host with msixMerged := s.host.msixMerged ++ [v] } })
  else
    let s := s.deliver v
    { s with host := { s.host with msixOpen := s.host.msixOpen ++ [v] } }

/-! ### The scribe log (R450 to R454) -/

/-- Entry types that the rate limit never suppresses (R454). -/
def unsuppressed (type : Nat) : Bool := [0x0001, 0x0003, 0x0004, 0x0010, 0x0011, 0x0022, 0x0030].contains type

/-- Set a flag of SCR_ALERT (R461). -/
def State.raiseAlert (s : State) (i : Nat) : State :=
  { s with scr := { s.scr with alert := s.scr.alert.raise i } }.fire 147

/-- Add to every channel's copy of the telemetry (R455). -/
def State.mapTele (s : State) (f : Tele → Tele) : State :=
  { s with scr := { s.scr with teleM := f s.scr.teleM, teleU := f s.scr.teleU, teleS := f s.scr.teleS } }

/-- One more entry of a type in this second, and how many there were before it (R454). -/
def State.countEntry (s : State) (type : Nat) : State × Nat :=
  let sec := s.scr.uptimeNs / 1000000000
  let counts := if s.scr.typeSecond = sec then s.scr.typeCount else []
  let n := sget (fun _ => 0) counts type
  ({ s with scr := { s.scr with typeSecond := sec, typeCount := sset (fun _ => 0) counts type (n + 1) } }, n)

/-- An event becomes a log entry in the queue, or is suppressed, or is dropped when the queue is full (R451, R454). -/
def State.logEvent (s : State) (type severity : Nat) (payload : List Word) : State :=
  if !s.power.scribe then s
  else
    let r := s.countEntry type
    let s := r.1
    let n := r.2
    if !unsuppressed type && 16 ≤ n then
      { s with scr := { s.scr with suppressed := sset (fun _ => 0) s.scr.suppressed type (sget (fun _ => 0) s.scr.suppressed type + 1) } }
    else if 64 ≤ s.scr.logQueue.length then
      (({ s with scr := { s.scr with gap := s.scr.gap + 1 } }).mapTele fun t => { t with drops := t.drops + 1 }).raiseAlert 6
    else
      let sup := sget (fun _ => 0) s.scr.suppressed type
      let e : LogEntry :=
        { seq := 0, gtc := s.gtc.now.toNat, boot := s.boot.count.toNat, type := type, severity := severity,
          flags := (if s.gtc.locked then 0 else 2) + (if sup = 0 then 0 else 4), count := 1 + sup, payload := payload }
      { s with scr := { s.scr with logQueue := s.scr.logQueue ++ [e], suppressed := sset (fun _ => 0) s.scr.suppressed type 0 } }

/-! ### Flag registers with their interrupts and log entries -/

def w32 (n : Nat) : Word := BitVec.ofNat 32 n

def State.raiseHost (s : State) (i : Nat) : State :=
  { s with host := { s.host with evt := s.host.evt.raise i } }.fire (if i = 0 then 140 else if i = 1 then 141 else 146)

def State.raiseStrk (s : State) (i : Nat) : State :=
  { s with strk := { s.strk with evt := s.strk.evt.raise i } }.fire 142

def State.raiseGtc (s : State) (i : Nat) : State :=
  ({ s with gtc := { s.gtc with evt := s.gtc.evt.raise i } }.fire 142).logEvent 0x0042 1 [w32 i, s.gtc.offset.setWidth 32]

def State.raiseColl (s : State) (i : Nat) : State :=
  { s with coll := { s.coll with evt := s.coll.evt.raise i } }.fire 143

/-- A flag of GLB_MIR_EVT; flags other than COURSE_LOST write a MIRROR entry (R359, R434, R454). -/
def State.raiseMir (s : State) (i : Nat) (epoch : Nat) : State :=
  let s := { s with mir := { s.mir with evt := s.mir.evt.raise i } }.fire 141
  if i = 0 then s else s.logEvent 0x0033 1 [w32 i, w32 epoch]

/-- A flag of GLB_LOAN_ERR with its context (R263). -/
def State.raiseLoan (s : State) (i index : Nat) : State :=
  { s with loan := { s.loan with err := s.loan.err.raise i, errIndex := BitVec.ofNat 17 index, errFlag := BitVec.ofNat 3 i } }.fire 144

/-- A flag of GLB_KVT_ERR with its context (R194). -/
def State.raiseKvt (s : State) (i index : Nat) : State :=
  { s with kvt := { s.kvt with err := s.kvt.err.raise i, errIndex := BitVec.ofNat 18 index, errFlag := BitVec.ofNat 2 i } }.fire 144

/-- A flag of STK_ERR, logged with STK_ERRADDR (R261, R454). -/
def State.raiseStack (s : State) (k i : Nat) : State :=
  let s := (s.modStack k fun x => { x with err := x.err.raise i }).fire 144
  s.logEvent 0x0041 2 [w32 k, w32 ((s.stack k).errPage.toNat * 2 ^ 18 + (s.stack k).errLine.toNat)]

/-- A flag of WELL_MEMERR, logged with its bit (R262, R454). -/
def State.raiseWell (s : State) (d i : Nat) : State :=
  ((s.modWell d fun x => { x with memerr := x.memerr.raise i }).fire 144).logEvent 0x0041 2 [w32 d, w32 i]

/-- A flag of LINK_ERR, logged (R335, R454). -/
def State.raiseLink (s : State) (l i : Nat) : State :=
  ((s.modLink l fun x => { x with err := x.err.raise i }).fire 145).logEvent 0x0040 1 [w32 l, w32 i]

def State.raiseRing (s : State) (r i : Nat) : State :=
  (s.modRing r fun x => { x with evt := x.evt.raise i }).fire 146

/-- A flag of QUILL_GFAULT for gang `g` (R98). -/
def State.raiseGfault (s : State) (q g : Nat) : State :=
  (s.modQuill q fun x => { x with gfault := x.gfault.raise g }).fire 144

/-- A flag of VCU_EVT in the lead pipe's block, with its context (R390, R391). -/
def State.raiseVcu (s : State) (lead i c frame : Nat) : State :=
  (s.modPipe lead fun x => { x with evt := x.evt.raise i, evCtx := BitVec.ofNat 5 c, evFlag := BitVec.ofNat 3 i,
                                    evFrame := BitVec.ofNat 24 frame }).fire (128 + lead)

/-! ### Free values, units, jobs -/

/-- Draw the next free value of the time discipline (log entry 13). -/
def State.draw (s : State) : BitVec 64 × State := (Config.freeWord s.free, { s with free := s.free + 1 })

/-- Free words for values that the spec leaves open at one site for some operands (log entry 13). -/
def freeWords (site : Nat) (operands : List Nat) (n : Nat) : List Word := (List.range n).map fun k => (Config.freeOf site operands k).setWidth 32

/-- The numbers of words. -/
def wordNats (ws : List Word) : List Nat := ws.map (·.toNat)

/-- Number of logical quills of a die (R26, R31). -/
def State.quillsOf (s : State) (die : Nat) : Nat := if die = 0 then s.units.quills0 else s.units.quills1

/-- A logical quill is present: quill-in-die below its die's count (R24, R27). -/
def State.quillPresent (s : State) (q : Nat) : Bool := q < 512 && q % 256 < s.quillsOf (q / 256)

/-- A logical nib is present (R24, R27). -/
def State.nibPresent (s : State) (n : Nat) : Bool := s.quillPresent (n / 8)

/-- The module has reported ready: GLB_BOOT_STAT.CODE is 0x01 (R405, R469). -/
def State.ready (s : State) : Bool := s.boot.code == 0x01#8

/-- The main domain runs: every rail is on and no trip is in force (R447, R488, R496). -/
def State.live (s : State) : Bool := s.power.good && s.power.vio && s.power.vcore && s.power.vddq && !s.power.tripped

/-- The stroke number that stands in registers and hashes: the running job's. -/
def State.strokeNum (s : State) : Nat := match s.strk.run with | some j => j.stroke | none => 0

/-- The launch count of the running job (R63). -/
def State.launchCount (s : State) : Nat := match s.strk.run with | some j => j.desc.launch | none => 0

def State.modRun (s : State) (f : Job → Job) : State := { s with strk := { s.strk with run := s.strk.run.map f } }

/-- Steps 2 and 3 of R111 are due at the end of the stroke for the running job, with this JOB_END status and DETAIL; the first cause
stands (R111, R430). No further mirror point commits. -/
def State.failJob (s : State) (status detail : Nat) : State :=
  s.modRun fun j => { j with noCommit := true, failure := match j.failure with | some f => some f | none => some (status, detail) }

/-- The program set of the running job. -/
def State.runSet (s : State) : Option ProgramSet :=
  match s.strk.run with
  | some j => match s.psets.getD j.desc.pset none with
    | some p => some p.set
    | none => none
  | none => none

/-- The run of strokes of a program set's stroke map that holds stroke `n` of a job with these launch parameters: the map is a function of both alone (R275). -/
def mapRangeAt (p : ProgramSet) (params : List Word) (n : Nat) : Option MapRange :=
  p.map.find? fun r => r.first ≤ n && n ≤ r.last && r.given.all fun g => g.2.1 ≤ (params.getD g.1 0#32).toNat && (params.getD g.1 0#32).toNat ≤ g.2.2

/-- Runs of strokes that the map gives a job with these launch parameters. -/
def jobRanges (p : ProgramSet) (params : List Word) : List MapRange :=
  p.map.filter fun r => r.given.all fun g => g.2.1 ≤ (params.getD g.1 0#32).toNat && (params.getD g.1 0#32).toNat ≤ g.2.2

/-- Insert into a rising list without repeats. -/
def insertNat (x : Nat) : List Nat → List Nat
  | [] => [x]
  | y :: rest => if x < y then x :: y :: rest else if x = y then y :: rest else y :: insertNat x rest

/-- The strokes that some runs mark as mirror strokes, ascending (R341). -/
def mirrorMarks (rs : List MapRange) : List Nat := (rs.filter (·.mirror)).foldl (fun acc r => insertNat r.last acc) []

/-- The stroke-map entry for a stroke number (R275). -/
def entryAt (p : ProgramSet) (params : List Word) (n : Nat) : Option StrokeEntry := (mapRangeAt p params n).bind fun r => p.entries[r.entry]?

/-- The coordinates of the entry at stroke `n`: chunk, pass, sliver and what else the program defines (R275). -/
def coordsAt (p : ProgramSet) (params : List Word) (n : Nat) : List Nat :=
  match mapRangeAt p params n with
  | none => []
  | some r => r.coords.map fun c =>
    let v := c.base + (if c.run = 0 then 0 else (n - r.first) / c.run)
    if c.wrap = 0 then v else v % c.wrap

/-- The launch parameters PARAM0 to PARAM15 of the running job. -/
def State.runParams (s : State) : List Word := match s.strk.run with | some j => j.desc.params | none => []

/-- The mirror strokes of the running job (R341): none without a mirror set. -/
def State.runMarks (s : State) : List Nat :=
  match s.runSet with
  | some p => if p.mirror.isSome then mirrorMarks (jobRanges p s.runParams) else []
  | none => []

/-- The stroke entry that runs now. -/
def State.runEntry (s : State) : Option StrokeEntry :=
  match s.runSet with
  | some p => entryAt p s.runParams s.strokeNum
  | none => none

/-- The coordinates of the stroke entry that runs now. -/
def State.runCoords (s : State) : List Nat :=
  match s.runSet with
  | some p => coordsAt p s.runParams s.strokeNum
  | none => []

/-- Ranks of the group's members other than this module (R313, R314). -/
def State.others (s : State) : List Nat :=
  match s.grp.linkMap with
  | some m => if s.grp.rankValid then (m.members.map (·.rank)).filter (· ≠ s.grp.rank.toNat) else []
  | none => []

end Sys2Proof.Machine
end

