-- ==== Sys2Proof/Machine/Memory.lean ====
section
/-! DEFINITION. The addressed memories: T0, the wells and T2 as one sparse byte space that reads zero where nothing is listed (R221, R259),
the canonical form of that space, line and raw accesses with the page map's checks (R227 to R232, R240, R246), and dirty regions (R343). -/
namespace Sys2Proof.Machine

/-! ### The byte space -/

/-- What an unlisted byte reads as: the wipe's zero (R259). -/
def memDefault : Nat → Byte := fun _ => 0#8

/-- The canonical form of memory. -/
def Memory.wf (m : List Host.Cell) : Bool := swf memDefault m

def memGet (m : List Host.Cell) (a : Nat) : Byte := sget memDefault m a
def memSet (m : List Host.Cell) (a : Nat) (b : Byte) : List Host.Cell := sset memDefault m a b

/-- `n` bytes from an address, the lowest first. -/
def memRead (m : List Host.Cell) (a : Nat) : Nat → List Byte
  | 0 => []
  | n + 1 => memGet m a :: memRead m (a + 1) n

/-- Write bytes from an address upwards. -/
def memWrite (m : List Host.Cell) (a : Nat) : List Byte → List Host.Cell
  | [] => m
  | b :: rest => memWrite (memSet m a b) (a + 1) rest

/-- Byte address of byte `b` of T2 page `p` (R227). -/
def t2At (p b : Nat) : Nat := p * 2 ^ 24 + b
/-- Byte address of a well line (R221; the bases are the model's, log entry 5). -/
def wellAt (die line : Nat) : Nat := 2 ^ 41 + die * 2 ^ 30 + 72 * line
/-- Byte address of a T0 line of a nib (R221; log entry 5). -/
def t0At (nib line : Nat) : Nat := 2 ^ 42 + nib * 2 ^ 18 + 72 * line

def State.readBytes (s : State) (a n : Nat) : List Byte := memRead s.mem a n

/-- A write forms the check bits of every line that it covers anew (R223). -/
def State.writeBytes (s : State) (a : Nat) (bs : List Byte) : State :=
  { s with mem := memWrite s.mem a bs, upset := s.upset.filter fun e => !(a ≤ e.1 && e.1 + 72 ≤ a + bs.length) }

/-! ### T0 and the wells -/

def t0Lines : Nat := 3640
def wellLines : Nat := 7456512
def pageLines : Nat := 233016

/-- What a read gives of a line that T0 or a well does not have. DESIGN CHOICE (log entry 74): free bytes, the same at every read; a write there changes nothing. -/
def outsideLine (unit line : Nat) : Line := (List.range 72).map fun b => Config.outsideByte unit line b

def State.t0Read (s : State) (nib line : Nat) : Line := if line < t0Lines then s.readBytes (t0At nib line) 72 else outsideLine nib line
def State.t0Write (s : State) (nib line : Nat) (l : Line) : State := if line < t0Lines then s.writeBytes (t0At nib line) (l.take 72) else s
def State.wellRead (s : State) (die line : Nat) : Line :=
  if line < wellLines then s.readBytes (wellAt die line) 72 else outsideLine (4096 + die) line
def State.wellWrite (s : State) (die line : Nat) (l : Line) : State := if line < wellLines then s.writeBytes (wellAt die line) (l.take 72) else s

/-! ### Error correction beneath the check code (R223, R224) -/

/-- What a read of the line stored at byte address `a` meets. -/
def State.eccOf (s : State) (a : Nat) : EccResult := sget (fun _ => .clean) s.upset a

/-- What a read of a T0 line, or of a well line, meets. -/
def State.t0Ecc (s : State) (nib line : Nat) : EccResult := if line < t0Lines then s.eccOf (t0At nib line) else .clean
def State.wellEcc (s : State) (die line : Nat) : EccResult := if line < wellLines then s.eccOf (wellAt die line) else .clean

/-- The worse of two outcomes. -/
def worseEcc (a b : EccResult) : EccResult :=
  match a, b with
  | .uncorrectable, _ => .uncorrectable
  | _, .uncorrectable => .uncorrectable
  | .corrected, _ => .corrected
  | .clean, x => x

/-- The stored line at `a` has an error that its next read meets. -/
def State.addUpset (s : State) (a : Nat) (e : EccResult) : State :=
  if e = .clean then s else { s with upset := sset (fun _ => .clean) s.upset a (worseEcc (s.eccOf a) e) }

/-- `n` reads of T0 or of a well of a die that meet `e` (R223, R224, R262). -/
def State.eccWell (s : State) (die n : Nat) (e : EccResult) : State :=
  match e with
  | .clean => s
  | .corrected => s.modWell die fun w => { w with eccce := satAdd w.eccce n }
  | .uncorrectable => (List.range n).foldl (fun s _ => s.raiseWell die 0) s

/-- A read of line `line` of own page `page` that meets `e`, in the stack that holds the page (R229, R261). -/
def State.eccStack (s : State) (page line : Nat) (e : EccResult) : State :=
  let k := page / 6144
  match e with
  | .clean => s
  | .corrected => s.modStack k fun x => { x with ce := satAdd x.ce 1 }
  | .uncorrectable =>
    (s.modStack k fun x => { x with errPage := BitVec.ofNat 13 (page % 6144), errLine := BitVec.ofNat 18 line }).raiseStack k 0

/-- What a read that meets `e` delivers of a stored line. -/
def eccLine (e : EccResult) (l : Line) : Line := if e = .uncorrectable then poisonLine l else l

/-- Reads of a T0 line and of a well line, through error correction. -/
def State.readT0 (s : State) (nib line : Nat) : State × Line :=
  let e := s.t0Ecc nib line
  (s.eccWell (nib / 2048) 1 e, eccLine e (s.t0Read nib line))

def State.readWellLine (s : State) (die line : Nat) : State × Line :=
  let e := s.wellEcc die line
  (s.eccWell die 1 e, eccLine e (s.wellRead die line))

/-- The lines of T0 that `loads` loads of one line by a nib count in NIB_LCHKERR: those that fail their check or cannot be corrected (R52, R224). -/
def State.loadErrs (s : State) (nib line : Nat) : Nat :=
  if s.t0Ecc nib line = .uncorrectable || !lineOk (s.t0Read nib line) then 1 else 0

/-- What a nib uses of a T0 line that it loads: poisoned where its check fails or its error cannot be corrected (R52, R224). -/
def State.loadedLine (s : State) (nib line : Nat) : Line :=
  if s.loadErrs nib line = 0 then s.t0Read nib line else poisonLine (s.t0Read nib line)

/-- Count `n` loads of a T0 line by a nib (R52, R223, R224). -/
def State.countLoads (s : State) (nib line n : Nat) : State :=
  let s := if s.loadErrs nib line = 0 || n = 0 then s
    else s.modNib nib fun x => { x with lchkerr := satAdd x.lchkerr n }
  s.eccWell (nib / 2048) n (s.t0Ecc nib line)

/-- A nib's load of a T0 line. -/
def State.nibLoad (s : State) (nib line : Nat) : State × Line := (s.countLoads nib line 1, s.loadedLine nib line)

/-! ### Line addresses -/

/-- Page-map index and line field of a line address (R228). -/
def lineIdx (a : Nat) : Nat := a / 2 ^ 18 % 2 ^ 17
def lineFld (a : Nat) : Nat := a % 2 ^ 18
def lineAddr (idx line : Nat) : Nat := idx * 2 ^ 18 + line

/-- The line address `i` lines after `a`, by the successor rule of R228. -/
def lineStep (a i : Nat) : Nat :=
  if pageLines ≤ lineFld a then a + i
  else
    let k := lineFld a + i
    lineAddr (lineIdx a + k / pageLines) (k % pageLines)

/-- A place `i` lines (or bytes, for a raw place) further on. -/
def placeStep (p : Place) (i : Nat) : Place :=
  match p.space with
  | .line => { p with at_ := lineStep p.at_ i }
  | _ => { p with at_ := p.at_ + i }

/-- The die to which an own page is local (R229). -/
def pageDie (p : Nat) : Nat := if p < 36864 then 0 else 1

/-! ### Dirty regions of the mirror set (R340, R343) -/

/-- Own pages of a mirror set: both banks and the mirrored pools' pages. -/
def mirrorPages (p : ProgramSet) : List (Nat × Nat) :=
  match p.mirror with
  | none => []
  | some m => [m.bank0, m.bank1] ++ (m.pools.flatMap fun k =>
      match p.pools[k]? with
      | some pool => (pool.pages ++ pool.tailPages).map fun pg => (pg, 1)
      | none => [])

def inMirror (p : ProgramSet) (page : Nat) : Bool := (mirrorPages p).any fun r => r.1 ≤ page && page < r.1 + r.2

/-- The program set whose mirror set counts: the running job's, otherwise the latest job's, otherwise the first of the scroll that declares one (log entry 109). -/
def State.mirrorProg (s : State) : Option (ProgramSet × MirrorSet) :=
  let declares := fun (x : Option PSet) => x.bind fun q => q.set.mirror.map fun m => (q.set, m)
  match s.runSet with
  | some p => p.mirror.map fun m => (p, m)
  | none => match s.mir.lastSet.bind fun k => declares (s.psets.getD k none) with
    | some m => some m
    | none => s.psets.findSome? declares

/-- A write of a line marks its region dirty; region r of page p is numbered 57 p + r (R343). -/
def State.markDirty (s : State) (page line : Nat) : State :=
  match s.mirrorProg with
  | some m => if inMirror m.1 page then { s with mir := { s.mir with dirty := insertNat (57 * page + line / 4096) s.mir.dirty } } else s
  | none => s

/-! ### Writing T2 -/

/-- An access of the wrong kind (R232). -/
def State.pmapBad (s : State) (idx : Nat) : State := s.raiseLoan 5 idx

/-- Who writes: a job's own work, or the host. -/
inductive Writer where
  | job | host
  deriving DecidableEq, Repr

/-- A refused write of a pinned page (R240). -/
def State.roWrite (s : State) (idx : Nat) (who : Writer) : State :=
  let s := s.raiseLoan 4 idx
  if who = .job then s.failJob 0x17 idx else s

/-- Write a whole line by line address: discarded on a wrong kind (R232), a T3 index (R239) or a pinned page (R240).
DESIGN CHOICE (log entry 105): a write that names a T3 index, of which R239 says only that it never happens, sets PMAP_BAD. -/
def State.t2Write (s : State) (a : Nat) (l : Line) (who : Writer) : State :=
  let idx := lineIdx a
  let e := s.page idx
  if 73728 ≤ idx || e.kind != 0 || pageLines ≤ lineFld a then s.pmapBad idx
  else if e.pinned then s.roWrite idx who
  else (s.writeBytes (t2At idx (72 * lineFld a)) (l.take 72)).markDirty idx (lineFld a)

/-- Write bytes by raw address (R228, R232, R240). -/
def State.rawWrite (s : State) (a : Nat) (bs : List Byte) (who : Writer) : State :=
  let idx := a / 2 ^ 24
  let e := s.page idx
  if 73728 ≤ idx || e.kind != 1 then s.pmapBad idx
  else if e.pinned then s.roWrite idx who
  else s.writeBytes (t2At idx (a % 2 ^ 24)) bs

/-- Stored lines with errors that overlap `n` bytes from `a`, counted in the stack of page `idx` (R224). -/
def State.eccRaw (s : State) (idx a n : Nat) : State :=
  (s.upset.filter fun e => e.1 < a + n && a < e.1 + 72).foldl (fun s e => s.eccStack idx ((e.1 - t2At idx 0) / 72) e.2) s

/-- Bytes as a read delivers them: those of a line that cannot be corrected are the line's as R52 poisons it (R224). -/
def State.rawBytesAt (s : State) (a n : Nat) : List Byte :=
  (s.upset.filter fun e => e.2 = .uncorrectable && e.1 < a + n && a < e.1 + 72).foldl (fun bs e =>
    let l := poisonLine (s.readBytes e.1 72)
    bs.mapIdx fun i b => if e.1 ≤ a + i && a + i < e.1 + 72 then l.getD (a + i - e.1) 0#8 else b) (s.readBytes a n)

/-- Read bytes by raw address: zeros on a wrong kind (R232). -/
def State.rawRead (s : State) (a n : Nat) : State × List Byte :=
  let idx := a / 2 ^ 24
  if 73728 ≤ idx || (s.page idx).kind != 1 then (s.pmapBad idx, List.replicate n 0#8)
  else (s.eccRaw idx (t2At idx (a % 2 ^ 24)) n, s.rawBytesAt (t2At idx (a % 2 ^ 24)) n)

/-! ### Reading T2 and T3 -/

/-- Where a line read goes (R246): a page of this module, another module's page under a tag, or nowhere. -/
inductive Source where
  | local_ (page : Nat)
  | homeLocal (page tag : Nat)
  | lender (rank page tag : Nat)
  | homeOf (rank page tag : Nat)
  | wrong
  deriving DecidableEq, Repr

/-- The source of a read through T3 index `idx` (R246, R249: RECALLING is read from the lender until the switch, if the lender's page was filled). -/
def State.t3Source (s : State) (idx : Nat) : Source :=
  let e := s.page idx
  if e.kind != 2 then .wrong
  else if e.state == 2 || (e.state == 3 && s.loan.held.any fun g => g.t3 = idx && g.filled) then .lender e.lenderRank.toNat e.lenderPage.toNat e.loanTag.toNat
  else if e.homeRank == s.grp.rank && s.grp.rankValid then .homeLocal e.homePage.toNat e.homeTag.toNat
  else .homeOf e.homeRank.toNat e.homePage.toNat e.homeTag.toNat

/-- The source of a line read by page-map index (R232, R246). -/
def State.sourceOf (s : State) (idx : Nat) : Source :=
  let e := s.page idx
  if 73728 ≤ idx then s.t3Source idx
  else if e.kind != 0 then .wrong
  else if e.shadowEn && (s.page e.shadow.toNat).state == 2 then s.t3Source e.shadow.toNat
  else .local_ idx

/-- The stored line of an own page. -/
def State.t2Line (s : State) (page line : Nat) : Line := s.readBytes (t2At page (72 * line)) 72

/-- A read of a line of an own page, through error correction. -/
def State.readPage (s : State) (page line : Nat) : State × Line :=
  let e := s.eccOf (t2At page (72 * line))
  (s.eccStack page line e, eccLine e (s.t2Line page line))

/-- A home page serves a home read only when it is pinned under the same tag; any other home read delivers a poisoned line and sets
HOME_TAG at the borrower (R247). A page that is not a line page is of the wrong kind (R232). -/
def State.homeLine (s : State) (idx page tag line : Nat) : State × Line :=
  if (s.page page).kind != 0 then (s.pmapBad page, poisonLine zeroLine)
  else if (s.page page).pinned && (s.page page).homeTag.toNat = tag then s.readPage page line
  else (s.raiseLoan 3 idx, poisonLine (s.t2Line page line))

/-- A read of a home copy through a T3 index (R246, R263). -/
def State.homeRead (s : State) (idx page tag line : Nat) : State × Line :=
  { s with loan := { s.loan with homereads := satAdd s.loan.homereads 1 } }.homeLine idx page tag line

/-- The T3 index that a read by page-map index goes through: the index itself, or the shadow of an own page (R246). -/
def State.t3Of (s : State) (idx : Nat) : Nat := if 73728 ≤ idx then idx else (s.page idx).shadow.toNat

/-- A line of another module that has come for a command which waits for it (R246). -/
def State.fetchedLine (s : State) (idx line : Nat) : Option Line := sget (fun _ => none) s.loan.fetched (lineAddr (s.t3Of idx) line)

/-- A read of a line that this module can serve itself; `none` where the line must come over a link. -/
def State.t2Read (s : State) (a : Nat) : State × Option Line :=
  let idx := lineIdx a
  let line := lineFld a
  if pageLines ≤ line then (s.pmapBad idx, some (poisonLine zeroLine))
  else match s.sourceOf idx with
    | .local_ p => let r := s.readPage p line; (r.1, some r.2)
    | .homeLocal p tag => let r := s.homeRead (s.t3Of idx) p tag line; (r.1, some r.2)
    | .wrong => (s.pmapBad idx, some (poisonLine zeroLine))
    | .lender _ _ _ => (s, s.fetchedLine idx line)
    | .homeOf _ _ _ => (s, s.fetchedLine idx line)

/-! ### Places -/

/-- Read a line at a place, before any check of its check code. -/
def State.placeRead (s : State) (p : Place) : State × Option Line :=
  match p.space with
  | .t0 n => let r := s.readT0 n p.at_; (r.1, some r.2)
  | .well d => let r := s.readWellLine d p.at_; (r.1, some r.2)
  | .line => s.t2Read p.at_
  | .raw => let r := s.rawRead p.at_ 72; (r.1, some r.2)

/-- Write a line at a place. -/
def State.placeWrite (s : State) (p : Place) (l : Line) (who : Writer) : State :=
  match p.space with
  | .t0 n => s.t0Write n p.at_ l
  | .well d => s.wellWrite d p.at_ l
  | .line => s.t2Write p.at_ l who
  | .raw => s.rawWrite p.at_ l who

/-- The die to which a place is local (R229, R255). -/
def placeDie (p : Place) : Nat :=
  match p.space with
  | .t0 n => n / 2048
  | .well d => d
  | .line => pageDie (lineIdx p.at_)
  | .raw => pageDie (p.at_ / 2 ^ 24)

/-- A mover's read of a line: verified, a failed check delivered as poison and reported, MOVCHK of a compute die or the IO die's
counter (R52, R237). -/
def State.moverRead (s : State) (die : Nat) (p : Place) : State × Option Line :=
  let r := s.placeRead p
  match r.2 with
  | none => (r.1, none)
  | some l =>
    if lineOk l then (r.1, some l)
    else if die < 2 then (r.1.raiseWell die 1, some (poisonLine l))
    else ({ r.1 with loan := { r.1.loan with iomovchk := satAdd r.1.loan.iomovchk 1 } }, some (poisonLine l))

/-- Put an error into the stored line that a place names, for the read that meets it. -/
def State.upsetAt (s : State) (p : Place) (e : EccResult) : State :=
  match p.space with
  | .t0 n => if p.at_ < t0Lines then s.addUpset (t0At n p.at_) e else s
  | .well d => if p.at_ < wellLines then s.addUpset (wellAt d p.at_) e else s
  | .raw => if 73728 ≤ p.at_ / 2 ^ 24 then s else s.addUpset (t2At (p.at_ / 2 ^ 24) (72 * (p.at_ % 2 ^ 24 / 72))) e
  | .line => match s.sourceOf (lineIdx p.at_) with
    | .local_ pg => s.addUpset (t2At pg (72 * lineFld p.at_)) e
    | .homeLocal pg _ => s.addUpset (t2At pg (72 * lineFld p.at_)) e
    | _ => s

/-! ### Header lines of the stroke's output tiles (R111 step 1) -/

/-- The stage that owns a logical quill in the running program set. -/
def State.stageOf (s : State) (quill : Nat) : Option Nat :=
  match s.runSet with
  | some p => p.stages.findIdx? fun st => st.quills.contains quill
  | none => none

/-- Note the header line of an output tile that a nib's stage wrote in this stroke. -/
def State.noteHdr (s : State) (nib line : Nat) : State :=
  match s.stageOf (nib / 8) with
  | some k => s.modRun fun j => { j with written := j.written ++ [(k, { space := .t0 nib, at_ := line })] }
  | none => s

/-- A header line that is copied stays known at its new place. -/
def State.followHdr (s : State) (src dst : Place) : State :=
  s.modRun fun j =>
    match j.written.find? fun e => e.2 = src with
    | some e => { j with written := j.written ++ [(e.1, dst)] }
    | none => j

end Sys2Proof.Machine
end

