-- ==== Sys2Proof/Machine/Net.lean ====
section
/-! DEFINITION. Routes and sending: which links lead to a member or to the mirror partner, message records (R317), chunks (R323 to R325),
routing of chunks (R319, R320, R338), and the queues of a link's virtual channels (R308). -/
namespace Sys2Proof.Machine

/-! ### The link map's view -/

def linkCount : Nat := 96

/-- The link map's entries for this module's rank, in ascending link number (R314). -/
def State.myLinks (s : State) : List LinkEntry :=
  match s.grp.linkMap with
  | some m => if s.grp.rankValid then m.links.filter (fun e => e.rank = s.grp.rank.toNat && e.role ≠ 0) else []
  | none => []

def State.linkEntry (s : State) (l : Nat) : Option LinkEntry := s.myLinks.find? fun e => e.link = l

/-- Pair links to a member in ascending link number: their places are the pair indices (R315). -/
def State.pairLinksTo (s : State) (rank : Nat) : List Nat :=
  (((s.myLinks.filter fun e => (e.role = 1 || e.role = 3) && e.peerRank = rank).map (·.link)).foldl (fun acc l => insertNat l acc) [])

/-- Links of the mirror bundle in ascending connector position (R315, R338). -/
def State.bundle (s : State) : List Nat :=
  (((s.myLinks.filter fun e => e.role = 2 || e.role = 3).map (·.link)).foldl (fun acc l => insertNat l acc) [])

def State.linkUp (s : State) (l : Nat) : Bool := (s.link l).st = .up

def State.upPair (s : State) (rank : Nat) : List Nat := (s.pairLinksTo rank).filter s.linkUp
def State.upBundle (s : State) : List Nat := s.bundle.filter s.linkUp

/-- Rank of the mirror partner: none when the link map names none (R337). -/
def State.partner (s : State) : Option Nat := if s.grp.mirrorRank == 0x7F then none else some s.grp.mirrorRank.toNat

/-- Pair links that routes may use now: UP, and UP without a break since the stroke began (R312). -/
def State.usable (s : State) (l : Nat) : Bool :=
  s.linkUp l && (s.strk.run.isNone || (s.coll.pinned.contains l && !s.coll.lost.contains l))

def State.routePair (s : State) (rank : Nat) : List Nat := (s.pairLinksTo rank).filter s.usable

/-- The relay to a member: the lowest-ranked member with UP pair links to both ends (R320). -/
def State.relayTo (s : State) (rank : Nat) : Option Nat :=
  ((s.others.foldl (fun acc r => insertNat r acc) []).find? fun r =>
    r ≠ rank && !(s.routePair r).isEmpty && Config.peersLinked s.gtc.now.toNat r rank)

/-- Some route reaches a member: an UP pair link or a relay. -/
def State.routed (s : State) (rank : Nat) : Bool := !(s.upPair rank).isEmpty || (s.relayTo rank).isSome

/-! ### Queues -/

def LinkState.push (x : LinkState) (vc : Nat) (e : Slots) : LinkState :=
  match vc with
  | 0 => { x with vc0 := x.vc0 ++ [e] }
  | 1 => { x with vc1 := x.vc1 ++ [e] }
  | 2 => { x with vc2 := x.vc2 ++ [e] }
  | _ => { x with vc3 := x.vc3 ++ [e] }

def State.enqueue (s : State) (l vc : Nat) (e : Slots) : State := s.modLink l fun x => x.push vc e

/-- Exactly `n` bytes: cut, or filled with zeros. -/
def fitBytes (n : Nat) (l : List Byte) : List Byte := (l ++ List.replicate n 0#8).take n

/-! ### Message records (R317) -/

/-- Virtual channel of a record kind (R317). -/
def recordVc (kind : Nat) : Nat := if kind = 0x37 || kind = 0x38 then 2 else 3

/-- Widths in bytes of the items of a record's body in the order in which R317 and R349 name them; items without one take four bytes, as do all items of
loan records, whose entries take sixteen (log entry 8). -/
def bodyWidths (kind : Nat) : List Nat :=
  match kind with
  | 0x10 => [4, 1, 1, 1, 1, 4]
  | 0x12 => [4, 8]
  | 0x14 => [4, 8]
  | 0x20 => [8, 1, 1]
  | 0x21 => [8, 1, 2]
  | 0x22 => [8]
  | 0x23 => [8, 2, 1, 1, 1]
  | 0x24 => [8, 2, 1, 4]
  | 0x25 => [8, 1, 4]
  | 0x40 => [4, 8, 8]
  | 0x41 => [2, 4, 8]
  | 0x42 => [2, 1]
  | 0x43 => [2, 1]
  | 0x44 => [2]
  | 0x45 => [8]
  | 0x46 => [2]
  | 0x47 => [2, 1]
  | _ => []

/-- Bytes 4 to 71 of a record: its items one after another, each little-endian (R10, R317; log entry 8). -/
def recordBody (kind : Nat) (items : List Nat) : List Byte :=
  fitBytes 68 (items.zipIdx.flatMap fun e => leBytes ((bodyWidths kind).getD e.2 4) e.1)

/-- A record's slot: kind, sender, addressee, a reserved byte and the body. -/
def State.recordSlot (s : State) (dest kind : Nat) (items : List Nat) : Line :=
  [BitVec.ofNat 8 kind, s.grp.rank.setWidth 8, BitVec.ofNat 8 dest, 0#8] ++ recordBody kind items

/-- Put a record on a link. -/
def State.recordOn (s : State) (l dest kind : Nat) (items : List Nat) : State :=
  s.enqueue l (recordVc kind) { msg := true, slots := [s.recordSlot dest kind items], chunk := none, sent := 0 }

/-- Send a record to a member on the lowest pair index that is UP, or by relay; nothing when there is no route (R317, R320).
Loan and discipline records never go by relay. -/
def State.sendRecord (s : State) (dest kind : Nat) (items : List Nat) (relay : Bool := true) : State :=
  match s.routePair dest with
  | l :: _ => s.recordOn l dest kind items
  | [] =>
    if relay then
      match s.relayTo dest with
      | some r => match s.routePair r with
        | l :: _ => s.recordOn l dest kind items
        | [] => s
      | none => s
    else s

/-- Send a record to every other member, one copy each (R317). -/
def State.sendAll (s : State) (kind : Nat) (items : List Nat) : State :=
  s.others.foldl (fun s r => s.sendRecord r kind items) s

/-- Send a record to the mirror partner on its bundle (R338). -/
def State.sendPartner (s : State) (kind : Nat) (items : List Nat) : State :=
  match s.partner, s.upBundle with
  | some p, l :: _ => s.recordOn l p kind items
  | _, _ => s

/-! ### Chunks (R323 to R325) -/

/-- The 32 bytes that DHASH is taken over (R325). -/
def dhashBytes (d : CollDesc) : List Byte :=
  let op : Nat := match d.op with
    | .allGather => 1 | .reduceScatter => 2 | .allReduce => 3 | .allToAll => 4 | .transfer => 5
  leBytes 1 op ++ leBytes 1 (if d.redMax then 1 else 0) ++ leBytes 1 d.inFmt ++ leBytes 1 d.wireFmt ++ leBytes 1 d.dstFmt
    ++ leBytes 1 d.tmo ++ leBytes 1 d.sender ++ [0#8] ++ leBytes 4 d.lines ++ List.replicate 4 0#8 ++ leBytes 16 d.members.toNat

def dhash (d : CollDesc) : Nat := crc32c (dhashBytes d)

/-- CRC-32C of a chunk's payload lines in order (R324). -/
def chunkCrc (lines : List Line) : Nat := crc32c (lines.flatMap id)

/-- Header record (R323). -/
def hdrSlot (h : ChunkHdr) : Line :=
  fitBytes 72 ([0x01#8] ++ leBytes 1 h.op ++ leBytes 1 h.src ++ leBytes 1 h.dst ++ leBytes 4 h.stroke ++ leBytes 2 h.coll
    ++ leBytes 1 h.step ++ leBytes 1 ((if h.relayed then 1 else 0) + (if h.resend then 2 else 0)) ++ leBytes 4 h.dhash
    ++ leBytes 4 h.lines ++ leBytes 4 h.first)

/-- Trailer record (R323). -/
def trailerSlot (h : ChunkHdr) (crc : Nat) : Line :=
  fitBytes 72 ([0x02#8] ++ leBytes 1 h.op ++ leBytes 1 h.src ++ leBytes 1 h.dst ++ leBytes 4 h.stroke ++ leBytes 2 h.coll
    ++ leBytes 1 h.step ++ [0#8] ++ leBytes 4 crc ++ leBytes 4 h.lines ++ leBytes 4 h.first)

/-- Fields of a header or trailer record; `dhash` is the CRC in a trailer (R323). -/
def readChunkRec (l : Line) : ChunkHdr :=
  { op := byteAt l 1, src := byteAt l 2, dst := byteAt l 3, stroke := leAt l 4 4, coll := leAt l 8 2, step := byteAt l 10,
    relayed := byteAt l 11 % 2 = 1, resend := byteAt l 11 / 2 % 2 = 1, dhash := leAt l 12 4, lines := leAt l 16 4,
    first := leAt l 20 4 }

/-- All slots of a chunk: header, payload, trailer. -/
def chunkSlots (h : ChunkHdr) (lines : List Line) : List Line := hdrSlot h :: lines ++ [trailerSlot h (chunkCrc lines)]

/-- The usable pair link with the most VC0 credits, ties to the lower pair index (R319). -/
def State.bestPair (s : State) (rank : Nat) : Option Nat :=
  (s.routePair rank).foldl (fun best l =>
    match best with
    | none => some l
    | some b => if (s.link b).credit.getD 0 0 < (s.link l).credit.getD 0 0 then some l else some b) none

/-- The link of chunk `k` to a peer: adaptive in fast mode; in ordered mode entry `k` of the list of links UP at the stroke's start, or the next
entry of it that is still UP (R319). -/
def State.chunkLink (s : State) (ordered : Bool) (rank k : Nat) : Option Nat :=
  if ordered then
    let list := (s.pairLinksTo rank).filter s.coll.pinned.contains
    let i := k % list.length
    (list.drop i ++ list.take i).find? s.usable
  else s.bestPair rank

/-- The first link of a chunk's way to a member, and whether it goes by relay (R319, R320). -/
def State.nextHop (s : State) (ordered : Bool) (rank k : Nat) : Option (Nat × Bool) :=
  match s.chunkLink ordered rank k with
  | some l => some (l, false)
  | none =>
    match s.relayTo rank with
    | none => none
    | some r => (s.chunkLink ordered r k).map fun l => (l, true)

/-- The slots of a chunk, marked for a relay where it takes one. -/
def chunkEntry (h : ChunkHdr) (lines : List Line) (relayed : Bool) : Slots :=
  let h := { h with relayed := relayed }
  { msg := false, slots := chunkSlots h lines, chunk := some h, sent := 0 }

/-- Put chunk `k` on its way to a peer; `none` when no route exists. In ordered mode its link is fixed now; in fast mode it is
routed when a link starts to send it (R319, R320). -/
def State.sendChunk (s : State) (ordered : Bool) (k : Nat) (h : ChunkHdr) (lines : List Line) : Option State :=
  (s.nextHop ordered h.dst k).map fun hop =>
    if ordered then s.enqueue hop.1 0 (chunkEntry h lines hop.2)
    else { s with coll := { s.coll with unrouted := s.coll.unrouted ++ [chunkEntry h lines false] } }

/-- A link that has no chunk in hand on VC0 takes the oldest unrouted chunk whose way leads over it (R319). -/
def State.routeNext (s : State) (l : Nat) : State :=
  if !(s.link l).vc0.isEmpty then s
  else
    let way := fun (e : Slots) => match e.chunk with | some h => s.nextHop false h.dst 0 | none => none
    match s.coll.unrouted.find? fun e => (way e).map (·.1) = some l with
    | none => s
    | some e =>
      let relayed := ((way e).map (·.2)).getD false
      let e' : Slots := match e.chunk with
        | some h => { e with slots := hdrSlot { h with relayed := relayed } :: e.slots.drop 1, chunk := some { h with relayed := relayed } }
        | none => e
      { s with coll := { s.coll with unrouted := s.coll.unrouted.erase e } }.enqueue l 0 e'

/-- A chunk to the mirror partner: chunk `k` goes to entry k mod (links UP) of the bundle (R338). -/
def State.sendBundle (s : State) (k : Nat) (h : ChunkHdr) (lines : List Line) : State :=
  let up := s.upBundle
  match up[k % up.length]? with
  | some l => s.enqueue l 2 { msg := false, slots := chunkSlots h lines, chunk := some h, sent := 0 }
  | none => s

/-- A chunk of loaned lines to a borrower, on VC2 of its lowest UP pair link, never by relay (R317, R320). -/
def State.sendLoanChunk (s : State) (h : ChunkHdr) (lines : List Line) : State :=
  match s.routePair h.dst with
  | l :: _ => s.enqueue l 2 { msg := false, slots := chunkSlots h lines, chunk := some h, sent := 0 }
  | [] => s

/-- `n` slots of a channel have been delivered or consumed: what shared slots the link holds goes back to the pool, the rest is owed as
credits (R311). -/
def LinkState.release (x : LinkState) (vc n : Nat) : LinkState :=
  let g := min n (x.granted.getD vc 0)
  { x with granted := x.granted.set vc (x.granted.getD vc 0 - g), owed := x.owed.set vc (x.owed.getD vc 0 + (n - g)),
           occ := x.occ.set vc (x.occ.getD vc 0 - n) }

/-- The same for a link by number; a slot of a link that has gone DOWN since is no longer counted. -/
def State.freeSlots (s : State) (l vc n : Nat) : State := if l < linkCount then s.modLink l fun x => x.release vc n else s

/-- The chunk in reception on a channel. -/
def LinkState.rx (x : LinkState) (vc : Nat) : Option RxChunk :=
  match vc with | 0 => x.rx0 | 1 => x.rx1 | _ => x.rx2

def LinkState.setRx (x : LinkState) (vc : Nat) (r : Option RxChunk) : LinkState :=
  match vc with
  | 0 => { x with rx0 := r }
  | 1 => { x with rx1 := r }
  | _ => { x with rx2 := r }

/-- Consume the oldest delivered record of a kind from a sender that says the given items; its slot's credit is owed back (R311). -/
def State.takeRecord (s : State) (kind sender : Nat) (items : List Nat) : Option State :=
  match s.inbox.find? fun r => r.kind = kind && r.sender = sender && r.body = recordBody kind items with
  | none => none
  | some r =>
    let s := { s with inbox := s.inbox.erase r }
    some (s.freeSlots r.link (recordVc kind) 1)

/-- Records that a list of `n` entries takes: four entries in each (R317). -/
def recordsFor (n : Nat) : Nat := max 1 ((n + 3) / 4)

/-- The items of the first record of a list: what leads every record, then up to four entries of four items. -/
def listItems (lead : Nat) (es : List (List Nat)) : List Nat := lead :: (es.take 4).flatMap fun e => (e ++ [0, 0, 0, 0]).take 4

/-- Consume the `n` records of a list of entries (R317). -/
def State.takeList (s : State) (kind sender lead : Nat) : Nat → List (List Nat) → Option State
  | 0, _ => some s
  | n + 1, es => (s.takeRecord kind sender (listItems lead es)).bind fun s => s.takeList kind sender lead n (es.drop 4)

/-- Send a list of entries, four to a record, on the lowest pair index (R317); never by relay. -/
def State.sendList (s : State) (dest kind lead : Nat) : Nat → List (List Nat) → State
  | 0, _ => s
  | n + 1, es => (s.sendRecord dest kind (listItems lead es) false).sendList dest kind lead n (es.drop 4)

end Sys2Proof.Machine
end

