-- ==== Sys2Proof/Machine/Tags.lean ====
section
/-! DEFINITION. Lines of the wide formats as tagged elements: reading, combining element by element and writing back (R49, R69, R255, R326). -/
namespace Sys2Proof.Machine

/-! ### Elements with quarter tags (R255, R326) -/

/-- Tag of a quarter as read: 0x00, 0x78 or 0xFF (R49). -/
def tagOf (l : Line) (q : Nat) : Nat :=
  let t := scaleByte l q
  if t = 0 || t = 0x78 then t else 0xFF

/-- Elements of a line of format 0x6 or 0x8 as tag and FP32 value; a quarter tagged 0x00 reads as zeros, one tagged 0xFF as NaNs (R69). -/
def tagElems (fmt : Nat) (l : Line) : List (Nat × Word) :=
  let n := elemsPerLine fmt
  (List.range n).map fun i =>
    let t := tagOf l (i / (n / 4))
    (t, if t = 0x78 then (if fmt = 6 then enc32 (decBf16 (leAt l (2 * i) 2)) else w32 (leAt l (4 * i) 4)) else if t = 0 then 0#32 else 0x7FC00000#32)

/-- One element of a combination: the rounded result and its tag (R255, R326). -/
def tagCombine (f : Word → Word → Word) (a b : Nat × Word) : Nat × Word :=
  if a.1 = 0xFF || b.1 = 0xFF then (0xFF, 0x7FC00000#32)
  else
    let r := f a.2 b.2
    if isNan32 r then (0xFF, r) else if a.1 = 0x78 || b.1 = 0x78 then (0x78, r) else (0, r)

/-- A line of format 0x6 or 0x8 from tagged elements, each written as it is: a quarter is poisoned when any of its elements is, valid when any is (R255). -/
def tagLine (fmt : Nat) (es : List (Nat × Word)) : Line :=
  let n := elemsPerLine fmt
  let es := (es ++ List.replicate n (0, 0#32)).take n
  let tag := fun q =>
    let qs := (es.drop (q * (n / 4))).take (n / 4)
    if qs.any (fun e => e.1 = 0xFF) then 0xFF#8 else if qs.any (fun e => e.1 = 0x78) then 0x78#8 else 0#8
  let tags := (List.range 4).map tag
  let body := (List.range n).flatMap fun i =>
    let e := es.getD i (0, 0#32)
    if fmt = 6 then leBytes 2 (encBf16 (dec32 e.2)) else leBytes 4 (enc32 (dec32 e.2)).toNat
  mkLine body tags

/-- Convert lines of one wide format to another by R68, elements in order. -/
def convertLines (fromFmt toFmt : Nat) (ls : List Line) : List Line :=
  if fromFmt = toFmt then ls
  else
    let es := ls.flatMap (tagElems fromFmt)
    (List.range (ceilDiv es.length (elemsPerLine toFmt))).map fun i =>
      tagLine toFmt ((es.drop (i * elemsPerLine toFmt)).take (elemsPerLine toFmt))

/-- A line written as poisoned where no data came: its data bytes are 0, as R43 has element bits (R332; log entry 77). -/
def poisonedLine : Line := mkLine (List.replicate 64 0#8) (List.replicate 4 0xFF#8)

end Sys2Proof.Machine
end

