-- ==== Sys2Proof/Machine/Fetch.lean ====
section
/-! DEFINITION. Reads that come over a link: LOAN_READ for single lines (R246, R247), and commands that wait until all the lines that they read from other
modules have come. -/
namespace Sys2Proof.Machine

/-- Send LOAN_READ to a lender or home module for the lines of `w`, and await them; the fifth item says which of the two reads it is (log entry 8). -/
def State.awaitLines (s : State) (w : ReadWait) (page tag : Nat) : State :=
  ({ s with loan := { s.loan with reads := s.loan.reads ++ [w] } }).sendRecord w.rank 0x37 [page, w.first, w.count, tag, if w.home then 1 else 0] false

/-- Ask the source of a T3 index or shadowed page for one line, which is then written at `dst`, or kept for the command of `key` (R246). -/
def State.askLine (s : State) (key idx line : Nat) (hold : Bool) (dst : Place) : State :=
  let w : ReadWait := { t3 := s.t3Of idx, hold := hold, first := line, count := 1, rank := 0, home := false, mover := key, dst := dst }
  match s.sourceOf idx with
  | .lender rank page tag => s.awaitLines { w with rank := rank } page tag
  | .homeOf rank page tag => s.awaitLines { w with rank := rank, home := true } page tag
  | _ => s

/-! ### Readers that do not wait -/

/-- Numbers beside those of the movers in `ReadWait.mover`: of a loan fill, and of a read whose lines are written nowhere. -/
def fillKey : Nat := 144
def discardKey : Nat := 145

/-- A line of T2 for a reader that does not wait. The read of an own page whose shadow is LOANED goes to the lender (R246), whose answer is counted when it comes;
the reader goes on with the own page's line, which is the same (R241). -/
def State.lineNow (s : State) (a : Nat) : State × Line :=
  let idx := lineIdx a
  match s.sourceOf idx with
  | .lender _ _ _ =>
    if idx < 73728 && lineFld a < pageLines then
      (s.askLine discardKey idx (lineFld a) false { space := .line, at_ := a }, s.t2Line idx (lineFld a))
    else let r := s.t2Read a; (r.1, r.2.getD poisonedLine)
  | _ => let r := s.t2Read a; (r.1, r.2.getD poisonedLine)

/-- The same read by a mover of a die (R237). -/
def State.moverNowOf (s : State) (die a : Nat) : State × Line :=
  let r := s.lineNow a
  if lineOk r.2 then r
  else if die < 2 then (r.1.raiseWell die 1, poisonLine r.2)
  else ({ r.1 with loan := { r.1.loan with iomovchk := satAdd r.1.loan.iomovchk 1 } }, poisonLine r.2)

/-- The same read by a mover of the die to which the page is local (R237, R238). -/
def State.moverNow (s : State) (a : Nat) : State × Line := s.moverNowOf (pageDie (lineIdx a)) a

/-! ### Commands that wait -/

/-- The line at a place must come over a link and has not come yet. -/
def State.isRemote (s : State) (p : Place) : Bool :=
  p.space = .line && lineFld p.at_ < pageLines && match s.sourceOf (lineIdx p.at_) with
    | .lender _ _ _ => (s.fetchedLine (lineIdx p.at_) (lineFld p.at_)).isNone
    | .homeOf _ _ _ => (s.fetchedLine (lineIdx p.at_) (lineFld p.at_)).isNone
    | _ => false

/-- The lines at some places are kept no longer. -/
def State.dropFetched (s : State) (ps : List Place) : State :=
  ps.foldl (fun s p =>
    if p.space = .line then
      { s with loan := { s.loan with fetched := sset (fun _ => none) s.loan.fetched (lineAddr (s.t3Of (lineIdx p.at_)) (lineFld p.at_)) none } }
    else s) s

/-- Run `f`, which reads the lines at some places, once those that lie with other modules have come; until then command `c` of mover or collective
`key` waits (R246). -/
def State.withLines (s : State) (key : Nat) (c : Instr) (ps : List Place) (f : State → State) : State :=
  let need := ps.filter s.isRemote
  if need.isEmpty then (f s).dropFetched ps
  else need.foldl (fun s p => s.askLine key (lineIdx p.at_) (lineFld p.at_) true p)
    { s with loan := { s.loan with parked := s.loan.parked ++ [(key, c)] } }

/-- A mover or collective has a command that waits for lines. -/
def State.isParked (s : State) (key : Nat) : Bool := s.loan.parked.any fun e => e.1 = key

/-- A number of `ReadWait.mover` is that of an IO mover, which works for firmware and not for a job (R233). -/
def isIoMover (key : Nat) : Bool := 128 ≤ key && key < fillKey

/-- What waits for lines is given up, apart from an IO mover's: the job that it belongs to has ended. -/
def State.dropParked (s : State) : State :=
  let left := s.loan.parked.filter fun e => isIoMover e.1
  { s with loan := { s.loan with
    parked := left
    fetched := if left.isEmpty then [] else s.loan.fetched
    reads := s.loan.reads.filter fun w => !w.hold || isIoMover w.mover } }

/-- A line from other modules has come. -/
def State.keepLine (s : State) (t3 line : Nat) (l : Line) : State :=
  { s with loan := { s.loan with fetched := sset (fun _ => none) s.loan.fetched (lineAddr t3 line) (some l) } }

/-- The places of `n` lines from a place on. -/
def placesFrom (p : Place) (n : Nat) : List Place := (List.range n).map (placeStep p)

end Sys2Proof.Machine
end

