-- ==== Sys2Proof/Machine/KvBlocks.lean ====
section
/-! DEFINITION. Reading KV blocks: the places of their lines (R181 to R183), block lists (R185), leases (R186, R187) and extents (R189). -/
namespace Sys2Proof.Machine

/-! ### Geometry (R181 to R183) -/

/-- Line format of a pool's form. -/
def kvFmt (p : KvPool) : Nat := p.form + 1
/-- Lines of a position in the key tile (K_L), and of a channel in the value tile. -/
def keyLines (p : KvPool) : Nat := if p.form ≤ 1 then p.headDim / 128 else p.headDim / 64
def valueLines (p : KvPool) : Nat := if p.form ≤ 1 then 2 else 4
/-- Lines of the key tile and of both tiles of a head, headers included. -/
def keyTileLines (p : KvPool) : Nat := 1 + 256 * keyLines p
def headLines (p : KvPool) : Nat := keyTileLines p + 1 + p.headDim * valueLines p
def slotLines (p : KvPool) : Nat := p.heads * headLines p
/-- Lines of one tail. -/
def tailLines (p : KvPool) : Nat := p.heads * p.headDim
/-- Tail pairs that fit the pool's tail area; index 0xFFF names none. -/
def tailPairs (p : KvPool) : Nat := min 4095 (p.tailPages.length * pageLines / (2 * tailLines p))

/-- Line address of line `i` of an entry's slot. -/
def slotAddr (e : KvEntry) (i : Nat) : Nat := lineAddr e.page.toNat (e.line.toNat + i)
/-- Line address of line `i` of a pool's tail area. -/
def tailAddr (p : KvPool) (i : Nat) : Nat := lineAddr (p.tailPages.getD (i / pageLines) 0) (i % pageLines)
/-- Line of a group's tail for a head and channel, in tail pair `pair`. -/
def tailLine (p : KvPool) (pair g h c : Nat) : Nat :=
  tailAddr p (pair * 2 * tailLines p + g % 2 * tailLines p + h * p.headDim + c)

/-! ### Block lists (R185) -/

def State.kvBad (s : State) (index : Nat) : State := s.raiseKvt 3 index

/-- The word of a block-list slot, read as a mover reads any other line (R238): 0 where the quarter's tag is 0x00, none where a tag or a failed check
poisons the quarter. -/
def State.listWord (s : State) (t : ListSlot) : State × Option Nat :=
  let r := s.moverNow (lineStep t.list (t.slot / 16))
  let q := t.slot % 16 / 4
  if tagOf r.2 q = 0xFF then (r.1.kvBad 0, none)
  else if tagOf r.2 q = 0 then (r.1, some 0)
  else (r.1, some (leAt r.2 (4 * (t.slot % 16)) 4))

/-- Write a block-list entry: its quarter becomes valid, and entries of that quarter that named the poison block stay 0. -/
def State.putListWord (s : State) (t : ListSlot) (w : Nat) : State :=
  let a := lineStep t.list (t.slot / 16)
  let r := s.moverNow a
  let l := r.2
  let i := t.slot % 16
  let word := fun k => if k = i then leBytes 4 w
    else if k / 4 = i / 4 && tagOf l (i / 4) ≠ 0x78 then leBytes 4 0 else (l.drop (4 * k)).take 4
  let tag := fun q => if q = i / 4 then 0x78#8 else l.getD (64 + q) 0#8
  r.1.t2Write a (mkLine ((List.range 16).flatMap word) ((List.range 4).map tag)) .job

/-- The entry that a block-list word names: none where it is served as the poison block; entry 0 itself raises nothing. -/
def State.named (s : State) (w : Nat) : State × Option Nat :=
  let i := w % 2 ^ 18
  if i = 0 then (s, none)
  else if (s.kv i).state = 0 || (s.kv i).gen.toNat ≠ w / 2 ^ 18 % 256 then (s.kvBad i, none)
  else (s, some i)

/-- The entry that a slot names: none where it is served as the poison block. -/
def State.slotEntry (s : State) (t : ListSlot) : State × Option Nat :=
  let w := s.listWord t
  match w.2 with
  | none => (w.1, none)
  | some x => w.1.named x

/-! ### Entries as a reader meets them -/

def State.kvPool (s : State) (k : Nat) : Option KvPool := s.runSet.bind fun p => p.pools[k]?

/-- A read that leases its entry up to `stroke`, which never moves earlier (R186, R187). -/
def State.kvLease (s : State) (i stroke next : Nat) : State :=
  let e := s.kv i
  let later := BitVec.ofNat 16 next
  s.setKv i { e with leased := true, leaseEnd := if e.leased && e.leaseEnd = later then later else BitVec.ofNat 16 stroke }

/-- A read through a block list in the running stroke: the entry, leased; none where the read is served as the poison block (R185 to R187). -/
def State.readListSlot (s : State) (t : ListSlot) (prefetch : Bool) : State × Option Nat :=
  let r := s.slotEntry t
  match r.2 with
  | none => (r.1, none)
  | some i => (r.1.kvLease i (if prefetch then s.strokeNum + 1 else s.strokeNum) (s.strokeNum + 1), some i)

/-- Published FILL as a reader masks by it: 256 for the poison block (R183, R189). -/
def State.readFill (s : State) : Option Nat → Nat
  | none => 256
  | some i => (s.kv i).fill.toNat

/-- Value extent: FILL of an OPEN block rounded down to a whole group (R189). -/
def State.valueExtent (s : State) : Option Nat → Nat
  | none => 256
  | some i => if (s.kv i).state = 1 then (s.kv i).fill.toNat / 32 * 32 else (s.kv i).fill.toNat

/-- The lines of an entry's slot, each checked as a read by a mover is: of `die`, or of the die to which the page is local; poisoned lines through the
poison block (R183, R185, R237). -/
def State.blockLines (s : State) (die : Option Nat) (e : Option Nat) (first : Nat) : Nat → State × List Line
  | 0 => (s, [])
  | n + 1 =>
    let r := match e with
      | none => (s, poisonedLine)
      | some i => s.moverNowOf (die.getD (pageDie (s.kv i).page.toNat)) (slotAddr (s.kv i) first)
    let rest := r.1.blockLines die e (first + 1) n
    (rest.1, r.2 :: rest.2)

end Sys2Proof.Machine
end

