-- ==== Sys2Proof/Machine/Quant.lean ====
section
/-! DEFINITION. The quantiser: choosing a block scale, rounding elements, counting clamps and drops, and the dynamic tile scale
(R56 to R63), and the conversions between MX blocks and packed blocks (R70, R71). -/
namespace Sys2Proof.Machine

/-- The limit q of a format (R56). -/
def qLimit (fmt : Nat) : Rat :=
  if fmt = 1 then 6 else if fmt = 2 then 7 else if fmt = 3 then 127 else if fmt = 4 then 448 else 57344

/-- Magnitude of element code `c` without its sign. -/
def magVal (fmt c : Nat) : Rat :=
  if fmt = 1 then mkRat (fp4Half (c % 8)) 2
  else if fmt ≤ 3 then (c : Rat)
  else if fmt = 4 then layE4m3.magOf c else layE5m2.magOf c

/-- Code of the largest representable magnitude at or below `v`, for 0 ≤ v ≤ q. -/
def magDown (fmt : Nat) (v : Rat) : Nat :=
  if fmt = 1 then
    (if v < mkRat 1 2 then 0 else if v < 1 then 1 else if v < mkRat 3 2 then 2 else if v < 2 then 3
     else if v < 3 then 4 else if v < 4 then 5 else if v < 6 then 6 else 7)
  else if fmt ≤ 3 then floorNat v
  else if fmt = 4 then layE4m3.codeDown v else layE5m2.codeDown v

/-- Round to nearest, a tie to the code whose bit 0 is 0 (R61). -/
def roundRne (fmt : Nat) (v : Rat) : Nat :=
  let lo := magDown fmt v
  let below := v - magVal fmt lo
  if below = 0 then lo
  else
    let above := magVal fmt (lo + 1) - v
    if below < above then lo else if above < below then lo + 1 else lo + lo % 2

/-- Stochastic rounding with the element's random value (R62). -/
def roundSr (fmt : Nat) (r : Nat) (v : Rat) : Nat :=
  let lo := magDown fmt v
  let below := v - magVal fmt lo
  if below = 0 then lo
  else if r < floorNat (below / (magVal fmt (lo + 1) - magVal fmt lo) * 65536) then lo + 1 else lo

/-- Element code of a rounded magnitude and a sign; zero is always +0 (R40, R61). INT8 is held modulo 256. -/
def signCode (fmt : Nat) (neg : Bool) (c : Nat) : Nat :=
  if c = 0 || !neg then c
  else if fmt = 1 then c + 8 else if fmt = 2 then 16 - c else if fmt = 3 then 256 - c else c + 128

/-- Code of one element: `s` is the tile scale times the block scale (R57). `rnd = none` is RNE. -/
def quantElem (fmt : Nat) (s : Rat) (rnd : Option Nat) (x : FV) : Nat :=
  let q := qLimit fmt
  let v := if x.isInf then q else min (ratAbs x.toRat / s) q
  signCode fmt x.isNeg (match rnd with | none => roundRne fmt v | some r => roundSr fmt r v)

/-- A quantised block with what it adds to the three counters of R64. -/
structure QBlk where
  blk : OutBlk
  flush : Nat
  sat : Nat
  poison : Nat
  deriving DecidableEq, Repr, Inhabited

/-- Largest magnitude of a block: `none` where an infinity makes it infinite. -/
def blockMax (xs : List FV) : Option Rat :=
  if xs.any FV.isInf then none else some (xs.foldl (fun a x => max a (ratAbs x.toRat)) 0)

/-- Codes of a block, with the random values of its elements where rounding is stochastic. -/
def quantElems (fmt : Nat) (s : Rat) (rnd : Option (Nat × Nat)) (xs : List FV) : List Nat :=
  xs.mapIdx fun e x => quantElem fmt s (rnd.map fun hk => srValue hk.1 hk.2 e) x

def zeroCodes (n : Nat) : List Nat := List.replicate n 0

/-- Chosen mode (R57). `t` is the tile scale, `rnd` the tile hash and block number under stochastic rounding. -/
def quantChosen (fmt : Nat) (t : Rat) (rnd : Option (Nat × Nat)) (xs : List FV) : QBlk :=
  let n := xs.length
  let q := qLimit fmt
  if xs.any FV.isNan then { blk := { scale := 0xFF, codes := zeroCodes n }, flush := 0, sat := 0, poison := 1 }
  else match blockMax xs with
    | none => { blk := { scale := 0xFE, codes := quantElems fmt (t * 114688) rnd xs }, flush := 0, sat := 1, poison := 0 }
    | some a =>
      let sStar := a / t / q
      if a = 0 then { blk := { scale := 0, codes := zeroCodes n }, flush := 0, sat := 0, poison := 0 }
      else if sStar < pow2 (-17) then { blk := { scale := 0, codes := zeroCodes n }, flush := 1, sat := 0, poison := 0 }
      else if 114688 < sStar then
        { blk := { scale := 0xFE, codes := quantElems fmt (t * 114688) rnd xs }, flush := 0, sat := 1, poison := 0 }
      else
        let b := leastUe sStar
        { blk := { scale := b, codes := quantElems fmt (t * ueVal b) rnd xs }, flush := 0, sat := 0, poison := 0 }

/-- Fixed mode with the supplied scale byte (R58). -/
def quantFixed (fmt : Nat) (t : Rat) (byte : Nat) (rnd : Option (Nat × Nat)) (xs : List FV) : QBlk :=
  let n := xs.length
  if xs.any FV.isNan then { blk := { scale := 0xFF, codes := zeroCodes n }, flush := 0, sat := 0, poison := 1 }
  else if byte = 0 || byte = 0xFF then { blk := { scale := byte, codes := zeroCodes n }, flush := 0, sat := 0, poison := 0 }
  else
    let s := t * ueVal byte
    let exceeds := xs.any fun x => x.isInf || qLimit fmt < ratAbs x.toRat / s
    { blk := { scale := byte, codes := quantElems fmt s rnd xs }, flush := 0, sat := if exceeds then 1 else 0, poison := 0 }

/-- One block by the mode of its tensor (R56). -/
def quantBlock (fmt : Nat) (t : Rat) (fixed : Option Byte) (rnd : Option (Nat × Nat)) (xs : List FV) : QBlk :=
  match fixed with
  | none => quantChosen fmt t rnd xs
  | some b => quantFixed fmt t b.toNat rnd xs

/-- Least integer c with r ≤ 2^c, for a positive r. -/
def leastPow2 (r : Rat) : Int := if pow2 (ilog2 r) = r then ilog2 r else ilog2 r + 1

/-- Dynamic tile scale from the values that the tile's blocks quantise (R60). -/
def dynScale (fmt : Nat) (xs : List FV) : Rat :=
  let a := xs.foldl (fun a x => if x.isFinite then max a (ratAbs x.toRat) else a) 0
  if a = 0 then 1 else
    let c := leastPow2 (a / qLimit fmt) - 8
    pow2 (if c < -126 then -126 else if 127 < c then 127 else c)

/-- Elements in the unit that one scale byte covers (R63). -/
def blockLen (fmt : Nat) : Nat := if fmt ≤ 3 then 32 else 16

/-! ### MX blocks -/

/-- Element scale exponent of an MX element type: 6 for MXINT8, 0 for MXFP4 (R70). -/
def mxZ (mxint8 : Bool) : Int := if mxint8 then 6 else 0

/-- Exponent of the tile scale that an import gives a tile, from its block scales; none where every block is NaN and there is
no E_max (R70). -/
def mxTileExp (mxint8 : Bool) (scales : List Nat) : Option Int :=
  let es := scales.filter (· ≠ 0xFF)
  if es.isEmpty then none
  else
    let e : Int := (es.foldl max 0 : Nat) - 127 - 16 - mxZ mxint8
    some (if e < -126 then -126 else e)

/-- Import of one block: its UE5M3 byte, and whether it was flushed (R70). -/
def mxImportScale (mxint8 : Bool) (tileExp : Int) (e : Nat) : Nat × Bool :=
  if e = 0xFF then (0xFF, false)
  else
    let x : Int := (e : Int) - 127 - mxZ mxint8 - tileExp
    if x < -17 then (0, true) else (leastUe (pow2 x), false)

/-- Whether a value lies within the MX element range at element exponent `e` (R71). -/
def mxFits (mxint8 : Bool) (e : Int) (v : Rat) : Bool :=
  if mxint8 then -128 * pow2 e ≤ v && v ≤ 127 * pow2 e else ratAbs v ≤ 6 * pow2 e

/-- Code of a value rounded at element exponent `e` (R71). -/
def mxCode (mxint8 : Bool) (e : Int) (v : Rat) : Nat :=
  let m := ratAbs v / pow2 e
  if mxint8 then (if v < 0 then (256 - min (roundNat m) 128) % 256 else min (roundNat m) 127)
  else signCode 1 (decide (v < 0)) (roundRne 1 (min m 6))

/-- Export of one block with codes `codes`, exact values `vs` and s × T = `st`: the MX exponent E and the element codes (R71).
In the copying case E may lie outside 0 to 254; the rounding case takes the least E from 0 upwards (log entry 19). -/
def mxExportBlock (mxint8 : Bool) (codes : List Nat) (vs : List Rat) (st : Rat) : Int × List Nat :=
  let z := mxZ mxint8
  if pow2 (ilog2 st) = st then (ilog2 st + 127 + z, codes)
  else
    let a := vs.foldl (fun a v => max a (ratAbs v)) 0
    let low : Int := -127 - z
    let e0 : Int := if a = 0 then low else ilog2 (a / (if mxint8 then 127 else 6))
    let e1 := if vs.all (mxFits mxint8 e0) then e0 else e0 + 1
    let e := if e1 < low then low else e1
    (e + 127 + z, vs.map (mxCode mxint8 e))

end Sys2Proof.Machine
end

