-- ==== Sys2Proof/Machine/Output.lean ====
section
/-! DEFINITION. Writing an output tensor from a nib: outlier channels and the side tensor (R59, R115 to R119), the tile scale (R60), blocks
(R56 to R63), wide lines and their tags (R49, R79, R132), masked rows and columns (R91), the header (R54), and the counters (R64, R120). -/
namespace Sys2Proof.Machine

/-- Line positions of a row of `stride` lines (R55). -/
def rowPositions (fmt stride : Nat) : Nat := if fmt = 3 then stride / 2 else stride

/-- Lines per line position. -/
def positionLines (fmt : Nat) : Nat := if fmt = 3 then 2 else 1

/-! ### Outlier channels (R113, R117) -/

/-- Entries that window `w` of a row of `l` line positions carries. -/
def windowCapacity (l w : Nat) : Nat := 4 * min 8 (l - 8 * w)

/-- The value of channel `c` of a row whose first value is that of channel `col0`; 0 outside it. -/
def chanValue (col0 : Nat) (vs : List FV) (c : Nat) : FV := if c < col0 then .num false 0 else vs.getD (c - col0) (.num false 0)

/-- Largest magnitude of a channel over rows: none where a value is NaN. -/
def channelMax (col0 : Nat) (rows : List (List FV)) (c : Nat) : Option FV :=
  let vs := rows.map fun r => (chanValue col0 r c).abs
  if vs.any FV.isNan then none else some (vs.foldl (fun a v => if a.lt v then v else a) (.num false 0))

/-- Put a channel into a list ordered by falling maximum, ties by rising channel. -/
def insertMax (c : Nat) (m : FV) : List (Nat × FV) → List (Nat × FV)
  | [] => [(c, m)]
  | (d, n) :: rest => if n.lt m then (c, m) :: (d, n) :: rest else (d, n) :: insertMax c m rest

/-- The dynamic list of one window and the number of channels that spilled (R117, R119). -/
def dynamicWindow (col0 : Nat) (rows : List (List FV)) (theta : FV) (l validK w : Nat) : List Nat × Nat :=
  let width := min 1024 (128 * (l - 8 * w))
  let found := (List.range width).foldl (fun acc i =>
    let c := 1024 * w + i
    if c < validK then
      match channelMax col0 rows c with
      | some m => if theta.lt m then insertMax i m acc else acc
      | none => acc
    else acc) []
  let kept := (found.take (windowCapacity l w)).map (·.1)
  (kept.foldl (fun acc c => insertNat c acc) [], found.length - kept.length)

/-- An index line (R115): sixteen-bit entries, unused ones 0xFFFF. DESIGN CHOICE (log entry 78): all four quarters are tagged 0x78, also one without a
used entry, which R115 would let carry 0x00. -/
def indexLine (cs : List Nat) : Line :=
  mkLine ((List.range 32).flatMap fun i => leBytes 2 (cs.getD i 0xFFFF)) (List.replicate 4 0x78#8)

/-- Spill counters of a die's layer take `n` more channels; crossing the threshold raises the event once (R119, R120). -/
def State.spill (s : State) (die layer n : Nat) : State :=
  if n = 0 then s
  else
    let w := s.well die
    let old := sget (fun _ => 0#32) w.fspill layer
    let new := satAdd old n
    let thr := sget (fun _ => 0xFFFFFFFF#32) w.thrNow layer
    let s := s.setWell die { w with fspill := sset (fun _ => 0#32) w.fspill layer new }
    if old.toNat ≤ thr.toNat && thr.toNat < new.toNat then
      (s.modWell die fun w => { w with fspevt := w.fspevt.raise 0, fspLayer := BitVec.ofNat 8 layer }).fire 140
    else s

/-! ### Blocks and lines -/

/-- Counters of R64 grow. -/
def State.countQuant (s : State) (nib : Nat) (bs : List QBlk) : State :=
  let f := (bs.map (·.flush)).foldl (· + ·) 0
  let t := (bs.map (·.sat)).foldl (· + ·) 0
  let p := (bs.map (·.poison)).foldl (· + ·) 0
  s.modNib nib fun x => { x with qflush := satAdd x.qflush f, qsat := satAdd x.qsat t, qpoison := satAdd x.qpoison p }

/-- One line position of a narrow output: its blocks and counts. `keep` columns of the position lie inside the tensor. -/
def quantPosition (o : OutDesc) (t : Rat) (h : Option Nat) (block0 keep : Nat) (zero : Bool) (vs : List FV) : List QBlk :=
  let n := blockLen o.fmt
  (List.range 4).map fun b =>
    if zero || keep ≤ n * b then { blk := { scale := 0, codes := zeroCodes n }, flush := 0, sat := 0, poison := 0 }
    else
      let xs := (List.range n).map fun e => if n * b + e < keep then vs.getD (n * b + e) (.num false 0) else .num false 0
      quantBlock o.fmt t o.blockScale (h.map fun x => (x, block0 + b)) xs

/-- One line of a wide output: columns at or beyond `keep` are +0, a quarter that holds only those is tagged 0x00, one that holds
a NaN 0xFF (R49, R79, R91). -/
def widePosition (fmt keep : Nat) (vs : List FV) : Line :=
  let n := elemsPerLine fmt
  let xs := (List.range n).map fun e => if e < keep then vs.getD e (.num false 0) else .num false 0
  let q := n / 4
  wideLine fmt xs ((List.range 4).map fun b =>
    if keep ≤ q * b then 0#8 else if ((xs.drop (q * b)).take q).any FV.isNan then 0xFF#8 else 0x78#8)

/-- Write consecutive T0 lines. -/
def State.t0WriteAll (s : State) (nib line : Nat) : List Line → State
  | [] => s
  | l :: rest => (s.t0Write nib line l).t0WriteAll nib (line + 1) rest

/-- Write the lines of one row of the tile, position after position. In free-tile mode a line that holds only columns beyond the extent is not
written (R91). With `whole`, in aligned-tile mode, every line is: a narrow format holds zeros beyond VALID_K (R55, R60), a wide one, which
has no VALID_K, the results (R92; log entry 79). -/
def State.writeRow (s : State) (nib : Nat) (o : OutDesc) (t : Rat) (h : Option Nat) (whole zero : Bool) (row : Nat) (vs : List FV) :
    Nat → Nat → State
  | _, 0 => s
  | i, fuel + 1 =>
    let e := elemsPerLine o.fmt
    let pos := o.col0 / e + i
    let here := (vs.drop (e * i)).take e
    let keep := if whole && 5 < o.fmt then here.length else min here.length (o.validK - (o.col0 + e * i))
    if here.isEmpty || (keep = 0 && !whole) then s
    else
      let at_ := o.line + (o.row0 + row) * o.stride + pos * positionLines o.fmt
      let s :=
        if o.fmt ≤ 5 then
          let bs := quantPosition o t h (4 * ((o.row0 + row) * rowPositions o.fmt o.stride + pos)) keep zero here
          (s.countQuant nib bs).t0WriteAll nib at_ (packBlocks o.fmt (bs.map (·.blk)))
        else s.t0Write nib at_ (widePosition o.fmt keep here)
      s.writeRow nib o t h whole zero row vs (i + 1) fuel

/-- Write every row that is not masked. `full` names rows whose blocks are written zero without evaluation (R174). -/
def State.writeRows (s : State) (nib : Nat) (o : OutDesc) (t : Rat) (h : Option Nat) (whole : Bool) (full : List Bool) (row : Nat) :
    List (List FV) → State
  | [] => s
  | vs :: rest =>
    (s.writeRow nib o t h whole (full.getD row false) row vs 0 (vs.length / elemsPerLine o.fmt + 1)).writeRows nib o t h whole full (row + 1) rest

/-! ### The side tensor (R116) -/

/-- The side tensor's quarter `q` of line `v` of a row: sixteen entries of window 2v or 2v + 1. -/
def sideQuarter (t : Rat) (lists : List (List Nat)) (col0 : Nat) (vs : List FV) (v q : Nat) : QBlk :=
  let w := 2 * v + q / 2
  let xs := (List.range 16).map fun e =>
    match (lists.getD w [])[16 * (q % 2) + e]? with
    | some c => chanValue col0 vs (1024 * w + c)
    | none => .num false 0
  quantBlock 4 t none none xs

/-- The columns from `col0` meet window `w`. -/
def meetsWindow (col0 n w : Nat) : Bool := col0 < 1024 * w + 1024 && 1024 * w < col0 + n

/-- Line `v` of a row of the side tensor: the quarters of the windows that the tile's columns meet are formed, the others stay (log entry 80). -/
def State.writeSideLine (s : State) (nib line : Nat) (t : Rat) (lists : List (List Nat)) (col0 : Nat) (vs : List FV) (v : Nat) : State :=
  let mine := fun q => meetsWindow col0 vs.length (2 * v + q / 2)
  if !(List.range 4).any mine then s
  else
    let old := s.t0Read nib (line + v)
    let bs := (List.range 4).map fun q => if mine q then some (sideQuarter t lists col0 vs v q) else none
    let data := (bs.zipIdx).flatMap fun b => match b.1 with
      | some k => k.blk.codes.map fun c => BitVec.ofNat 8 c
      | none => (old.drop (16 * b.2)).take 16
    let scales := (bs.zipIdx).map fun b => match b.1 with
      | some k => BitVec.ofNat 8 k.blk.scale
      | none => BitVec.ofNat 8 (scaleByte old b.2)
    (s.countQuant nib (bs.filterMap id)).t0Write nib (line + v) (mkLine data scales)

/-- The side tensor of a tile, with its header, which R111 poisons with the stage's other headers. DESIGN CHOICE (log entry 80), where R116 is silent:
VALID_K is 32 for each window, FLAGS is 0, and the values are rounded by RNE at the tile scale that the program gives, whatever the output's own modes. -/
def State.writeSide (s : State) (nib : Nat) (o : OutDesc) (hdr line stride : Nat) (scale : Word) (lists : List (List Nat))
    (rows : List (List FV)) : State :=
  let h : TileHdr :=
    { scale := scale, fmt := 4, flags := 0, linesPerRow := stride, rows := o.rows, stream := o.stream, tileIndex := o.tileIndex,
      validK := 32 * lists.length, bad := false }
  let s := (s.t0Write nib hdr (writeHdr h)).noteHdr nib hdr
  (rows.zipIdx).foldl (fun s e =>
    (List.range (ceilDiv lists.length 2)).foldl (fun s v =>
      s.writeSideLine nib (line + (o.row0 + e.2) * stride) (dec32 scale).toRat lists o.col0 e.1 v) s) s

/-- Index lines of a dynamic list. -/
def State.writeIndex (s : State) (nib line : Nat) (lists : List (List Nat)) : State := s.t0WriteAll nib line (lists.map indexLine)

/-! ### The tile -/

/-- The outlier lists of an output tile, window by window, and the channels that spilled; `rows` are the tile's valid rows (R117). -/
def outLists (o : OutDesc) (rows : List (List FV)) : List (List Nat) × Nat :=
  match o.flourish with
  | .none => ([], 0)
  | .static lists _ _ _ _ => (lists, 0)
  | .dynamic theta _ _ _ _ _ =>
    let l := rowPositions o.fmt o.stride
    let ws := (List.range (ceilDiv l 8)).map fun w => dynamicWindow o.col0 rows (dec32 theta) l o.validK w
    (ws.map (·.1), (ws.map (·.2)).foldl (· + ·) 0)

/-- A row with its outlier channels set to 0 (R59). -/
def clearOutliers (col0 : Nat) (lists : List (List Nat)) (vs : List FV) : List FV :=
  if lists.isEmpty then vs
  else vs.mapIdx fun i v => if (lists.getD ((col0 + i) / 1024) []).contains ((col0 + i) % 1024) then .num false 0 else v

/-- The header of an output tile (R54). -/
def outHdr (o : OutDesc) (scale : Word) : TileHdr :=
  { scale := scale, fmt := o.fmt, flags := (if o.tileScale.isNone then 1 else 0) + (if o.sr then 2 else 0), linesPerRow := o.stride,
    rows := o.rows, stream := o.stream, tileIndex := o.tileIndex, validK := o.validK, bad := false }

/-- The values that the blocks of a tile quantise: those at or beyond VALID_K and the rows that are written zero are left out (R60). -/
def scaleValues (o : OutDesc) (full : List Bool) (rows : List (List FV)) : List FV :=
  (rows.zipIdx).flatMap fun r => if full.getD r.2 false then [] else r.1.take (o.validK - o.col0)

/-- The tile scale of an output tile, static or dynamic (R56, R60). -/
def outScale (o : OutDesc) (full : List Bool) (rows : List (List FV)) : Word :=
  match o.tileScale with
  | some w => w
  | none => rat32 (dynScale o.fmt (scaleValues o full rows))

/-- Write an output tile: `rows` holds the values of the rows that are written, of which the first `valid` lie inside the tensor; `whole` in aligned-tile mode. -/
def State.writeTile (s : State) (nib : Nat) (o : OutDesc) (whole : Bool) (valid : Nat) (full : List Bool) (rows : List (List FV)) : State :=
  if 5 < o.fmt then s.writeRows nib o 1 none whole full 0 rows
  else
    let ls := outLists o (rows.take valid)
    let s := s.spill (nib / 2048) o.layer ls.2
    let s :=
      match o.flourish with
      | .none => s
      | .static lists hdr line stride scale => s.writeSide nib o hdr line stride scale lists rows
      | .dynamic _ idx hdr line stride scale => (s.writeIndex nib idx ls.1).writeSide nib o hdr line stride scale ls.1 rows
    let rows := rows.map (clearOutliers o.col0 ls.1)
    let t := outScale o full (rows.take valid)
    let h := if o.sr then some (tileHash s.launchCount s.strokeNum o.stream o.tileIndex) else none
    let s := s.writeRows nib o (dec32 t).toRat h whole full 0 rows
    match o.hdr with
    | none => s
    | some a => (s.t0Write nib a (writeHdr (outHdr o t))).noteHdr nib a

/-- A poisoned line of an output: element bits 0x0 in a packed format (R43, R49), canonical NaNs in a wide one (R79; log entry 77). -/
def poisonOut (fmt : Nat) : Line :=
  if 6 ≤ fmt && fmt ≤ 8 then wideLine fmt (List.replicate (elemsPerLine fmt) .nan) (List.replicate 4 0xFF#8)
  else mkLine (List.replicate 64 0#8) (List.replicate 4 0xFF#8)

/-- Write the rows of an output tile as poisoned: scale 0xFF on every block, tag 0xFF on every quarter (R95). DESIGN CHOICE (log entry 81), where R95 is
silent: no side tensor and no index lines are written, and a dynamic tile scale is written as 1.0. -/
def State.poisonTile (s : State) (nib : Nat) (o : OutDesc) (whole : Bool) (rows cols : Nat) : State :=
  let e := elemsPerLine o.fmt
  let n := ceilDiv (if whole then cols else min cols (o.validK - o.col0)) e * positionLines o.fmt
  let s := (List.range rows).foldl (fun s r =>
    s.t0WriteAll nib (o.line + (o.row0 + r) * o.stride + o.col0 / e * positionLines o.fmt) (List.replicate n (poisonOut o.fmt))) s
  match o.hdr with
  | none => s
  | some a => (s.t0Write nib a (writeHdr (outHdr o (o.tileScale.getD 0x3F800000#32)))).noteHdr nib a

end Sys2Proof.Machine
end

