-- ==== Sys2Proof/Machine/Operands.lean ====
section
/-! DEFINITION. Operands of the vector unit: registers and predicates (R130), the drain port (R131), lanes of FP32 and BF16 elements,
and loading a line into registers (R52, R55, R69, R175). -/
namespace Sys2Proof.Machine

def zeroLanes : List Word := List.replicate 64 0#32

/-- Lanes filled with zeros to 64. -/
def fillLanes (ws : List Word) : List Word := (ws ++ zeroLanes).take 64

/-- A vector register of a nib, 64 lanes (R130). -/
def State.vreg (s : State) (nib r : Nat) : List Word := fillLanes (sget (fun _ => zeroLanes) (s.nib nib).vregs (r % 64))
def State.setVreg (s : State) (nib r : Nat) (v : List Word) : State :=
  s.modNib nib fun x => { x with vregs := sset (fun _ => zeroLanes) x.vregs (r % 64) v }

/-- A predicate register of a nib (R130). -/
def State.preg (s : State) (nib p : Nat) : BitVec 64 := sget (fun _ => 0#64) (s.nib nib).pregs (p % 8)
def State.setPreg (s : State) (nib p : Nat) (v : BitVec 64) : State :=
  s.modNib nib fun x => { x with pregs := sset (fun _ => 0#64) x.pregs (p % 8) v }

/-- Key of an accumulator-file element: two row groups of 32 rows by 128 columns (R84). -/
def accKey (buf row col : Nat) : Nat := (buf % 2 * 32 + row % 32) * 128 + col % 128

/-- Mean of a partial: +0 where its count is 0 (R152). -/
def partialMean (n mu : Word) : Word := if n = 0#32 then 0#32 else mu

/-- Variance of a partial: M2 ÷ n rounded once, +0 where its count is 0 (R152). -/
def partialVar (n m2 : Word) : Word := if n = 0#32 then 0#32 else enc32 ((dec32 m2).div (.num false (n.toNat : Rat)))

/-- The 64 words of a source: a register, 64 results through the drain port, one lane in every lane, or the means or variances of partials. -/
def State.vsrc (s : State) (nib : Nat) : VSrc → List Word
  | .reg n => s.vreg nib n
  | .drain buf row col => (List.range 64).map fun i => sget (fun _ => 0#32) (s.nib nib).acc (accKey buf row (col + i))
  | .splat n lane => List.replicate 64 ((s.vreg nib n).getD (lane % 64) 0#32)
  | .mean n mu => List.zipWith partialMean (s.vreg nib n) (s.vreg nib mu)
  | .variance n m2 => List.zipWith partialVar (s.vreg nib n) (s.vreg nib m2)

/-- The low and the high BF16 element of a lane (R130). -/
def halfOf (w : Word) (h : Nat) : Nat := w.toNat / 65536 ^ h % 65536
def pairOf (lo hi : Nat) : Word := w32 (lo % 65536 + 65536 * (hi % 65536))

/-- Pack BF16 codes two a lane. -/
def packPairs : List Nat → List Word
  | [] => []
  | [a] => [pairOf a 0]
  | a :: b :: rest => pairOf a b :: packPairs rest

/-- A NaN result from operands that hold none (R162). -/
def madeNan (r : FV) (args : List FV) : Nat := if r.isNan && !args.any FV.isNan then 1 else 0

/-- The same of FP32 words. -/
def newNan (r : Word) (args : List Word) : Nat := if isNan32 r && !args.any isNan32 then 1 else 0

/-- One lane of an elementwise operation, with the invalid results it counts. -/
def laneOp (form : VForm) (f : List FV → FV) (ws : List Word) : Word × Nat :=
  match form with
  | .f32 =>
    let args := ws.map dec32
    (enc32 (f args), madeNan (f args) args)
  | .bf16 =>
    let lo := ws.map fun w => decBf16 (halfOf w 0)
    let hi := ws.map fun w => decBf16 (halfOf w 1)
    (pairOf (encBf16 (f lo)) (encBf16 (f hi)), madeNan (f lo) lo + madeNan (f hi) hi)

/-- Every lane of an elementwise operation. -/
def laneAll (f : List Word → Word × Nat) (args : List (List Word)) : List (Word × Nat) :=
  (List.range 64).map fun i => f (args.map fun a => a.getD i 0#32)

def sumNat (l : List Nat) : Nat := l.foldl (· + ·) 0

/-- Run an operation lane by lane into a register, counting invalid results (R162). -/
def State.lanewise (s : State) (nib dst : Nat) (f : List Word → Word × Nat) (srcs : List VSrc) : State :=
  let rs := laneAll f (srcs.map (s.vsrc nib))
  let s := s.setVreg nib dst (rs.map (·.1))
  s.modNib nib fun x => { x with vinvalid := satAdd x.vinvalid (sumNat (rs.map (·.2))) }

/-- A command of a nib's units: nothing without power, a stop on a nib that is not there. -/
def State.onNib (s : State) (nib : Nat) (f : State → State) : Out State :=
  if !s.live then .next s
  else if !s.nibPresent nib then .fault .absentUnit
  else .next (f s)

/-! ### Loading a line -/

/-- Place words into a register from a lane upwards, the rest kept. -/
def putLanes (reg : List Word) (lane : Nat) (ws : List Word) : List Word := (reg.take lane ++ ws ++ reg.drop (lane + ws.length)).take 64

/-- Words of a line in its register form (log entry 21): BF16 codes in pairs, FP32 words as stored, every other format as FP32 values,
times the tile scale `t` where a header gives one; `bad` is a tile that R55 poisons. -/
def lineWords (fmt : Nat) (hi lo : Line) (keep : Nat) (t : Option Rat) (bad : Bool) : List Word :=
  let n := elemsPerLine fmt
  if bad then List.replicate n 0x7FC00000#32
  else if fmt = 6 then
    packPairs ((List.range n).map fun i =>
      match scaleByte hi (i / 8) with
      | 0x00 => 0
      | 0x78 => leAt hi (2 * i) 2
      | _ => 0x7FC0)
  else if fmt = 8 then
    (List.range n).map fun i =>
      match scaleByte hi (i / 4) with
      | 0x00 => 0#32
      | 0x78 => w32 (leAt hi (4 * i) 4)
      | _ => 0x7FC00000#32
  else (lineValues fmt hi lo keep).map fun v => enc32 (match t with
    | some t => v.mul (.num false t)
    | none => v)

/-- The format in which a load reads its line: its header's, where it has one that names a format (R48). -/
def State.loadFmt (s : State) (nib fmt : Nat) (hdr : Option Nat) : Nat :=
  match hdr with
  | none => fmt
  | some a =>
    let f := (readHdr (s.t0Read nib a)).fmt
    if f = 0 || 5 < f then fmt else f

/-- Load one line position into registers from `dst`: lines of fewer than 64 elements go to quarter `quarter` of the register. -/
def State.loadLine (s : State) (nib dst line fmt : Nat) (hdr : Option Nat) (col0 quarter : Nat) : State :=
  let h := match hdr with
    | none => (s, none)
    | some a => let r := s.nibLoad nib a; (r.1, some (readHdr r.2))
  let fmt := s.loadFmt nib fmt hdr
  let r := h.1.nibLoad nib line
  let r2 := if fmt = 3 then r.1.nibLoad nib (line + 1) else (r.1, zeroLine)
  let s := r2.1
  let ws := match h.2 with
    | some t => lineWords fmt r.2 r2.2 (t.validK - col0) (some (dec32 t.scale).toRat) t.bad
    | none => lineWords fmt r.2 r2.2 (elemsPerLine fmt) none false
  if ws.length ≤ 64 then s.setVreg nib dst (putLanes (s.vreg nib dst) (quarter % 4 * 16) ws)
  else (s.setVreg nib dst (ws.take 64)).setVreg nib (dst + 1) (ws.drop 64)

/-- The four words of each record of a line. A quarter tagged 0x00 is empty; in a poisoned one the words for which `bad` gives a value take it
(R155, R171). -/
def recordWords (bad : List Word → List Word) (l : Line) : List (List Word) :=
  (List.range 4).map fun q =>
    let ws := (List.range 4).map fun i => w32 (leAt l (16 * q + 4 * i) 4)
    match scaleByte l q with
    | 0x00 => [0#32, 0#32, 0#32, 0#32]
    | 0x78 => ws
    | _ => bad ws

/-- A poisoned statistic record: mean and M2 are NaN, and its count is taken as at least 1, so that every merge takes the poison (R155). -/
def badStat (ws : List Word) : List Word := [if ws.headD 0#32 = 0#32 then 1#32 else ws.headD 0#32, 0x7FC00000#32, 0x7FC00000#32, 0#32]

/-- A poisoned row record: maximum and sum are NaN. -/
def badRow (ws : List Word) : List Word := [0x7FC00000#32, 0x7FC00000#32, ws.getD 2 0#32, ws.getD 3 0#32]

/-- Put column `i` of four records into the lanes from `lane` of a register, for `n` registers from `dst`. -/
def State.putRecords (s : State) (nib dst lane i : Nat) (recs : List (List Word)) : Nat → State
  | 0 => s
  | n + 1 =>
    (s.setVreg nib (dst + i) (putLanes (s.vreg nib (dst + i)) lane (recs.map fun r => r.getD i 0#32))).putRecords nib dst lane (i + 1) recs n

/-- Load the four records of a line into lanes from 4 × `quarter` of the registers from `dst`. -/
def State.loadRecords (s : State) (nib dst line quarter : Nat) (rows : Bool) : State :=
  let r := s.nibLoad nib line
  r.1.putRecords nib dst (quarter % 16 * 4) 0 (recordWords (if rows then badRow else badStat) r.2) (if rows then 4 else 3)

end Sys2Proof.Machine
end

