-- ==== Sys2Proof/Machine/Sfu.lean ====
section
/-! DEFINITION. The special-function unit: basic functions (R138 to R142), micro-programs (R143 to R147) and the vendor library
(R148 to R150). A real function is evaluated with `sfuBits` fraction bits; FP32 results that the spec bounds but does not fix are
turned by `Config.sfuTurn` (log entries 9 and 10). -/
namespace Sys2Proof.Machine

/-! ### Real functions in fixed point -/

/-- Fraction bits of the fixed-point evaluation. -/
def sfuBits : Nat := 240

/-- The real of a fixed-point integer. -/
def ofFix (x : Int) : Rat := mkRat x (2 ^ sfuBits)

/-- A rational in fixed point, rounded down. -/
def toFix (r : Rat) : Int := r.num * (2 ^ sfuBits : Nat) / (r.den : Int)

/-- Sum of x^k / k! from term `k`, where `term` is x^(k-1) / (k-1)!. -/
def expSeries (x term : Int) (k : Nat) : Nat → Int
  | 0 => 0
  | n + 1 =>
    let t := term * x / (2 ^ sfuBits : Nat) / (k : Int)
    t + expSeries x t (k + 1) n

/-- e^r for 0 ≤ r < 1. -/
def expFix (r : Int) : Int := (2 ^ sfuBits : Nat) + expSeries r (2 ^ sfuBits : Nat) 1 64

/-- Sum of z^(2k+1) / (2k+1) from `k`, where `pow` is z^(2k+1). -/
def atanhSeries (z2 pow : Int) (k : Nat) : Nat → Int
  | 0 => 0
  | n + 1 => pow / (2 * k + 1 : Nat) + atanhSeries z2 (pow * z2 / (2 ^ sfuBits : Nat)) (k + 1) n

/-- ln m for 1 ≤ m < 2, as 2 atanh ((m - 1) / (m + 1)). -/
def lnFix (m : Rat) : Int :=
  let z := toFix ((m - 1) / (m + 1))
  2 * atanhSeries (z * z / (2 ^ sfuBits : Nat)) z 0 90

/-- ln 2. -/
def ln2Fix : Int := 2 * atanhSeries (toFix (mkRat 1 9)) (toFix (mkRat 1 3)) 0 90

/-- 2^y for a rational y: an exact power of two times e^(f ln 2). -/
def exp2Real (y : Rat) : Rat :=
  let k := y.floor
  ofFix (expFix (toFix ((y - k) * ofFix ln2Fix))) * pow2 k

/-- e^x. -/
def expReal (x : Rat) : Rat :=
  let k := (x / ofFix ln2Fix).floor
  ofFix (expFix (toFix (x - k * ofFix ln2Fix))) * pow2 k

/-- ln x for x > 0. -/
def lnReal (x : Rat) : Rat :=
  let e := ilog2 x
  ofFix (lnFix (x * pow2 (-e))) + e * ofFix ln2Fix

/-- log2 x for x > 0. -/
def log2Real (x : Rat) : Rat :=
  let e := ilog2 x
  ofFix (lnFix (x * pow2 (-e))) / ofFix ln2Fix + e

/-- √x for x ≥ 0, rounded down at `sfuBits` fraction bits below an even power of two. -/
def sqrtReal (x : Rat) : Rat :=
  if x ≤ 0 then 0 else
    let e := ilog2 x / 2
    ofFix (Nat.sqrt (floorNat (x * pow2 (-2 * e) * pow2 (2 * sfuBits)))) * pow2 e

/-- Sum of 2^k z^(2k+1) / (2k+1)!!, where `term` is the term `k - 1`. -/
def erfSeries (z2 term : Rat) (k : Nat) : Nat → Rat
  | 0 => 0
  | n + 1 =>
    let t := ofFix (toFix (term * 2 * z2 / ((2 * k + 1 : Nat) : Rat)))
    t + erfSeries z2 t (k + 1) n

/-- arctan (1 / n) by its alternating series, in fixed point. -/
def atanInv (n : Nat) (pow : Int) (k : Nat) : Nat → Int
  | 0 => 0
  | m + 1 =>
    let t := pow / (2 * k + 1 : Nat)
    (if k % 2 = 0 then t else -t) + atanInv n (pow / (n * n : Nat)) (k + 1) m

/-- π, by Machin's formula. -/
def piFix : Int :=
  16 * atanInv 5 (toFix (mkRat 1 5)) 0 60 - 4 * atanInv 239 (toFix (mkRat 1 239)) 0 20

/-- erf z for z ≥ 0. -/
def erfReal (z : Rat) : Rat :=
  if z = 0 then 0
  else
    let zf := ofFix (toFix z)
    2 / sqrtReal (ofFix piFix) * expReal (-(zf * zf)) * (zf + erfSeries (ofFix (toFix (zf * zf))) zf 1 560)

/-- x / (1 + e^-x). -/
def siluReal (x : Rat) : Rat := x / (1 + expReal (-x))

/-- tanh x. -/
def tanhReal (x : Rat) : Rat :=
  let e := expReal (2 * x)
  (e - 1) / (e + 1)

/-- 0.5 x (1 + erf (x / √2)). -/
def geluReal (x : Rat) : Rat :=
  let er := erfReal (ratAbs x / sqrtReal 2)
  x / 2 * (if x < 0 then 1 - er else 1 + er)

/-! ### FP32 values in order -/

/-- Position of an FP32 value in the order of the reals: the code of its magnitude, negated below zero. -/
def ordOf (w : Word) : Int := if w.toNat < 2 ^ 31 then (w.toNat : Int) else -((w.toNat - 2 ^ 31 : Nat) : Int)

/-- FP32 value at a position; `zneg` is the sign of the zero. -/
def ofOrd (zneg : Bool) (o : Int) : Word :=
  if o = 0 then (if zneg then 0x80000000#32 else 0#32)
  else if 0 < o then BitVec.ofNat 32 (min o.toNat 0x7F800000)
  else BitVec.ofNat 32 (2 ^ 31 + min (-o).toNat 0x7F800000)

/-- Largest FP32 position whose value is at or below a real. -/
def ordDown (r : Rat) : Int := if r < 0 then -(lay32.codeUp (-r) : Int) else lay32.codeDown r

/-- Least FP32 position whose value is at or above a real. -/
def ordUp (r : Rat) : Int := if r < 0 then -(lay32.codeDown (-r) : Int) else lay32.codeUp r

/-- The last position above `low`, within `n` of it, to which the function has turned at input position `key`. -/
def turned (fn : Nat) (key low best : Int) : Nat → Int
  | 0 => best
  | n + 1 =>
    turned fn key (low + 1) (if Config.sfuTurn fn (low + 1) ≤ key then low + 1 else best) n

/-- The FP32 position that function `fn` gives between the positions its error bound allows: one fixed turning input for each
value, so the result never decreases in `key` (R142, R150). -/
def pickOrd (fn : Nat) (key low high : Int) : Int := turned fn key low low (high - low).toNat

/-! ### Functions -/

/-- Number of a function, as FN codes it (R145). -/
def sfuCode : SfuFn → Nat
  | .exp => 0 | .exp2 => 1 | .log => 2 | .log2 => 3 | .rcp => 4 | .rsqrt => 5 | .gelu => 8 | .silu => 9 | .tanh => 10

def sfuLibrary : SfuFn → Bool
  | .gelu | .silu | .tanh => true
  | _ => false

/-- Results that the spec fixes without evaluating: specials (R141) and the exact results of R149. -/
def sfuFixed (f : SfuFn) (x : FV) : Option FV :=
  match f, x with
  | _, .nan => some .nan
  | .exp, .inf neg => some (if neg then .num false 0 else .inf false)
  | .exp2, .inf neg => some (if neg then .num false 0 else .inf false)
  | .exp, .num neg m =>
    if m = 0 then some (.num false 1) else if neg && (104 : Rat) ≤ m then some (.num false 0) else none
  | .exp2, .num neg m =>
    if m = 0 then some (.num false 1) else if neg && (150 : Rat) ≤ m then some (.num false 0) else none
  | .log, .inf neg => some (if neg then .nan else .inf false)
  | .log2, .inf neg => some (if neg then .nan else .inf false)
  | .log, .num neg m => if m = 0 then some (.inf true) else if neg then some .nan else none
  | .log2, .num neg m => if m = 0 then some (.inf true) else if neg then some .nan else none
  | .rcp, .inf neg => some (.num neg 0)
  | .rcp, .num neg m => if m = 0 then some (.inf neg) else none
  | .rsqrt, .inf neg => some (if neg then .nan else .num false 0)
  | .rsqrt, .num neg m => if m = 0 then some (.inf neg) else if neg then some .nan else none
  | .gelu, .inf neg => some (if neg then .num true 0 else .inf false)
  | .silu, .inf neg => some (if neg then .num true 0 else .inf false)
  | .gelu, .num neg m =>
    if m = 0 then some x else if !neg && (6 : Rat) ≤ m then some x else if neg && (15 : Rat) ≤ m then some (.num true 0) else none
  | .silu, .num neg m =>
    if m = 0 then some x else if !neg && (18 : Rat) ≤ m then some x else if neg && (110 : Rat) ≤ m then some (.num true 0) else none
  | .tanh, .inf neg => some (.num neg 1)
  | .tanh, .num neg m =>
    if m = 0 then some x else if mkRat 902 100 ≤ m then some (.num neg 1) else none

/-- The real value of a function at a finite, non-special input (R138, R148). EXP and EXP2 are cut off where every format has
overflowed. -/
def sfuReal (f : SfuFn) (x : Rat) : Rat :=
  match f with
  | .exp => expReal (min x 200)
  | .exp2 => exp2Real (min x 300)
  | .log => lnReal x
  | .log2 => log2Real x
  | .rcp => 1 / x
  | .rsqrt => 1 / sqrtReal x
  | .gelu => geluReal x
  | .silu => siluReal x
  | .tanh => tanhReal x

/-- Spacing of FP32 values at a real (R140). -/
def ulp32 (r : Rat) : Rat :=
  if r = 0 then pow2 (-149) else pow2 ((if ilog2 (ratAbs r) < -126 then -126 else ilog2 (ratAbs r)) - 23)

/-- Error bound of a library function in FP32 (R148). -/
def libBound (f : SfuFn) (r : Rat) : Rat :=
  match f with
  | .gelu => max (3 * ulp32 r) (pow2 (-126))
  | .silu => max (2 * ulp32 r) (pow2 (-126))
  | _ => 2 * ulp32 r

/-- The error bound just below the binade of a magnitude. -/
def libBoundBelow (f : SfuFn) (r : Rat) : Rat :=
  match f with
  | .gelu => max (3 * ulp32 r / 2) (pow2 (-126))
  | .silu => max (2 * ulp32 r / 2) (pow2 (-126))
  | _ => 2 * ulp32 r / 2

/-- Least magnitude that a library function may give for the magnitude `r`: within its error bound, never below what it may give at the end of the
binade below, so that the least never falls as `r` rises, and never below 0 (R148, R150). -/
def libLow (f : SfuFn) (r : Rat) : Rat :=
  let low := r - libBound f r
  max 0 (if pow2 (-126) ≤ r then max low (pow2 (ilog2 r) - libBoundBelow f r) else low)

/-- Input at which GELU and SILU have their minimum (R150). -/
def libMin (f : SfuFn) : Option Rat :=
  match f with
  | .gelu => some (mkRat (-75179) 100000)
  | .silu => some (mkRat (-127846) 100000)
  | _ => none

/-- Function number and input order under which the magnitude of a library function never decreases: positive inputs, negative inputs down to the minimum
of GELU and SILU, and inputs below that minimum, where the order of the inputs is turned. -/
def libKey (f : SfuFn) (x : Word) : Nat × Int :=
  let o := ordOf x
  if 0 ≤ o then (sfuCode f, o)
  else match libMin f with
    | some m => if (dec32 x).toRat < m then (sfuCode f + 32, o) else (sfuCode f + 16, -o)
    | none => (sfuCode f + 16, -o)

/-- Function number and input order under which a basic function never decreases. -/
def sfuKey (f : SfuFn) (x : Word) : Nat × Int := (sfuCode f, if f = .rsqrt then -ordOf x else ordOf x)

/-- Largest FP32 position that the exact results of R149 leave the magnitude of a library function by R150. -/
def libTop (f : SfuFn) : Int :=
  match f with
  | .tanh => ordOf 0x3F800000#32
  | .gelu => ordOf 0x40C00000#32
  | _ => ordOf 0x41900000#32

/-- FP32 positions between which a library function's magnitude lies at an input. -/
def libRange (f : SfuFn) (w : Word) : Int × Int :=
  let r := ratAbs (sfuReal f (dec32 w).toRat)
  (ordUp (libLow f r), min (ordDown (r + libBound f r)) (libTop f))

/-- The input `d` steps further in the order of `libKey`. -/
def libStep (f : SfuFn) (w : Word) (d : Int) : Word :=
  let k := libKey f w
  if k.1 = sfuCode f then ofOrd false (k.2 + d) else if k.1 = sfuCode f + 16 then ofOrd true (-(k.2 + d)) else ofOrd true (k.2 + d)

/-- A seam of a function lies between the inputs at `key - 1` and `key`: R148 counts the segments and gives no breakpoints (log entry 9). -/
def seamAt (fn : Nat) (key : Int) : Bool := Config.sfuSeam fn key && !Config.sfuSeam fn (key - 1)

/-- A seam lies just below an input, and the input below it has a result of the same branch. -/
def seamBelow (f : SfuFn) (w : Word) : Bool :=
  let key := libKey f w
  f ≠ .silu && seamAt key.1 key.2 && (sfuFixed f (dec32 (libStep f w (-1)))).isNone && (libKey f (libStep f w (-1))).1 = key.1

/-- Position of the magnitude at an input that no seam lies below: just below a seam it reaches far enough that the next result needs one place more at most (R150). -/
def libBase (f : SfuFn) (w : Word) : Int :=
  let key := libKey f w
  let lim := libRange f w
  let p := pickOrd key.1 key.2 lim.1 lim.2
  let next := libStep f w 1
  if (sfuFixed f (dec32 next)).isNone && seamBelow f next then max p (min lim.2 ((libRange f next).1 - 1)) else p

/-- Position of the magnitude of a library function: across a seam it grows by at most one (R150). -/
def libOrd (f : SfuFn) (w : Word) : Int :=
  if seamBelow f w then
    let key := libKey f w
    let lim := libRange f w
    min (pickOrd key.1 key.2 lim.1 lim.2) (max lim.1 (libBase f (libStep f w (-1)) + 1))
  else libBase f w

/-- FP32 result of a function (R140, R141, R148, R149). -/
def sfu32 (f : SfuFn) (w : Word) : Word :=
  let x := dec32 w
  match sfuFixed f x with
  | some v => enc32 v
  | none =>
    if sfuLibrary f then
      let o := libOrd f w
      ofOrd x.isNeg (if x.isNeg then -o else o)
    else
      let r := sfuReal f x.toRat
      if f = .rcp then enc32 (FV.ofRat x.isNeg r)
      else if pow2 128 ≤ r then 0x7F800000#32
      else
        let key := sfuKey f w
        ofOrd false (pickOrd key.1 key.2 (ordDown r) (ordUp r))

/-- Layout of a narrow format; FP32 for `f32`. -/
def fmtLayout : WideFmt → Layout
  | .f32 => lay32 | .bf16 => layBf16 | .f16 => layF16 | .e4m3 => layE4m3 | .e5m2 => layE5m2

/-- Encode in a wide format by R68; FP32 fills the word, the others its low bits. -/
def fmtEncode (t : WideFmt) (v : FV) : Nat :=
  match t with
  | .f32 => (enc32 v).toNat
  | .bf16 => encBf16 v
  | .f16 => encF16 v
  | .e4m3 => encE4m3 v
  | .e5m2 => encE5m2 v

def fmtDecode (t : WideFmt) (x : Nat) : FV :=
  match t with
  | .f32 => dec32 (BitVec.ofNat 32 x)
  | .bf16 => decBf16 x
  | .f16 => decF16 x
  | .e4m3 => decE4m3 (x % 256)
  | .e5m2 => decE5m2 x

/-- A result of the SFU: its code in the output format, and whether it overflowed or became NaN from a number (R162). -/
structure SfuOut where
  code : Nat
  ovf : Bool
  invalid : Bool
  deriving DecidableEq, Repr, Inhabited

/-- One result of a basic or library function in an output format (R138, R139, R147, R148). -/
def sfuEval (f : SfuFn) (out : WideFmt) (w : Word) : SfuOut :=
  let x := dec32 w
  let r32 := sfu32 f w
  let v32 := dec32 r32
  if out = .f32 then
    { code := r32.toNat, ovf := v32.isInf && x.isFinite && (sfuFixed f x).isNone, invalid := v32.isNan && !x.isNan }
  else if sfuLibrary f then
    { code := fmtEncode out v32, ovf := (fmtLayout out).beyond v32, invalid := v32.isNan && !x.isNan }
  else
    match sfuFixed f x with
    | some v => { code := fmtEncode out v, ovf := (fmtLayout out).beyond v, invalid := v.isNan && !x.isNan }
    | none =>
      let v := FV.ofRat false (sfuReal f x.toRat)
      { code := fmtEncode out v, ovf := (fmtLayout out).beyond v, invalid := false }

/-! ### Micro-programs -/

/-- Fields of a micro-program header (R145). -/
structure UpHdr where
  steps : Nat
  segs : Nat
  consts : Nat
  out : Nat
  deriving DecidableEq, Repr, Inhabited

def upHdr (w : Word) : UpHdr :=
  let x := w.toNat
  { steps := bitsOf x 0 6, segs := bitsOf x 6 7, consts := bitsOf x 13 5, out := bitsOf x 18 3 }

/-- Words that a program occupies (R145). -/
def UpHdr.size (h : UpHdr) : Nat := 1 + h.steps + h.consts + (h.segs - 1) + h.segs * 6

/-- The programs of a table image, in order; `fuel` bounds their number by eight (R145). -/
def upSplit : Nat → List Word → List (List Word)
  | 0, _ => []
  | _, [] => []
  | n + 1, w :: rest =>
    let k := (upHdr w).size
    (w :: rest).take k :: upSplit n ((w :: rest).drop k)

/-- State of a lane while a micro-program runs. -/
structure UpLane where
  temps : List Word
  seg : Nat
  pred : Bool
  deriving DecidableEq, Repr, Inhabited

/-- Horner's rule from the highest coefficient down, one rounded VFMA a degree (R143). -/
def horner (x : Word) : List Word → Word
  | [] => 0#32
  | [a] => a
  | a :: rest => fma32 (horner x rest) x a

/-- FN codes of R145 and R148. -/
def fnOfCode : Nat → Option SfuFn
  | 0 => some .exp | 1 => some .exp2 | 2 => some .log | 3 => some .log2 | 4 => some .rcp | 5 => some .rsqrt
  | 8 => some .gelu | 9 => some .silu | 10 => some .tanh | _ => none

/-- Result of an ALU step (R145). -/
def upAlu (op : Nat) (a b c : Word) : Word :=
  match op with
  | 0 => add32 a b
  | 1 => sub32 a b
  | 2 => mul32 a b
  | 3 => fma32 a b c
  | 4 => min32 a b
  | 5 => max32 a b
  | 6 => enc32 (dec32 a).abs
  | 7 => enc32 (dec32 a).neg
  | _ => enc32 ((dec32 a).withSign (b.toNat / 2 ^ 31 = 1))

/-- Segment of an input: the number of breakpoints at or below it (R144). DESIGN CHOICE (log entry 83): a temporary that became NaN, of which R144 says
nothing, selects the last segment. -/
def segOf (breaks : List Word) (x : Word) : Nat :=
  (breaks.filter fun b => !((dec32 x).lt (dec32 b))).length

/-- One step of a micro-program on one lane (R143 to R145). -/
def upStep (consts breaks coeffs : List Word) (ln : UpLane) (w : Word) : UpLane :=
  let x := w.toNat
  let op := bitsOf x 4 4
  let temp := fun lo => ln.temps.getD (bitsOf x lo 3) 0#32
  let k := consts.getD (bitsOf x 20 4) 0#32
  let a := temp 11
  let b := if bitsOf x 24 1 = 1 then k else temp 14
  let c := if bitsOf x 25 1 = 1 then k else temp 17
  let put := fun (v : Word) => { ln with temps := ln.temps.set (bitsOf x 8 3) v }
  match bitsOf x 0 4 with
  | 0 => put (upAlu op a b c)
  | 1 => { ln with seg := segOf breaks a }
  | 2 => put (horner a (((coeffs.drop (6 * ln.seg)).take 6).take (op + 1)))
  | 3 => match fnOfCode op with
    | some f => put (sfu32 f a)
    | none => ln
  | 4 => { ln with pred := if op = 0 then (dec32 a).eq (dec32 b) else if op = 1 then (dec32 a).lt (dec32 b)
                           else (dec32 a).lt (dec32 b) || (dec32 a).eq (dec32 b) }
  | 5 => put (if ln.pred then a else b)
  | _ => ln

/-- Run a program on one input: the FP32 value of its output temporary (R143, R144). DESIGN CHOICE (log entry 83): before a step writes them, t1 to t7
hold +0, the predicate is false and the segment is 0, of which R143 says nothing. -/
def upRun (prog : List Word) (x : Word) : Word :=
  if isNan32 x then 0x7FC00000#32
  else
    let h := upHdr (prog.headD 0#32)
    let steps := (prog.drop 1).take h.steps
    let consts := (prog.drop (1 + h.steps)).take h.consts
    let breaks := (prog.drop (1 + h.steps + h.consts)).take (h.segs - 1)
    let coeffs := prog.drop (1 + h.steps + h.consts + (h.segs - 1))
    let start : UpLane := { temps := x :: List.replicate 7 0#32, seg := 0, pred := false }
    (steps.foldl (upStep consts breaks coeffs) start).temps.getD h.out 0#32

/-- One result of a micro-program in an output format (R147, R162). DESIGN CHOICE (log entry 100): an infinite FP32 result of a finite input counts as an overflow; an
infinite FP32 result in a narrower format does not count again. -/
def upEval (prog : List Word) (out : WideFmt) (x : Word) : SfuOut :=
  let v := dec32 (upRun prog x)
  { code := fmtEncode out v,
    ovf := if out = .f32 then v.isInf && (dec32 x).isFinite else (fmtLayout out).beyond v,
    invalid := v.isNan && !isNan32 x }

end Sys2Proof.Machine
end

