-- ==== Sys2Proof/Machine/Vector.lean ====
section
/-! DEFINITION. The vector unit's commands (R130 to R137, R151 to R162): arithmetic, signs, comparisons, selection, conversions, reductions,
row statistics, masking, loads and stores. -/
namespace Sys2Proof.Machine

/-! ### Arithmetic (R134 to R136) -/

def arg (l : List FV) (i : Nat) : FV := l.getD i (.num false 0)

/-- A sum, difference or product, rounded once to the operand format. -/
def execVadd (nib : Nat) (form : VForm) (dst : Nat) (a b : VSrc) (s : State) : Out State :=
  s.onNib nib fun s => s.lanewise nib dst (laneOp form fun v => (arg v 0).add (arg v 1)) [a, b]

def execVsub (nib : Nat) (form : VForm) (dst : Nat) (a b : VSrc) (s : State) : Out State :=
  s.onNib nib fun s => s.lanewise nib dst (laneOp form fun v => (arg v 0).sub (arg v 1)) [a, b]

def execVmul (nib : Nat) (form : VForm) (dst : Nat) (a b : VSrc) (s : State) : Out State :=
  s.onNib nib fun s => s.lanewise nib dst (laneOp form fun v => (arg v 0).mul (arg v 1)) [a, b]

/-- a × b + c, rounded once. -/
def execVfma (nib : Nat) (form : VForm) (dst : Nat) (a b c : VSrc) (s : State) : Out State :=
  s.onNib nib fun s => s.lanewise nib dst (laneOp form fun v => ((arg v 0).mul (arg v 1)).add (arg v 2)) [a, b, c]

/-- acc + a_lo × b_lo, rounded, then + a_hi × b_hi, rounded. -/
def dot2 (ws : List Word) : Word × Nat :=
  let acc := dec32 (ws.getD 0 0#32)
  let part := fun h => (decBf16 (halfOf (ws.getD 1 0#32) h)).mul (decBf16 (halfOf (ws.getD 2 0#32) h))
  let r := dec32 (enc32 ((dec32 (enc32 (acc.add (part 0)))).add (part 1)))
  let args := acc :: [1, 2].flatMap fun i => [decBf16 (halfOf (ws.getD i 0#32) 0), decBf16 (halfOf (ws.getD i 0#32) 1)]
  (enc32 r, madeNan r args)

def execVdot2 (nib dst : Nat) (acc a b : VSrc) (s : State) : Out State :=
  s.onNib nib fun s => s.lanewise nib dst dot2 [acc, a, b]

def execVmin (nib : Nat) (form : VForm) (dst : Nat) (a b : VSrc) (s : State) : Out State :=
  s.onNib nib fun s => s.lanewise nib dst (laneOp form fun v => (arg v 0).min (arg v 1)) [a, b]

def execVmax (nib : Nat) (form : VForm) (dst : Nat) (a b : VSrc) (s : State) : Out State :=
  s.onNib nib fun s => s.lanewise nib dst (laneOp form fun v => (arg v 0).max (arg v 1)) [a, b]

/-! ### Signs: a NaN becomes the canonical NaN (R134, R136) -/

/-- Set the sign of an element by its operands' sign bits: `f` gives it from the bits of a and b. -/
def signLane (form : VForm) (f : Bool → Bool → Bool) (ws : List Word) : Word × Nat :=
  let a := ws.getD 0 0#32
  let b := ws.getD 1 0#32
  match form with
  | .f32 => (enc32 ((dec32 a).withSign (f (a.getLsbD 31) (b.getLsbD 31))), 0)
  | .bf16 =>
    let one := fun h => encBf16 ((decBf16 (halfOf a h)).withSign (f (a.getLsbD (16 * h + 15)) (b.getLsbD (16 * h + 15))))
    (pairOf (one 0) (one 1), 0)

def execVabs (nib : Nat) (form : VForm) (dst : Nat) (a : VSrc) (s : State) : Out State :=
  s.onNib nib fun s => s.lanewise nib dst (signLane form fun _ _ => false) [a]

def execVneg (nib : Nat) (form : VForm) (dst : Nat) (a : VSrc) (s : State) : Out State :=
  s.onNib nib fun s => s.lanewise nib dst (signLane form fun x _ => !x) [a]

def execVcopysign (nib : Nat) (form : VForm) (dst : Nat) (a b : VSrc) (s : State) : Out State :=
  s.onNib nib fun s => s.lanewise nib dst (signLane form fun _ y => y) [a, b]

/-! ### Comparison and selection (R134) -/

def condHolds (c : VCond) (a b : FV) : Bool :=
  match c with
  | .eq => a.eq b
  | .lt => !a.isNan && !b.isNan && a.lt b
  | .le => !a.isNan && !b.isNan && (a.lt b || a.eq b)
  | .unord => a.isNan || b.isNan

/-- A predicate from one truth value a lane. -/
def predOf (bs : List Bool) : BitVec 64 := BitVec.ofNat 64 (sumNat (bs.mapIdx fun i b => if b then 2 ^ i else 0))

def execVcmp (nib : Nat) (cond : VCond) (pred : Nat) (a b : VSrc) (s : State) : Out State :=
  s.onNib nib fun s =>
    s.setPreg nib pred (predOf (List.zipWith (fun x y => condHolds cond (dec32 x) (dec32 y)) (s.vsrc nib a) (s.vsrc nib b)))

def execVsel (nib dst pred : Nat) (a b : VSrc) (s : State) : Out State :=
  s.onNib nib fun s =>
    let p := s.preg nib pred
    s.setVreg nib dst ((List.range 64).map fun i => if p.getLsbD i then (s.vsrc nib a).getD i 0#32 else (s.vsrc nib b).getD i 0#32)

/-! ### Conversion (R67, R68; places by log entry 21) -/

/-- Values of a source register in a format: BF16 holds two a lane, the others one in the low bits. -/
def formValues (f : WideFmt) (ws : List Word) : List FV :=
  match f with
  | .bf16 => ws.flatMap fun w => [decBf16 (halfOf w 0), decBf16 (halfOf w 1)]
  | _ => ws.map fun w => fmtDecode f w.toNat

/-- Registers that codes of a format fill: BF16 two a lane, the others one in the low bits. -/
def formWords (f : WideFmt) (codes : List Nat) : List Word :=
  match f with
  | .bf16 => packPairs codes
  | _ => codes.map w32

/-- Put codes into `dst`, and into `dst + 1` where they exceed one register. -/
def State.putCodes (s : State) (nib dst : Nat) (f : WideFmt) (codes : List Nat) : State :=
  let ws := formWords f codes
  if ws.length ≤ 64 then s.setVreg nib dst (fillLanes ws)
  else (s.setVreg nib dst (ws.take 64)).setVreg nib (dst + 1) (fillLanes (ws.drop 64))

def execVcvt (nib : Nat) (source target : WideFmt) (dst : Nat) (a : VSrc) (s : State) : Out State :=
  s.onNib nib fun s => s.putCodes nib dst target ((formValues source (s.vsrc nib a)).map (fmtEncode target))

/-! ### Reductions over 64 lanes (R136, R137) -/

/-- One level of the pairwise tree. -/
def pairLevel (f : Word → Word → Word) : List Word → List Word
  | a :: b :: rest => f a b :: pairLevel f rest
  | l => l

/-- Partial 2i with partial 2i + 1, an odd last one unchanged, level by level until one is left (R153). -/
def mergeLevels {α : Type} (f : List α → List α) (xs : List α) : List α := (List.range xs.length).foldl (fun l _ => f l) xs

/-- Words merged level by level. -/
def mergeWords (f : Word → Word → Word) (xs : List Word) : Word := (mergeLevels (pairLevel f) xs).headD 0#32

/-- Six levels of the tree. -/
def treeOf (f : Word → Word → Word) (ws : List Word) : Word :=
  ((List.range 6).foldl (fun l _ => pairLevel f l) (fillLanes ws)).headD 0#32

/-- A NaN that a reduction makes from lanes that hold none. -/
def redInvalid (r : Word) (ws : List Word) : Nat := newNan r ws

def execVredsum (nib dst : Nat) (a : VSrc) (s : State) : Out State :=
  s.onNib nib fun s =>
    let ws := s.vsrc nib a
    let r := treeOf add32 ws
    (s.setVreg nib dst (fillLanes [r])).modNib nib fun x => { x with vinvalid := satAdd x.vinvalid (redInvalid r ws) }

/-- A maximum or minimum of the lanes in lane 0; the spec says nothing of the other lanes (log entry 22). -/
def State.reduceTo (s : State) (nib dst : Nat) (f : Word → Word → Word) (a : VSrc) : State :=
  s.setVreg nib dst (treeOf f (s.vsrc nib a) :: freeWords 0 (wordNats (s.vsrc nib a)) 63)

def execVredmax (nib dst : Nat) (a : VSrc) (s : State) : Out State :=
  s.onNib nib fun s => s.reduceTo nib dst max32 a

def execVredmin (nib dst : Nat) (a : VSrc) (s : State) : Out State :=
  s.onNib nib fun s => s.reduceTo nib dst min32 a

/-! ### Row statistics (R151, R152, R154) -/

/-- A partial: count, mean and M2. -/
structure Partial where
  n : Word
  mu : Word
  m2 : Word
  deriving DecidableEq, Repr, Inhabited

/-- A quotient of two counts rounded once. -/
def ratio32 (a b : Nat) : Word := rat32 (mkRat a b)

/-- Update with one value. At a count of 0xFFFF_FFFF the spec gives no result: `fr` is free. -/
def welf (p : Partial) (x : Word) (fr : Word) : Partial :=
  if p.n = 0#32 then { n := 1#32, mu := enc32 (dec32 x), m2 := if isNan32 x then 0x7FC00000#32 else 0#32 }
  else if p.n = 0xFFFFFFFF#32 then { n := fr, mu := 0x7FC00000#32, m2 := 0x7FC00000#32 }
  else
    let n1 := p.n.toNat + 1
    let d := sub32 x p.mu
    let mu := add32 p.mu (enc32 ((dec32 d).div (.num false (n1 : Rat))))
    let rho := ratio32 p.n.toNat n1
    { n := w32 n1, mu := mu, m2 := add32 p.m2 (mul32 (mul32 d d) rho) }

/-- Merge two partials. A count beyond 0xFFFF_FFFF gives NaN for the mean and M2 (R153); the stored count is then free. -/
def wmerge (a b : Partial) (fr : Word) : Partial :=
  if b.n = 0#32 then a
  else if a.n = 0#32 then b
  else
    let n := a.n.toNat + b.n.toNat
    if 0xFFFFFFFF < n then { n := fr, mu := 0x7FC00000#32, m2 := 0x7FC00000#32 }
    else
      let d := sub32 b.mu a.mu
      let mu := add32 a.mu (mul32 d (ratio32 b.n.toNat n))
      let m2 := add32 (add32 a.m2 b.m2) (mul32 (mul32 d d) (ratio32 (a.n.toNat * b.n.toNat) n))
      { n := w32 n, mu := mu, m2 := m2 }

/-- The partials that three registers or sources hold. -/
def partialsOf (n mu m2 : List Word) : List Partial :=
  (List.range 64).map fun i => { n := n.getD i 0#32, mu := mu.getD i 0#32, m2 := m2.getD i 0#32 }

/-- The three words of a partial. -/
def partialWords (p : Partial) : List Word := [p.n, p.mu, p.m2]

/-- Store partials back and count lanes whose mean or M2 became NaN from operands without NaN. DESIGN CHOICE (log entry 101): a lane in which both do counts once. -/
def State.putPartials (s : State) (nib n mu m2 : Nat) (ps : List Partial) (clean : List Bool) : State :=
  let bad := List.zipWith (fun (p : Partial) c => if c && (isNan32 p.mu || isNan32 p.m2) then 1 else 0) ps clean
  let s := ((s.setVreg nib n (ps.map (·.n))).setVreg nib mu (ps.map (·.mu))).setVreg nib m2 (ps.map (·.m2))
  s.modNib nib fun x => { x with vinvalid := satAdd x.vinvalid (sumNat bad) }

def cleanPartial (p : Partial) : Bool := !isNan32 p.mu && !isNan32 p.m2

def execVwelf (nib n mu m2 : Nat) (x : VSrc) (s : State) : Out State :=
  s.onNib nib fun s =>
    let ps := partialsOf (s.vreg nib n) (s.vreg nib mu) (s.vreg nib m2)
    let xs := s.vsrc nib x
    let fr := freeWords 4 (wordNats (ps.flatMap partialWords ++ xs)) 64
    let out := (List.range 64).map fun i => welf (ps.getD i default) (xs.getD i 0#32) (fr.getD i 0#32)
    s.putPartials nib n mu m2 out (List.zipWith (fun p w => cleanPartial p && !isNan32 w) ps xs)

/-- One level of merges, with the free words that counts beyond 0xFFFF_FFFF take. -/
def mergePartials (fr : List Word) : List (Nat × Partial) → List (Nat × Partial)
  | (i, a) :: (_, b) :: rest => (i, wmerge a b (fr.getD i 0#32)) :: mergePartials fr rest
  | l => l

/-- Merges of one level whose result is NaN though neither partial is (R162). -/
def mergeInvalid (fr : List Word) : List (Nat × Partial) → Nat
  | (i, a) :: (_, b) :: rest =>
    (if cleanPartial a && cleanPartial b && !cleanPartial (wmerge a b (fr.getD i 0#32)) then 1 else 0) + mergeInvalid fr rest
  | _ => 0

/-- Partials merged level by level (R153), 64 of them as the tree of R137 has it, and the invalid results of the merges. -/
def foldPartials (fr : List Word) (ps : List Partial) : Partial × Nat :=
  let r := (List.range ps.length).foldl (fun (acc : List (Nat × Partial) × Nat) _ => (mergePartials fr acc.1, acc.2 + mergeInvalid fr acc.1))
    (ps.zipIdx.map fun e => (e.2, e.1), 0)
  ((r.1.map (·.2)).headD { n := 0#32, mu := 0#32, m2 := 0#32 }, r.2)

/-- Lane by lane, each partial of the three registers takes the partial of the second operand after it (R152). A fold merges the partials of the second
operand's lowest lanes into one by R153, in lane 0; the spec says nothing of the other lanes (log entry 22). -/
def execVwmerge (nib n mu m2 : Nat) (bn : MergeCount) (bmu bm2 : VSrc) (s : State) : Out State :=
  s.onNib nib fun s =>
    let bs := fun c => partialsOf (s.vsrc nib c) (s.vsrc nib bmu) (s.vsrc nib bm2)
    match bn with
    | .each c =>
      let bs := bs c
      let as := partialsOf (s.vreg nib n) (s.vreg nib mu) (s.vreg nib m2)
      let fr := freeWords 5 (wordNats ((as ++ bs).flatMap partialWords)) 64
      let out := (List.range 64).map fun i => wmerge (as.getD i default) (bs.getD i default) (fr.getD i 0#32)
      s.putPartials nib n mu m2 out (List.zipWith (fun p q => cleanPartial p && cleanPartial q) as bs)
    | .fold c k =>
      let ps := (bs c).take k
      let r := foldPartials (freeWords 6 (wordNats (ps.flatMap partialWords)) 64) ps
      let free := fun site => freeWords site (wordNats (ps.flatMap partialWords)) 63
      let s := s.putPartials nib n mu m2 (r.1 :: (partialsOf (free 11) (free 12) (free 13)).take 63) []
      s.modNib nib fun x => { x with vinvalid := satAdd x.vinvalid r.2 }

/-! ### Masking (R160) -/

/-- Mask or clamp one score: the value and whether it was raised to -2^63. -/
def maskElem (v : FV) (code constant floor : Nat) (masked : Bool) : Nat × Nat :=
  if masked then (constant, 0)
  else if !v.isNan && v.lt (.num true (pow2 63)) then (floor, 1)
  else (code, 0)

/-- Predicate bit l governs lane l, in BF16 both its elements (log entry 21). -/
def maskLane (form : VForm) (w : Word) (masked : Bool) : Word × Nat :=
  match form with
  | .f32 =>
    let r := maskElem (dec32 w) w.toNat 0xDF800000 0xDF000000 masked
    (w32 r.1, r.2)
  | .bf16 =>
    let one := fun h => maskElem (decBf16 (halfOf w h)) (halfOf w h) 0xDF80 0xDF00 masked
    (pairOf (one 0).1 (one 1).1, (one 0).2 + (one 1).2)

def execVmask (nib : Nat) (form : VForm) (dst pred : Nat) (a : VSrc) (s : State) : Out State :=
  s.onNib nib fun s =>
    let p := s.preg nib pred
    let rs := (s.vsrc nib a).mapIdx fun i w => maskLane form w (p.getLsbD i)
    (s.setVreg nib dst (rs.map (·.1))).modNib nib fun x => { x with vmclamp := satAdd x.vmclamp (sumNat (rs.map (·.2))) }

/-! ### Loads and stores (R131, R132) -/

/-- A load of a line of values, or of four records (R131, R155, R171); `ecc` is an error of the line that this load meets. -/
def execVectorLoad (nib dst line : Nat) (kind : LoadKind) (hdr : Option Nat) (col0 quarter : Nat) (ecc : EccResult) (s : State) : Out State :=
  s.onNib nib fun s =>
    let s := s.upsetAt { space := .t0 nib, at_ := line } ecc
    match kind with
    | .values fmt => s.loadLine nib dst line fmt hdr col0 quarter
    | .statRecords => s.loadRecords nib dst line quarter false
    | .rowRecords => s.loadRecords nib dst line quarter true

/-- Elements that a list of registers holds in the form of a stored format: BF16 two a lane, the others one FP32 value a lane. -/
def storeValues (fmt : Nat) (regs : List (List Word)) : List FV :=
  regs.flatMap fun ws => if fmt = 6 then formValues .bf16 ws else ws.map dec32

/-- The tag of a record: a statistic record whose MEAN or M2 is NaN is poisoned, one of count 0 is empty; a row record whose MAX or SUM is NaN is
poisoned (R155, R171). -/
def recordTag (rows : Bool) (ws : List Word) : Byte :=
  if rows then (if isNan32 (ws.getD 0 0#32) || isNan32 (ws.getD 1 0#32) then 0xFF#8 else 0x78#8)
  else if isNan32 (ws.getD 1 0#32) || isNan32 (ws.getD 2 0#32) then 0xFF#8
  else if ws.getD 0 0#32 = 0#32 then 0#8 else 0x78#8

/-- A line of up to four records of four words. -/
def recordLine (rows : Bool) (recs : List (List Word)) : Line :=
  mkLine ((List.range 4).flatMap fun q => (List.range 4).flatMap fun i => leBytes 4 ((recs.getD q []).getD i 0#32).toNat)
    ((List.range 4).map fun q => match recs[q]? with
      | some ws => recordTag rows ws
      | none => 0#8)

/-- The records of the lowest `n` lanes of three registers (N, MEAN, M2) or of four (MAX, SUM, LIVE, STATUS); the reserved word is 0. -/
def laneRecords (regs : List (List Word)) (n : Nat) : List (List Word) :=
  (List.range n).map fun i => (List.range 4).map fun k => (regs.getD k []).getD i 0#32

/-- Write records four a line. -/
def State.storeRecords (s : State) (nib line : Nat) (rows : Bool) (recs : List (List Word)) : Nat → State
  | 0 => s
  | n + 1 => (s.t0Write nib line (recordLine rows (recs.take 4))).storeRecords nib (line + 1) rows (recs.drop 4) n

/-- Row records count fully masked rows and rows with NAN set (R174, R193). -/
def State.countRows (s : State) (nib : Nat) (recs : List (List Word)) : State :=
  let sts := recs.map fun r => r.getD 3 0#32
  s.modNib nib fun x => { x with attfull := satAdd x.attfull ((sts.filter (·.getLsbD 0)).length),
                                 attnan := satAdd x.attnan ((sts.filter (·.getLsbD 1)).length) }

end Sys2Proof.Machine
end

