-- ==== Sys2Proof/Machine/Attention.lean ====
section
/-! DEFINITION. Attention outside the arrays: which positions are masked (R164, R165), the score area (R167), the steps of sweep one (R166), sweep two with
row sums and row records (R169 to R171, R174), the wide path (R176), and what a PV product takes from records and tails (R172, R182, R189). -/
namespace Sys2Proof.Machine

/-- The mask constant -2^64 (R160). -/
def maskWord : Word := 0xDF800000#32

/-! ### Positions and masks (R164, R165) -/

/-- The chunk size in tokens of the running job. -/
def State.chunkSize (s : State) : Nat := match s.strk.run with | some j => j.desc.chunk | none => 0

/-- Query position of a row. -/
def queryPos (d : AttnDesc) (row : Nat) : Nat := d.q0 + row / d.gqa

/-- MASK_KIND leaves key position `k` unmasked for query position `q`. -/
def kindSees (d : AttnDesc) (chunk q k : Nat) : Bool :=
  match d.maskKind with
  | 0 => true
  | 1 => k ≤ q
  | 2 => k / chunk ≤ q / chunk
  | 3 => q / chunk < k / chunk + d.window && k / chunk ≤ q / chunk
  | _ => q < k + d.window && k ≤ q

/-- The positions of block `w` of the window that are masked for a row: by MASK_KIND, or at or above the block's published fill. -/
def maskedKeys (d : AttnDesc) (chunk fill row w : Nat) : List Bool :=
  (List.range 256).map fun o => fill ≤ o || !kindSees d chunk (queryPos d row) (256 * (d.slot0 + w) + o)

/-- The block-list slot of block `w` of the window. -/
def windowSlot (d : AttnDesc) (w : Nat) : ListSlot := { list := d.list, slot := d.slot0 + w }

/-- KV head of a query block's rows (R179). -/
def kvHead (q : QueryBlock) : Nat := q.head0 / q.desc.kvRatio

/-- Unmasked positions of a row over the window whose blocks have these fills. -/
def liveOf (d : AttnDesc) (chunk row : Nat) (fills : List Nat) : Nat :=
  sumNat (fills.mapIdx fun w f => ((maskedKeys d chunk f row w).filter (!·)).length)

/-! ### The score area (R167) -/

/-- The place of the line that holds the scores of a row from window position `j` on. -/
def scorePlace (d : AttnDesc) (die row j : Nat) : Place :=
  let e := elemsPerLine d.scoreFmt
  if j < d.wellKeys then { space := .well die, at_ := d.wellAt + row * (d.wellKeys / e) + j / e }
  else { space := .line, at_ := lineStep d.spillAt (row * ((256 * d.blocks - d.wellKeys) / e) + (j - d.wellKeys) / e) }

/-- Places of the lines of a row's scores for block `w`. -/
def scorePlaces (d : AttnDesc) (die row w : Nat) : List Place :=
  (List.range (256 / elemsPerLine d.scoreFmt)).map fun i => scorePlace d die row (256 * w + i * elemsPerLine d.scoreFmt)

/-- Some of a row's scores lie in the spill area. -/
def spills (d : AttnDesc) : Bool := d.wellKeys < 256 * d.blocks

/-- A score as it is stored, in FP32 form (R166 step 3). -/
def storedScore (fmt : Nat) (w : Word) : Word := if fmt = 6 then enc32 (decBf16 (encBf16 (dec32 w))) else enc32 (dec32 w)

/-- Write a row's scores for block `w`; lines of the spill area count at the writing nib. -/
def State.putScores (s : State) (nib : Nat) (d : AttnDesc) (row w : Nat) (ws : List Word) : State :=
  let e := elemsPerLine d.scoreFmt
  ((scorePlaces d (nib / 2048) row w).zipIdx).foldl (fun s p =>
    let s := s.placeWrite p.1 (widePosition d.scoreFmt e (((ws.drop (e * p.2)).take e).map dec32)) .job
    if p.1.space = .line then s.modNib nib fun x => { x with attspill := satAdd x.attspill 1 } else s) s

/-- A place as a nib reaches it: a line of T0 is one of its own, a well line one of its die's well (R21, R22). -/
def nibPlace (nib : Nat) (p : Place) : Place :=
  match p.space with
  | .t0 _ => { p with space := .t0 nib }
  | .well _ => { p with space := .well (nib / 2048) }
  | _ => p

/-- A line that a nib reads: its own memories' it checks itself, a line of T2 comes through a mover of its die, which checks it (R22, R52, R237). By raw address it
reads nothing (R232). -/
def State.nibFetch (s : State) (nib : Nat) (p : Place) : State × Line :=
  match p.space with
  | .line => s.moverNowOf (nib / 2048) p.at_
  | .raw => (s.pmapBad (p.at_ / 2 ^ 24), zeroLine)
  | _ =>
    let x := s.placeRead (nibPlace nib p)
    let l := x.2.getD poisonedLine
    if lineOk l then (x.1, l) else (x.1.modNib nib fun x => { x with lchkerr := satAdd x.lchkerr 1 }, poisonLine l)

/-- A nib's write of a line; a line of T2 goes through a mover. -/
def State.nibWrite (s : State) (nib : Nat) (p : Place) (l : Line) : State :=
  match p.space with
  | .raw => s.pmapBad (p.at_ / 2 ^ 24)
  | _ => s.placeWrite (nibPlace nib p) l .job

/-- Read lines and gather their elements as FP32 words. -/
def State.fetchWords (s : State) (nib fmt : Nat) : List Place → State × List Word
  | [] => (s, [])
  | p :: rest =>
    let r := s.nibFetch nib p
    let more := r.1.fetchWords nib fmt rest
    (more.1, (tagElems fmt r.2).map (·.2) ++ more.2)

/-! ### Sweep one (R166) -/

/-- A row's scores as stored and how many of them VMASK raised: scaled, masked, converted. -/
def scoreRow (d : AttnDesc) (masked : List Bool) (ys : List Word) : List Word × Nat :=
  let rs := masked.mapIdx fun o m => maskLane .f32 (mul32 (ys.getD o 0#32) d.scoreScale) m
  (rs.map fun r => storedScore d.scoreFmt r.1, sumNat (rs.map (·.2)))

/-- VMAX of the row's scores into its running maximum: row `r` has lane r mod 64 of register `reg` + r ÷ 64. -/
def State.putMax (s : State) (nib reg row : Nat) (ws : List Word) : State :=
  let v := s.vreg nib (reg + row / 64)
  s.setVreg nib (reg + row / 64) (v.set (row % 64) (ws.foldl max32 (v.getD (row % 64) 0#32)))

/-- The row's mask-status word will have CLAMP set (R171). -/
def State.noteClamp (s : State) (d : AttnDesc) (row n : Nat) : State :=
  if n = 0 || s.clamps.contains (d.recordsAt, row) then s else { s with clamps := s.clamps ++ [(d.recordsAt, row)] }

/-- The epilogue of sweep one on the results of rows from `row`. -/
def State.sweepOne (s : State) (nib : Nat) (d : AttnDesc) (fill w maxReg row : Nat) : List (List Word) → State
  | [] => s
  | ys :: rest =>
    let r := scoreRow d (maskedKeys d s.chunkSize fill row w) ys
    let s := s.modNib nib fun x => { x with vmclamp := satAdd x.vmclamp r.2 }
    ((((s.noteClamp d row r.2).putScores nib d row w r.1).putMax nib maxReg row r.1).sweepOne nib d fill w maxReg (row + 1) rest)

/-! ### Row records (R171) -/

/-- The mask-status word. -/
def statusWord (full nan single clamp pflush spill psat : Bool) : Word :=
  w32 (sumNat ([full, nan, single, clamp, pflush, spill, psat].mapIdx fun i b => if b then 2 ^ i else 0))

/-- Put a row's record into its quarter of the row-record area. -/
def State.putRecord (s : State) (nib : Nat) (d : AttnDesc) (row : Nat) (ws : List Word) : State :=
  let p := placeStep d.recordsAt (row / 4)
  let r := s.nibFetch nib p
  let b := row % 4
  let l := mkLine ((r.2.take 64).take (16 * b) ++ (List.range 4).flatMap (fun i => leBytes 4 (ws.getD i 0#32).toNat) ++ (r.2.take 64).drop (16 * b + 16))
    (((r.2.drop 64).take 4).set b (recordTag true ws))
  r.1.nibWrite nib p l

/-- A row's record as the PV product reads it: a poisoned one gives NaN for MAX and SUM. -/
def State.rowRecord (s : State) (nib : Nat) (d : AttnDesc) (row : Nat) : State × List Word :=
  let r := s.nibFetch nib (placeStep d.recordsAt (row / 4))
  (r.1, (recordWords badRow r.2).getD (row % 4) [])

/-- The record of a row is written and counted, and its CLAMP mark is used up. -/
def State.closeRow (s : State) (nib : Nat) (d : AttnDesc) (row : Nat) (ws : List Word) : State :=
  let s := { s with clamps := s.clamps.filter (· ≠ (d.recordsAt, row)) }
  (s.putRecord nib d row ws).countRows nib [ws]

/-! ### Sweep two (R169, R170, R174) -/

/-- The probability tile of block `w`, whose header stands at T0 line `line` and its rows of two lines after it (R169). -/
def probOut (q : QueryBlock) (w line row : Nat) : OutDesc :=
  { fmt := 1, hdr := some line, line := line + 1, stride := 2, tileScale := some 0x3F800000#32,
    blockScale := if q.desc.pmode = 1 then some (BitVec.ofNat 8 q.desc.pscale) else none, sr := q.desc.pround = 1, stream := q.desc.pstream,
    tileIndex := (q.qb * q.desc.blocks + w) % 65536, rows := q.desc.qrows, validK := 256, row0 := row, col0 := 0, layer := 0, flourish := .none }

/-- The blocks of a row of a probability tile as the quantiser gives them. -/
def probBlocks (o : OutDesc) (h : Option Nat) (full : Bool) (ps : List FV) : List QBlk :=
  (List.range 2).flatMap fun i => quantPosition o 1 h (4 * (2 * o.row0 + i)) 128 full ((ps.drop (128 * i)).take 128)

/-- Decoded probabilities of FP4 blocks, in FP32. -/
def probWords (bs : List QBlk) : List Word :=
  bs.flatMap fun b => b.blk.codes.map fun c =>
    if b.blk.scale = 0xFF then 0x7FC00000#32 else if b.blk.scale = 0 then 0#32 else rat32 (mkRat (fp4Half c) 2 * ueVal b.blk.scale)

/-- Every 64 keys add to the lanes, and the tree adds the lanes (R170 steps 1 and 2). -/
def laneTreeSum (ws : List Word) : Word :=
  treeOf add32 ((List.range (ceilDiv ws.length 64)).foldl (fun acc i => List.zipWith add32 acc (fillLanes ((ws.drop (64 * i)).take 64))) zeroLanes)

/-- The row sum of decoded probabilities block by block, of which each nib adds `parts` blocks, merged in order (R170 step 3). -/
def rowSum (parts : List Nat) (blocks : List (List Word)) : Word :=
  let starts := parts.mapIdx fun i n => (sumNat (parts.take i), n)
  mergeWords add32 (starts.map fun e => laneTreeSum (((blocks.drop e.1).take e.2).flatMap id))

/-- Lease every block of the window and read its published fill. -/
def State.windowFills (s : State) (d : AttnDesc) (w : Nat) : Nat → State × List Nat
  | 0 => (s, [])
  | n + 1 =>
    let r := s.readListSlot (windowSlot d w) false
    let rest := r.1.windowFills d (w + 1) n
    (rest.1, r.1.readFill r.2 :: rest.2)

/-- The stored scores of a row, block by block. -/
def State.rowScores (s : State) (nib : Nat) (d : AttnDesc) (row w : Nat) : Nat → State × List (List Word)
  | 0 => (s, [])
  | n + 1 =>
    let r := s.fetchWords nib d.scoreFmt (scorePlaces d (nib / 2048) row w)
    let rest := r.1.rowScores nib d row (w + 1) n
    (rest.1, r.2 :: rest.2)

/-- What sweep two forms of a row: its maximum, whether it is fully masked or NaN, and its probabilities block by block. -/
structure Sweep where
  max : Word
  full : Bool
  nan : Bool
  probs : List (List FV)
  invalid : Nat
  deriving DecidableEq, Repr, Inhabited

/-- p = EXP (s - m); NaN throughout where m is NaN or +infinity; not evaluated where the row is fully masked. -/
def sweepOf (scores : List (List Word)) : Sweep :=
  let m := (scores.flatMap id).foldl max32 maskWord
  let full := m = maskWord
  let nan := isNan32 m || m = 0x7F800000#32
  { max := m, full := full, nan := nan,
    probs := scores.map fun b => b.map fun x => if full then .num false 0 else if nan then .nan else dec32 (sfu32 .exp (sub32 x m)),
    invalid := if full then 0 else sumNat (scores.map fun b => sumNat (b.map fun x => madeNan ((dec32 x).sub (dec32 m)) [dec32 x, dec32 m])) }

/-- The tile hash of a probability tile under stochastic rounding. -/
def State.probHash (s : State) (o : OutDesc) : Option Nat :=
  if o.sr then some (tileHash s.launchCount s.strokeNum o.stream o.tileIndex) else none

/-- Sweep two of one row of a query block. -/
def State.sweepRow (s : State) (nib : Nat) (q : QueryBlock) (parts tiles : List Nat) (row : Nat) : State :=
  let d := q.desc
  let f := s.windowFills d 0 d.blocks
  let sc := f.1.rowScores nib d row 0 d.blocks
  let sw := sweepOf sc.2
  let s := sc.1.modNib nib fun x => { x with vinvalid := satAdd x.vinvalid sw.invalid }
  let outs := (List.range d.blocks).map fun w => probOut q w (tiles.getD w 0) row
  let blks := outs.mapIdx fun w o => probBlocks o (s.probHash o) sw.full (sw.probs.getD w [])
  let s := (outs.zipIdx).foldl (fun s e => s.writeTile nib e.1 false 1 [sw.full] [sw.probs.getD e.2 []]) s
  let live := if sw.full then 0 else liveOf d s.chunkSize row f.2
  let sum := if sw.full then 0#32 else rowSum (if parts.isEmpty then [d.blocks] else parts) (blks.map probWords)
  let status := statusWord sw.full sw.nan (live = 1) (s.clamps.contains (d.recordsAt, row)) ((blks.flatMap id).any fun b => b.flush ≠ 0) (spills d)
    ((blks.flatMap id).any fun b => b.sat ≠ 0)
  s.closeRow nib d row [sw.max, sum, w32 live, status]

/-! ### What a PV product takes (R172, R182, R189) -/

/-- A block of a PV product: its entry, none for the poison block, its value extent, its published fill, and where it owns a tail the tail's values channel by channel. -/
structure PvBlock where
  entry : Option Nat
  extent : Nat
  fill : Nat
  tail : Option (List (List Word))
  deriving DecidableEq, Repr, Inhabited

/-- The tail values of a head of an OPEN block that holds an incomplete group. -/
def State.tailRows (s : State) (e : KvEntry) (p : KvPool) (h c : Nat) : Nat → State × List (List Word)
  | 0 => (s, [])
  | n + 1 =>
    let r := s.moverNow (tailLine p e.tail.toNat (e.fill.toNat / 32) h c)
    let rest := r.1.tailRows e p h (c + 1) n
    (rest.1, (tagElems 6 r.2).map (·.2) :: rest.2)

/-- A block's part in a PV product. -/
def State.pvBlock (s : State) (q : QueryBlock) (w : Nat) : State × PvBlock :=
  let r := s.readListSlot (windowSlot q.desc w) false
  let b : PvBlock := { entry := r.2, extent := r.1.valueExtent r.2, fill := r.1.readFill r.2, tail := none }
  match r.2 with
  | none => (r.1, b)
  | some i =>
    let e := r.1.kv i
    match r.1.kvPool e.pool.toNat with
    | none => (r.1, b)
    | some p =>
      if e.state = 1 && e.fill.toNat % 32 ≠ 0 && e.tail ≠ 0xFFF then
        let t := r.1.tailRows e p (kvHead q) 0 q.desc.headDim
        (t.1, { b with tail := some t.2 })
      else (r.1, b)

def State.pvBlocks (s : State) (q : QueryBlock) (w : Nat) : Nat → State × List PvBlock
  | 0 => (s, [])
  | n + 1 =>
    let r := s.pvBlock q w
    let rest := r.1.pvBlocks q (w + 1) n
    (rest.1, r.2 :: rest.2)

/-- A query row of a PV product: FULL and the row sum of its record. -/
structure PvRow where
  full : Bool
  sum : Word
  deriving DecidableEq, Repr, Inhabited

def State.pvRows (s : State) (nib : Nat) (d : AttnDesc) (row : Nat) : Nat → State × List PvRow
  | 0 => (s, [])
  | n + 1 =>
    let r := s.rowRecord nib d row
    let rest := r.1.pvRows nib d (row + 1) n
    (rest.1, { full := (r.2.getD 3 0#32).getLsbD 0, sum := r.2.getD 1 0#32 } :: rest.2)

/-- The tail term of one element: p_j × v_j over the tail's positions, in ascending order (R182). -/
def tailTerm (b : PvBlock) (prob : Nat → Word) (n : Nat) : Word :=
  match b.tail with
  | none => 0#32
  | some chans =>
    (List.range (b.fill % 32)).foldl (fun acc k => add32 acc (mul32 (prob (b.fill / 32 * 32 + k)) ((chans.getD n []).getD k 0#32))) 0#32

/-- Products and sums of a tail term that are NaN though neither operand is (R162). -/
def tailInvalid (b : PvBlock) (prob : Nat → Word) (n : Nat) : Nat :=
  match b.tail with
  | none => 0
  | some chans =>
    ((List.range (b.fill % 32)).foldl (fun acc k =>
      let p := prob (b.fill / 32 * 32 + k)
      let v := (chans.getD n []).getD k 0#32
      let y := mul32 p v
      (add32 acc.1 y, acc.2 + newNan y [p, v] + newNan (add32 acc.1 y) [acc.1, y])) (0#32, 0)).2

/-! ### The wide path (R176) -/

/-- A word of two BF16 elements of a row, each rounded once from its value. -/
def bfPairs (vs : List FV) : List Word := packPairs (vs.map encBf16)

/-- Query or key elements of a row of `n` line positions from its lines: code times block scale; NaN in a poisoned tile. -/
def rowElems (h : TileHdr) (lines : List Line) (n : Nat) : List FV :=
  (List.range n).flatMap fun i =>
    let w := positionLines h.fmt
    if h.bad then List.replicate (elemsPerLine h.fmt) .nan
    else lineValues h.fmt (lines.getD (i * w) zeroLine) (lines.getD (i * w + 1) zeroLine) (h.validK - elemsPerLine h.fmt * i)

/-- The dot product of two rows, VDOT2 lane by lane, then the tree; and its invalid results. -/
def wideDot (a b : List Word) : Word × Nat :=
  let lane := fun i (acc : Word × Nat) => let r := dot2 [acc.1, a.getD i 0#32, b.getD i 0#32]; (r.1, acc.2 + r.2)
  let ls := (List.range 64).map fun l => if 64 < a.length then lane (64 + l) (lane l (0#32, 0)) else lane l (0#32, 0)
  let ws := ls.map (·.1)
  (treeOf add32 ws, sumNat (ls.map (·.2)) + redInvalid (treeOf add32 ws) ws)

/-- The geometry of a block of the descriptor's form. -/
def formPool (d : AttnDesc) : KvPool := { form := d.kvForm, heads := 1, headDim := d.headDim, pages := [], tailPages := [] }

/-- A tile of a block as the wide path reads it: header and lines. -/
def State.blockTile (s : State) (q : QueryBlock) (e : Option Nat) (value : Bool) : State × TileHdr × List Line :=
  let g := formPool q.desc
  let first := kvHead q * headLines g + (if value then keyTileLines g else 0)
  let r := s.blockLines none e first (if value then headLines g - keyTileLines g else keyTileLines g)
  (r.1, readHdr (r.2.headD poisonedLine), r.2.drop 1)

/-- The keys of a block, position by position, in BF16 pairs. -/
def blockKeys (d : AttnDesc) (h : TileHdr) (lines : List Line) : List (List Word) :=
  let k := keyLines (formPool d)
  (List.range 256).map fun p => bfPairs ((rowElems h ((lines.drop (k * p)).take k) (ceilDiv d.headDim (elemsPerLine h.fmt))).take d.headDim)

/-- The values of a block, channel by channel and position by position, as FP32 words of BF16 values: zero at and beyond the fill, from the tail where a
tail holds the position. -/
def blockValues (d : AttnDesc) (h : TileHdr) (lines : List Line) (b : PvBlock) : List (List Word) :=
  let k := valueLines (formPool d)
  (List.range d.headDim).map fun c =>
    let vs := (rowElems h ((lines.drop (k * c)).take k) (ceilDiv 256 (elemsPerLine h.fmt))).map fun v =>
      enc32 (decBf16 (encBf16 (v.mul (.num false (dec32 h.scale).toRat))))
    (List.range 256).map fun j =>
      if b.fill ≤ j then 0#32
      else match b.tail with
        | some t => if b.fill / 32 * 32 ≤ j then (t.getD c []).getD (j % 32) 0#32 else vs.getD j 0#32
        | none => if b.extent ≤ j then 0#32 else vs.getD j 0#32

/-- The running values of a row on the wide path, with what VMASK raised and the invalid results (R162). -/
structure Wide where
  m : Word
  l : Word
  acc : List Word
  clamped : Nat
  invalid : Nat
  deriving DecidableEq, Repr, Inhabited

/-- One channel's sum of a step: scaled, then one VFMA a key. -/
def wideChannel (a c : Word) (ps : List Word) (vs : List Word) : Word × Nat :=
  (ps.zip vs).foldl (fun acc e => let r := fma32 e.1 e.2 acc.1; (r, acc.2 + newNan r [e.1, e.2, acc.1])) (mul32 a c, newNan (mul32 a c) [a, c])

/-- One step of 64 keys; `vals` holds each key's values, channel by channel. -/
def wideStep (x : Wide) (scores : List Word) (vals : List (List Word)) : Wide :=
  let mb := treeOf max32 scores
  if mb = maskWord then x
  else
    let mn := max32 x.m mb
    let d := sub32 x.m mn
    let c := sfu32 .exp d
    let ds := scores.map fun v => sub32 v mn
    let ps := ds.map (sfu32 .exp)
    let lc := mul32 x.l c
    let sum := treeOf add32 ps
    let acc := x.acc.mapIdx fun i a => wideChannel a c ps (vals.map fun v => v.getD i 0#32)
    { x with m := mn, l := add32 lc sum, acc := acc.map (·.1),
             invalid := x.invalid + newNan d [x.m, mn] + sumNat (List.zipWith (fun v y => newNan y [v, mn]) scores ds) + newNan lc [x.l, c]
               + redInvalid sum ps + newNan (add32 lc sum) [lc, sum] + sumNat (acc.map (·.2)) }

/-- A score, the dot product times RNE(t_q × t_k), then times SCORE_SCALE; and its invalid results. -/
def wideScore (d : AttnDesc) (tq tk dot : Word) : Word × Nat :=
  let t := mul32 tq tk
  let y := mul32 dot t
  let z := mul32 y d.scoreScale
  (z, newNan y [dot, t] + newNan z [y, d.scoreScale])

/-- The four steps of one block. -/
def wideBlock (d : AttnDesc) (tq tk : Word) (query : List Word) (keys chans : List (List Word)) (masked : List Bool) (x : Wide) : Wide :=
  (List.range 4).foldl (fun x t =>
    let js := (List.range 64).map (64 * t + ·)
    let dots := js.map fun j => wideDot query (keys.getD j [])
    let ys := dots.map fun e => wideScore d tq tk e.1
    let rs := (js.zip ys).map fun e => maskLane .f32 e.2.1 (masked.getD e.1 true)
    let x := { x with clamped := x.clamped + sumNat (rs.map (·.2)), invalid := x.invalid + sumNat (dots.map (·.2)) + sumNat (ys.map (·.2)) }
    wideStep x (rs.map (·.1)) (js.map fun j => chans.map fun c => c.getD j 0#32)) x

/-- A query row of T0: its tile scale and its elements in BF16 pairs. -/
def State.queryRow (s : State) (nib : Nat) (q : QueryBlock) (row : Nat) : State × Word × List Word :=
  let hd := s.nibLoad nib q.qHdr
  let h := readHdr hd.2
  let n := ceilDiv q.desc.headDim (elemsPerLine h.fmt)
  let ls := (List.range (n * positionLines h.fmt)).foldl (fun (acc : State × List Line) i =>
    let r := acc.1.nibLoad nib (q.qLine + row * q.qStride + i)
    (r.1, acc.2 ++ [r.2])) (hd.1, [])
  (ls.1, h.scale, bfPairs ((rowElems h ls.2 n).take q.desc.headDim))

/-- The blocks from `w` of the window for one row. -/
def State.wideBlocks (s : State) (q : QueryBlock) (tq : Word) (query : List Word) (row w : Nat) (x : Wide) (live : Nat) : Nat → State × Wide × Nat
  | 0 => (s, x, live)
  | n + 1 =>
    let d := q.desc
    let b := s.pvBlock q w
    let k := b.1.blockTile q b.2.entry false
    let v := k.1.blockTile q b.2.entry true
    let masked := maskedKeys d s.chunkSize b.2.fill row w
    let x := wideBlock d tq k.2.1.scale query (blockKeys d k.2.1 k.2.2) (blockValues d v.2.1 v.2.2 b.2) masked x
    v.1.wideBlocks q tq query row (w + 1) x (live + (masked.filter (!·)).length) n

/-- One row on the wide path: its record written, and its output values. -/
def State.wideRow (s : State) (nib : Nat) (q : QueryBlock) (row : Nat) : State × List Word :=
  let d := q.desc
  let qr := s.queryRow nib q row
  let r := qr.1.wideBlocks q qr.2.1 qr.2.2 row 0 { m := maskWord, l := 0#32, acc := List.replicate d.headDim 0#32, clamped := 0, invalid := 0 } 0 d.blocks
  let x := r.2.1
  let full := x.m = maskWord
  let nan := isNan32 x.m || x.m = 0x7F800000#32
  let live := if full then 0 else r.2.2
  let outs := x.acc.map fun a => if (dec32 x.l).isZero then (0#32, 0) else
    let y := mul32 a (sfu32 .rcp x.l)
    (y, newNan y [a, sfu32 .rcp x.l])
  let s := r.1.modNib nib fun y => { y with vmclamp := satAdd y.vmclamp x.clamped, vinvalid := satAdd y.vinvalid (x.invalid + sumNat (outs.map (·.2))) }
  let s := s.closeRow nib d row [x.m, x.l, w32 live, statusWord full nan (live = 1) (x.clamped ≠ 0) false false false]
  (s, outs.map (·.1))

def State.wideRows (s : State) (nib : Nat) (q : QueryBlock) (row : Nat) : Nat → State × List (List Word)
  | 0 => (s, [])
  | n + 1 =>
    let r := s.wideRow nib q row
    let rest := r.1.wideRows nib q (row + 1) n
    (rest.1, r.2 :: rest.2)

/-! ### Vector stores (R131, R132, R155, R167 to R176) -/

/-- The sums of a row's chain results, of which `n` follow one another, merged by R153 step 4 element by element (R172). -/
def chainSums (n : Nat) (vs : List Word) : List Word :=
  let w := vs.length / n
  (List.range w).map fun i => mergeWords add32 ((List.range n).map fun k => vs.getD (w * k + i) 0#32)

/-- NaN results of the sums that no chain result holds (R162). -/
def chainInvalid (n : Nat) (vs : List Word) : Nat :=
  let w := vs.length / n
  sumNat ((chainSums n vs).mapIdx fun i r => if isNan32 r && !(List.range n).any (fun k => isNan32 (vs.getD (w * k + i) 0#32)) then 1 else 0)

/-- Store rows of registers, `cols` elements of each, as the kind has it. PATH of the descriptor says which form computes an attention stage (R177): the other form's
store changes nothing (log entry 2). -/
def State.storeRows (s : State) (nib : Nat) (rows : List (List Nat)) (cols : Nat) (o : OutDesc) (kind : StoreKind) : State :=
  let regs := rows.map fun r => r.map (s.vreg nib)
  let values := regs.map fun r => (storeValues o.fmt r).take cols
  match kind with
  | .plain => s.writeTile nib o false values.length [] values
  | .probs full => s.writeTile nib o false values.length full values
  | .chains n =>
    let sums := regs.map fun r => chainSums n (r.flatMap id)
    let s := s.modNib nib fun x => { x with vinvalid := satAdd x.vinvalid (sumNat (regs.map fun r => chainInvalid n (r.flatMap id))) }
    s.writeTile nib o false sums.length [] (sums.map fun r => (r.map dec32).take cols)
  | .statRecords =>
    let recs := regs.flatMap fun r => laneRecords (r.take 3) (min cols 64)
    s.storeRecords nib o.line false recs (ceilDiv recs.length 4)
  | .rowRecords =>
    let recs := regs.flatMap fun r => laneRecords r (min cols 64)
    (s.storeRecords nib o.line true recs (ceilDiv recs.length 4)).countRows nib recs
  | .sweepTwo q row0 n parts tiles =>
    if q.desc.path ≠ 0 then s
    else (List.range n).foldl (fun s i => s.sweepRow nib q parts tiles (row0 + i)) s
  | .wide q row0 n =>
    if q.desc.path ≠ 1 then s
    else
      let r := s.wideRows nib q row0 n
      r.1.writeTile nib o false n [] (r.2.map fun v => v.map dec32)

def execVectorStore (nib : Nat) (rows : List (List Nat)) (cols : Nat) (out : OutDesc) (kind : StoreKind) (s : State) : Out State :=
  s.onNib nib fun s => s.storeRows nib rows cols out kind

end Sys2Proof.Machine
end

