-- ==== Sys2Proof/Machine/HostReset.lean ====
section
/-! DEFINITION. Resets of the host interface alone (R413, R468). -/
namespace Sys2Proof.Machine

/-- The ring holds the running or the queued job. -/
def State.ringHeld (s : State) (r : Nat) : Bool :=
  (match s.strk.run with | some j => j.ring = r | none => false) || match s.strk.queued with | some j => j.ring = r | none => false

/-- A ring after the reset: RING_PROG and RING_FEEDDONE stay where the ring holds a job. -/
def clearedRing (held : Bool) (x : Ring) : Ring :=
  { Ring.reset with prog := if held then x.prog else 0, feeddone := if held then x.feeddone else 0, cleared := true }

/-- Rings, window map, MSI-X state and the GLB_HOST registers take their reset values; no job stops, and held records stay held. -/
def State.hostReset (s : State) : State :=
  let s := (List.range 64).foldl (fun s r => s.setRing r (clearedRing (s.ringHeld r) (s.ring r))) s
  { s with host := { s.host with
      quiesceAck := false, evt := Events.none, errSlot := 0, bar2 := [], msixTable := [], msixPba := [], msixOpen := [], msixMerged := [] } }

/-- The endpoint has power. -/
def State.onHost (s : State) : Out State := if s.power.vio then .next s.hostReset else .next s

def execFlr (s : State) : Out State := s.onHost
def execHotReset (s : State) : Out State := s.onHost
def execPerstNAssert (s : State) : Out State := s.onHost
def execD3hot (s : State) : Out State := s.onHost
def execPcieLinkLoss (s : State) : Out State := s.onHost

end Sys2Proof.Machine
end

