-- ==== Sys2Proof/Machine/Answer.lean ====
section
/-! DEFINITION. How the result of a scribe command reaches its channel: the mailbox, the UART monitor or the SMBus target
(R456, R458 to R460). -/
namespace Sys2Proof.Machine

/-! ### Text of the monitor (R460) -/

/-- ASCII code of a hexadecimal digit. -/
def hexDigit (d : Nat) : Byte := BitVec.ofNat 8 (if d % 16 < 10 then 48 + d % 16 else 87 + d % 16)

def hexBytes (bs : List Byte) : List Byte := bs.flatMap fun b => [hexDigit (b.toNat / 16), hexDigit b.toNat]

/-- Lines of `n` bytes each in hexadecimal, ended by LF. -/
def hexLines (n : Nat) : Nat → List Byte → List Byte
  | 0, _ => []
  | fuel + 1, bs => if bs.isEmpty then [] else hexBytes (bs.take n) ++ [10#8] ++ hexLines n fuel (bs.drop n)

def asciiOk : List Byte := [111#8, 107#8, 10#8]
def asciiErr (status : Nat) : List Byte := [101#8, 114#8, 114#8, 32#8] ++ hexBytes [BitVec.ofNat 8 status] ++ [10#8]
/-- The prompt `oz3> `. -/
def asciiPrompt : List Byte := [111#8, 122#8, 51#8, 62#8, 32#8]

/-- Result words, low byte first, then the data buffer. -/
def CmdDone.bytes (d : CmdDone) : List Byte := d.res.flatMap (fun w => leBytes 4 w.toNat) ++ d.data

/-- What the monitor prints for a command: a LOG_READ entry takes one line of 64 bytes, everything else lines of 32. -/
def monitorText (d : CmdDone) : List Byte :=
  let body := if d.status ≠ 0 then [] else if d.req.op = 0x0003 then
      hexLines 32 (d.bytes.length + 1) (d.res.flatMap fun w => leBytes 4 w.toNat) ++ hexLines 64 (d.bytes.length + 1) d.data
    else hexLines 32 (d.bytes.length + 1) d.bytes
  body ++ (if d.status = 0 then asciiOk else asciiErr d.status) ++ asciiPrompt

/-! ### The command table (R456) -/

/-- Opcode, lifecycle states (bit n for state n of R410) and channels (1 mailbox, 2 UART, 4 SMBus) of each command. -/
def cmdTable : List (Nat × Nat × Nat) :=
  [(0x0001, 31, 7), (0x0002, 15, 7), (0x0003, 31, 3), (0x0004, 15, 7), (0x0005, 14, 3), (0x0006, 12, 3), (0x0007, 12, 3), (0x0010, 15, 1),
   (0x0011, 15, 3), (0x0012, 15, 3), (0x0013, 15, 3), (0x0014, 31, 7), (0x0020, 3, 1), (0x0021, 2, 3), (0x0022, 4, 3), (0x0023, 8, 3),
   (0x0024, 12, 3), (0x0025, 15, 3), (0x0026, 8, 3), (0x0030, 4, 1), (0x0031, 4, 1), (0x0032, 4, 1), (0x0033, 4, 1), (0x0034, 12, 1),
   (0x0040, 31, 3), (0x0041, 4, 1), (0x0042, 12, 3), (0x0043, 4, 1), (0x0044, 14, 7)]

def chanBit (c : Channel) : Nat :=
  match c with | .mailbox => 1 | .uart => 2 | .smbus => 4

/-- The opcode is used, and the channel accepts it. -/
def cmdAccepted (op : Nat) (ch : Channel) : Bool := cmdTable.any fun r => r.1 = op && r.2.2 / chanBit ch % 2 = 1

/-- The lifecycle state numbered `life` allows the command. -/
def cmdInLife (op life : Nat) : Bool := cmdTable.any fun r => r.1 = op && r.2.1 / 2 ^ life % 2 = 1

/-! ### Delivery -/

/-- Deliver a command's result: the mailbox posts it at its completion, the other channels have it now; SMBus has that of the latest command alone (R459). -/
def State.deliverCmd (s : State) (d : CmdDone) : State :=
  match d.req.ch with
  | .mailbox => { s with scr := { s.scr with finish := some d } }
  | .uart => { s with scr := { s.scr with uart := s.scr.uart ++ monitorText d } }
  | .smbus => if d.req.tag = s.scr.smb.tag then { s with scr := { s.scr with smb := { s.scr.smb with status := BitVec.ofNat 8 d.status, result := d.bytes, pos := 31 } } } else s

/-- A channel hands over a command: one that it does not accept is answered BAD_CMD, the others wait their turn (R456). -/
def State.submit (s : State) (c : CmdReq) : State :=
  if cmdAccepted c.op c.ch then { s with scr := { s.scr with queue := s.scr.queue ++ [c] } }
  else s.deliverCmd { req := c, status := 0x01, res := [], data := [] }

/-- Complete a command that waits for something outside the scribe. -/
def State.answerWait (s : State) (op : Nat) (mine : CmdReq → Bool) (status : Nat) (res : List Word) : State :=
  match s.scr.wait.find? fun c => c.op = op && mine c with
  | some c => { s with scr := { s.scr with wait := s.scr.wait.erase c } }.deliverCmd { req := c, status := status, res := res, data := [] }
  | none => s

end Sys2Proof.Machine
end

