-- ==== Sys2Proof/Machine/Kv.lean ====
section
/-! DEFINITION. KV blocks: the block table and its operations (R184 to R190),
the scatter (R191), and the publication at a boundary (R189, R344). -/
namespace Sys2Proof.Machine

/-! ### Entries, slots and tails -/

/-- Lowest free entry at or above 1. -/
def State.freeEntry (s : State) : Option Nat :=
  (((List.range (s.kvt.table.length + 1)).map (· + 1)).find? fun i => (s.kv i).state = 0).bind fun i => if i < 262144 then some i else none

/-- Entries of a pool that hold a slot. -/
def State.poolEntries (s : State) (k : Nat) : List KvEntry :=
  (s.kvt.table.map (·.2)).filter fun e => e.state ≠ 0 && e.pool.toNat = k

/-- A change that pins a page waits for its publication. -/
def State.pinDue (s : State) (page : Nat) : Bool := s.pmapPending.any fun c => c.index = page && match c.op with | .pin _ => true | _ => false

/-- A free slot on a page that is neither pinned nor about to be (R186, R241). -/
def State.freeSlot (s : State) (k : Nat) (p : KvPool) : Option (Nat × Nat) :=
  let used := (s.poolEntries k).map fun e => (e.page.toNat, e.line.toNat)
  (p.pages.flatMap fun pg => (List.range (pageLines / slotLines p)).map fun i => (pg, i * slotLines p)).find? fun x =>
    !(s.page x.1).pinned && !s.pinDue x.1 && !used.contains x

/-- A free tail pair. -/
def State.freeTail (s : State) (k : Nat) (p : KvPool) : Option Nat :=
  let used := (s.poolEntries k).map fun e => e.tail.toNat
  (List.range (min (tailPairs p) (used.length + 1))).find? fun t => !used.contains t

/-- Fills that this stroke will publish for an entry, or its published FILL. -/
def State.writtenOf (s : State) (i : Nat) : Nat :=
  s.kvt.pending.foldl (fun m c => match c with | .fill k n => if k = i then max m n else m | _ => m) (s.kv i).fill.toNat

def State.kvChange (s : State) (c : KvChange) : State := { s with kvt := { s.kvt with pending := s.kvt.pending ++ [c] } }
def State.kvCount (s : State) (n : Nat) : State := { s with kvt := { s.kvt with counted := s.kvt.counted + n } }

/-- The retarget of this stroke for a slot. -/
def State.retargeted (s : State) (t : ListSlot) : Option Nat :=
  s.kvt.pending.foldl (fun r c => match c with | .retarget u w => if u = t then some w else r | _ => r) none

/-- DEREF: at 0 the entry becomes PENDING; entry 0 is ignored (R183, R186, R190). -/
def State.kvDeref (s : State) (i : Nat) : State :=
  let e := s.kv i
  if i = 0 then s
  else if 262144 ≤ i then s.kvBad i
  else if e.refcnt = 0 then s.raiseKvt 2 i
  else s.setKv i { e with refcnt := e.refcnt - 1, state := if e.refcnt = 1 then 3 else e.state }

/-- REF (R186, R190). -/
def State.kvRef (s : State) (i : Nat) : State :=
  let e := s.kv i
  if i = 0 then s
  else if 262144 ≤ i || e.state = 0 || e.state = 3 then s.kvBad i
  else if e.refcnt = 0xFFFF then
    let s := s.raiseKvt 1 i
    { s with kvt := { s.kvt with stuck := insertNat i s.kvt.stuck } }
  else s.setKv i { e with refcnt := e.refcnt + 1 }

/-! ### ALLOC, COW and REPLACE -/

/-- Header lines of a new block (R186). -/
def State.kvHeaders (s : State) (p : KvPool) (sc : KvScales) (e : KvEntry) : State :=
  (List.range p.heads).foldl (fun s h =>
    let hdr : TileHdr := { scale := sc.keys.getD h 0#32, fmt := kvFmt p, flags := 0, linesPerRow := keyLines p, rows := 256,
                           stream := sc.stream, tileIndex := 2 * h, validK := p.headDim, bad := false }
    let val : TileHdr := { hdr with
      scale := sc.values.getD h 0#32, linesPerRow := valueLines p, rows := p.headDim, tileIndex := 2 * h + 1, validK := 256 }
    (s.t2Write (slotAddr e (h * headLines p)) (writeHdr hdr) .job).t2Write (slotAddr e (h * headLines p + keyTileLines p)) (writeHdr val) .job) s

/-- Take an entry and a slot: none, with ALLOC_FAIL raised for entry `ctx`, when either lacks (R190). Which free entry and which free slot
are taken is no part of any result (R183). DESIGN CHOICE (log entry 25): `ctx` is 0 for a fresh block, the old block for COW and REPLACE. -/
def State.kvAlloc (s : State) (k : Nat) (p : KvPool) (sc : KvScales) (ctx : Nat) : State × Option Nat :=
  match s.freeEntry, s.freeSlot k p with
  | some i, some (pg, ln) =>
    let e : KvEntry := { KvEntry.reset with
      page := BitVec.ofNat 17 pg, line := BitVec.ofNat 18 ln, pool := BitVec.ofNat 4 k, state := 1, refcnt := 1, gen := (s.kv i).gen + 1 }
    let s := (s.setKv i e).kvHeaders p sc e
    ({ s with kvt := { s.kvt with allocs := satAdd s.kvt.allocs 1 } }, some i)
  | _, _ => (s.raiseKvt 0 ctx, none)

/-- Assign a tail pair to a block that has none: none, with ALLOC_FAIL, when the tail area has none free (R182, R190). DESIGN CHOICE (log entry 25): `ctx` is the block
that the scatter would have written, or the old one for COW. -/
def State.takeTail (s : State) (k : Nat) (p : KvPool) (i ctx : Nat) : State × Bool :=
  if (s.kv i).tail ≠ 0xFFF then (s, true)
  else match s.freeTail k p with
    | some t => (s.setKv i { s.kv i with tail := BitVec.ofNat 12 t }, true)
    | none => (s.raiseKvt 0 ctx, false)

/-- The block-list word of an entry. -/
def State.kvWord (s : State) (i : Nat) : Nat := if i = 0 then 0 else i + (s.kv i).gen.toNat * 2 ^ 18

def State.retarget (s : State) (t : ListSlot) (i : Nat) : State := s.kvChange (.retarget t (s.kvWord i))

/-- Copy T2 lines, each checked as a mover's read is. -/
def State.kvCopy (s : State) (src dst : Nat → Nat) (i : Nat) : Nat → State
  | 0 => s
  | n + 1 =>
    let r := s.moverNow (src i)
    (r.1.t2Write (dst i) r.2 .job).kvCopy src dst (i + 1) n

/-- The mover copy of COW: key lines of positions below FILL, value lines that hold such positions, and the tail. -/
def State.cowCopy (s : State) (p : KvPool) (old new : KvEntry) (fill : Nat) : State :=
  let per := if p.form ≤ 1 then 128 else if p.form = 2 then 128 else 64
  let wide := if p.form = 2 then 2 else 1
  let used := ceilDiv fill per * wide
  let s := (List.range p.heads).foldl (fun s h =>
    let k0 := h * headLines p + 1
    let v0 := h * headLines p + keyTileLines p + 1
    let s := s.kvCopy (fun i => slotAddr old (k0 + i)) (fun i => slotAddr new (k0 + i)) 0 (fill * keyLines p)
    (List.range p.headDim).foldl (fun s c =>
      s.kvCopy (fun i => slotAddr old (v0 + c * valueLines p + i)) (fun i => slotAddr new (v0 + c * valueLines p + i)) 0 used) s) s
  if old.tail = 0xFFF || new.tail = 0xFFF then s
  else s.kvCopy (fun i => tailAddr p (old.tail.toNat * 2 * tailLines p + i)) (fun i => tailAddr p (new.tail.toNat * 2 * tailLines p + i)) 0
    (2 * tailLines p)

/-- COW of entry `i`: none where it fails; the old block is DEREFed either way, and the slot retargeted (R186, R190). DESIGN CHOICE (log entry 25): a failed COW or REPLACE
records the old block in GLB_KVT_ERRCTX. -/
def State.kvCow (s : State) (t : ListSlot) (k : Nat) (p : KvPool) (sc : KvScales) (i : Nat) : State × Option Nat :=
  let a := s.kvAlloc k p sc i
  match a.2 with
  | none => ((a.1.kvDeref i).retarget t 0, none)
  | some n =>
    let b := if (s.kv i).tail = 0xFFF then (a.1, true) else a.1.takeTail k p n i
    if !b.2 then (((b.1.kvDeref i).kvDeref n).retarget t 0, none)
    else
      let fill := (s.kv i).fill.toNat
      let s := b.1.cowCopy p (s.kv i) (b.1.kv n) fill
      let s := ((s.kvChange (.fill n fill)).kvDeref i).retarget t n
      ({ s with kvt := { s.kvt with cows := satAdd s.kvt.cows 1 } }, some n)

/-- REPLACE of entry `i` (R186, R190). -/
def State.kvReplace (s : State) (t : ListSlot) (k : Nat) (p : KvPool) (sc : KvScales) (i : Nat) : State × Option Nat :=
  let a := s.kvAlloc k p sc i
  match a.2 with
  | none => ((a.1.kvDeref i).retarget t 0, none)
  | some n => ((a.1.kvDeref i).retarget t n, some n)

/-- ALLOC into a slot. -/
def State.kvFresh (s : State) (t : ListSlot) (k : Nat) (p : KvPool) (sc : KvScales) : State × Option Nat :=
  let a := s.kvAlloc k p sc 0
  match a.2 with
  | none => (a.1.retarget t 0, none)
  | some n => (a.1.retarget t n, some n)

/-- Run an operation on the block that a block-list word names, with its pool; the poison block, a FREE and a PENDING one set BAD_INDEX. -/
def State.onWord (s : State) (w : Nat) (f : State → Nat → KvPool → Nat → State) : State :=
  let r := s.named w
  match r.2 with
  | none => if w % 2 ^ 18 = 0 then r.1.kvBad 0 else r.1
  | some i =>
    if (r.1.kv i).state = 3 then r.1.kvBad i
    else match r.1.kvPool (r.1.kv i).pool.toNat with
      | some p => f r.1 (r.1.kv i).pool.toNat p i
      | none => r.1

/-- The same for the block that a slot names. -/
def State.onBlock (s : State) (t : ListSlot) (f : State → Nat → KvPool → Nat → State) : State :=
  let w := s.listWord t
  match w.2 with
  | none => w.1
  | some x => w.1.onWord x f

/-! ### Value groups (R182, R191) -/

/-- Replace block `b` (from element 0 of its unit) of a stored value line position. -/
def putUnit (l : Line) (b : Nat) (data : List Byte) (scale : Nat) : Line :=
  mkLine ((l.take 64).take (16 * b) ++ data ++ (l.take 64).drop (16 * b + 16)) ((((l.drop 64).take 4).set b (BitVec.ofNat 8 scale)))

/-- Write a completed group of a channel into the value tile: one block, or two quarters of FP8. -/
def State.putGroup (s : State) (nib : Option Nat) (p : KvPool) (e : KvEntry) (h c g : Nat) (t : Rat) (vs : List FV) : State :=
  let base := h * headLines p + keyTileLines p + 1 + c * valueLines p
  let n := blockLen (kvFmt p)
  let bs := (List.range (32 / n)).map fun i => quantBlock (kvFmt p) t none none ((vs.drop (n * i)).take n)
  let s := match nib with | some k => s.countQuant k bs | none => s
  let unit := fun i => (bs.getD i { blk := { scale := 0, codes := [] }, flush := 0, sat := 0, poison := 0 }).blk
  let put := fun (s : State) (line b i : Nat) (codes : List Byte) =>
    let r := s.moverNow (slotAddr e line)
    r.1.t2Write (slotAddr e line) (putUnit r.2 b codes (unit i).scale) .job
  if p.form ≤ 1 then put s (base + g / 4) (g % 4) 0 (packNibbles (unit 0).codes)
  else if p.form = 2 then
    put (put s (base + g / 4 * 2) (g % 4) 0 (packNibbles ((unit 0).codes.map fun x => (int8Digits x).1)))
      (base + g / 4 * 2 + 1) (g % 4) 0 (packNibbles ((unit 0).codes.map fun x => (int8Digits x).2))
  else
    put (put s (base + g / 2) (g % 2 * 2) 0 ((unit 0).codes.map fun x => BitVec.ofNat 8 x))
      (base + g / 2) (g % 2 * 2 + 1) 1 ((unit 1).codes.map fun x => BitVec.ofNat 8 x)

/-- Values of the positions of a group that a tail line holds. -/
def State.tailValues (s : State) (p : KvPool) (pair g h c : Nat) : State × List FV :=
  let r := s.moverNow (tailLine p pair g h c)
  (r.1, (tagElems 6 r.2).map fun x => if x.1 = 0xFF then FV.nan else dec32 x.2)

/-- The tail line of an incomplete group that holds positions below `n` of it. -/
def tailOf (vs : List FV) (n : Nat) : Line := widePosition 6 n vs

/-- The values of one group of a channel: earlier positions from the tail, new ones from the staging area, later ones +0. Earlier positions
that are written and that no tail holds (a COW of a block frozen with an incomplete group) are free (log entry 26), told apart by the scatter's slot and stroke. -/
def State.groupValues (s : State) (t : ListSlot) (p : KvPool) (e : KvEntry) (written first : Nat) (new : List FV) (h c g : Nat) : State × List FV :=
  let fresh := fun (old : Nat → FV) => (List.range 32).map fun k =>
    if 32 * g + k < first then old k else new.getD (32 * g + k - first) (.num false 0)
  if first ≤ 32 * g then (s, fresh fun _ => .num false 0)
  else if e.tail = 0xFFF then
    let fr := freeWords 7 [t.list, t.slot, s.strokeNum, h, c, g] 32
    (s, fresh fun k => if 32 * g + k < written then decBf16 ((fr.getD k 0#32).toNat) else .num false 0)
  else
    let r := s.tailValues p e.tail.toNat g h c
    (r.1, fresh fun k => r.2.getD k (.num false 0))

/-- One group of a channel of the scatter. -/
def State.scatterGroup (s : State) (d : ScatterDesc) (p : KvPool) (e : KvEntry) (written : Nat) (t : Rat) (new : List FV)
    (h c g : Nat) : State :=
  let last := d.first + d.count
  let r := s.groupValues d.target p e written d.first new h c g
  if 32 * g + 32 ≤ last then r.1.putGroup (some d.nib) p e h c g t r.2
  else if e.tail = 0xFFF then r.1
  else r.1.t2Write (tailLine p e.tail.toNat g h c) (tailOf r.2 (last - 32 * g)) .job

/-- A nib's read of a staging line of its die's well: a failed check counts (R21, R52, R191). -/
def State.stagingLine (s : State) (nib line : Nat) : State × Line :=
  let r := s.readWellLine (nib / 2048) line
  if lineOk r.2 then r else (r.1.modNib nib fun x => { x with lchkerr := satAdd x.lchkerr 1 }, poisonLine r.2)

def State.stagingLines (s : State) (nib line : Nat) : Nat → State × List Line
  | 0 => (s, [])
  | n + 1 =>
    let r := s.stagingLine nib line
    let rest := r.1.stagingLines nib (line + 1) n
    (rest.1, r.2 :: rest.2)

/-- Write lines of a block from line `i` of its slot. -/
def State.slotWrite (s : State) (e : KvEntry) (i : Nat) : List Line → State
  | [] => s
  | l :: rest => (s.t2Write (slotAddr e i) l .job).slotWrite e (i + 1) rest

/-- One head of the scatter. -/
def State.scatterHead (s : State) (d : ScatterDesc) (p : KvPool) (i written h : Nat) : State :=
  let e := s.kv i
  let last := d.first + d.count
  let keys := s.stagingLines d.nib (d.keysAt + h * d.count * keyLines p) (d.count * keyLines p)
  let s := keys.1.slotWrite e (h * headLines p + 1 + d.first * keyLines p) keys.2
  let per := p.headDim / 32
  let vals := s.stagingLines d.nib (d.valuesAt + h * d.count * per) (d.count * per)
  let rows := (List.range d.count).map fun k =>
    ((vals.2.drop (k * per)).take per).flatMap fun l => (tagElems 6 l).map fun x => if x.1 = 0xFF then FV.nan else dec32 x.2
  let hdr := vals.1.moverNow (slotAddr e (h * headLines p + keyTileLines p))
  let t := (dec32 (readHdr hdr.2).scale).toRat
  (List.range p.headDim).foldl (fun s c =>
    let new := rows.map fun r => r.getD c (.num false 0)
    (List.range (ceilDiv last 32 - d.first / 32)).foldl (fun s k =>
      s.scatterGroup d p e written t new h c (d.first / 32 + k)) s) hdr.1

/-- The writing part of a scatter into entry `i` (R191): nothing is written when a tail pair is needed and none is free (R190). -/
def State.scatterInto (s : State) (d : ScatterDesc) (k : Nat) (p : KvPool) (i : Nat) : State :=
  let last := d.first + d.count
  let r := if last % 32 = 0 then (s, true) else s.takeTail k p i i
  if !r.2 then (r.1.kvDeref i).retarget d.target 0
  else
    let written := r.1.writtenOf i
    ((List.range p.heads).foldl (fun s h => s.scatterHead d p i written h) r.1).kvChange (.fill i last)

/-- A scatter takes its write path by R188, into the block that this stroke has retargeted its slot to, or that the slot names. Below the published FILL without REPLACE,
which ruling rejects (0x0606), nothing is written. -/
def State.scatterPath (d : ScatterDesc) (s : State) (k : Nat) (p : KvPool) (i : Nat) : State :=
  let into := fun (r : State × Option Nat) => match r.2 with
    | none => r.1
    | some n => r.1.scatterInto d k p n
  let e := s.kv i
  if d.replace then into ((s.kvCount 1).kvReplace d.target k p d.scales i)
  else if d.first < e.fill.toNat then s
  else if e.state = 1 && e.refcnt = 1 then into (s, some i)
  else into ((s.kvCount 1).kvCow d.target k p d.scales i)

def State.scatter (s : State) (d : ScatterDesc) : State :=
  let s := s.kvCount 2
  match s.retargeted d.target with
  | some w => s.onWord w (State.scatterPath d)
  | none => s.onBlock d.target (State.scatterPath d)

/-! ### The commands -/

/-- Issued by a job's stage program: nothing without one. -/
def State.inJob (s : State) (f : State → State) : Out State := .next (if s.live && s.strk.run.isSome then f s else s)

def execAlloc (target : ListSlot) (pool : Nat) (scales : KvScales) (s : State) : Out State :=
  s.inJob fun s => match s.kvPool pool with
    | some p => ((s.kvCount 1).kvFresh target pool p scales).1
    | none => s

/-- The table engine performs REF and DEREF whoever issues them (R186). -/
def execRef (index : Nat) (s : State) : Out State := .next (if s.live then s.kvRef index else s)

def execDeref (index : Nat) (s : State) : Out State := .next (if s.live then s.kvDeref index else s)

/-- OPEN becomes FROZEN at the stroke's end. -/
def execFreeze (index : Nat) (s : State) : Out State :=
  s.inJob fun s =>
    if 262144 ≤ index then s.kvBad index
    else if (s.kv index).state = 1 && !s.kvt.pending.contains (.freeze index) then (s.kvCount 1).kvChange (.freeze index)
    else s

def execCow (target : ListSlot) (scales : KvScales) (s : State) : Out State :=
  s.inJob fun s => s.onBlock target fun s k p i => ((s.kvCount 1).kvCow target k p scales i).1

def execReplace (target : ListSlot) (scales : KvScales) (s : State) : Out State :=
  s.inJob fun s => s.onBlock target fun s k p i => ((s.kvCount 1).kvReplace target k p scales i).1

def execScatter (d : ScatterDesc) (s : State) : Out State :=
  if s.live && !s.nibPresent d.nib then .fault .absentUnit
  else s.inJob fun s => if d.count = 0 || 256 < d.first + d.count then s else s.scatter d

/-! ### Publication (R189, R190, R344) -/

/-- Release an entry's tail pair. -/
def KvEntry.noTail (e : KvEntry) : KvEntry := { e with tail := 0xFFF }

/-- FREEZE takes effect: the incomplete group is quantised with absent positions as zeros, and the tail released. -/
def State.freezeNow (s : State) (i : Nat) : State :=
  let e := s.kv i
  if e.state ≠ 1 then s
  else
    let fill := e.fill.toNat
    let g := fill / 32
    let s := match s.kvPool e.pool.toNat with
      | none => s
      | some p =>
        if fill % 32 = 0 || e.tail = 0xFFF then s
        else (List.range p.heads).foldl (fun s h =>
          let hdr := s.moverNow (slotAddr e (h * headLines p + keyTileLines p))
          let t := (dec32 (readHdr hdr.2).scale).toRat
          (List.range p.headDim).foldl (fun s c =>
            let r := s.tailValues p e.tail.toNat g h c
            r.1.putGroup none p e h c g t ((List.range 32).map fun k => if 32 * g + k < fill then r.2.getD k (.num false 0) else .num false 0)) hdr.1) s
    s.setKv i { e.noTail with state := 2 }

/-- Apply one change of the stroke other than a FREEZE. -/
def State.applyKv (s : State) : KvChange → State
  | .fill i n =>
    let e := s.kv i
    if e.state = 0 then s
    else
      let n := max n e.fill.toNat
      s.setKv i (if n = 256 then { e.noTail with fill := 256 } else { e with fill := BitVec.ofNat 9 n })
  | .retarget t w => s.putListWord t w
  | .freeze _ => s

def State.applyFreeze (s : State) : KvChange → State
  | .freeze i => s.freezeNow i
  | _ => s

/-- The pool of an entry belongs to the mirror set of the running job. -/
def State.kvMirrored (s : State) (e : KvEntry) : Bool :=
  match s.runSet with
  | some p => match p.mirror with
    | some m => m.pools.contains e.pool.toNat
    | none => false
  | none => false

/-- No record of a hold is left. -/
def State.dropHold (s : State) (i : Nat) : State := { s with kvt := { s.kvt with held := s.kvt.held.filter fun h => h.1 ≠ i } }

/-- An entry becomes free: its slot and tail pair return. -/
def State.freeOne (s : State) (i : Nat) (e : KvEntry) : State :=
  let s := s.setKv i { e.noTail with state := 0 }
  { s with kvt := { s.kvt with frees := satAdd s.kvt.frees 1, deferred := s.kvt.deferred.filter (· ≠ i) } }

/-- An entry may become FREE at a publication: PENDING, without a lease in force, and not one whose count saturated (R189, R190). -/
def State.freeable (s : State) (i : Nat) : Bool := (s.kv i).state = 3 && !(s.kv i).leased && !s.kvt.stuck.contains i

/-- Entries that may become FREE do so within the budget, unless mirror point `point` holds them; the others are deferred, and stay so until they are freed
(R189, R344). -/
def State.freeEntries (s : State) (point : Nat) : Nat → List Nat → State
  | _, [] => s
  | budget, i :: rest =>
    let e := s.kv i
    let hold := (s.kvt.held.find? fun h => h.1 = i).map (·.2)
    if !s.freeable i || (hold.getD 0 ≠ 0) then s.freeEntries point budget rest
    else if hold.isNone && s.kvMirrored e then
      { s with kvt := { s.kvt with held := s.kvt.held ++ [(i, point)] } }.freeEntries point budget rest
    else match budget with
      | 0 => { s with kvt := { s.kvt with deferred := insertNat i s.kvt.deferred } }.freeEntries point 0 rest
      | n + 1 => ((s.dropHold i).freeOne i e).freeEntries point n rest

/-- The entries in the order in which a publication frees them: those deferred earlier first, each part in ascending index (R189). -/
def State.freeOrder (s : State) : List Nat :=
  s.kvt.deferred ++ (s.kvt.table.map (·.1)).filter fun i => !s.kvt.deferred.contains i

/-- Leases with LEASE_END = `n` expire. -/
def State.expireLeases (s : State) (n : Nat) : State :=
  (s.kvt.table.map (·.1)).foldl (fun s i =>
    let e := s.kv i
    if e.leased && e.leaseEnd = BitVec.ofNat 16 n then s.setKv i { e with leased := false } else s) s

/-- The publication at the boundary that ends stroke `n`; `point` is the mirror point that holds entries freed now. -/
def State.publishKv (s : State) (n point : Nat) : State :=
  let s := s.expireLeases n
  let cs := s.kvt.pending
  let s := cs.foldl State.applyKv s
  let s := cs.foldl State.applyFreeze s
  let s := s.freeEntries point (8192 - s.kvt.counted) s.freeOrder
  { s with kvt := { s.kvt with pending := [], counted := 0 } }

/-- Mirror point `e` commits: entries held for it or an earlier point are released (R346). -/
def State.releaseHeld (s : State) (e : Nat) : State :=
  { s with kvt := { s.kvt with held := s.kvt.held.map fun h => if h.2 ≤ e then (h.1, 0) else h } }

/-- Free entries, for GLB_KVT_STAT (R194). -/
def State.kvFree (s : State) : Nat := 262143 - (s.kvt.table.filter fun x => x.1 ≠ 0 && x.2.state ≠ 0).length

end Sys2Proof.Machine
end

