-- ==== Sys2Proof/Machine/Coll.lean ====
section
/-! DEFINITION. Collectives and transfers: shares and chunks (R322, R323), reductions (R326, R327), the receipt of a chunk by its step (R324,
R325, R329), the failure of a step (R332), and the commands that issue a step on this module (R321). -/
namespace Sys2Proof.Machine

/-! ### Members and shares (R322) -/

def ranksOf (d : CollDesc) : List Nat := (List.range 128).filter fun r => d.members.getLsbD r

/-- Position of a rank among the members in ascending order. -/
def posOf (ranks : List Nat) (r : Nat) : Nat := (ranks.takeWhile (· ≠ r)).length

def isReduction (d : CollDesc) : Bool := d.op = .reduceScatter || d.op = .allReduce

/-- Share size S in source lines. -/
def shareSize (d : CollDesc) (g : Nat) : Nat :=
  let q := ceilDiv d.lines g
  if isReduction d && d.inFmt = 8 && d.dstFmt = 6 && q % 2 = 1 then q + 1 else q

/-- First source line and number of source lines of the share at position `j`. -/
def share (d : CollDesc) (g j : Nat) : Nat × Nat :=
  let q := shareSize d g
  (j * q, min ((j + 1) * q) d.lines - j * q)

/-- Lines that `n` lines of one format take in another. -/
def linesIn (fromFmt toFmt n : Nat) : Nat := ceilDiv (n * elemsPerLine fromFmt) (elemsPerLine toFmt)

/-- Format in which lines travel: as stored, or the reduction's wire format. -/
def wireOf (d : CollDesc) : Nat := if d.wireFmt = 0 then d.inFmt else d.wireFmt

/-- Lines expected from each other member in a step, by the receiver at position `j` (R322). -/
def expectLines (d : CollDesc) (step g j sender : Nat) : Nat :=
  match d.op with
  | .allGather => d.lines
  | .allToAll => d.lines
  | .transfer => if sender = d.sender then d.lines else 0
  | .reduceScatter => linesIn d.inFmt (wireOf d) (share d g j).2
  | .allReduce => if step = 0 then linesIn d.inFmt (wireOf d) (share d g j).2
                  else linesIn d.inFmt d.dstFmt (share d g (posOf (ranksOf d) sender)).2

/-! ### Reductions (R326, R327) -/

/-- Reduce contributions in their order: SUM or MAX in FP32, element by element (R326, R327). -/
def reduceElems (isMax : Bool) : List (List (Nat × Word)) → List (Nat × Word)
  | [] => []
  | first :: rest => rest.foldl (fun acc x => List.zipWith (tagCombine (if isMax then max32 else add32)) acc x) first

/-! ### Source and destination lines -/

/-- Read a source line with a mover of the die to which it is local (R233, R237); a raw page is of the wrong kind for any mover but an MX one (R232, R418). -/
def State.sourceLine (s : State) (p : Place) : State × Line :=
  match p.space with
  | .line => s.moverNowOf (placeDie p) p.at_
  | .raw => (s.pmapBad (p.at_ / 2 ^ 24), zeroLine)
  | _ => let r := s.moverRead (placeDie p) p; (r.1, r.2.getD poisonedLine)

/-- Read `n` source lines. -/
def State.sourceLines (s : State) (p : Place) (i : Nat) : Nat → State × List Line
  | 0 => (s, [])
  | n + 1 =>
    let r := s.sourceLine (placeStep p i)
    let rest := r.1.sourceLines p (i + 1) n
    (rest.1, r.2 :: rest.2)

/-- Write a destination line (R232, R418). -/
def State.destLine (s : State) (p : Place) (l : Line) : State :=
  match p.space with
  | .raw => s.pmapBad (p.at_ / 2 ^ 24)
  | _ => s.placeWrite p l .job

def State.destLines (s : State) (p : Place) (i : Nat) : List Line → State
  | [] => s
  | l :: rest => (s.destLine (placeStep p i) l).destLines p (i + 1) rest

/-- First destination line, relative to DST, of what a sender's chunk at offset `first` holds (R322). -/
def destOffset (d : CollDesc) (g sender first : Nat) : Nat :=
  match d.op with
  | .allGather => posOf (ranksOf d) sender * d.lines + first
  | .allToAll => posOf (ranksOf d) sender * d.lines + first
  | .transfer => first
  | .reduceScatter => first
  | .allReduce => linesIn d.inFmt d.dstFmt (share d g (posOf (ranksOf d) sender)).1 + first

/-- Number of this member's destination lines of a step, and its first one relative to DST. -/
def ownDest (d : CollDesc) (step g j : Nat) : Nat × Nat :=
  match d.op with
  | .allGather => (0, g * d.lines)
  | .allToAll => (0, g * d.lines)
  | .transfer => (0, d.lines)
  | .reduceScatter => (0, linesIn d.inFmt d.dstFmt (share d g j).2)
  | .allReduce => if step = 0 then (linesIn d.inFmt d.dstFmt (share d g j).1, linesIn d.inFmt d.dstFmt (share d g j).2)
                  else (0, linesIn d.inFmt d.dstFmt d.lines)

/-! ### Steps -/

def State.findStep (s : State) (coll step : Nat) : Option CollStep :=
  s.coll.steps.find? fun x => x.coll = coll && x.step = step

def State.putStep (s : State) (x : CollStep) : State :=
  { s with coll := { s.coll with steps := s.coll.steps.map fun y => if y.coll = x.coll && y.step = x.step then x else y } }

/-- Lines received from a sender in a step. -/
def CollStep.from_ (x : CollStep) (sender : Nat) : Nat :=
  (x.got.filter (fun e => e.1 = sender)).foldl (fun a e => a + e.2.2) 0

/-- A step owes a chunk that is still queued, or sent and not yet acknowledged, on some link (R330). -/
def State.stepSending (s : State) (x : CollStep) : Bool :=
  let mine := fun (c : Option ChunkHdr) => match c with
    | some h => 1 ≤ h.op && h.op ≤ 5 && h.coll = x.coll && h.step = x.step && h.src = s.grp.rank.toNat
    | none => false
  s.coll.unrouted.any (fun e => mine e.chunk) || (List.range linkCount).any fun l =>
    let k := s.link l
    k.vc0.any (fun e => mine e.chunk) || k.outgoing.any (fun f => mine f.entry.chunk)

/-- Members from which a step still misses lines, in ascending rank (R330). -/
def State.stepMissing (s : State) (x : CollStep) : List Nat :=
  let ranks := (ranksOf x.desc)
  let own := s.grp.rank.toNat
  ranks.filter fun r => r ≠ own && x.from_ r < expectLines x.desc x.step ranks.length (posOf ranks own) r

/-- The member sends nothing itself in a step: the receiving side of a transfer (R322). -/
def receiveOnly (d : CollDesc) (own : Nat) : Bool := d.op = .transfer && d.sender ≠ own

/-- Everything owed and expected has been sent, acknowledged and received (R330). -/
def State.stepComplete (s : State) (x : CollStep) : Bool :=
  (x.issued || receiveOnly x.desc s.grp.rank.toNat) && (s.stepMissing x).isEmpty && !s.stepSending x

/-! ### Lines that wait in the pool (R311, R323, R327) -/

/-- Lines of a contribution, `n` from wire line `first`, for which a lower rank's line has not been added yet. -/
def waitLines (ordered : Bool) (x : CollStep) (src first n : Nat) : Nat :=
  if ordered && isReduction x.desc && x.step = 0 && x.status.isNone then
    ((List.range n).filter fun i => (ranksOf x.desc).any fun r => r < src && !(sget (fun _ => []) x.parts (first + i)).any fun e => e.1 = r).length
  else 0

/-- A collective's chunk of a stroke that has not begun. -/
def State.later (s : State) (h : ChunkHdr) : Bool :=
  1 ≤ h.op && h.op ≤ 5 && match s.strk.run with | some j => j.stroke % 2 ^ 32 < h.stroke | none => false

/-- Slots, of those received of a chunk, that may still take pool space: all of a chunk of a later stroke, and lines that wait for a lower rank's. DEDUCED (log entry
111): every other line has crossed the bridge as it arrives, and its step is credited with it when the trailer's CRC agrees. -/
def State.rxTarget (s : State) (r : RxChunk) : Nat :=
  let h := r.hdr
  if !(1 ≤ h.op && h.op ≤ 5) then 0
  else if s.later h then 1 + r.lines.length
  else if h.stroke ≠ s.strokeNum % 2 ^ 32 then 0
  else match s.findStep h.coll h.step with
    | some x => waitLines s.strk.ordered x h.src h.first r.lines.length
    | none => 0

/-- Credits of a chunk in reception return as its slots are delivered. -/
def State.drainRx (s : State) (l vc : Nat) : State :=
  match (s.link l).rx vc with
  | none => s
  | some r =>
    let n := min r.held (s.rxTarget r)
    if n = r.held then s else (s.modLink l fun x => x.setRx vc (some { r with held := n })).freeSlots l vc (r.held - n)

def State.drainAll (s : State) : State := (List.range linkCount).foldl (fun s l => (s.drainRx l 0).drainRx l 1) s

/-- Credits of a step's waiting lines return as lower ranks' lines are added, or as the step ends. -/
def State.drainStep (s : State) (coll step : Nat) : State :=
  match s.findStep coll step with
  | none => s
  | some x =>
    let left := fun (w : PoolWait) => min w.held (waitLines s.strk.ordered x w.rank w.first w.lines)
    let s := s.putStep { x with waits := (x.waits.map fun w => { w with held := left w }).filter (0 < ·.held) }
    (x.waits.foldl (fun s w => s.freeSlots w.link w.vc (w.held - left w)) s).drainAll

/-! ### Failure of a step (R331 to R333) -/

/-- GLB_COLL_EVT bit of a status (R336). -/
def collEvt (status : Nat) : Option Nat :=
  match status with
  | 1 => some 0 | 2 => some 1 | 3 => some 2 | 4 => some 2 | 5 => some 3 | 6 => some 4 | 7 => some 5 | _ => none

/-- A destination line of this member is complete: written by an arrived chunk, by its own copy, or fully reduced (R322, R332). -/
def State.destDone (s : State) (x : CollStep) (k : Nat) : Bool :=
  let d := x.desc
  let ranks := (ranksOf d)
  let g := ranks.length
  let own := s.grp.rank.toNat
  let j := posOf ranks own
  let covered := x.got.any fun e => destOffset d g e.1 e.2.1 ≤ k && k < destOffset d g e.1 e.2.1 + e.2.2
  match d.op with
  | .allGather => covered || (x.issued && j * d.lines ≤ k && k < (j + 1) * d.lines)
  | .allToAll => covered || (x.issued && j * d.lines ≤ k && k < (j + 1) * d.lines)
  | .transfer => covered
  | _ =>
    if d.op = .allReduce && x.step = 1 then
      covered || (x.issued && linesIn d.inFmt d.dstFmt (share d g j).1 ≤ k
        && k < linesIn d.inFmt d.dstFmt (share d g j).1 + linesIn d.inFmt d.dstFmt (share d g j).2)
    else
      let rel := k - (ownDest d x.step g j).1
      let w0 := rel * elemsPerLine d.dstFmt / elemsPerLine (wireOf d)
      let w1 := min (ceilDiv ((rel + 1) * elemsPerLine d.dstFmt) (elemsPerLine (wireOf d))) (linesIn d.inFmt (wireOf d) (share d g j).2)
      x.issued && (List.range (w1 - w0)).all fun i => (sget (fun _ => []) x.parts (w0 + i)).length = g

/-- Poison the destination lines that a step has not completed, `n` of them from `k` (R332 step 1). -/
def State.poisonRest (s : State) (x : CollStep) (k : Nat) : Nat → State
  | 0 => s
  | n + 1 =>
    let s := if s.destDone x k then s else s.destLine (placeStep x.desc.dst k) poisonedLine
    s.poisonRest x (k + 1) n

/-- A receiver of a transfer, and every member of the other operations, has destination lines. -/
def hasDest (d : CollDesc) (own : Nat) : Bool := d.op ≠ .transfer || d.sender ≠ own

/-- End a step with a status other than OK: poison, record, and send COLL_ABORT unless the status is ABORTED or JOB_ENDED; then
the job's end as R332 gives it. `origin` is the status an ABORTED carries, `rank` the rank the status names. -/
def State.failStep (s : State) (x : CollStep) (status origin rank : Nat) : State :=
  if x.status.isSome then s
  else
    let own := s.grp.rank.toNat
    let ranks := (ranksOf x.desc)
    let od := ownDest x.desc x.step ranks.length (posOf ranks own)
    let s := if hasDest x.desc own then s.poisonRest x od.1 od.2 else s
    let s := (s.putStep { x with status := some status }).drainStep x.coll x.step
    let s := { s with coll := { s.coll with
      stat := BitVec.ofNat 8 status, origin := BitVec.ofNat 8 origin,
      ctxRank := BitVec.ofNat 7 rank, ctxColl := BitVec.ofNat 16 x.coll, ctxStep := x.step = 1, strk := w32 s.strokeNum } }
    let s := match collEvt status with | some i => s.raiseColl i | none => s
    let s :=
      if status = 7 || status = 8 then s
      else ranks.foldl (fun s r => if r = own then s else s.sendRecord r 0x23 [s.strokeNum, x.coll, x.step, status, own]) s
    if status = 8 then s
    else if status = 1 || (status = 7 && origin = 1) then
      s.modRun fun j => { j with noCommit := true, collAbort := match j.collAbort with
        | some c => some c
        | none => some (0x12, x.coll, if status = 1 then 0x7F else rank) }
    else s.failJob 0x18 status

/-- End every unfinished step that involves a member (R331). -/
def State.failMember (s : State) (rank status : Nat) : State :=
  s.coll.steps.foldl (fun s x => if x.desc.members.getLsbD rank then s.failStep x status 0 rank else s) s

/-! ### Issue (R321 to R323) -/

/-- Send lines to a peer in chunks of at most 4,096, chunk `k` from line `first`; NO_ROUTE ends every step with that peer (R320, R323, R331). -/
def State.sendLines (s : State) (x : CollStep) (peer k first : Nat) : Nat → List Line → State
  | 0, _ => s
  | fuel + 1, ls =>
    if ls.isEmpty then s
    else
      let op : Nat := match x.desc.op with
        | .allGather => 1 | .reduceScatter => 2 | .allReduce => 3 | .allToAll => 4 | .transfer => 5
      let part := ls.take 4096
      let h : ChunkHdr :=
        { op := op, src := s.grp.rank.toNat, dst := peer, stroke := s.strokeNum % 2 ^ 32, coll := x.coll, step := x.step,
          relayed := false, resend := false, dhash := dhash x.desc, lines := part.length, first := first }
      match s.sendChunk s.strk.ordered k h part with
      | some s => s.sendLines x peer (k + 1) (first + part.length) fuel (ls.drop 4096)
      | none => s.failMember peer 6

/-- The lines that this member sends to a peer in a step, from its source lines (R322, R326). -/
def dataFor (d : CollDesc) (src : List Line) (step g peerPos : Nat) (reduced : List Line) : List Line :=
  match d.op with
  | .allGather => src
  | .transfer => src
  | .allToAll => (src.drop (peerPos * d.lines)).take d.lines
  | _ =>
    if step = 1 then reduced
    else convertLines d.inFmt (wireOf d) ((src.drop (share d g peerPos).1).take (share d g peerPos).2)

/-- Number of source lines that a member's step reads. -/
def sourceCount (d : CollDesc) (g : Nat) : Nat := if d.op = .allToAll then g * d.lines else d.lines

/-- Reduced destination lines of a share from the arrived contributions, own contribution first or ascending rank (R327). -/
def reducedLine (d : CollDesc) (ordered : Bool) (parts : List (List (Nat × Line))) (skip : Nat) : Line :=
  let n := elemsPerLine d.dstFmt
  let byRank := fun (l : List (Nat × Line)) =>
    if ordered then l.foldl (fun acc e => (acc.takeWhile (fun f => f.1 < e.1)) ++ [e] ++ (acc.dropWhile (fun f => f.1 < e.1))) [] else l
  let es := parts.flatMap fun p => reduceElems d.redMax ((byRank p).map fun e => tagElems (wireOf d) e.2)
  tagLine d.dstFmt ((es.drop skip).take n)

/-- Write the destination lines of this member's share that became complete with wire lines `first` to `first + n - 1` (R326). -/
def State.writeReduced (s : State) (x : CollStep) (k : Nat) : Nat → State
  | 0 => s
  | n + 1 =>
    let d := x.desc
    let ranks := (ranksOf d)
    let g := ranks.length
    let od := ownDest d x.step g (posOf ranks s.grp.rank.toNat)
    let s :=
      if s.destDone x k then
        let rel := k - od.1
        let e0 := rel * elemsPerLine d.dstFmt
        let w0 := e0 / elemsPerLine (wireOf d)
        let w1 := min (ceilDiv ((rel + 1) * elemsPerLine d.dstFmt) (elemsPerLine (wireOf d)))
          (linesIn d.inFmt (wireOf d) (share d g (posOf ranks s.grp.rank.toNat)).2)
        let parts := (List.range (w1 - w0)).map fun i => sget (fun _ => []) x.parts (w0 + i)
        s.destLine (placeStep d.dst k) (reducedLine d s.strk.ordered parts (e0 - w0 * elemsPerLine (wireOf d)))
      else s
    s.writeReduced x (k + 1) n

/-- Add one contribution's wire lines to a step's parts. -/
def addParts (rank first : Nat) (ls : List Line) (parts : Sparse (List (Nat × Line))) : Sparse (List (Nat × Line)) :=
  (ls.zipIdx).foldl (fun m e => sset (fun _ => []) m (first + e.2) (sget (fun _ => []) m (first + e.2) ++ [(rank, e.1)])) parts

/-- Own contribution of a reduction goes first in fast mode: it is entered ahead of any that arrived (R327). -/
def addOwn (rank : Nat) (ls : List Line) (parts : Sparse (List (Nat × Line))) : Sparse (List (Nat × Line)) :=
  (ls.zipIdx).foldl (fun m e => sset (fun _ => []) m e.2 ((rank, e.1) :: sget (fun _ => []) m e.2)) parts

/-- Issue a step: copy the own part, enter the own contribution, send to every other member (R322). `reduced` is the member's
reduced share for step 1 of ALL_REDUCE. -/
def State.issueStep (s : State) (x : CollStep) (reduced : List Line) : State :=
  let d := x.desc
  let ranks := (ranksOf d)
  let g := ranks.length
  let own := s.grp.rank.toNat
  let j := posOf ranks own
  let rd := s.sourceLines d.src 0 (if x.step = 1 || receiveOnly d own then 0 else sourceCount d g)
  let s := rd.1
  let src := rd.2
  let x := { x with issued := true }
  let isRed := isReduction d && x.step = 0
  let x := if isRed then { x with parts := addOwn own (convertLines d.inFmt (wireOf d) ((src.drop (share d g j).1).take (share d g j).2)) x.parts }
           else x
  let s := (s.putStep x).drainStep x.coll x.step
  let s :=
    match d.op with
    | .allGather => s.destLines d.dst (j * d.lines) src
    | .allToAll => s.destLines d.dst (j * d.lines) ((src.drop (j * d.lines)).take d.lines)
    | _ => if isRed then s.writeReduced x (ownDest d 0 g j).1 (ownDest d 0 g j).2 else s
  ranks.foldl (fun s r =>
    if r = own || (d.op = .transfer && d.sender ≠ own) || (s.findStep x.coll x.step).any (·.status.isSome) then s
    else
      let data := dataFor d src x.step g (posOf ranks r) reduced
      s.sendLines x r 0 0 (data.length + 1) data) s

/-- The own share of step 0 of an ALL_REDUCE has closed: step 1 begins with it (R322). -/
def State.beginSecond (s : State) (x : CollStep) : State :=
  match s.findStep x.coll 1 with
  | some y =>
    if x.desc.op = .allReduce && x.step = 0 && x.issued && (s.stepMissing x).isEmpty && !y.issued && y.status.isNone then
      let ranks := (ranksOf x.desc)
      let od := ownDest x.desc 0 ranks.length (posOf ranks s.grp.rank.toNat)
      let r := s.sourceLines (placeStep x.desc.dst od.1) 0 od.2
      r.1.issueStep y r.2
    else s
  | none => s

/-- Close a step that is complete (R330), and begin step 1 of an ALL_REDUCE. -/
def State.closeStep (s : State) (x : CollStep) : State :=
  if x.status.isSome then s else (if s.stepComplete x then s.putStep { x with status := some 0 } else s).beginSecond x

def State.closeSteps (s : State) : State := s.coll.steps.foldl (fun s x => match s.findStep x.coll x.step with
  | some y => s.closeStep y
  | none => s) s

/-- The steps that a stroke entry opens: one for each descriptor, two for an ALL_REDUCE (R321, R322). -/
def openSteps (ds : List CollDesc) : List CollStep :=
  (ds.zipIdx).flatMap fun e =>
    let mk := fun step =>
      ({ coll := e.2, step := step, desc := e.1, issued := false, status := none, got := [], nakked := [],
         resent := [], parts := [] } : CollStep)
    if e.1.op = .allReduce then [mk 0, mk 1] else [mk 0]

/-! ### Arrival (R323 to R325, R329) -/

/-- A chunk of a collective or transfer that arrived whole at its final receiver on a link and channel, `held` of its slots still in the pool: one of a later stroke
keeps them, and so do, in ordered mode, lines that wait for a lower rank's (R323, R327). -/
def State.chunkArrive (s : State) (link vc held : Nat) (c : Chunk) : State :=
  let h := c.hdr
  let free := s.freeSlots link vc held
  let stale := { free with coll := { free.coll with stale := satAdd s.coll.stale 1 } }
  if s.later h then { s with coll := { s.coll with early := s.coll.early ++ [{ link := link, vc := vc, held := held, chunk := c }] } }
  else if s.strk.run.isNone || h.stroke ≠ s.strokeNum % 2 ^ 32 then stale
  else match s.findStep h.coll h.step with
    | none => stale
    | some x =>
      if x.status.isSome then stale
      else if h.dhash ≠ dhash x.desc then free.failStep x 1 0 h.src
      else if x.got.any (fun e => e.1 = h.src && e.2.1 = h.first) then free
      else if chunkCrc c.lines ≠ c.crc then
        (if h.resend then free.failStep x 5 0 h.src
         else (free.putStep { x with nakked := x.nakked ++ [(h.src, h.first)] }).sendRecord h.src 0x24 [h.stroke, h.coll, h.step, h.first])
      else
        let d := x.desc
        let g := (ranksOf d).length
        let x := { x with got := x.got ++ [(h.src, h.first, c.lines.length)] }
        if isReduction d && h.step = 0 then
          let x := { x with parts := addParts h.src h.first c.lines x.parts }
          let n := min held (waitLines s.strk.ordered x h.src h.first c.lines.length)
          let wait : PoolWait := { link := link, vc := vc, rank := h.src, first := h.first, lines := c.lines.length, held := n }
          let s := ((s.freeSlots link vc (held - n)).putStep { x with waits := if n = 0 then x.waits else x.waits ++ [wait] }).drainStep h.coll h.step
          let w := elemsPerLine (wireOf d)
          let n := elemsPerLine d.dstFmt
          let base := (ownDest d 0 g (posOf (ranksOf d) s.grp.rank.toNat)).1
          let k0 := h.first * w / n
          let k1 := ceilDiv ((h.first + c.lines.length) * w) n
          (s.writeReduced x (base + k0) (k1 - k0)).closeSteps
        else
          ((free.putStep x).destLines d.dst (destOffset d g h.src h.first) c.lines).closeSteps

/-! ### Chunks sent once more (R329) -/

/-- Number of a collective among the keys of commands that wait for lines; movers come below. -/
def collKey (coll : Nat) : Nat := 1024 + coll

/-- The source lines of the chunk at offset `first` of a step: its first line and how many, which for a reduced share lie at DST (R322). -/
def State.resendSources (s : State) (x : CollStep) : Place × Nat :=
  let d := x.desc
  let od := ownDest d 0 (ranksOf d).length (posOf (ranksOf d) s.grp.rank.toNat)
  if d.op = .allReduce && x.step = 1 then (placeStep d.dst od.1, od.2) else (d.src, sourceCount d (ranksOf d).length)

/-- Send a chunk of a collective step once more, with RESEND set. -/
def State.resendChunk (s : State) (x : CollStep) (peer first : Nat) : State :=
  let d := x.desc
  let ranks := ranksOf d
  let red := d.op = .allReduce && x.step = 1
  let r := s.sourceLines (s.resendSources x).1 0 (s.resendSources x).2
  let s := r.1
  let data := ((dataFor d (if red then [] else r.2) x.step ranks.length (posOf ranks peer) (if red then r.2 else [])).drop first).take 4096
  let op : Nat := match d.op with
    | .allGather => 1 | .reduceScatter => 2 | .allReduce => 3 | .allToAll => 4 | .transfer => 5
  let h : ChunkHdr := { op := op, src := s.grp.rank.toNat, dst := peer, stroke := s.strokeNum % 2 ^ 32, coll := x.coll, step := x.step, relayed := false,
                        resend := true, dhash := dhash d, lines := data.length, first := first }
  let s := s.putStep { x with resent := x.resent ++ [(peer, first)] }
  let s := { s with coll := { s.coll with resends := satAdd s.coll.resends 1 } }
  match s.sendChunk s.strk.ordered (first / 4096) h data with
  | some s => s
  | none => s.failMember peer 6

/-- The step that a CHUNK_NAK names, when this module sent that chunk in it and has not sent it again. -/
def State.nakStep (s : State) (sender stroke coll step first : Nat) : Option CollStep :=
  if s.strk.run.isNone || stroke ≠ s.strokeNum % 2 ^ 32 then none
  else match s.findStep coll step with
    | some x =>
      let ranks := ranksOf x.desc
      let n := expectLines x.desc step ranks.length (posOf ranks sender) s.grp.rank.toNat
      if x.issued && x.desc.members.getLsbD sender && first % 4096 = 0 && first < n && !x.resent.contains (sender, first)
          && (x.status = none || x.status = some 0) then some x else none
    | none => none

/-- A CHUNK_NAK for a collective step: the lines are read again, over a link where they lie with another module. -/
def State.answerNak (s : State) (sender stroke coll step first : Nat) : State :=
  match s.nakStep sender stroke coll step first with
  | none => s
  | some x =>
    let src := s.resendSources x
    s.withLines (collKey coll) (.chunkNak sender stroke coll step first) (placesFrom src.1 src.2) fun s => s.resendChunk x sender first

/-! ### The commands -/

/-- Places of the lines that this member reads when it issues a step: none at the receiving end of a transfer. -/
def State.stepSources (s : State) (d : CollDesc) : List Place :=
  if receiveOnly d s.grp.rank.toNat then [] else placesFrom d.src (sourceCount d (ranksOf d).length)

/-- Issue a collective of the running stroke's entry by command `c`; no effect where the entry has no such step waiting to be issued (log entry 2). -/
def State.issue (s : State) (coll : Nat) (d : CollDesc) (op : CollOp) (c : Instr) : State :=
  if !s.live || s.isParked (collKey coll) then s
  else match s.findStep coll 0 with
    | some x =>
      if x.desc = d && d.op = op && !x.issued && x.status.isNone then
        s.withLines (collKey coll) c (s.stepSources d) fun s => (s.issueStep x []).closeSteps
      else s
    | none => s

/-- ALL_GATHER (R322). -/
def execAllGather (coll : Nat) (d : CollDesc) (s : State) : Out State := .next (s.issue coll d .allGather (.allGather coll d))
/-- REDUCE_SCATTER (R322). -/
def execReduceScatter (coll : Nat) (d : CollDesc) (s : State) : Out State := .next (s.issue coll d .reduceScatter (.reduceScatter coll d))
/-- ALL_REDUCE (R322). -/
def execAllReduce (coll : Nat) (d : CollDesc) (s : State) : Out State := .next (s.issue coll d .allReduce (.allReduce coll d))
/-- ALL_TO_ALL (R322). -/
def execAllToAll (coll : Nat) (d : CollDesc) (s : State) : Out State := .next (s.issue coll d .allToAll (.allToAll coll d))
/-- TRANSFER (R322). -/
def execTransfer (coll : Nat) (d : CollDesc) (s : State) : Out State := .next (s.issue coll d .transfer (.transfer coll d))

/-- COLL_ABORT received: a step not yet ended ends with ABORTED (R332). -/
def execCollAbort (sender stroke coll step status origin : Nat) (s : State) : Out State :=
  match s.takeRecord 0x23 sender [stroke, coll, step, status, origin] with
  | none => .next s
  | some s => match s.findStep coll step with
    | some x => if stroke = s.strokeNum then .next (s.failStep x 7 status origin) else .next s
    | none => .next s

/-- PEER_LOST: every pair link to a member has been DOWN for 10 µs and no relay exists (R331). -/
def execPeerLost (rank : Nat) (s : State) : Out State :=
  if s.live && s.others.contains rank && !s.routed rank then .next (s.failMember rank 3) else .next s

end Sys2Proof.Machine
end

