-- ==== Sys2Proof/Machine/Movers.lean ====
section
/-! DEFINITION. Movers (R233 to R237), atomic adds (R255 to R258), MX conversion (R70, R71, R236), and the quill's well port (R83, R221). -/
namespace Sys2Proof.Machine

/-! ### Movers and their queues (R233, R234) -/

/-- Number of a mover in `State.movers`: 64 of each compute die, then 16 IO movers. -/
def moverKey (m : MoverRef) : Nat := 64 * m.die + m.num

def moverPresent (m : MoverRef) : Bool := (m.die < 2 && m.num < 64) || (m.die = 2 && m.num < 16)

/-- A descriptor of the mover's queue is under way: 1 until its last line is written. -/
def State.moverBusy (s : State) (m : MoverRef) : Bool := sget (fun _ => 0) s.movers (moverKey m) ≠ 0

def State.setMover (s : State) (m : MoverRef) (v : Nat) : State := { s with movers := sset (fun _ => 0) s.movers (moverKey m) v }

/-- Compute-die movers work for the job, IO movers for the firmware. -/
def writerOf (m : MoverRef) : Writer := if m.die < 2 then .job else .host

/-- The die whose WELL_MEMERR a mover uses; the IO die has its own counter. -/
def chkDie (m : MoverRef) : Nat := m.die

/-- ROWS and LINES of a descriptor that copies, zeroes or adds are within their ranges (R235). -/
def moveFields (d : MoverDesc) : Bool := 1 ≤ d.rows && d.rows ≤ 4096 && 1 ≤ d.lines && d.lines ≤ 2 ^ 20

/-- ROWS and K of a descriptor that converts are (R235). -/
def mxFields (d : MoverDesc) : Bool := 1 ≤ d.rows && d.rows ≤ 4096 && 32 ≤ d.k && d.k ≤ 16384 && d.k % 32 = 0

/-- Run a descriptor that starts now: nothing without power or while the previous one is under way. `ok` says that 64 bytes spell it, in range, for an operation that
has such a source and target. -/
def State.onMover (s : State) (m : MoverRef) (ok : Bool) (f : State → State) : Out State :=
  if !s.live then .next s
  else if !moverPresent m then .fault .absentUnit
  else if !ok then .fault .badDescriptor
  else if s.moverBusy m then .next s
  else .next (f (s.setMover m 1))

/-! ### The 64 bytes of a descriptor (R235) -/

/-- A place from an address field: its space code in bits 63 to 60, the address in bits 40 to 0, of which a line address takes 35 (R228); the bits between are 0. -/
def placeOfField (x : Nat) : Option Place :=
  let a := x % 2 ^ 60
  if 2 ^ 41 ≤ a then none
  else match x / 2 ^ 60 with
  | 0 => if a < 2 ^ 35 then some { space := .line, at_ := a } else none
  | 1 => some { space := .well 0, at_ := a }
  | 2 => some { space := .well 1, at_ := a }
  | 3 => some { space := .raw, at_ := a }
  | _ => none

/-- The address field of a place; a line of T0 has none, and code 0xF is none of R235's. -/
def fieldOfPlace (p : Place) : Nat :=
  let code : Nat := match p.space with
    | .line => 0
    | .well 0 => 1
    | .well 1 => 2
    | .raw => 3
    | _ => 15
  p.at_ % 2 ^ 41 + code * 2 ^ 60

def moverOpOf (c : Nat) : Option MoverOp :=
  match c with
  | 0 => some .nop | 1 => some .copy | 2 => some .zero | 3 => some .add | 4 => some .mxImport | 5 => some .mxExport | _ => none

def moverOpCode (o : MoverOp) : Nat :=
  match o with
  | .nop => 0 | .copy => 1 | .zero => 2 | .add => 3 | .mxImport => 4 | .mxExport => 5

/-- The operation and fields that 64 descriptor bytes hold; none where the operation or a space code is not used, or a reserved bit is set. -/
def moverOf (b : List Byte) : Option (MoverOp × MoverDesc) :=
  match moverOpOf (byteAt b 0), placeOfField (leAt b 8 8), placeOfField (leAt b 16 8), placeOfField (leAt b 36 8) with
  | some op, some src, some dst, some scale =>
    if byteAt b 1 < 2 && scale.space = .raw && leAt b 44 20 = 0 then some (op,
      { mxint8 := byteAt b 1 % 2 = 1, rows := leAt b 2 2, lines := leAt b 4 4, src := src, dst := dst, srcStride := leAt b 24 4, dstStride := leAt b 28 4,
        k := leAt b 32 4, mxscale := scale.at_ })
    else none
  | _, _, _, _ => none

/-- The 64 bytes of a descriptor. -/
def moverBytes (op : MoverOp) (d : MoverDesc) : List Byte :=
  leBytes 1 (moverOpCode op) ++ leBytes 1 (if d.mxint8 then 1 else 0) ++ leBytes 2 d.rows ++ leBytes 4 d.lines ++ leBytes 8 (fieldOfPlace d.src)
    ++ leBytes 8 (fieldOfPlace d.dst) ++ leBytes 4 d.srcStride ++ leBytes 4 d.dstStride ++ leBytes 4 d.k
    ++ leBytes 8 (fieldOfPlace { space := .raw, at_ := d.mxscale }) ++ List.replicate 20 0#8

/-- 64 bytes spell the descriptor. -/
def spelled (op : MoverOp) (d : MoverDesc) : Bool := moverOf (moverBytes op d) = some (op, d)

/-! ### Accesses of a mover -/

/-- A mover's access by raw address outside MX conversion is of the wrong kind: zero bytes, PMAP_BAD (R227, R232). -/
def State.moverLine (s : State) (m : MoverRef) (p : Place) : State × Option Line :=
  match p.space with
  | .raw => (s.pmapBad (p.at_ / 2 ^ 24), some zeroLine)
  | _ => s.moverRead (chkDie m) p

def State.moverWrite (s : State) (m : MoverRef) (p : Place) (l : Line) : State :=
  match p.space with
  | .raw => s.pmapBad (p.at_ / 2 ^ 24)
  | _ => s.placeWrite p l (writerOf m)

/-! ### NOP, COPY, ZERO -/

/-- Copy one line. `e` is what the read of the source meets (R223, R224). -/
def State.copyLine (s : State) (m : MoverRef) (e : EccResult) (src dst : Place) : State :=
  let r := (s.upsetAt src e).moverLine m src
  (r.1.moverWrite m dst (r.2.getD poisonedLine)).followHdr src dst

/-- Run `f` on the source and destination place of every line, rows ascending, lines ascending within a row (R234). -/
def eachLine (d : MoverDesc) (f : State → Nat → Place → Place → State) (s : State) : State :=
  (List.range d.rows).foldl (fun s r =>
    (List.range d.lines).foldl (fun s i =>
      f s (r * d.lines + i) (placeStep d.src (r * d.srcStride + i)) (placeStep d.dst (r * d.dstStride + i))) s) s

/-- The source places of a descriptor's lines. -/
def sourcesOf (d : MoverDesc) : List Place :=
  (List.range d.rows).flatMap fun r => (List.range d.lines).map fun i => placeStep d.src (r * d.srcStride + i)

/-- A COPY runs, once the source lines that lie with other modules have come (R246), in ascending order of row and line (R234). -/
def State.runCopy (s : State) (m : MoverRef) (d : MoverDesc) (ecc : List (Nat × EccResult)) : State :=
  s.withLines (moverKey m) (.copy m d ecc) (sourcesOf d) (eachLine d fun s k src dst =>
    s.copyLine m (((ecc.find? fun e => e.1 = k).map (·.2)).getD .clean) src dst)

def execNop (mover : MoverRef) (s : State) : Out State := s.onMover mover true id

def execCopy (mover : MoverRef) (d : MoverDesc) (ecc : List (Nat × EccResult)) (s : State) : Out State :=
  s.onMover mover (spelled .copy d && moveFields d) fun s => s.runCopy mover d ecc

def execZero (mover : MoverRef) (d : MoverDesc) (s : State) : Out State :=
  s.onMover mover (spelled .zero d && moveFields d) (eachLine d fun s _ _ dst => s.moverWrite mover dst zeroLine)

/-- The descriptor under way has written its last line, which it has not while it awaits lines of another module. -/
def execMoverDescriptorDone (mover : MoverRef) (s : State) : Out State :=
  if !moverPresent mover then .fault .absentUnit
  else if s.isParked (moverKey mover) then .next s
  else .next (s.setMover mover 0)

/-! ### Atomic adds (R255 to R258) -/

/-- The line that an atomic add leaves: element by element, tags combined; a line that fails its check counts as poisoned. -/
def addLines (src dst : Line) : Line :=
  let v := fun l => if lineOk l then l else poisonedLine
  tagLine 8 (List.zipWith (tagCombine add32) (tagElems 8 (v dst)) (tagElems 8 (v src)))

/-- Apply an add at the home of its target (R255): the check failures set MOVCHK of the die local to the target. -/
def State.applyAdd (s : State) (src : Line) (dst : Place) : State :=
  let die := placeDie dst
  let idx := lineIdx dst.at_
  match dst.space with
  | .well d =>
    let old := s.readWellLine d dst.at_
    let s := if lineOk src && lineOk old.2 then old.1 else old.1.raiseWell die 1
    (s.wellWrite d dst.at_ (addLines src old.2)).modWell d fun w => { w with atomadds := satAdd w.atomadds 1 }
  | .line =>
    if 73728 ≤ idx || (s.page idx).kind != 0 || pageLines ≤ lineFld dst.at_ then s.pmapBad idx
    else if (s.page idx).pinned then s.roWrite idx .job
    else
      let old := s.readPage idx (lineFld dst.at_)
      let s := if lineOk src && lineOk old.2 then old.1 else old.1.raiseWell die 1
      (s.t2Write dst.at_ (addLines src old.2) .job).modStack (idx / 6144) fun x => { x with atomadds := satAdd x.atomadds 1 }
  | .raw => s.pmapBad (dst.at_ / 2 ^ 24)
  | .t0 _ => s

/-- The running job is in ordered mode. -/
def State.ordered (s : State) : Bool := match s.strk.run with | some j => j.desc.ordered | none => false

/-- Issue an add: applied on arrival in fast mode, logged by the issuing die in ordered mode (R257, R258). -/
def State.issueAdd (s : State) (die : Nat) (a : AddRec) : State :=
  if s.ordered then s.modWell die fun w => { w with addlog := w.addlog ++ [a] }
  else s.applyAdd a.src a.dst

/-- Whether add `a` comes before add `b` at a boundary (R258): quills by number and gang, then movers by die and number. -/
def addBefore (a b : AddRec) : Bool :=
  if a.mover = b.mover then a.unit < b.unit || (a.unit = b.unit && a.sub < b.sub) else !a.mover

/-- Put an add after every one that does not come later. -/
def insertAdd (a : AddRec) : List AddRec → List AddRec
  | [] => [a]
  | b :: rest => if addBefore a b then a :: b :: rest else b :: insertAdd a rest

/-- Apply both dies' add logs at the boundary and empty them. -/
def State.applyLogs (s : State) : State :=
  let all := ((s.well 0).addlog ++ (s.well 1).addlog).foldl (fun acc a => insertAdd a acc) []
  let s := all.foldl (fun s a => s.applyAdd a.src a.dst) s
  (s.modWell 0 fun w => { w with addlog := [] }).modWell 1 fun w => { w with addlog := [] }

/-- A nib's atomic add: source and target are lines of its own die's well. -/
def execAtomicAdd (nib src dst : Nat) (s : State) : Out State :=
  if !s.live then .next s
  else if !s.nibPresent nib then .fault .absentUnit
  else
    let die := nib / 2048
    let r := s.readWellLine die src
    .next (r.1.issueAdd die { mover := false, unit := nib / 8, sub := nib % 8 / 2 ^ (s.quill (nib / 8)).gang.toNat, dst := { space := .well die, at_ := dst },
                              src := r.2 })

/-- The target of a mover's add lies in the well of its own die, or is named by a line address (R255). -/
def addReach (m : MoverRef) (d : MoverDesc) : Bool :=
  m.die < 2 && match d.dst.space with
    | .well k => k = m.die
    | .line => true
    | _ => false

/-- An atomic add of each source line into its destination line. -/
def State.runAdd (s : State) (m : MoverRef) (d : MoverDesc) : State :=
  s.withLines (moverKey m) (.add m d) (sourcesOf d) (eachLine d fun s _ src dst =>
    let r := s.moverLine m src
    r.1.issueAdd m.die { mover := true, unit := m.die, sub := m.num, dst := dst, src := r.2.getD poisonedLine })

def execAdd (mover : MoverRef) (d : MoverDesc) (s : State) : Out State :=
  s.onMover mover (spelled .add d && moveFields d && addReach mover d) fun s => s.runAdd mover d

/-! ### MX conversion (R70, R71, R236) -/

/-- Bytes by raw address, across the end of a page. -/
def State.rawBytes (s : State) (a n : Nat) : State × List Byte :=
  let room := 2 ^ 24 - a % 2 ^ 24
  if n ≤ room then s.rawRead a n
  else
    let x := s.rawRead a room
    let y := x.1.rawRead (a + room) (n - room)
    (y.1, x.2 ++ y.2)

def State.rawPut (s : State) (a : Nat) (bs : List Byte) (who : Writer) : State :=
  let room := 2 ^ 24 - a % 2 ^ 24
  if bs.length ≤ room then s.rawWrite a bs who
  else (s.rawWrite a (bs.take room) who).rawWrite (a + room) (bs.drop room) who

/-- Bytes of `n` elements of an MX element type. -/
def mxBytes (mxint8 : Bool) (n : Nat) : Nat := if mxint8 then n else n / 2

/-- Element codes of an MX block: MXFP4 nibbles, the even one low (log entry 24), MXINT8 bytes. -/
def mxCodes (mxint8 : Bool) (bs : List Byte) : List Nat :=
  if mxint8 then bs.map (·.toNat) else bs.flatMap fun b => [b.toNat % 16, b.toNat / 16]

/-- The inverse of `mxCodes`. -/
def mxPack (mxint8 : Bool) (cs : List Nat) : List Byte := if mxint8 then cs.map fun c => BitVec.ofNat 8 c else packNibbles cs

/-- Lines of a row of the tile that a descriptor imports or exports (R236). -/
def mxLines (d : MoverDesc) : Nat := ceilDiv d.k 128 * (if d.mxint8 then 2 else 1)

/-- Read the scale bytes of every row. -/
def State.mxScales (s : State) (d : MoverDesc) (r : Nat) : Nat → State × List (List Nat)
  | 0 => (s, [])
  | n + 1 =>
    let x := s.rawBytes (d.mxscale + r * (d.k / 32)) (d.k / 32)
    let y := x.1.mxScales d (r + 1) n
    (y.1, x.2.map (·.toNat) :: y.2)

/-- Import one row: its lines and the blocks flushed. -/
def mxRow (mxint8 : Bool) (t : Int) (scales : List Nat) (bytes : List Byte) : List Line × Nat :=
  let fmt := if mxint8 then 3 else 1
  let blocks := (List.range (ceilDiv scales.length 4 * 4)).map fun b =>
    match scales[b]? with
    | none => (({ scale := 0, codes := zeroCodes 32 } : OutBlk), false)
    | some e =>
      let x := mxImportScale mxint8 t e
      let n := mxBytes mxint8 32
      let codes := if x.1 = 0 || x.1 = 0xFF then zeroCodes 32 else mxCodes mxint8 ((bytes.drop (b * n)).take n)
      (({ scale := x.1, codes := codes } : OutBlk), x.2)
  ((List.range (ceilDiv scales.length 4)).flatMap fun i => packBlocks fmt (((blocks.drop (4 * i)).take 4).map (·.1)),
   (blocks.filter (·.2)).length)

/-- Write lines at a place and its successors. -/
def State.moverPut (s : State) (m : MoverRef) (p : Place) (i : Nat) : List Line → State
  | [] => s
  | l :: rest => (s.moverWrite m (placeStep p i) l).moverPut m p (i + 1) rest

/-- Import rows from `r`, each after the header in its place. -/
def State.mxRows (s : State) (m : MoverRef) (d : MoverDesc) (t : Int) (per r : Nat) : List (List Nat) → State
  | [] => s
  | scales :: rest =>
    let x := s.rawBytes (d.src.at_ + r * d.srcStride) (mxBytes d.mxint8 d.k)
    let y := mxRow d.mxint8 t scales x.2
    let s := if m.die < 2 then x.1.modWell m.die fun w => { w with mxflush := satAdd w.mxflush y.2 } else x.1
    (s.moverPut m d.dst (1 + r * per) y.1).mxRows m d t per (r + 1) rest

/-- The numbers that tell the MX descriptors of one mover apart, for the free values that they take (log entry 13). -/
def mxKey (m : MoverRef) (d : MoverDesc) : List Nat := [moverKey m, fieldOfPlace d.src, fieldOfPlace d.dst, d.mxscale]

/-- MX_IMPORT: tile scale from the largest E, header line, rows. With no E that is not NaN the tile scale is free (log entry 19). -/
def State.mxImport (s : State) (m : MoverRef) (d : MoverDesc) : State :=
  let sc := s.mxScales d 0 d.rows
  let e := mxTileExp d.mxint8 (sc.2.flatMap id)
  let per := mxLines d
  let s := sc.1
  let scale := match e with | some x => rat32 (pow2 x) | none => (Config.freeOf 1 (mxKey m d ++ [s.strokeNum]) 0).setWidth 32
  let h : TileHdr := { scale := scale, fmt := if d.mxint8 then 3 else 1, flags := 0, linesPerRow := per, rows := d.rows, stream := 0,
                       tileIndex := 0, validK := d.k, bad := false }
  (s.moverWrite m d.dst (writeHdr h)).mxRows m d (e.getD 0) per 0 sc.2

/-- The source of an MX conversion is raw where the rule requires raw, the other side is not. -/
def execMxImport (mover : MoverRef) (d : MoverDesc) (s : State) : Out State :=
  s.onMover mover (spelled .mxImport d && mxFields d && d.src.space = .raw && d.dst.space ≠ .raw) fun s => s.mxImport mover d

/-- Export one block with its blocks' integers: the E byte and element bytes; an exponent outside 0 to 254 and the elements of a poisoned
block are free (log entry 19). -/
def mxBlock (key : List Nat) (mxint8 : Bool) (fmt : Nat) (t : Rat) (b : Blk) (codes : List Nat) : Byte × List Byte :=
  let n := mxBytes mxint8 32
  if b.poisoned then (0xFF#8, (freeWords 2 key n).map fun w => w.setWidth 8)
  else if b.scale = 0 then (0#8, List.replicate n 0#8)
  else
    let st := ueVal b.scale * t
    let vs := b.elems.map fun x => mkRat x (unitDen fmt) * st
    let r := mxExportBlock mxint8 codes vs st
    (if 0 ≤ r.1 && r.1 ≤ 254 then BitVec.ofInt 8 r.1 else (Config.freeOf 3 key 0).setWidth 8, mxPack mxint8 r.2)

/-- Element codes of the four blocks of a line position, as stored. -/
def lineCodes (fmt : Nat) (hi lo : Line) : List (List Nat) :=
  (List.range 4).map fun b => (List.range 32).map fun j =>
    if fmt = 3 then nibbleAt hi b j * 16 + nibbleAt lo b j else nibbleAt hi b j

/-- Read a line of the tile at place `i` of the source. -/
def State.tileLine (s : State) (m : MoverRef) (d : MoverDesc) (i : Nat) : State × Line :=
  let r := s.moverLine m (placeStep d.src i)
  (r.1, r.2.getD poisonedLine)

/-- Blocks and codes of one row of the tile; elements at and beyond VALID_K are zeros, and a block that lies wholly there is a zero block (R55), whatever its
scale (log entry 98). -/
def State.mxSource (s : State) (m : MoverRef) (d : MoverDesc) (h : TileHdr) (row p : Nat) : Nat → State × List (Blk × List Nat)
  | 0 => (s, [])
  | n + 1 =>
    let w := positionLines h.fmt
    let hi := s.tileLine m d (1 + row * mxLines d + p * w)
    let lo := if w = 2 then hi.1.tileLine m d (1 + row * mxLines d + p * w + 1) else (hi.1, zeroLine)
    let keep := h.validK - 128 * p
    let bs := ((lineBlocks h.fmt hi.2 lo.2 keep).zip (lineCodes h.fmt hi.2 lo.2)).mapIdx fun b x =>
      if h.bad then ({ x.1 with scale := 0xFF }, x.2)
      else if keep ≤ 32 * b then ({ x.1 with scale := 0 }, x.2)
      else (x.1, x.2.mapIdx fun j c => if 32 * b + j < keep then c else 0)
    let rest := lo.1.mxSource m d h row (p + 1) n
    (rest.1, bs ++ rest.2)

/-- Write the blocks of a row: elements then scale, ascending. -/
def State.mxEmit (s : State) (m : MoverRef) (d : MoverDesc) (h : TileHdr) (row k : Nat) : List (Blk × List Nat) → State
  | [] => s
  | b :: rest =>
    let r := mxBlock (mxKey m d ++ [s.strokeNum, row, k]) d.mxint8 h.fmt (dec32 h.scale).toRat b.1 b.2
    let s := s.rawPut (d.dst.at_ + row * d.dstStride + k * mxBytes d.mxint8 32) r.2 (writerOf m)
    (s.rawPut (d.mxscale + row * (d.k / 32) + k) [r.1] (writerOf m)).mxEmit m d h row (k + 1) rest

/-- MX_EXPORT of a tile of format 0x1 as MXFP4 or 0x3 as MXINT8; a tile of another format is not exported (R71; log entry 19). -/
def State.mxExport (s : State) (m : MoverRef) (d : MoverDesc) : State :=
  let x := s.tileLine m d 0
  let fmt := if d.mxint8 then 3 else 1
  let h := readHdr x.2
  let h := if h.bad then { h with fmt := fmt, validK := d.k } else h
  if h.fmt ≠ fmt then x.1
  else (List.range d.rows).foldl (fun s row =>
    let r := s.mxSource m d h row 0 (ceilDiv d.k 128)
    r.1.mxEmit m d h row 0 (r.2.take (d.k / 32))) x.1

/-- The same once the lines of the tile that lie with other modules have come (R246). -/
def State.runExport (s : State) (m : MoverRef) (d : MoverDesc) : State :=
  s.withLines (moverKey m) (.mxExport m d) (placesFrom d.src (1 + d.rows * mxLines d)) fun s => s.mxExport m d

def execMxExport (mover : MoverRef) (d : MoverDesc) (s : State) : Out State :=
  s.onMover mover (spelled .mxExport d && mxFields d && d.dst.space = .raw && d.src.space ≠ .raw) fun s => s.runExport mover d

/-! ### Reads of KV blocks (R185 to R187) -/

/-- LEASE: a mover reads lines `first` to `first + count - 1` of the block that a slot names, which leases the block, and writes them from `dst` on. -/
def State.readBlock (s : State) (d : LeaseDesc) (prefetch : Bool) : State :=
  let e := s.readListSlot d.target prefetch
  let n := match e.2 with
    | some i => match e.1.kvPool (e.1.kv i).pool.toNat with | some p => min d.count (slotLines p - d.first) | none => 0
    | none => d.count
  let r := e.1.blockLines (some d.mover.die) e.2 d.first n
  r.1.moverPut d.mover d.dst 0 r.2

def execLease (d : LeaseDesc) (prefetch : Bool) (s : State) : Out State :=
  if s.live && s.strk.run.isNone then .next s
  else s.onMover d.mover (placeOfField (fieldOfPlace d.dst) = some d.dst) fun s => s.readBlock d prefetch

/-! ### The quill's well port (R83, R221) -/

/-- Move `n` lines between a nib's T0 and its die's well, bit for bit apart from what error correction makes of them (R223, R224). -/
def State.portLines (s : State) (nib : Nat) (toWell : Bool) (t0 well i : Nat) : Nat → State
  | 0 => s
  | n + 1 =>
    let die := nib / 2048
    let a : Place := { space := .t0 nib, at_ := t0 + i }
    let b : Place := { space := .well die, at_ := well + i }
    let s := if toWell then let r := s.readT0 nib (t0 + i); (r.1.wellWrite die (well + i) r.2).followHdr a b
      else let r := s.readWellLine die (well + i); (r.1.t0Write nib (t0 + i) r.2).followHdr b a
    s.portLines nib toWell t0 well (i + 1) n

def execWellPortTransfer (nib : Nat) (toWell : Bool) (t0 well count : Nat) (s : State) : Out State :=
  if !s.live then .next s
  else if !s.nibPresent nib then .fault .absentUnit
  else .next (s.portLines nib toWell t0 well 0 count)

end Sys2Proof.Machine
end

