-- ==== Sys2Proof/Machine/Pages.lean ====
section
/-! DEFINITION. The page map's changes and their publication (R230, R231, R240, R241), and loans: the messages of R244 and what each does
(R242 to R254). -/
namespace Sys2Proof.Machine

/-! ### Page-map changes -/

/-- An entry after a change. -/
def PageEntry.apply (e : PageEntry) : PageOp → PageEntry
  | .filling l r p t => { e with kind := 2, state := 1, homeRank := BitVec.ofNat 7 r, homePage := BitVec.ofNat 17 p, homeTag := BitVec.ofNat 16 t,
                                 lenderRank := BitVec.ofNat 7 l }
  | .granted p t => if e.kind = 2 && e.state = 1 then { e with lenderPage := BitVec.ofNat 17 p, loanTag := BitVec.ofNat 16 t } else e
  | .loaned => if e.state = 1 then { e with state := 2 } else e
  | .home => { e with state := 0 }
  | .pin t => if e.pinned then e else { e with pinned := true, homeTag := BitVec.ofNat 16 t }
  | .unpin => { e with pinned := false }
  | .lend t => { e with lent := true, loanTag := BitVec.ofNat 16 t }
  | .unlend => { e with lent := false }
  | .shadow i => { e with shadow := BitVec.ofNat 17 i, shadowEn := true }
  | .unshadow => { e with shadowEn := false }
  | .kind raw => { e with kind := if raw then 1 else 0 }

/-- An entry once the changes that wait for it have taken effect. -/
def State.pageDue (s : State) (i : Nat) : PageEntry :=
  (s.pmapPending.filter fun c => c.index = i).foldl (fun e c => e.apply c.op) (s.page i)

/-- The page is or may be pinned: an own page, not lendable (R242), and every KV entry whose slot lies on it is FROZEN or FREE (R241). -/
def State.canPin (s : State) (page : Nat) : Bool :=
  page < 73728 && !s.boot.config.lendable.contains page
    && s.kvt.table.all fun x => x.2.page.toNat ≠ page || x.2.state = 0 || x.2.state = 2

/-- The home page of a T3 entry when it is an own page of this module. -/
def State.ownHome (s : State) (t3 : Nat) : Option Nat :=
  let e := s.page t3
  if 73728 ≤ t3 && e.kind = 2 && e.homeRank = s.grp.rank && s.grp.rankValid then some e.homePage.toNat else none

/-- The home page of a T3 entry, when it is an own page, has the index as its shadow from now on (R245). -/
def State.shadowHome (s : State) (t3 : Nat) : State :=
  match s.ownHome t3 with
  | some pg => s.setPage pg ((s.page pg).apply (.shadow t3))
  | none => s

/-- The shadow of the own page that a T3 entry holds a copy of ends (R249). -/
def State.unshadowHome (s : State) (t3 : Nat) : State :=
  match s.ownHome t3 with
  | some pg => if (s.page pg).shadowEn && (s.page pg).shadow.toNat = t3 then s.setPage pg ((s.page pg).apply .unshadow) else s
  | none => s

/-- Write `n` bytes from a byte address as zeros. -/
def State.zeroBytes (s : State) (a n : Nat) : State :=
  { s with mem := s.mem.filter fun c => c.1 < a || a + n ≤ c.1, upset := s.upset.filter fun e => e.1 < a || a + n ≤ e.1 }

/-- ZERO of every line of an own page. -/
def State.zeroPage (s : State) (page : Nat) : State := s.zeroBytes (t2At page 0) (72 * pageLines)

/-- Ask another module for the lines of a home page, 4,096 at most in a request, into a lender's page (R237, R245, R317). -/
def State.fillFrom (s : State) (g : Granted) (first : Nat) : Nat → State
  | 0 => s
  | fuel + 1 =>
    if pageLines ≤ first then s
    else
      let n := min 4096 (pageLines - first)
      (s.awaitLines { t3 := g.t3, hold := false, first := first, count := n, rank := g.homeRank, home := true, mover := fillKey,
                      dst := { space := .line, at_ := lineAddr g.page first } } g.homePage g.homeTag).fillFrom g (first + n) fuel

/-- The lender's IO movers start to fill a page that is lent now, from a home copy on another module; one of its own is copied by LOAN_FILL_DONE (R244). -/
def State.startFill (s : State) (page tag : Nat) : State :=
  match s.loan.granted.find? fun g => g.page = page && g.tag = tag with
  | some g => if g.homeRank = s.grp.rank.toNat then s else s.fillFrom g 0 58
  | none => s

/-- Make a change now, and what belongs to the same instant: the shadow of an own home page (R245, R249), the ZERO of a page taken back (R250),
the start of a fill (R244). -/
def State.makeChange (s : State) (c : PageChange) : State :=
  let set := fun (s : State) => s.setPage c.index ((s.page c.index).apply c.op)
  match c.op with
  | .filling _ _ _ _ => set (s.unshadowHome c.index)
  | .loaned => if (s.page c.index).state = 1 then (set s).shadowHome c.index else s
  | .home => set (s.unshadowHome c.index)
  | .unlend => (set s).zeroPage c.index
  | .lend tag => (set s).startFill c.index tag
  | _ => set s

/-- A page-map change: at once while no job runs, else at a publication (R231). -/
def State.changePage (s : State) (index : Nat) (op : PageOp) : State :=
  if s.strk.run.isSome then { s with pmapPending := s.pmapPending ++ [{ index := index, op := op }] }
  else s.makeChange { index := index, op := op }

/-- Changes in ascending index, those of one index in their order. -/
def insertChange (c : PageChange) : List PageChange → List PageChange
  | [] => [c]
  | d :: rest => if c.index < d.index then c :: d :: rest else d :: insertChange c rest

/-- The entries that a change writes. -/
def State.changed (s : State) (c : PageChange) : List Nat :=
  match c.op with
  | .filling _ _ _ _ => c.index :: (s.ownHome c.index).toList
  | .loaned => c.index :: (s.ownHome c.index).toList
  | .home => c.index :: (s.ownHome c.index).toList
  | _ => [c.index]

/-- Make changes in their order while no more than 8,192 entries change, `seen` being those changed so far; the rest go on waiting (R231). -/
def State.publishFrom (s : State) (seen : List Nat) : List PageChange → State
  | [] => s
  | c :: rest =>
    let seen := (s.changed c).foldl (fun l i => if l.contains i then l else i :: l) seen
    if 8192 < seen.length then { s with pmapPending := s.pmapPending ++ c :: rest }
    else (s.makeChange c).publishFrom seen rest

/-- The waiting changes in the order in which they are published. -/
def State.dueChanges (s : State) : List PageChange := s.pmapPending.foldl (fun acc c => insertChange c acc) []

/-- One publication. -/
def State.publishPages (s : State) : State := ({ s with pmapPending := [] }).publishFrom [] s.dueChanges

/-! ### The borrower's side -/

/-- Send RETURN to a lender for pages that it lent (R248, R251). -/
def State.sendReturn (s : State) (lender : Nat) (t3 : List Nat) : State :=
  s.sendList lender 0x36 0 (recordsFor t3.length) (t3.map fun i => [i])

/-- Send RETURN to a home module for T3 indices that name its pages no longer: the first item tells the two apart (R251; log entry 90). -/
def State.sendUnnamed (s : State) (home : Nat) (t3 : List Nat) : State :=
  s.sendList home 0x36 1 (recordsFor t3.length) (t3.map fun i => [i])

/-- Forget the loans of entries, as the borrower. -/
def State.dropHeld (s : State) (t3 : List Nat) : State :=
  { s with loan := { s.loan with held := s.loan.held.filter fun g => !t3.contains g.t3 } }

/-- T3 indices of a borrower name their home pages no longer: the home module, which this is, unpins those that no index names any longer (R251). -/
def State.dropPins (s : State) (borrower : Nat) (t3 : List Nat) : State :=
  let gone := s.loan.pins.filter fun p => p.2.1 = borrower && t3.contains p.2.2
  let left := s.loan.pins.filter fun p => !(p.2.1 = borrower && t3.contains p.2.2)
  let s := { s with loan := { s.loan with pins := left } }
  (gone.foldl (fun l p => insertNat p.1 l) []).foldl (fun s pg => if left.any (fun p => p.1 = pg) then s else s.changePage pg .unpin) s

/-- Entries return to their home copies by a page-map change; those that have done so, or are LOST, stay. -/
def State.goHome (s : State) (t3 : List Nat) : State :=
  t3.foldl (fun s i => if (s.pageDue i).state = 0 || (s.pageDue i).state = 4 then s else s.changePage i .home) s

/-- All entries of a recall have switched. -/
def State.switched (s : State) (r : RecallDue) : Bool :=
  r.wait = 0 && r.t3.all fun i => (s.page i).state ≠ 3 && !s.pmapPending.any fun c => c.index = i

/-- Where a recall has switched all its entries RELEASED is sent (R249); RETURN where the borrower gives the pages back unasked (R244). -/
def State.finishRecalls (s : State) : State :=
  s.loan.recalls.foldl (fun s r =>
    if s.switched r then
      let s := { s with loan := { s.loan with recalls := s.loan.recalls.erase r } }
      (if r.unasked then s.sendReturn r.lender r.t3
       else s.sendList r.lender 0x35 0 (recordsFor r.t3.length) (r.t3.map fun i => [i])).dropHeld r.t3
    else s) s

/-- Give borrowed pages back unasked: the entries return to their home copies first. -/
def State.giveBack (s : State) (lender : Nat) (t3 : List Nat) : State :=
  let s := s.goHome t3
  ({ s with loan := { s.loan with recalls := s.loan.recalls ++ [({ lender := lender, t3 := t3, wait := 0, unasked := true } : RecallDue)] } }).finishRecalls

/-- A boundary counts the notice of each recall down (R249, R253), publishes, and finishes what has switched. -/
def State.pageBoundary (s : State) : State :=
  let due := s.loan.recalls.filter fun r => r.wait = 1
  let s := { s with loan := { s.loan with recalls := s.loan.recalls.map fun (r : RecallDue) => { r with wait := r.wait - 1 } } }
  let s := due.foldl (fun s r => s.goHome r.t3) s
  s.publishPages.finishRecalls

/-- The borrower runs no job any longer: what waits takes effect (R231, R249). -/
def State.pagesIdle (s : State) : State :=
  let due := s.loan.recalls.filter fun r => r.wait ≠ 0
  let s := { s with loan := { s.loan with recalls := s.loan.recalls.map fun (r : RecallDue) => { r with wait := 0 } } }
  let s := due.foldl (fun s r => s.goHome r.t3) s
  (s.dueChanges.foldl State.makeChange { s with pmapPending := [] }).finishRecalls

/-! ### Commands that waited for lines -/

/-- The command that waited for lines under `key` goes on once none of them is awaited. -/
def State.resumeParked (s : State) (key : Nat) : State :=
  if s.loan.reads.any fun w => w.hold && w.mover = key then s
  else match s.loan.parked.find? fun e => e.1 = key with
    | none => s
    | some e =>
      let s := { s with loan := { s.loan with parked := s.loan.parked.erase e } }
      match e.2 with
      | .copy m d ecc => s.runCopy m d ecc
      | .add m d => s.runAdd m d
      | .mxExport m d => s.runExport m d
      | .allGather coll d => s.issue coll d .allGather e.2
      | .reduceScatter coll d => s.issue coll d .reduceScatter e.2
      | .allReduce coll d => s.issue coll d .allReduce e.2
      | .allToAll coll d => s.issue coll d .allToAll e.2
      | .transfer coll d => s.issue coll d .transfer e.2
      | .chunkNak sender stroke coll step first => s.answerNak sender stroke coll step first
      | _ => s

/-- A line that a mover has read, verified: a failure is counted where the mover belongs (R237). Movers of the compute dies come below 128. -/
def State.verified (s : State) (mover : Nat) (l : Line) : State × Line :=
  if lineOk l then (s, l)
  else if mover < 128 then (s.raiseWell (mover / 64) 1, poisonLine l)
  else ({ s with loan := { s.loan with iomovchk := satAdd s.loan.iomovchk 1 } }, poisonLine l)

/-- Put the lines of a fill where it wanted them. -/
def State.putLines (s : State) (w : ReadWait) (k : Nat) : List Line → State
  | [] => s
  | l :: rest =>
    let r := s.verified w.mover l
    (r.1.placeWrite (placeStep w.dst k) r.2 .host).putLines w (k + 1) rest

/-- What becomes of the lines of a read that no command waits for: a fill writes them, the answer to a reader that went on does nothing more (R246). -/
def State.landLines (s : State) (w : ReadWait) (ls : List Line) : State := if w.mover = fillKey then s.putLines w 0 ls else s

/-- Lines `k`, `k` + 1, … of a read, from a home copy of this module. -/
def State.homeLines (s : State) (w : ReadWait) (k : Nat) : Nat → State × List Line
  | 0 => (s, [])
  | n + 1 =>
    let e := s.page w.t3
    let r := s.homeRead w.t3 e.homePage.toNat e.homeTag.toNat (w.first + k)
    let rest := r.1.homeLines w (k + 1) n
    (rest.1, r.2 :: rest.2)

/-- A read goes to the home copy: this module's own, which a command that waits reads itself, or another's, which is asked for it (R248). -/
def State.reissue (s : State) (w : ReadWait) : State :=
  let e := s.page w.t3
  if e.homeRank = s.grp.rank && s.grp.rankValid then
    if w.hold then s.resumeParked w.mover
    else
      let r := s.homeLines w 0 w.count
      r.1.landLines w r.2
  else s.awaitLines { w with rank := e.homeRank.toNat, home := true } e.homePage.toNat e.homeTag.toNat

/-- A loaned read failed with a flag of GLB_LOAN_ERR: the entry is LOST, the read goes to the home copy, and RETURN is sent (R248). -/
def State.loseRead (s : State) (w : ReadWait) (flag : Nat) : State :=
  let s := { s with loan := { s.loan with reads := s.loan.reads.erase w } }
  let s := s.setPage w.t3 { s.page w.t3 with state := 4 }
  let s := s.raiseLoan flag w.t3
  let held := s.loan.held.any fun g => g.t3 = w.t3
  let s := if held then (s.dropHeld [w.t3]).sendReturn w.rank [w.t3] else s
  s.reissue w

/-! ### Offers, requests and grants (R242 to R245) -/

/-- OFFER received. -/
def execOffer (sender pages notice share : Nat) (s : State) : Out State :=
  match s.takeRecord 0x30 sender [pages, notice, share] with
  | none => .next s
  | some s => .next { s with loan := { s.loan with
      offersIn := (s.loan.offersIn.filter fun o => o.rank ≠ sender) ++ [{ rank := sender, pages := pages, notice := notice, share := share }] } }

/-- Pages of the lendable range that are not lent or granted. -/
def State.lendable (s : State) : List Nat :=
  s.boot.config.lendable.filter fun p => p < 73728 && !(s.page p).lent && !(s.loan.granted.any fun g => g.page = p)

/-- A home page, where it is this module's, is pinned or can be. -/
def State.pinnable (s : State) (p : LoanPage) : Bool :=
  p.homeRank ≠ s.grp.rank.toNat || (s.pageDue p.homePage).pinned || s.canPin p.homePage

/-- The home module of a requested page, when it is this one, pins it (R245). -/
def State.pinHome (s : State) (borrower : Nat) (p : LoanPage) : State :=
  if p.homeRank = s.grp.rank.toNat && s.pinnable p then
    { s.changePage p.homePage (.pin p.homeTag) with
      loan := { (s.changePage p.homePage (.pin p.homeTag)).loan with pins := s.loan.pins ++ [(p.homePage, borrower, p.t3)] } }
  else s

/-- Grant one requested page on a page of the lender (R244). -/
def State.grantOne (s : State) (borrower : Nat) (p : LoanPage) (page : Nat) : State :=
  let g : Granted := { peer := borrower, t3 := p.t3, page := page, tag := s.loan.tagSeq % 65536, homeRank := p.homeRank,
                       homePage := p.homePage, homeTag := p.homeTag, filled := false, recalled := false }
  ({ s with loan := { s.loan with granted := s.loan.granted ++ [g], tagSeq := s.loan.tagSeq + 1 } }).changePage page (.lend g.tag)

/-- The items of REQUEST and of GRANT for one page. -/
def requestItems (p : LoanPage) : List Nat := [p.t3, p.homeRank, p.homePage, p.homeTag]
def grantItems (g : LoanGrant) : List Nat := [g.t3, g.page, g.tag]

/-- The grants of requested pages on lendable ones, tags ascending. -/
def grantsOf (tag : Nat) (pairs : List (LoanPage × Nat)) : List LoanGrant :=
  pairs.mapIdx fun k e => { t3 := e.1.t3, page := e.2, tag := (tag + k) % 65536 }

/-- The lender grants within its offer, pages whose home it can pin where it is their home too, and starts to fill. -/
def State.grantPages (s : State) (borrower notice : Nat) (pages : List LoanPage) : State :=
  let room := match s.loan.offersOut.find? fun o => o.rank = borrower with
    | some o => if notice < o.notice then 0 else o.pages
    | none => 0
  let pairs := ((pages.filter s.pinnable).take room).zip s.lendable
  let grants := grantsOf s.loan.tagSeq pairs
  let s := pairs.foldl (fun s e => s.grantOne borrower e.1 e.2) s
  let s := { s with loan := { s.loan with
    offersOut := s.loan.offersOut.map fun (q : Offer) => if q.rank = borrower then { q with pages := q.pages - pairs.length } else q } }
  s.sendList borrower 0x32 0 (recordsFor grants.length) (grants.map grantItems)

/-- REQUEST received: a home page of this module is pinned, in the one lifecycle state that has loans (R407). With notice 0 it comes to a home module
only, from which no loan is asked (log entry 90). -/
def execRequest (sender notice : Nat) (pages : List LoanPage) (s : State) : Out State :=
  match s.takeList 0x31 sender notice (recordsFor pages.length) (pages.map requestItems) with
  | none => .next s
  | some s =>
    let s := if s.boot.life = .operational then pages.foldl (fun s p => s.pinHome sender p) s else s
    .next (if notice = 0 then s else s.grantPages sender notice pages)

/-- Complete the loan request that the scribe holds for a lender, with the number of pages granted (R456). -/
def State.answerRequest (s : State) (lender n : Nat) : State :=
  s.answerWait 0x31 (fun c => (c.args.getD 0 0#32).toNat = lender) 0 [w32 n]

/-- GRANT received by the borrower. -/
def execGrant (sender : Nat) (pages : List LoanGrant) (s : State) : Out State :=
  match s.takeList 0x32 sender 0 (recordsFor pages.length) (pages.map grantItems) with
  | none => .next s
  | some s =>
    let s := pages.foldl (fun s g =>
      let e := s.pageDue g.t3
      if 73728 ≤ g.t3 && g.t3 < 131072 && e.kind = 2 && e.state = 1 && e.lenderRank.toNat = sender then
        let h : Granted := { peer := sender, t3 := g.t3, page := g.page, tag := g.tag, homeRank := e.homeRank.toNat, homePage := e.homePage.toNat,
                             homeTag := e.homeTag.toNat, filled := false, recalled := false }
        ({ s with loan := { s.loan with held := s.loan.held ++ [h] } }).changePage g.t3 (.granted g.page g.tag)
      else s) s
    .next (s.answerRequest sender pages.length)

/-- Copy a home page of this module into a lent page with an IO mover (R237, R245). -/
def State.fillLocal (s : State) (g : Granted) (line : Nat) : Nat → State
  | 0 => s
  | n + 1 =>
    let h := s.homeLine g.t3 g.homePage g.homeTag line
    let r := h.1.verified fillKey h.2
    (r.1.t2Write (lineAddr g.page line) r.2 .host).fillLocal g (line + 1) n

/-- A fill can be complete: the page is lent, a home copy of this module is pinned, and no line from another is awaited. -/
def State.fillReady (s : State) (g : Granted) : Bool :=
  (s.page g.page).lent && (s.page g.page).loanTag.toNat = g.tag
    && (if g.homeRank = s.grp.rank.toNat then (s.page g.homePage).pinned
        else !s.loan.reads.any fun w => w.mover = fillKey && w.t3 = g.t3 && lineIdx w.dst.at_ = g.page)

/-- LOAN_FILL_DONE: the fills for a borrower are complete; FILLED is sent. -/
def execLoanFillDone (borrower : Nat) (s : State) : Out State :=
  if !s.live then .next s
  else
    let todo := s.loan.granted.filter fun g => g.peer = borrower && !g.filled && s.fillReady g
    if todo.isEmpty then .next s
    else
      let s := todo.foldl (fun s g => if g.homeRank = s.grp.rank.toNat then s.fillLocal g 0 pageLines else s) s
      let s := { s with loan := { s.loan with granted := s.loan.granted.map fun (g : Granted) => if todo.contains g then { g with filled := true } else g } }
      .next (s.sendList borrower 0x33 0 (recordsFor todo.length) (todo.map fun g => [g.t3]))

/-- FILLED received: the entries become LOANED at the next publication, with their shadows (R245). -/
def execFilled (sender : Nat) (t3 : List Nat) (s : State) : Out State :=
  match s.takeList 0x33 sender 0 (recordsFor t3.length) (t3.map fun i => [i]) with
  | none => .next s
  | some s => .next (t3.foldl (fun s i =>
      if s.loan.held.any fun g => g.peer = sender && g.t3 = i then
        ({ s with loan := { s.loan with held := s.loan.held.map fun (g : Granted) => if g.t3 = i then { g with filled := true } else g } }).changePage i .loaned
      else s) s)

/-! ### Recall, release and return (R249 to R251) -/

/-- RECALL received: the entries become RECALLING; the switch is due at the boundary that the notice gives, or now without a job. -/
def execRecall (sender notice : Nat) (t3 : List Nat) (s : State) : Out State :=
  match s.takeList 0x34 sender notice (recordsFor t3.length) (t3.map fun i => [i]) with
  | none => .next s
  | some s =>
    let mine := t3.filter fun i => s.loan.held.any fun g => g.peer = sender && g.t3 = i
    let s := s.raiseLoan 0 (t3.headD 0)
    let s := mine.foldl (fun s i => if (s.page i).state = 1 || (s.page i).state = 2 then s.setPage i { s.page i with state := 3 } else s) s
    let r : RecallDue := { lender := sender, t3 := mine, wait := max 1 notice, unasked := false }
    let s := { s with loan := { s.loan with recalls := s.loan.recalls ++ [r] } }
    .next (if s.strk.run.isSome then s else s.pagesIdle)

/-- The lender takes pages back: LENT clears, and the pages are zeroed with that and lendable again (R250). What their fills and reads still awaited or could
send again is forgotten. -/
def State.takeBack (s : State) (gs : List Granted) : State :=
  let of := fun (page : Nat) => gs.any fun g => g.page = page
  let s := { s with loan := { s.loan with
    granted := s.loan.granted.filter fun g => !gs.contains g
    reads := s.loan.reads.filter fun w => !(w.mover = fillKey && of (lineIdx w.dst.at_))
    served := s.loan.served.filter fun v => !of v.page } }
  gs.foldl (fun s g => s.changePage g.page .unlend) s

/-- Loans to a borrower of some entries. -/
def State.loansOf (s : State) (borrower : Nat) (t3 : List Nat) : List Granted :=
  s.loan.granted.filter fun g => g.peer = borrower && t3.contains g.t3

/-! ### Reads (R247, R248) -/

/-- The header of a chunk of loaned lines (R323). -/
def State.loanHdr (s : State) (dest first n : Nat) : ChunkHdr :=
  { op := 0, src := s.grp.rank.toNat, dst := dest, stroke := s.strokeNum % 2 ^ 32, coll := 0, step := 0, relayed := false, resend := false,
    dhash := 0, lines := n, first := first }

/-- A line as an IO mover reads it for another module (R232, R233, R237); a read that its tag refuses delivers it poisoned (R247). -/
def State.lineFor (s : State) (v : Served) (line : Nat) : State × Line :=
  if (s.page v.page).kind != 0 || pageLines ≤ line then (s.pmapBad v.page, poisonedLine)
  else if v.refused then (s, poisonLine (s.t2Line v.page line))
  else
    let r := s.readPage v.page line
    r.1.verified fillKey r.2

def State.linesFor (s : State) (v : Served) (line : Nat) : Nat → State × List Line
  | 0 => (s, [])
  | n + 1 =>
    let r := s.lineFor v line
    let rest := r.1.linesFor v (line + 1) n
    (rest.1, r.2 :: rest.2)

/-- Answer a read with its lines, or with poisoned lines when a home read is refused, which STEP 1 of the header says (log entry 39). -/
def State.serveRead (s : State) (v : Served) (resend : Bool) : State :=
  let r := s.linesFor v v.first v.count
  r.1.sendLoanChunk { s.loanHdr v.rank v.first v.count with step := if v.refused then 1 else 0, resend := resend } r.2

/-- Serve a read for the first time; the latest 64 can be sent again. -/
def State.serveFirst (s : State) (v : Served) : State :=
  ({ s with loan := { s.loan with served := (v :: s.loan.served).take 64 } }).serveRead v false

/-- A page is to be pinned by a change that waits for a publication. -/
def State.pinWaits (s : State) (page : Nat) : Bool := !(s.page page).pinned && (s.pageDue page).pinned

/-- LOAN_READ received: the lines, poisoned lines for a home read that the tag refuses, or NOT_LENT. A home read of a page that is about to be
pinned waits for that. DESIGN CHOICE (log entry 104): GLB_LENTSERVED counts the lines of loaned reads, when they are first sent. -/
def execLoanRead (sender page line count tag : Nat) (home : Bool) (s : State) : Out State :=
  if home && s.pinWaits page then .next s
  else match s.takeRecord 0x37 sender [page, line, count, tag, if home then 1 else 0] with
  | none => .next s
  | some s =>
    let e := s.page page
    let v : Served := { rank := sender, page := page, first := line, count := count, refused := false, resent := false }
    if home then .next (s.serveFirst { v with refused := !(page < 73728 && e.pinned && e.homeTag.toNat = tag) })
    else if page < 73728 && e.lent && e.loanTag.toNat = tag then
      .next ({ s with loan := { s.loan with lentserved := satAdd s.loan.lentserved count } }.serveFirst v)
    else .next (s.sendRecord sender 0x38 [page, line, count] false)

/-- NOT_LENT received. -/
def execNotLent (sender page line count : Nat) (s : State) : Out State :=
  match s.takeRecord 0x38 sender [page, line, count] with
  | none => .next s
  | some s =>
    match s.loan.reads.find? fun w => w.rank = sender && !w.home && w.first = line && w.count = count
        && (s.page w.t3).lenderPage.toNat = page with
    | some w => .next (s.loseRead w 2)
    | none => .next s

/-- A loaned read had no response within 20 µs. -/
def execLoanReadTimeout (t3 : Nat) (s : State) : Out State :=
  if !s.live then .next s
  else match s.loan.reads.find? fun w => w.t3 = t3 && !w.home with
    | some w => .next (s.loseRead w 1)
    | none => .next s

end Sys2Proof.Machine
end

