-- ==== Sys2Proof/Machine/Jobs.lean ====
section
/-! DEFINITION. How a job ends: JOB_END (R430), the completion record and its place in the ring's queue (R413, R420, R431), the end of the running
job (R332, R425, R432), and the release sequence from its step 4 on (R356, R436). -/
namespace Sys2Proof.Machine

/-- The request of a member that is in force in stroke `n` (R291). -/
def latestReq (rs : List RateReq) (rank n : Nat) : Option RateReq :=
  rs.foldl (fun acc r =>
    if r.rank = rank && r.stroke ≤ n then
      match acc with
      | some a => if a.stroke ≤ r.stroke then some r else acc
      | none => some r
    else acc) none

/-! ### Completion records (R420, R431) -/

def ringSize (x : Ring) : Nat := 2 ^ x.sz.toNat

/-- The 64 bytes of a record. -/
def recordBytes (c : CplRec) (phase held : Bool) : List Byte :=
  leBytes 1 c.status ++ leBytes 1 (if phase then 1 else 0) ++ leBytes 1 c.origin ++ leBytes 1 (c.flags + if held then 64 else 0)
    ++ leBytes 4 c.detail ++ leBytes 8 c.jobId ++ leBytes 8 c.strokesRun ++ leBytes 8 c.endGtc ++ leBytes 2 c.epoch ++ leBytes 2 0
    ++ leBytes 4 (min c.stretches 0xFFFFFFFF) ++ List.replicate 24 0#8

/-- Write a record at its ring's completion position, then signal its vector when NOTIFY is set; once quiesced no TLP leaves (R436). -/
def State.postRecord (s : State) (c : CplRec) (held : Bool) : State :=
  let x := s.ring c.ring
  let at_ := x.cqtail.toNat
  let last := at_ + 1 = ringSize x
  let s := s.setRing c.ring { x with cqtail := if last then 0 else x.cqtail + 1, phase := if last then !x.phase else x.phase }
  let s := if s.host.quiesced then s
    else { s with pcieOut := s.pcieOut ++ [.dma (x.cqbase.toNat + 64 * at_) (recordBytes c x.phase held)] }
  if c.notify then s.fire c.ring else s

/-- A ring's job has ended: its feeds' bits clear (R425). DESIGN CHOICE (log entry 107): not while another job of the ring runs, whose bits they are. -/
def State.clearFeeds (s : State) (ring : Nat) : State :=
  if s.strk.run.any fun j => j.ring = ring then s else s.modRing ring fun x => { x with feeddone := 0 }

/-- A job has ended: its record is written, or held while the host interface is reset and the ring not enabled again (R413); the log
holds a JOB_END entry (R454). -/
def State.complete (s : State) (c : CplRec) : State :=
  let s := s.clearFeeds c.ring
  let s := s.logEvent 0x0030 (if c.status = 0 then 0 else 2)
    [w32 c.jobId, w32 (c.jobId / 2 ^ 32), w32 c.status, w32 c.detail, w32 c.strokesRun, w32 (c.strokesRun / 2 ^ 32)]
  if (s.ring c.ring).cleared then
    { s with host := { s.host with held := (s.host.held ++ [c]).take 2 } }.raiseHost 4
  else s.postRecord c false

/-- Records held for a ring are written once it is enabled (R413). -/
def State.postHeld (s : State) (r : Nat) : State :=
  let mine := s.host.held.filter fun c => c.ring = r
  let s := { s with host := { s.host with held := s.host.held.filter fun c => c.ring ≠ r } }
  mine.foldl (fun s c => s.postRecord c true) s

/-- The record of a job that ran no stroke. -/
def State.refusal (s : State) (ring : Nat) (d : JobDesc) (status detail : Nat) : CplRec :=
  { ring := ring, status := status, origin := 0x7F, flags := if d.kind = 2 then 4 else 0, detail := detail, jobId := d.jobId, strokesRun := 0,
    endGtc := s.gtc.now.toNat, epoch := s.mir.ownEpoch.toNat, stretches := 0, notify := d.notify }

/-- FLAGS of a job's record, HELD apart. -/
def jobFlags (j : Job) : Nat :=
  (if j.isVoid then 1 else 0) + (if j.overrun then 2 else 0) + (if j.desc.kind = 2 then 4 else 0) + (if j.unmirrored then 8 else 0)
    + (if j.courseLost then 16 else 0) + (if j.fence then 32 else 0)

/-! ### The end of the running job -/

/-- Unfinished steps end with JOB_ENDED (R332). -/
def State.endSteps (s : State) : State :=
  let s := s.coll.steps.foldl (fun s x => match s.findStep x.coll x.step with
    | some y => s.failStep y 8 0 s.grp.rank.toNat
    | none => s) s
  { s with coll := { s.coll with steps := [], early := [], unrouted := [] } }

/-- Contexts close (R372); their position registers keep their values until the next launch (R427). -/
def State.closeStreams (s : State) : State :=
  let s := { s with ctxs := s.ctxs.map fun e => (e.1, e.2.map fun (c : Ctx) => { c with isOpen := false, requests := [] }) }
  (List.range 12).foldl (fun s p => s.modPipe p fun x => { x with frame := none, switching := false }) s

/-- Captures that were not checked when their stroke ends are abandoned (R123); row-ready counters reset (R216). -/
def State.endWells (s : State) : State :=
  (List.range 2).foldl (fun s d => s.modWell d fun w =>
    let n := (if w.capture0.isSome then 1 else 0) + if w.capture1.isSome then 1 else 0
    { w with blotskip := satAdd w.blotskip n, capture0 := none, capture1 := none, rowrdy := [] }) s

/-- No stroke runs any longer: no quill runs a stage, and no engine feeds a gang (R97). -/
def State.idleQuills (s : State) : State := s.mapQuills fun _ x => { x with active := false, convEn := false, convBusy := false }

/-- What the units hold for the job that ends: stages, takes, tickets, tiles being recomputed, the engines' buffers and waits (R97, R203, R279), raised
scores, unchecked captures, commands that wait for lines. -/
def State.clearUnits (s : State) : State :=
  let s := s.idleQuills.mapQuills fun _ x =>
    { x with attempt := [], tags := [], asked := [], tickets := [], lineBuf := [], window := [], halo := none, convLast := none, hwaitNow := false }
  { s.endWells with clamps := [] }.dropParked

/-- A step down that was pending takes effect: at the top clock of no job, where one ends (R448). It stays pending for 10 ms. -/
def Throttle.tookEffect (t : Throttle) : Throttle := if t.downPending.isSome then { t with downPending := none, downMs := 10 } else t

/-- End the running job at GTC `at_` with a status, the rank that decided it, and its DETAIL; the shared prefixes that its launch referenced are given up
(R186). -/
def State.endJob (s : State) (status origin detail at_ : Nat) : State :=
  match s.strk.run with
  | none => s
  | some _ =>
    let s := s.endSteps
    match s.strk.run with
    | none => s
    | some j =>
      let c : CplRec :=
        { ring := j.ring, status := status, origin := origin, flags := jobFlags j, detail := detail, jobId := j.desc.jobId,
          strokesRun := j.stroke - j.first, endGtc := at_, epoch := s.mir.ownEpoch.toNat, stretches := j.stretches, notify := j.desc.notify }
      let s := (j.refs.foldl State.kvDeref s).clearUnits
      let s := { s with
        strk := { s.strk with run := none, lastEnd := at_ }
        mir := { s.mir with leaving := none }
        scr := { s.scr with throttle := s.scr.throttle.tookEffect } }
      (s.complete c).closeStreams.pagesIdle

/-! ### JOB_END (R430) -/

/-- Add a JOB_END to those known for the running job. -/
def State.addEnd (s : State) (e : EndMsg) : State := s.modRun fun j => { j with ends := j.ends ++ [e] }

/-- Send JOB_END to every member, this one included: stroke c is the current stroke plus 2. -/
def State.sendJobEnd (s : State) (status detail : Nat) : State :=
  let c := s.strokeNum + 2
  (s.sendAll 0x25 [c, status, detail]).addEnd { rank := s.grp.rank.toNat, own := true, stroke := c, status := status, detail := detail }

/-- The winner among JOB_END records: the earliest c, then the lowest rank. -/
def bestEnd : List EndMsg → Option EndMsg
  | [] => none
  | e :: rest => match bestEnd rest with
    | none => some e
    | some f => if f.stroke < e.stroke || (f.stroke = e.stroke && f.rank < e.rank) then some f else some e

/-! ### The release sequence from step 4 (R356) -/

/-- Every link is disabled. -/
def State.disableLinks (s : State) : State := (List.range linkCount).foldl (fun s l => s.modLink l fun x => { x with st := .disabled }) s

/-- Step 1 of the quiescence (R436). -/
def State.startQuiesce (s : State) : State := { s with host := { s.host with quiesceReq := true } }.raiseHost 2

/-- Everything that was queued for a link that runs has left: a RETURN, an M_READY or an M_COMMIT leaves before its link is disabled (R346, R356). -/
def State.linksEmpty (s : State) : Bool :=
  (List.range linkCount).all fun l =>
    let x := s.link l
    !(x.st = .ident || x.st = .up) || (x.vc0.isEmpty && x.vc1.isEmpty && x.vc2.isEmpty && x.vc3.isEmpty && x.resend.isEmpty && x.replay.isEmpty)

/-- Step 5 follows once no page is lent any longer and nothing waits to leave. -/
def State.releaseNext (s : State) : State :=
  if s.mir.releaseStep = 4 && s.loan.granted.isEmpty && s.linksEmpty then
    { s.disableLinks.startQuiesce with mir := { s.mir with releaseStep := 5 } }
  else s

/-- Lenders and borrowers of this module, each once. -/
def peersOf (gs : List Granted) : List Nat := gs.foldl (fun acc g => insertNat g.peer acc) []

/-- Send RECALL for loans to a borrower. -/
def State.sendRecall (s : State) (borrower notice : Nat) (t3 : List Nat) : State :=
  let s := { s with loan := { s.loan with
    granted := s.loan.granted.map fun (g : Granted) => if g.peer = borrower && t3.contains g.t3 then { g with recalled := true } else g } }
  s.sendList borrower 0x34 notice (recordsFor t3.length) (t3.map fun i => [i])

/-- Step 4: RETURN for every borrowed page, RECALL of every lent one. -/
def State.releaseLoans (s : State) : State :=
  let s := { s with mir := { s.mir with releaseStep := 4 } }
  let held := s.loan.held
  let s := (peersOf held).foldl (fun s p =>
    s.giveBack p ((held.filter fun g => g.peer = p).map (·.t3))) s
  let s := (peersOf s.loan.granted).foldl (fun s p =>
    s.sendRecall p 2 ((s.loan.granted.filter fun g => g.peer = p).map (·.t3))) s
  s.releaseNext

/-- End the running job; a release that waited for it goes on at step 4. -/
def State.finishJob (s : State) (status origin detail at_ : Nat) : State :=
  let s := s.endJob status origin detail at_
  if s.mir.releaseStep = 1 then s.releaseLoans else s

end Sys2Proof.Machine
end

