-- ==== Sys2Proof/Machine/Conv.lean ====
section
/-! DEFINITION. The direct convolution engine: which input pixel a tap reads (R199, R202, R208), the C32-blocked layout in the well (R195, R197), and
the row operand it feeds to a gang (R200, R205 to R210). -/
namespace Sys2Proof.Machine

/-- Input index of an upsampled coordinate, when it lies inside (R199). -/
def axisIndex (u : Int) (up extent : Nat) : Option Nat :=
  if 0 ≤ u && u < ((up * extent : Nat) : Int) then some (u.toNat / up) else none

/-- Nearest inside index (R208). -/
def axisClamp (u : Int) (up extent : Nat) : Nat := if u < 0 then 0 else min (u.toNat / up) (extent - 1)

/-- A frame of the carry tensor, or of the input (R199). -/
inductive Frame where
  | carry (f : Nat)
  | input (f : Nat)
  deriving DecidableEq, Repr, Inhabited

/-- The frame that a time coordinate reads. -/
def timeIndex (u : Int) (d : ConvDesc) : Option Frame :=
  if u < 0 then
    let f : Int := (d.carry : Int) + u.fdiv (d.ut : Int)
    if 0 ≤ f then some (.carry f.toNat) else none
  else (axisIndex u d.ut d.inT).map .input

/-- The nearest inside frame: from the earliest carry frame, or frame 0, to frame IN_T - 1 (R208). -/
def timeClamp (u : Int) (d : ConvDesc) : Frame :=
  match timeIndex u d with
  | some f => f
  | none => if u < 0 then (if 0 < d.carry then .carry 0 else .input 0) else .input (d.inT - 1)

/-- The pixel that a tap of an output position reads: none where the tap is fed as zero blocks (R199, R202, R208). -/
def tapPixel (d : ConvDesc) (t h w kt kh kw : Nat) : Option (Frame × Nat × Nat) :=
  let ut : Int := (t * d.st : Nat) + (d.ot + d.tapT) + (kt * d.dt : Nat)
  let uh : Int := (h * d.sh : Nat) + (d.oh + d.tapH) + (kh * d.dh : Nat)
  let uw : Int := (w * d.sw : Nat) + (d.ow + d.tapW) + (kw * d.dw : Nat)
  match timeIndex ut d, axisIndex uh d.uh d.inH, axisIndex uw d.uw d.inW with
  | some f, some y, some x => some (f, y, x)
  | _, _, _ =>
    if d.replicate then some (timeClamp ut d, axisClamp uh d.uh d.inH, axisClamp uw d.uw d.inW) else none

/-- Lines of one pixel. -/
def pixelLines (d : ConvDesc) : Nat := ceilDiv d.cIn 128 * (if d.inFmt = 3 then 2 else 1)

/-- Lines of one frame row with its headers, one for each storage tile of at most 4,096 pixels (R195). -/
def rowLines (d : ConvDesc) : Nat := ceilDiv d.inW 4096 + d.inW * pixelLines d

/-- Well lines of a pixel's header and first line (R195). -/
def pixelAt (d : ConvDesc) (p : Frame × Nat × Nat) : Nat × Nat :=
  let base := match p.1 with
    | .carry f => d.carryAt + (f * d.inH + p.2.1) * rowLines d
    | .input f => d.inputAt + (f * d.inH + p.2.1) * rowLines d
  let hdr := base + p.2.2 / 4096 * (1 + 4096 * pixelLines d)
  (hdr, hdr + 1 + p.2.2 % 4096 * pixelLines d)

/-- The taps of a segment in the order of the contraction: kx fastest (R200). -/
def tapsOf (d : ConvDesc) : List (Nat × Nat × Nat) :=
  (List.range d.kt).flatMap fun t => (List.range d.kh).flatMap fun y => (List.range d.kw).map fun x => (t, y, x)

/-- Line positions of a segment (R200, R202). -/
def convPositions (d : ConvDesc) : Nat := d.kt * d.kh * d.kw * d.lineN

/-- Block `b` of input line `j` holds channels of the segment's group (R211). -/
def inGroup (d : ConvDesc) (j b : Nat) : Bool := d.chan0 < 128 * j + 32 * b + 32 && 128 * j + 32 * b < d.chan0 + d.chanN

/-- The blocks of one line position, whose lines `get` gives: poisoned where the header is bad or its scale is not IN_SCALE (R197), zero where the pad
rule feeds nothing (R208), outside the group's channels (R211; log entry 84) and beyond C_IN or VALID_K (R55), whatever its scale there (log entry 98). DESIGN CHOICE (log entry 102): the
lines are read as IN_FMT says, whatever ELEM_FMT the header names. -/
def tapBlocks (get : Nat → Line) (d : ConvDesc) (p : Option (Frame × Nat × Nat)) (j : Nat) : List Blk :=
  match p with
  | none => List.replicate 4 { scale := 0, elems := [] }
  | some p =>
    let a := pixelAt d p
    let h := readHdr (get a.1)
    if h.bad || h.scale ≠ d.inScale then List.replicate 4 { scale := 0xFF, elems := [] }
    else
      let w := if d.inFmt = 3 then 2 else 1
      let keep := min d.cIn h.validK - 128 * j
      (lineBlocks d.inFmt (get (a.2 + j * w)) (if w = 2 then get (a.2 + j * w + 1) else zeroLine) keep).mapIdx fun b k =>
        if keep ≤ 32 * b || !inGroup d j b then { scale := 0, elems := [] } else k

/-- The row operand of one output pixel of a segment, position after position (R200). -/
def convRow (get : Nat → Line) (d : ConvDesc) (t h w : Nat) : List (List Blk) :=
  (tapsOf d).flatMap fun k =>
    let p := tapPixel d t h w k.1 k.2.1 k.2.2
    (List.range d.lineN).map fun i => tapBlocks get d p (d.line0 + i)

/-- The lines of the row operand of one output pixel, position after position: one line, or the pair of INT8; zero lines where the pad rule feeds
nothing (R203). -/
def convRowLines (get : Nat → Line) (d : ConvDesc) (t h w : Nat) : List (List Line) :=
  let n := if d.inFmt = 3 then 2 else 1
  (tapsOf d).flatMap fun k =>
    let p := tapPixel d t h w k.1 k.2.1 k.2.2
    (List.range d.lineN).map fun i => match p with
      | none => List.replicate n zeroLine
      | some p => (List.range n).map fun x => get ((pixelAt d p).2 + (d.line0 + i) * n + x)

/-- Well lines that a pixel of a segment reads: its header and its lines (R207, R209). DESIGN CHOICE (log entry 103): header lines enter the line buffer as the
others do, and count in QUILL_CONVLINES. -/
def convReads (d : ConvDesc) (t h w : Nat) : List Nat :=
  (tapsOf d).flatMap fun k =>
    match tapPixel d t h w k.1 k.2.1 k.2.2 with
    | none => []
    | some p =>
      let a := pixelAt d p
      let n := if d.inFmt = 3 then 2 else 1
      a.1 :: (List.range (d.lineN * n)).map fun i => a.2 + d.line0 * n + i

/-- Taps of a pixel, by their number in the order of the contraction, that the pad rule feeds under PAD_MODE 0 (R208, R219). -/
def convPads (d : ConvDesc) (t h w : Nat) : List Nat :=
  if d.replicate then [] else ((tapsOf d).zipIdx.filter fun k => (tapPixel d t h w k.1.1 k.1.2.1 k.1.2.2).isNone).map (·.2)

/-! ### The line buffer (R203 to R207) -/

/-- Well lines that a segment reads for output pixels `w` to `w + n - 1` of a row, rising and without repeats. -/
def segReads (d : ConvDesc) (t h w n : Nat) : List Nat :=
  ((List.range n).flatMap fun m => convReads d t h (w + m)).foldl (fun acc a => insertNat a acc) []

/-- The lines of a line buffer. -/
def bufLine (buf : Sparse (Option Line)) (a : Nat) : Line := (sget (fun _ => none) buf a).getD zeroLine

/-- One line enters the line buffer through the well port: checked, a failure poisoned and counted at the lead nib (R207). -/
def State.enterLine (s : State) (quill lead a : Nat) : State :=
  let r := s.readWellLine (quill / 256) a
  let s := if lineOk r.2 then r.1 else r.1.modNib lead fun x => { x with lchkerr := satAdd x.lchkerr 1 }
  s.modQuill quill fun x => { x with lineBuf := sset (fun _ => none) x.lineBuf a (some (checkedLine r.2)), convLines := satAdd x.convLines 1 }

/-- Fill the line buffer for a segment: the lines that it holds already stay, the others are loaded, and lines that the segment does not read are
dropped (log entry 85). -/
def State.fillBuffer (s : State) (quill lead : Nat) (reads : List Nat) : State :=
  let held := (s.quill quill).lineBuf.map (·.1)
  let s := (reads.filter fun a => !held.contains a).foldl (fun s a => s.enterLine quill lead a) s
  s.modQuill quill fun x => { x with lineBuf := x.lineBuf.filter fun e => reads.contains e.1 }

end Sys2Proof.Machine
end

