-- ==== Sys2Proof/Machine/Arrays.lean ====
section
/-! DEFINITION. The nib arrays: operands of a tile, the order of steps and of accumulation (R72 to R92), the flourish lane (R113 to R118), results
(R76, R77, R172), the checksum DPU (R105 to R107), and what loading and issuing count (R64, R101, R127). -/
namespace Sys2Proof.Machine

/-! ### Gangs (R80) -/

/-- Nibs per gang of a quill in its mode in force. -/
def State.gangSize (s : State) (q : Nat) : Nat := 2 ^ (s.quill q).gang.toNat

/-- Logical nib of K-lane `j` of a gang. -/
def gangNib (q gang g j : Nat) : Nat := 8 * q + gang * g + j

/-- A gang holds a fenced nib (R95). -/
def State.gangFenced (s : State) (q gang : Nat) : Bool :=
  let g := s.gangSize q
  (List.range g).any fun j => (s.quill q).fenced.getLsbD (gang * g + j)

/-! ### Rows, columns and steps (R84, R85, R90 to R92) -/

/-- Rows and columns of a tile that it writes: those inside the extent in free-tile mode, all of them in aligned-tile mode; pixels at or beyond OUT_W are
masked rows in either (R91, R92, R200). -/
def outRows (t : TileDesc) : Nat :=
  let n := if t.free then min t.rows t.mt else t.mt
  match t.conv with
  | some c => min n ((c.segs.getD 0 default).outW - c.outW)
  | none => n
def outCols (t : TileDesc) : Nat := if t.free then min t.cols t.nt else t.nt

/-- Column groups, row groups and line groups of a segment of `l` line positions. -/
def colGroups (t : TileDesc) : Nat := ceilDiv t.nt 128
def rowGroups (t : TileDesc) : Nat := ceilDiv t.mt t.g

/-- Steps of a segment: column groups, in each row groups, in each line groups (R84). -/
def segSteps (t : TileDesc) (g l : Nat) : Nat := colGroups t * rowGroups t * ceilDiv l g

/-- Steps of a tile or chain. -/
def tileSteps (t : TileDesc) (g : Nat) : Nat := sumNat (t.segs.map fun x => segSteps t g x.lines)

/-- Steps of segment `i` among the first `done` steps of a chain. -/
def doneIn (t : TileDesc) (g i done : Nat) : Nat :=
  min (segSteps t g (t.segs.getD i default).lines) (done - sumNat ((t.segs.take i).map fun x => segSteps t g x.lines))

/-- Slot loads of segment `i` when `done` steps of a chain have run: in each step the slots are loaded for the step after it, which may be the first of the next
segment (R84). -/
def aheadIn (t : TileDesc) (g i done : Nat) : Nat := doneIn t g i (done + 1)

/-- Column group, row group and line group of step `k` of a segment. -/
def stepAt (t : TileDesc) (g l k : Nat) : Nat × Nat × Nat :=
  let n := ceilDiv l g
  (k / n / rowGroups t, k / n % rowGroups t, k % n)

/-- How often the first `done` steps load line position `p` of row `m`: once in each column group. -/
def loadsRow (t : TileDesc) (g l done m p : Nat) : Nat :=
  let first := m / t.g * ceilDiv l g + p / g
  min (colGroups t) (ceilDiv (done - first) (rowGroups t * ceilDiv l g))

/-- How often the first `ahead` slot loads of a segment load line position `p` of column `n`: once in each row group. -/
def loadsCol (t : TileDesc) (g l ahead n p : Nat) : Nat :=
  min (rowGroups t) (ceilDiv (ahead - (n / 128 * (rowGroups t * ceilDiv l g) + p / g)) (ceilDiv l g))

/-! ### Operands -/

/-- Outlier channels of a segment as read; `validK` is the side tensor's. -/
structure FlOps where
  bad : Bool
  lists : List (List Nat)
  side : List (List Line)
  scale : Word
  validK : Nat
  deriving DecidableEq, Repr, Inhabited

/-- The operands of a segment: blocks of each row and column by line position, formats, tile scales, outlier channels. -/
structure SegOps where
  fa : Nat
  fb : Nat
  a : List (List (List Blk))
  b : List (List (List Blk))
  ta : Word
  tb : Word
  fl : Option FlOps
  deriving DecidableEq, Repr, Inhabited

/-- What a tile's role in an attention stage gives it: the fill of the key block, or the blocks and rows of a PV product (R166, R172). -/
structure RoleOps where
  fill : Nat
  blocks : List PvBlock
  rows : List PvRow
  deriving DecidableEq, Repr, Inhabited

def poisonBlks : List Blk := List.replicate 4 { scale := 0xFF, elems := [] }
def zeroBlks : List Blk := List.replicate 4 { scale := 0, elems := [] }

/-- One line position of T0 as a nib reads it, `loads` times (R52, R224). DESIGN CHOICE (log entry 98): a block with scale 0xFF at or beyond VALID_K is poisoned in an
aligned read, and is not read in a clipped one. -/
def State.loadPos (s : State) (nib line fmt keep loads : Nat) (clip : Bool) : State × List Blk :=
  if clip && keep = 0 then (s, zeroBlks)
  else
    let s := s.countLoads nib line loads
    let s := if fmt = 3 then s.countLoads nib (line + 1) loads else s
    let lo := if fmt = 3 then s.loadedLine nib (line + 1) else zeroLine
    (s, (lineBlocks fmt (s.loadedLine nib line) lo keep).mapIdx fun b k => if clip && keep ≤ 32 * b then { scale := 0, elems := [] } else k)

/-- An operand in the T0 of a gang's nibs: the lead nib's first, K-lanes, the first line, the format, VALID_K, whether reads are clipped at the extent, and how
often each line position of each row is loaded. -/
structure OpRead where
  base : Nat
  g : Nat
  line : Nat
  stride : Nat
  fmt : Nat
  validK : Nat
  clip : Bool

/-- The line positions `p` to `p + n - 1` of row `r`, each in the T0 of its K-lane's nib (R82). -/
def State.loadRow (s : State) (o : OpRead) (loads : Nat → Nat → Nat) (r p : Nat) : Nat → State × List (List Blk)
  | 0 => (s, [])
  | n + 1 =>
    let x := s.loadPos (o.base + p % o.g) (o.line + r * o.stride + p / o.g * positionLines o.fmt) o.fmt (o.validK - 128 * p) (loads r p) o.clip
    let rest := x.1.loadRow o loads r (p + 1) n
    (rest.1, x.2 :: rest.2)

/-- Rows `r` to `r + n - 1` of an operand, of which those below `valid` are read (R90). -/
def State.loadRows (s : State) (o : OpRead) (loads : Nat → Nat → Nat) (l valid r : Nat) : Nat → State × List (List (List Blk))
  | 0 => (s, [])
  | n + 1 =>
    let here := if valid ≤ r then (s, List.replicate l zeroBlks) else s.loadRow o loads r 0 l
    let rest := here.1.loadRows o loads l valid (r + 1) n
    (rest.1, here.2 :: rest.2)

/-- An operand of `n` rows, of which `valid` lie inside the extent, with its header, clipped at `cap` elements: where R55 poisons the tile, every row inside
the extent is poisoned, and rows outside it are zero blocks (R90). DESIGN CHOICE (log entry 86): the header line of an operand stands in the T0 of the gang's lead nib, which R82 leaves open, and a tile of an FP8 format, which R73 keeps out
of the array, is read as poisoned. -/
def State.loadOperand (s : State) (base g hdr line stride l cap : Nat) (clip : Bool) (valid n : Nat) (loads : Nat → Nat → Nat) :
    State × TileHdr × List (List (List Blk)) :=
  let r := s.nibLoad base hdr
  let h := readHdr r.2
  let inside := if clip then valid else n
  if h.bad || 3 < h.fmt then (r.1, h, (List.range n).map fun m => List.replicate l (if m < inside then poisonBlks else zeroBlks))
  else
    let o : OpRead := { base := base, g := g, line := line, stride := stride, fmt := h.fmt, validK := min h.validK cap, clip := clip || cap < h.validK }
    let x := r.1.loadRows o loads l inside 0 n
    (x.1, h, x.2)

/-- An index line (R115): its used entries, or none where it poisons the tile. `width` is 128 × L_w. -/
def readIndex (width : Nat) (l : Line) : Option (List Nat) :=
  if !lineOk l then none
  else
    let entries := (List.range 32).map fun i => if scaleByte l (i / 8) = 0 then 0xFFFF else leAt l (2 * i) 2
    let used := entries.takeWhile (· ≠ 0xFFFF)
    let tail := entries.drop used.length
    if (List.range 4).any (fun q => scaleByte l q ≠ 0 && scaleByte l q ≠ 0x78) || tail.any (· ≠ 0xFFFF)
        || used.any (width ≤ ·) || !(used.zip (used.drop 1)).all (fun e => e.1 < e.2) || width < 32 * used.length then none
    else some used

/-- Index lines and side tensor of a segment, read by the lead nib (R115, R116). A side tensor whose header is poisoned or names another format than 0x4 is
read as poisoned; of the latter R116 says nothing (log entry 86). -/
def State.loadFlourish (s : State) (lead l rows : Nat) (f : FlourishIn) : State × FlOps :=
  let idx := (f.index.zipIdx).foldl (fun (acc : State × List (Option (List Nat))) e =>
    let r := acc.1.nibLoad lead e.1
    (r.1, acc.2 ++ [readIndex (128 * min 8 (l - 8 * e.2)) r.2])) (s, [])
  let h := idx.1.nibLoad lead f.sideHdr
  let hdr := readHdr h.2
  let side := (List.range rows).foldl (fun (acc : State × List (List Line)) m =>
    let r := (List.range (ceilDiv f.index.length 2)).foldl (fun (acc : State × List Line) v =>
      let r := acc.1.nibLoad lead (f.sideLine + m * f.sideStride + v)
      (r.1, acc.2 ++ [if hdr.bad || hdr.fmt ≠ 4 then poisonLine r.2 else r.2])) (acc.1, [])
    (r.1, acc.2 ++ [r.2])) (h.1, [])
  (side.1, { bad := idx.2.any Option.isNone, lists := idx.2.map (·.getD []), side := side.2, scale := hdr.scale,
             validK := if hdr.bad || hdr.fmt ≠ 4 then 16384 else hdr.validK })

/-- Columns of B inside the extent: for the key tile of a block those below its fill (R166), in free-tile mode those of the tile. -/
def validCols (t : TileDesc) (role : RoleOps) : Nat :=
  match t.role with
  | .scores _ _ _ _ => role.fill
  | _ => if t.free then t.cols else t.nt

/-- Elements of K of segment `i` inside the extent of B: for a value tile its block's value extent (R189). -/
def capOf (t : TileDesc) (role : RoleOps) (i : Nat) : Nat :=
  match t.role with
  | .pv _ _ _ => (role.blocks.getD i default).extent
  | _ => 16384

/-- A line as the engine reads it from its line buffer: one that error correction cannot mend is poisoned (R223, R224). -/
def convBuf (c : ConvFeed) (buf : Sparse (Option Line)) (a : Nat) : Line :=
  if c.bufEcc.contains (a, .uncorrectable) then poisonLine (bufLine buf a) else bufLine buf a

/-- The convolution engine's row operand of segment `i`: its lines enter the line buffer, and the tile's pixels are read from it (R203). -/
def State.feedSeg (s : State) (t : TileDesc) (c : ConvFeed) (lead i : Nat) : State × List (List (List Blk)) :=
  let d := c.segs.getD i default
  let s := s.fillBuffer t.quill lead (segReads d c.outT c.outH c.outW (outRows t))
  let s := s.modQuill t.quill fun x => { x with convSeg := BitVec.ofNat 4 i }
  let s := s.eccWell (t.quill / 256) (c.bufEcc.filter fun e => e.2 = .corrected).length .corrected
  (s, (List.range t.mt).map fun m =>
    if m < outRows t then convRow (convBuf c (s.quill t.quill).lineBuf) d c.outT c.outH (c.outW + m)
    else List.replicate (t.segs.getD i default).lines zeroBlks)

/-- How often a reader takes line position `p` of row or column `r` of an operand, for A and for B. -/
structure Loads where
  a : Nat → Nat → Nat
  b : Nat → Nat → Nat

/-- Operands of segment `i` (R77): A from T0 or from the convolution engine, B from T0; `fed` says that a step of the segment has run, without which only B's
lines have been loaded, ahead of it. -/
def State.loadSeg (s : State) (t : TileDesc) (role : RoleOps) (g i : Nat) (fed : Bool) (n : Loads) (seg : Segment) : State × SegOps :=
  let base := gangNib t.quill t.gang g 0
  let a : State × Word × Nat × List (List (List Blk)) :=
    match t.conv with
    | none =>
      let r := s.loadOperand base g seg.aHdr seg.aLine seg.aStride seg.lines 16384 t.free t.rows t.mt n.a
      (r.1, r.2.1.scale, r.2.1.fmt, r.2.2)
    | some c =>
      let r := s.feedSeg t c base i
      (r.1, (c.segs.getD i default).inScale, (c.segs.getD i default).inFmt, r.2)
  let s := if fed then a.1 else s
  let clipB := t.free || (match t.role with | .scores _ _ _ _ => true | _ => false)
  let b := s.loadOperand base g seg.bHdr seg.bLine seg.bStride seg.lines (capOf t role i) clipB (validCols t role) t.nt n.b
  let f : State × Option FlOps := match seg.flourish with
    | none => (b.1, none)
    | some f => let r := b.1.loadFlourish base seg.lines (outRows t) f; (if fed then r.1 else b.1, some r.2)
  (f.1, { fa := a.2.2.1, fb := b.2.1.fmt, a := a.2.2.2, b := b.2.2, ta := a.2.1, tb := b.2.1.scale, fl := f.2 })

/-! ### One element (R75, R118) -/

/-- The tree of a gang (R75). -/
def gangTree (ps : List Word) : Word := ((List.range 3).foldl (fun l _ => pairLevel add32 l) ps).headD 0#32

/-- Block of a row or column at a line position; a zero block beyond the last position. -/
def blockAt (row : List (List Blk)) (l b : Nat) : Blk :=
  match row[l]? with
  | some x => x.getD b default
  | none => { scale := 0, elems := [] }

/-- Block product of a row and a column at a line position and block; +0 beyond the last position. -/
def productAt (o : SegOps) (row col : List (List Blk)) (l b : Nat) : Word :=
  match row[l]?, col[l]? with
  | some x, some y => blockProduct o.fa o.fb (x.getD b default) (y.getD b default)
  | _, _ => 0#32

/-- The accumulator of one element after the last line group (R75). -/
def accumulate (o : SegOps) (g l : Nat) (row col : List (List Blk)) : Word :=
  (List.range (ceilDiv l g)).foldl (fun acc t =>
    (List.range 4).foldl (fun acc b => add32 acc (gangTree ((List.range g).map fun j => productAt o row col (t * g + j) b))) acc) 0#32

/-- One flourish term: entry `i` of window `w`, channel `c` (R118); zero at or beyond the side tensor's VALID_K (R55). -/
def flTerm (o : SegOps) (f : FlOps) (m : Nat) (col : List (List Blk)) (w i c : Nat) : FV :=
  let line := (f.side.getD m []).getD (w / 2) zeroLine
  let q := w % 2 * 2 + i / 16
  let k := (col.getD (8 * w + c / 128) []).getD (c % 128 / 32) default
  let sq := scaleByte line q
  if f.validK ≤ 32 * w + i then (if k.scale = 0xFF then .nan else .num false 0)
  else if sq = 0xFF || k.scale = 0xFF then .nan
  else if sq = 0 || k.scale = 0 then .num false 0
  else ((decE4m3 (byteAt line (16 * q + i % 16))).mul (.num false (ueVal sq))).mul
    (FV.ofRat false (mkRat (k.elems.getD (c % 32) 0) (unitDen o.fb) * ueVal k.scale))

/-- The terms that K-lane `j` of `g` sums, in order: windows ascending, entries j, j + g, ... (R118). -/
def laneTerms (o : SegOps) (f : FlOps) (g m j : Nat) (col : List (List Blk)) : List FV :=
  (f.lists.zipIdx).flatMap fun e => ((e.1.zipIdx).filter fun c => c.2 % g = j).map fun c => flTerm o f m col e.2 c.2 c.1

/-- The flourish sum of an element, scaled (R118). -/
def flourishSum (o : SegOps) (f : FlOps) (g m : Nat) (col : List (List Blk)) : Word :=
  if f.bad then 0x7FC00000#32
  else
    let lanes := (List.range g).map fun j => (laneTerms o f g m j col).foldl (fun acc v => enc32 ((dec32 acc).add v)) 0#32
    mul32 (gangTree lanes) (mul32 f.scale o.tb)

/-- Element `j` of a row as an FP32 value with its block scale: a decoded probability of a PV product (R170). -/
def elemWord (o : SegOps) (m j : Nat) : Word :=
  let k := blockAt (o.a.getD m []) (j / 128) (j % 128 / 32)
  if k.poisoned then 0x7FC00000#32 else if k.scale = 0 then 0#32 else rat32 (mkRat (k.elems.getD (j % 32) 0) (unitDen o.fa) * ueVal k.scale)

/-- The FP32 result of segment `i` for one element (R76), or its form in a PV product (R172, R182). -/
def segResult (t : TileDesc) (role : RoleOps) (o : SegOps) (g l i m n : Nat) : Word :=
  let col := o.b.getD n []
  let acc := accumulate o g l (o.a.getD m []) col
  let tab := mul32 o.ta o.tb
  match t.role with
  | .pv _ _ _ =>
    let r := role.rows.getD m { full := false, sum := 0x7FC00000#32 }
    if r.full then 0#32
    else enc32 ((((dec32 acc).mul (dec32 tab)).add (dec32 (tailTerm (role.blocks.getD i default) (elemWord o m) n))).div (dec32 r.sum))
  | _ =>
    let y := mul32 acc tab
    match o.fl with
    | none => y
    | some f => add32 y (flourishSum o f g m col)

/-- The result of a tile or chain for one element: segment results added in ascending order (R77). -/
def tileResult (t : TileDesc) (role : RoleOps) (g : Nat) (ops : List SegOps) (m n : Nat) : Word :=
  match ops.mapIdx fun i o => segResult t role o g (t.segs.getD i default).lines i m n with
  | [] => 0#32
  | y :: rest => rest.foldl add32 y

/-- FP32 results of the tile's rows and columns inside the extent. -/
def tileResults (t : TileDesc) (role : RoleOps) (g : Nat) (ops : List SegOps) : List (List Word) :=
  (List.range (outRows t)).map fun m => (List.range (outCols t)).map fun n => tileResult t role g ops m n

/-! ### The checksum DPU (R105 to R107) -/

/-- Digit passes of a side (R73). -/
def passes (fa fb : Nat) : Nat := (if fa = 3 then 2 else 1) * (if fb = 3 then 2 else 1)

/-- The integer of an element that a digit pass uses: the high digit of an INT8 element in pass 0, the low one in pass 1 (R65, R66). -/
def passDigit (fmt pass : Nat) (x : Int) : Int := if fmt = 3 then (if pass = 0 then x / 16 else x % 16) else x

/-- The 32 integers of a block as a pass feeds them: 0 in a zero or poisoned block. -/
def passInts (fmt pass : Nat) (b : Blk) : List Int :=
  (List.range 32).map fun e => if b.scale = 0 || b.scale = 0xFF then 0 else passDigit fmt pass (b.elems.getD e 0)

/-- Sum of integers. -/
def sumInt (l : List Int) : Int := l.foldr (· + ·) 0

/-- The checksum column of the 128 slots (R105): c_e is the sum of the slots' integers at element e. -/
def checksumCol (slots : List (List Int)) : List Int := (List.range 32).map fun e => sumInt (slots.map fun b => b.getD e 0)

/-- The checksum DPU's integer C (R106). -/
def checkC (row : List Int) (slots : List (List Int)) : Int :=
  sumInt ((List.range 32).map fun e => row.getD e 0 * (checksumCol slots).getD e 0)

/-- A slot's block integer D_n of a pass. -/
def slotD (row slot : List Int) : Int := sumInt ((List.range 32).map fun e => row.getD e 0 * slot.getD e 0)

/-- The column total of the 128 block integers. -/
def columnTotal (row : List Int) (slots : List (List Int)) : Int := sumInt (slots.map (slotD row))

/-- A checksum mismatch: C and the column total differ modulo 2^16. -/
def mismatch (c total : Int) : Bool := (c - total) % 65536 ≠ 0

/-- An issue cycle of a nib: segment, step, row of the row group, block position and digit pass. -/
structure Cycle where
  seg : Nat
  step : Nat
  row : Nat
  block : Nat
  pass : Nat
  deriving DecidableEq, Repr, Inhabited

/-- Digits of A and of B that a pass uses (R66). -/
def passOf (o : SegOps) (pass : Nat) : Nat × Nat := let n := if o.fb = 3 then 2 else 1; (pass / n, pass % n)

/-- The integers that an issue cycle of a nib feeds: the row block's, and each slot's (R72, R84). -/
def cycleInts (t : TileDesc) (g l lane : Nat) (o : SegOps) (c : Cycle) : List Int × List (List Int) :=
  let k := stepAt t g l c.step
  let p := k.2.2 * g + lane
  let d := passOf o c.pass
  (passInts o.fa d.1 (blockAt (o.a.getD (k.2.1 * t.g + c.row) []) p c.block),
   (List.range 128).map fun n => passInts o.fb d.2 (blockAt (o.b.getD (k.1 * 128 + n) []) p c.block))

/-- Add to an integer of a block. -/
def bump (e : Nat) (d : Int) (xs : List Int) : List Int := xs.mapIdx fun i x => if i = e then x + d else x

/-- The integers of a cycle as its registers hold them with a fault in one of them: a slot register's from the fault to its reload in the next step, a row
operand register's in its row (R107). -/
def altered (o : SegOps) (c : Cycle) (x : List Int × List (List Int)) (f : IssueFault) : List Int × List (List Int) :=
  match f with
  | .slot seg step from_ slot block elem digit delta =>
    if c.seg = seg && c.step = step && from_ ≤ c.row && c.block = block && (passOf o c.pass).2 = digit then
      (x.1, x.2.mapIdx fun n s => if n = slot then bump elem delta s else s) else x
  | .row seg step row block elem digit delta =>
    if c.seg = seg && c.step = step && c.row = row && c.block = block && (passOf o c.pass).1 = digit then (bump elem delta x.1, x.2) else x
  | .dpu .. => x

/-- By how much the DPUs of a cycle deviate from what its registers give. -/
def deviation (c : Cycle) : IssueFault → Int
  | .dpu seg step row block pass delta =>
    if c = { seg := seg, step := step, row := row, block := block, pass := pass } then sumInt ((delta.filter fun e => e.1 < 128).map (·.2)) else 0
  | _ => 0

/-- The cycles that a fault can touch. -/
def cyclesOf (t : TileDesc) : IssueFault → List Cycle
  | .dpu seg step row block pass _ => [{ seg := seg, step := step, row := row, block := block, pass := pass }]
  | .slot seg step from_ _ block _ _ _ => (List.range t.g).flatMap fun r => (List.range 4).map fun p =>
    { seg := seg, step := step, row := from_ + r, block := block, pass := p }
  | .row seg step row block _ _ _ => (List.range 4).map fun p => { seg := seg, step := step, row := row, block := block, pass := p }

/-- A cycle of the first `done` steps whose block integers differ modulo 2^16 from the checksum, which was formed before the faults (R105 to R107). -/
def cycleFails (t : TileDesc) (g lane done : Nat) (ops : List SegOps) (fs : List IssueFault) (c : Cycle) : Bool :=
  match ops[c.seg]? with
  | none => false
  | some o =>
    let x := cycleInts t g (t.segs.getD c.seg default).lines lane o c
    let y := fs.foldl (altered o c) x
    c.step < doneIn t g c.seg done && c.row < t.g && c.block < 4 && c.pass < passes o.fa o.fb
      && mismatch (checkC x.1 x.2) (columnTotal y.1 y.2 + sumInt (fs.map (deviation c)))

/-! ### Counters of a tile -/

/-- Issue cycles of `steps` steps: 4 × G × d for each (R84). -/
def issueCycles (t : TileDesc) (o : SegOps) (steps : Nat) : Nat := steps * 4 * t.g * passes o.fa o.fb

/-- Issue cycles on masked rows among the first `done` steps of a segment (R91). DESIGN CHOICE (log entry 82): rows of the last row group at or beyond M_t,
which are no rows of the tile, do not count; R101 says nothing of them. -/
def maskedCycles (t : TileDesc) (g l : Nat) (o : SegOps) (done : Nat) : Nat :=
  let n := ceilDiv l g
  let rows := (List.range t.mt).drop (outRows t)
  sumNat ((List.range (colGroups t)).map fun c => sumNat (rows.map fun m => min n (done - (c * rowGroups t + m / t.g) * n))) * 4 * passes o.fa o.fb

/-- Poisoned operand blocks that K-lane `j` reads in a segment (R101), each line position as often as it is loaded. -/
def poisonedBlocks (g j : Nat) (loads : Nat → Nat → Nat) (rows : List (List (List Blk))) : Nat :=
  sumNat (rows.mapIdx fun r bs => sumNat (bs.mapIdx fun p b => if p % g = j then loads r p * (b.filter Blk.poisoned).length else 0))

/-- Outlier channel-rows that K-lane `j` processes in a segment. DESIGN CHOICE (log entry 82): R127 does not say how often a channel-row counts; here once a
segment, at the lane that its entry goes to, when the segment's last step has run. -/
def flChannels (g j rows : Nat) (f : Option FlOps) : Nat :=
  match f with
  | none => 0
  | some f => rows * sumNat (f.lists.map fun l => ((l.zipIdx).filter fun c => c.2 % g = j).length)

/-- The lines that a nib's slot registers take for step `k` of a segment (R72, R84): the 128 columns of the step at the nib's line position. -/
def State.slotLoad (s : State) (t : TileDesc) (g lane k : Nat) (seg : Segment) (fmt valid : Nat) : List Line :=
  let x := stepAt t g seg.lines k
  let p := x.2.2 * g + lane
  let w := positionLines fmt
  (List.range 128).flatMap fun n => (List.range w).map fun i =>
    let c := 128 * x.1 + n
    if valid ≤ c || seg.lines ≤ p then zeroLine
    else s.loadedLine (gangNib t.quill t.gang g lane) (seg.bLine + c * seg.bStride + p / g * w + i)

/-- The lines of the window register at step `k` of a segment: for each row of the row group and each K-lane the line that the row operand needs (R203). -/
def windowLoad (t : TileDesc) (c : ConvFeed) (buf : Sparse (Option Line)) (g i k : Nat) (seg : Segment) : List Line :=
  let d := c.segs.getD i default
  let x := stepAt t g seg.lines k
  (List.range t.g).flatMap fun r =>
    let m := x.2.1 * t.g + r
    let ls := convRowLines (bufLine buf) d c.outT c.outH (c.outW + m)
    (List.range g).flatMap fun j => if outRows t ≤ m then [zeroLine] else ls.getD (x.2.2 * g + j) [zeroLine]

/-- The registers take the loads `from_` to `n - 1` of a segment: the two latest stand in a double-buffered register. -/
def twoLatest {α : Type} (old : List α) (at_ : Nat → α) (n : Nat) : List α :=
  match n with
  | 0 => old
  | 1 => old.drop (old.length - 1) ++ [at_ 0]
  | n + 2 => [at_ n, at_ (n + 1)]

/-- The slot registers, and the window register of a gang that the engine feeds, after `ahead` slot loads and `done` steps of a segment (R84, R203). -/
def State.keepRegs (s : State) (t : TileDesc) (role : RoleOps) (g i done ahead : Nat) (seg : Segment) (o : SegOps) : State :=
  let s := (List.range g).foldl (fun s j =>
    let at_ := fun k => s.slotLoad t g j k seg o.fb (validCols t role)
    s.modNib (gangNib t.quill t.gang g j) fun x => { x with slots := twoLatest x.slots at_ ahead }) s
  match t.conv with
  | none => s
  | some c => s.modQuill t.quill fun x => { x with window := twoLatest x.window (fun k => windowLoad t c x.lineBuf g i k seg) done }

/-- Taps of the first `done` steps of a segment that the engine feeds from the pad rule. DESIGN CHOICE (log entry 96): a tap of a pixel counts once in a segment,
when its first line position is fed. -/
def padTaps (t : TileDesc) (c : ConvFeed) (g i done : Nat) (seg : Segment) : Nat :=
  let d := c.segs.getD i default
  sumNat ((List.range (outRows t)).map fun m => ((convPads d c.outT c.outH (c.outW + m)).filter fun k =>
    0 < loadsRow t g seg.lines done m (k * d.lineN)).length)

/-- Count `done` steps and `ahead` slot loads of a segment in the nibs of the gang, and the taps that the engine feeds from the pad rule (R219). -/
def State.countSeg (s : State) (t : TileDesc) (g i done ahead : Nat) (seg : Segment) (o : SegOps) : State :=
  let l := seg.lines
  let s := (List.range g).foldl (fun s j => s.modNib (gangNib t.quill t.gang g j) fun x =>
    { x with
      issue := x.issue + BitVec.ofNat 64 (issueCycles t o done)
      maskissue := satAdd x.maskissue (maskedCycles t g l o done)
      pinput := satAdd x.pinput (poisonedBlocks g j (loadsRow t g l done) o.a + poisonedBlocks g j (loadsCol t g l ahead) o.b)
      flchan := satAdd x.flchan (if done = segSteps t g l && done ≠ 0 then flChannels g j (outRows t) o.fl else 0) }) s
  match t.conv with
  | none => s
  | some c => s.modQuill t.quill fun x => { x with convPad := satAdd x.convPad (padTaps t c g i done seg) }

/-- Every segment's operands, in order, with what loading them and issuing the first `done` steps counts; a segment of which nothing has been loaded yet is read,
for its operands, and counts nothing. DESIGN CHOICE (log entry 97): a segment's column header is read with its first slot load, its row header and index lines
with its first step. -/
def State.loadSegs (s : State) (t : TileDesc) (role : RoleOps) (g done i : Nat) : List Segment → State × List SegOps
  | [] => (s, [])
  | seg :: rest =>
    let n := doneIn t g i done
    let ahead := aheadIn t g i done
    let r := s.loadSeg t role g i (n ≠ 0) { a := loadsRow t g seg.lines n, b := loadsCol t g seg.lines ahead } seg
    let s := if ahead = 0 then s else (r.1.countSeg t g i n ahead seg r.2).keepRegs t role g i n ahead seg r.2
    let more := s.loadSegs t role g done (i + 1) rest
    (more.1, r.2 :: more.2)

/-- What the tile's role brings: the key block's fill, or records, extents and tails of a PV product. -/
def State.roleOps (s : State) (t : TileDesc) (lead : Nat) : State × RoleOps :=
  match t.role with
  | .plain => (s, { fill := 0, blocks := [], rows := [] })
  | .scores q w _ _ =>
    let r := s.readListSlot (windowSlot q.desc w) false
    (r.1, { fill := r.1.readFill r.2, blocks := [], rows := [] })
  | .pv q w row0 =>
    let b := s.pvBlocks q w t.segs.length
    let r := b.1.pvRows lead q.desc row0 t.mt
    (r.1, { fill := 0, blocks := b.2, rows := r.2 })

end Sys2Proof.Machine
end

