-- ==== Sys2Proof/Machine/Tickets.lean ====
section
/-! DEFINITION. Ticket counters (R278 to R284): the order of a grid's cells, a counter's setting from a stroke entry, and serving a take. -/
namespace Sys2Proof.Machine

/-! ### Tile orders (R284) -/

/-- Bits 0, 2, 4, ... of a number, as a number. -/
def evenBits (d : Nat) : Nat → Nat
  | 0 => 0
  | n + 1 => d % 2 + 2 * evenBits (d / 4) n

/-- The Hilbert curve's local coordinates: `n` levels remain, `w` is the width done so far. -/
def hilbert (t w x y : Nat) : Nat → Nat × Nat
  | 0 => (x, y)
  | n + 1 =>
    let rx := t / 2 % 2
    let ry := (t ^^^ rx) % 2
    let p := if ry = 0 then (if rx = 1 then (w - 1 - y, w - 1 - x) else (y, x)) else (x, y)
    hilbert (t / 4) (w * 2) (p.1 + w * rx) (p.2 + w * ry) n

/-- Block-local coordinates (x, y) of rank `d` in a block of side 2^block. -/
def blockCell (order block d : Nat) : Nat × Nat :=
  match order with
  | 0 => (d % 2 ^ block, d / 2 ^ block)
  | 1 => (evenBits d block, evenBits (d / 2) block)
  | _ => hilbert d 1 0 0 block

/-- The grid's cells (row, column) in the counter's order, cells outside the grid skipped. -/
def gridCells (order block tr tc : Nat) : List (Nat × Nat) :=
  let s := 2 ^ block
  (List.range (ceilDiv tr s)).flatMap fun bi => (List.range (ceilDiv tc s)).flatMap fun bj =>
    ((List.range (s * s)).map fun d => let c := blockCell order block d; (bi * s + c.2, bj * s + c.1)).filter fun c => c.1 < tr && c.2 < tc

/-- The cell of the grid that a ticket names (R283). -/
def cellOf (c : Counter) (t : Nat) : Option (Nat × Nat) := (gridCells c.order.toNat c.block.toNat c.tr c.tc)[t]?

/-- The array tile index of a cell (R283). -/
def tileOfCell (c : Counter) (cell : Nat × Nat) : Nat := c.tidxBase + cell.1 * c.tc + cell.2

/-- The array tile index that a ticket names (R283). -/
def tileOfTicket (c : Counter) (t : Nat) : Option Nat := (cellOf c t).map (tileOfCell c)

/-- A ticket in the hands of a gang, with the origin of its tile: row i × M_t, column j × N_t (R283). -/
def ticketOfReply (c : Counter) (gang counter t : Nat) : Option Ticket :=
  (cellOf c t).map fun cell =>
    { gang := gang, counter := counter, ticket := t, tile := tileOfCell c cell, row := cell.1 * c.mt, col := cell.2 * c.nt }

/-! ### Setting a counter (R278, R281) -/

/-- Takers in ascending quill, then gang. -/
def insertTaker (t : Nat × Nat) : List (Nat × Nat) → List (Nat × Nat)
  | [] => [t]
  | u :: rest => if t.1 < u.1 || (t.1 = u.1 && t.2 < u.2) then t :: u :: rest else u :: insertTaker t rest

/-- Rows and columns of the grid of a product (R285). -/
def gridOf (c : CounterCfg) : Nat × Nat :=
  if c.aligned then (c.aPadded / c.mt, c.bPadded / c.nt) else (ceilDiv c.aRows c.mt, ceilDiv c.bCols c.nt)

/-- The counter that a stroke entry sets; every counter deals in ordered mode. -/
def counterOf (ordered : Bool) (c : CounterCfg) : Counter :=
  let g := gridOf c
  { next := 0, limit := BitVec.ofNat 17 (g.1 * g.2), deal := c.deal || ordered, order := BitVec.ofNat 2 c.order,
    block := BitVec.ofNat 4 c.block, tidxBase := c.tidxBase, tr := g.1, tc := g.2, mt := c.mt, nt := c.nt,
    takers := c.takers.foldl (fun acc t => insertTaker t acc) [] }

/-- At a boundary: every taker's record emptied, each gang's tag back at 0, and the counters as the entry of the new stroke sets them
(R273, R278, R279). -/
def State.setCounters (s : State) (ordered : Bool) (cs : List CounterCfg) : State :=
  let s := s.mapQuills fun _ x => { x with tags := [], asked := [], tickets := [] }
  (List.range 2).foldl (fun s die => s.modWell die fun w =>
    { w with takers := [], dealt := [],
             counters := (cs.filter fun c => c.die = die).foldl (fun m c => sset (fun _ => Counter.reset) m c.num (counterOf ordered c)) [] }) s

/-! ### Serving a take (R279, R281) -/

def Well.counter (w : Well) (n : Nat) : Counter := sget (fun _ => Counter.reset) w.counters n

/-- The ticket of a new take and the counter after it: none is EMPTY. -/
def newTicket (w : Well) (n : Nat) (quill gang : Nat) : Option Nat × Well :=
  let c := w.counter n
  let put := fun (c : Counter) => { w with counters := sset (fun _ => Counter.reset) w.counters n c }
  if c.deal then
    let key := 2048 * n + 8 * quill + gang
    let j := sget (fun _ => 0) w.dealt key
    let t := (c.takers.takeWhile (· ≠ (quill, gang))).length + j * c.takers.length
    let w := { put { c with next := if t < c.limit.toNat then c.next + 1 else c.next } with dealt := sset (fun _ => 0) w.dealt key (j + 1) }
    (if t < c.limit.toNat then some t else none, w)
  else if c.next.toNat < c.limit.toNat then (some c.next.toNat, put { c with next := c.next + 1 })
  else (none, w)

/-- A take with a new tag; a counter that no entry sets answers EMPTY. -/
def serveNew (w : Well) (n quill gang : Nat) (tag : BitVec 8) : Well :=
  let c := w.counter n
  let r := if c.limit = 0 then (none, w) else newTicket w n quill gang
  let w := if r.1.isNone then { r.2 with tktempty := satAdd r.2.tktempty 1 } else r.2
  let t : TakerRec := { counter := n, tag := tag, reply := r.1, tile := r.1.bind (tileOfTicket c) }
  { w with takers := sset (fun _ => none) w.takers (8 * quill + gang) (some t) }

/-- A counter's home serves a take: the stored reply to a repeated tag, otherwise a new ticket or EMPTY. -/
def serveTake (w : Well) (n quill gang : Nat) (tag : BitVec 8) : Well :=
  match sget (fun _ => none) w.takers (8 * quill + gang) with
  | some r => if r.tag = tag then { w with tktretry := satAdd w.tktretry 1 } else serveNew w n quill gang tag
  | none => serveNew w n quill gang tag

/-- The gang exists under its quill's mode, and the counter on its die. -/
def State.takerOk (s : State) (die counter quill gang : Nat) : Bool :=
  die < 2 && counter < 256 && quill < 256 && s.quillPresent (256 * die + quill)
    && (gang + 1) * 2 ^ (s.quill (256 * die + quill)).gang.toNat ≤ 8

/-- The take of a gang that has no reply yet. -/
def Quill.askedOf (x : Quill) (gang : Nat) : Option Asked := x.asked.find? fun a => a.gang = gang

/-- The home of a counter lets the gang take: no entry sets the counter, or its list names the gang. -/
def mayTake (w : Well) (n quill gang : Nat) : Bool := (w.counter n).limit = 0 || (w.counter n).takers.contains (quill, gang)

/-- A reply reaches the taker: it has no take outstanding any more, and holds the ticket, if there was one. -/
def State.takeReply (s : State) (die quill : Nat) (a : Asked) : State :=
  let w := s.well die
  let k := (sget (fun _ => none) w.takers (8 * quill + a.gang)).bind fun r => r.reply.bind (ticketOfReply (w.counter r.counter) a.gang r.counter)
  s.modQuill (256 * die + quill) fun x => { x with asked := x.asked.filter (fun b => b.gang ≠ a.gang), tickets := x.tickets ++ k.toList }

/-- A take travels to its home and the reply back, as far as nothing is lost (R279, R280). -/
def State.sendTake (s : State) (die quill : Nat) (a : Asked) (loss : TakeLoss) : State :=
  match loss with
  | .request => s
  | .reply => s.modWell die fun w => serveTake w a.counter quill a.gang a.tag
  | .none => (s.modWell die fun w => serveTake w a.counter quill a.gang a.tag).takeReply die quill a

/-- A new take of a gang, with its next tag. -/
def State.newTake (s : State) (die counter quill gang : Nat) (loss : TakeLoss) : State :=
  let tag := sget (fun _ => 0#8) (s.quill (256 * die + quill)).tags gang
  let a : Asked := { gang := gang, counter := counter, tag := tag }
  (s.modQuill (256 * die + quill) fun x =>
    { x with tags := sset (fun _ => 0#8) x.tags gang (tag + 1), asked := x.asked ++ [a] }).sendTake die quill a loss

/-- TICKET_TAKE: a gang takes from a counter of its die. `quill` is the quill in the die. A gang that has a take outstanding, or that the counter's list does not
name, takes nothing (log entry 2). -/
def execTicketTake (die counter quill gang : Nat) (loss : TakeLoss) (s : State) : Out State :=
  if !s.live then .next s
  else if !s.takerOk die counter quill gang then .fault .absentUnit
  else if ((s.quill (256 * die + quill)).askedOf gang).isSome || !mayTake (s.well die) counter quill gang then .next s
  else .next (s.newTake die counter quill gang loss)

/-- TICKET_TIMEOUT: a taker without a reply for 1 µs, or whose reply failed its parity check, reissues its take with the same tag (R280); nothing where
no take from the counter is outstanding (log entry 2). -/
def execTicketTimeout (die counter quill gang : Nat) (loss : TakeLoss) (s : State) : Out State :=
  if !s.live then .next s
  else if !s.takerOk die counter quill gang then .fault .absentUnit
  else match (s.quill (256 * die + quill)).askedOf gang with
    | none => .next s
    | some a => .next (if a.counter = counter then s.sendTake die quill a loss else s)

end Sys2Proof.Machine
end

