-- ==== Sys2Proof/Machine/Ruling.lean ====
section
/-! DEFINITION. Ruling (R298 to R300): every check of R300, R334, R358 and R389 over a program set and, at launch, a job, in ascending code. -/
namespace Sys2Proof.Machine

/-! ### The shape of a check -/

/-- The offending item and stroke entry of a failed check. -/
abbrev Bad : Type := Option (Nat × Nat)

/-- A check of the whole set. -/
def badIf (b : Bool) : Bad := if b then some (0, 0) else none

/-- First item of a list that breaks a check. -/
def badItem {α : Type} (l : List α) (bad : α → Bool) : Bad := (l.findIdx? bad).map fun i => (i, 0)

/-- First entry, and its first item, that breaks a check. -/
def badIn {α : Type} (es : List (StrokeEntry × Nat)) (items : StrokeEntry → List α) (bad : StrokeEntry → α → Bool) : Bad :=
  es.findSome? fun e => ((items e.1).findIdx? (bad e.1)).map fun i => (i, e.2)

def orBad (a b : Bad) : Bad := match a with | some x => some x | none => b

/-! ### Buffers and ranges -/

/-- A range in one space: lines, or bytes for a raw buffer; line addresses are counted through the pages (R228). -/
def bufRange (b : Buffer) : Nat × Nat :=
  let lo := match b.place.space with
    | .line => lineIdx b.place.at_ * pageLines + lineFld b.place.at_
    | _ => b.place.at_
  (lo, lo + b.count)

def overlaps (a b : Buffer) : Bool :=
  a.place.space = b.place.space && 0 < a.count && 0 < b.count && (bufRange a).1 < (bufRange b).2 && (bufRange b).1 < (bufRange a).2

/-- Page-map indices that a T2 buffer touches, first and last. -/
def bufPages (b : Buffer) : Option (Nat × Nat) :=
  match b.place.space with
  | .line => some (lineIdx b.place.at_, ((bufRange b).2 - 1) / pageLines)
  | .raw => some (b.place.at_ / 2 ^ 24, (b.place.at_ + b.count - 1) / 2 ^ 24)
  | _ => none

/-- A buffer names a page of a list. -/
def namesPage (ps : List Nat) (b : Buffer) : Bool :=
  match bufPages b with
  | some (lo, hi) => ps.any fun p => lo ≤ p && p ≤ hi
  | none => false

/-- `n` lines (bytes of a raw place) from a place on. -/
def bufAt (p : Place) (n : Nat) : Buffer := { place := p, count := n }

/-- Lines (bytes of a raw place) from the first of `rows` runs of `n` to the end of the last one. -/
def spanOf (rows n stride : Nat) : Nat := (rows - 1) * stride + n

/-- Source and destination ranges of a mover descriptor (R234, R236). -/
def moverBufs (m : MoverDecl) : List Buffer × List Buffer :=
  let d := m.desc
  let span := fun stride => spanOf d.rows d.lines stride
  let tile := 1 + d.rows * mxLines d
  let elems := fun stride => spanOf d.rows (mxBytes d.mxint8 d.k) stride
  let scales := bufAt { space := .raw, at_ := d.mxscale } (d.rows * (d.k / 32))
  match m.op with
  | .nop => ([], [])
  | .copy => ([bufAt d.src (span d.srcStride)], [bufAt d.dst (span d.dstStride)])
  | .zero => ([], [bufAt d.dst (span d.dstStride)])
  | .add => ([bufAt d.src (span d.srcStride)], [bufAt d.dst (span d.dstStride)])
  | .mxImport => ([bufAt d.src (elems d.srcStride), scales], [bufAt d.dst tile])
  | .mxExport => ([bufAt d.src tile], [bufAt d.dst (elems d.dstStride), scales])

/-- The source range of a step on the member of rank `own`: a transfer's receiver reads none (R322). -/
def collSrc (own : Nat) (d : CollDesc) : Buffer :=
  bufAt d.src (match d.op with
    | .allToAll => (ranksOf d).length * d.lines
    | .transfer => if d.sender = own then d.lines else 0
    | _ => d.lines)

/-- Its destination range: what the member of rank `own` ends with (R322). -/
def collDst (own : Nat) (d : CollDesc) : Buffer :=
  let g := (ranksOf d).length
  bufAt d.dst (match d.op with
    | .allGather => g * d.lines
    | .allToAll => g * d.lines
    | .transfer => if d.sender = own then 0 else d.lines
    | .reduceScatter => linesIn d.inFmt d.dstFmt (share d g ((ranksOf d).idxOf own)).2
    | .allReduce => linesIn d.inFmt d.dstFmt d.lines)

/-- Compute dies of a stage's quills. -/
def stageDies (p : ProgramSet) (stage : Nat) : List Nat :=
  ((p.stages[stage]?).map fun (x : Stage) => x.quills.foldl (fun acc q => insertNat (q / 256) acc) []).getD []

/-- `n` lines of the well of each of a stage's dies, from line `at_`. -/
def wellBufs (p : ProgramSet) (stage at_ n : Nat) : List Buffer := (stageDies p stage).map fun d => bufAt { space := .well d, at_ := at_ } n

/-- The score areas and the row records of an attention descriptor (R167, R171); the wide path has no scores (R176). -/
def attnBufs (p : ProgramSet) (a : AttnDesc) : List Buffer :=
  (if a.path = 0 then wellBufs p a.stage a.wellAt a.wellLines ++ if 0 < a.spillLines then [bufAt { space := .line, at_ := a.spillAt } a.spillLines] else []
   else []) ++ [bufAt a.recordsAt (ceilDiv a.qrows 4)]

/-! ### What a convolution layer reads and writes (R195, R199, R213) -/

/-- Frames that a segment reads for output frame `t`, and input rows for output row `h`. -/
def framesRead (d : ConvDesc) (t : Nat) : List Frame :=
  (List.range d.kt).filterMap fun k =>
    let u : Int := (t * d.st : Nat) + (d.ot + d.tapT) + (k * d.dt : Nat)
    if d.replicate then some (timeClamp u d) else timeIndex u d

def rowsRead (d : ConvDesc) (h : Nat) : List Nat :=
  (List.range d.kh).filterMap fun k =>
    let u : Int := (h * d.sh : Nat) + (d.oh + d.tapH) + (k * d.dh : Nat)
    if d.replicate then some (axisClamp u d.uh d.inH) else axisIndex u d.uh d.inH

/-- First well lines of the rows, of the input and of the carry tensor, that a segment reads for a layer's band. -/
def segRows (l : ConvLayer) (d : ConvDesc) : List Nat :=
  let rows := ((List.range l.rows).flatMap fun i => rowsRead d (l.row0 + i)).foldl (fun acc x => insertNat x acc) []
  ((List.range l.frames).flatMap fun i => framesRead d (l.frame0 + i)).foldl (fun acc f => rows.foldl (fun acc y => insertNat ((pixelAt d (f, y, 0)).1) acc) acc) []

/-- The rows that a layer reads, as ranges of its die's well. -/
def convSrcs (p : ProgramSet) (l : ConvLayer) : List Buffer :=
  l.segs.flatMap fun d => (segRows l d).flatMap fun at_ => wellBufs p l.stage at_ (rowLines d)

/-- The rows of its band that a layer writes. -/
def convDsts (p : ProgramSet) (l : ConvLayer) : List Buffer :=
  (List.range l.frames).flatMap fun i =>
    wellBufs p l.stage (l.outAt + ((l.frame0 + i) * (l.segs.headD default).outH + l.row0) * l.outLines) (l.rows * l.outLines)

/-- The whole tensors of a layer: output, input and carry. -/
def convBufs (p : ProgramSet) (l : ConvLayer) : List Buffer :=
  let d := l.segs.headD default
  wellBufs p l.stage l.outAt (d.outT * d.outH * l.outLines)
    ++ l.segs.flatMap fun d => wellBufs p l.stage d.inputAt (d.inT * d.inH * rowLines d) ++ wellBufs p l.stage d.carryAt (d.carry * d.inH * rowLines d)

/-- Ranges that an entry names: those of its accesses, movers, steps, attention stages and convolutions. -/
def entryBuffers (p : ProgramSet) (own : Nat) (e : StrokeEntry) : List Buffer :=
  e.accesses.map (·.buf) ++ e.movers.flatMap (fun m => (moverBufs m).1 ++ (moverBufs m).2)
    ++ e.colls.flatMap (fun d => [collSrc own d, collDst own d]) ++ e.attention.flatMap (attnBufs p) ++ e.convs.flatMap (convBufs p)

/-- Ranges that an entry reads, and ranges that it writes. -/
def entrySrcs (p : ProgramSet) (own : Nat) (e : StrokeEntry) : List Buffer :=
  (e.accesses.filter (!·.write)).map (·.buf) ++ e.movers.flatMap (fun m => (moverBufs m).1) ++ e.colls.map (collSrc own) ++ e.convs.flatMap (convSrcs p)

def entryDsts (p : ProgramSet) (own : Nat) (e : StrokeEntry) : List Buffer :=
  (e.accesses.filter (·.write)).map (·.buf) ++ e.movers.flatMap (fun m => (moverBufs m).2) ++ e.colls.map (collDst own)
    ++ e.attention.flatMap (attnBufs p) ++ e.convs.flatMap (convDsts p)

/-- A buffer reaches an own page of the wrong kind; `raw` says which own pages are raw (0x0102). -/
def wrongKind (raw : Nat → Bool) (b : Buffer) : Bool :=
  let pages := match bufPages b with | some (lo, hi) => (List.range (hi + 1 - lo)).map (lo + ·) | none => []
  match b.place.space with
  | .line => pages.any fun k => k < 73728 && raw k
  | .raw => pages.any fun k => !raw k
  | _ => false

/-- A buffer lies outside its tier (0x0102). -/
def beyond (b : Buffer) : Bool :=
  match b.place.space with
  | .t0 _ => t0Lines < b.place.at_ + b.count
  | .well d => 2 ≤ d || wellLines < b.place.at_ + b.count
  | .line => pageLines ≤ lineFld b.place.at_ || 131072 * pageLines < (bufRange b).2
  | .raw => 73728 * 2 ^ 24 < b.place.at_ + b.count

def outside (raw : Nat → Bool) (b : Buffer) : Bool := beyond b || wrongKind raw b

/-- A range reaches a T3 index. -/
def isT3 (b : Buffer) : Bool :=
  match b.place.space with
  | .line => (match bufPages b with | some (_, hi) => 73728 ≤ hi | none => false)
  | _ => false

/-! ### The maps that jobs can have (R275) -/

/-- Values of launch parameter `k` that stand for all: those at which some range of strokes begins or ceases to be given. -/
def paramVals (p : ProgramSet) (k : Nat) : List Nat :=
  ((p.map.flatMap fun r => r.given.flatMap fun g => if g.1 = k then [g.2.1, g.2.2 + 1] else []).filter (· < 2 ^ 32)).foldl (fun acc x => insertNat x acc) [0]

/-- Values of the launch parameters that stand for all, in every combination. -/
def paramCases (p : ProgramSet) : List (List Word) :=
  (List.range 16).foldr (fun k acc => (paramVals p k).flatMap fun v => acc.map fun vs => w32 v :: vs) [[]]

/-- A program set as a job with some launch parameters has it: the ranges of strokes that they give. -/
def jobSet (p : ProgramSet) (params : List Word) : ProgramSet := { p with map := (jobRanges p params).map fun r => { r with given := [] } }

/-- Some job has range `r`, and breaks a condition in it. -/
def someJob (p : ProgramSet) (r : MapRange) (bad : ProgramSet → Bool) : Bool :=
  (paramCases p).any fun v => (jobRanges p v).contains r && bad (jobSet p v)

/-- The first item of an entry that breaks a check in some range of strokes, of some job, that runs the entry. -/
def badRun {α : Type} (p : ProgramSet) (items : StrokeEntry → List α) (bad : ProgramSet → MapRange → StrokeEntry → α → Bool) : Bad :=
  p.map.findSome? fun r =>
    match p.entries[r.entry]? with
    | some e => ((items e).findIdx? fun a => someJob p r fun q => bad q { r with given := [] } e a).map fun i => (i, r.entry)
    | none => none

/-- The ranges of strokes of a program set, with the entries that they run. -/
def runsOf (p : ProgramSet) : List (MapRange × StrokeEntry) := p.map.filterMap fun r => (p.entries[r.entry]?).map fun e => (r, e)

/-- Parts of ranges that lie outside a range. -/
def cutOut (x : Nat × Nat) (ys : List (Nat × Nat)) : List (Nat × Nat) :=
  ys.flatMap fun y => ([(y.1, min y.2 x.1), (max y.1 x.2, y.2)] : List (Nat × Nat)).filter fun z => z.1 < z.2

/-! ### Dependencies (R234) -/

def unitsOf (e : StrokeEntry) : List Nat := e.accesses.foldl (fun acc a => insertNat a.unit acc) []

/-- Units that unit `u` waits for, directly. -/
def waitsOf (e : StrokeEntry) (u : Nat) : List Nat := (e.accesses.filter fun a => a.unit = u).flatMap (·.after)

/-- Unit `u` comes after unit `v`, through at most `fuel` waits. -/
def comesAfter (e : StrokeEntry) (v : Nat) : Nat → Nat → Bool
  | 0, _ => false
  | n + 1, u => (waitsOf e u).any fun w => w = v || comesAfter e v n w

def inSequence (e : StrokeEntry) (a b : Access) : Bool :=
  a.unit = b.unit || comesAfter e b.unit (unitsOf e).length a.unit || comesAfter e a.unit (unitsOf e).length b.unit

/-- Some pair of accesses of an entry that overlap breaks a condition. -/
def pairBad (e : StrokeEntry) (bad : Access → Access → Bool) (a : Access) : Bool :=
  e.accesses.any fun b => overlaps a.buf b.buf && bad a b

/-! ### Table images (R143, R145, R146) -/

/-- A step breaks the step table (R146). DESIGN CHOICE (log entry 83), where the table gives SEG and SEL no OP values: they are rejected unless OP is 0. -/
def stepBad (h : UpHdr) (w : Word) : Bool :=
  let x := w.toNat
  let op := bitsOf x 4 4
  let kind := bitsOf x 0 4
  let opBad := match kind with
    | 0 => 8 < op
    | 1 => op ≠ 0
    | 2 => 5 < op
    | 3 => (fnOfCode op).isNone
    | 4 => 2 < op
    | 5 => op ≠ 0
    | _ => true
  opBad || (bitsOf x 24 1 = 1 && bitsOf x 25 1 = 1) || ((bitsOf x 24 1 = 1 || bitsOf x 25 1 = 1) && h.consts ≤ bitsOf x 20 4)
    || x / 2 ^ 26 ≠ 0

def risingBreaks : List Word → Bool
  | a :: b :: rest => (dec32 a).lt (dec32 b) && risingBreaks (b :: rest)
  | _ => true

def programBad (prog : List Word) : Bool :=
  let w := (prog.headD 0#32).toNat
  let h := upHdr (prog.headD 0#32)
  let breaks := (prog.drop (1 + h.steps + h.consts)).take (h.segs - 1)
  h.steps = 0 || 32 < h.steps || h.segs = 0 || 64 < h.segs || 16 < h.consts || w / 2 ^ 21 ≠ 0 || prog.length ≠ h.size
    || ((prog.drop 1).take h.steps).any (stepBad h) || !breaks.all (fun b => (dec32 b).isFinite) || !risingBreaks breaks

def imageBad (image : List Word) : Bool :=
  let ps := upSplit 9 image
  1024 < image.length || 8 < ps.length || ps.any programBad

/-! ### Checks of a program set -/

/-- Lines of the capture area of a die (R122) and of its add log (R258). -/
def captureLines : Nat := 466034
def addLogLines : Nat := 233016

def reservedBufs (p : ProgramSet) : List Buffer :=
  let well := fun d at_ n => ({ place := { space := .well d, at_ := at_ }, count := n } : Buffer)
  [well 0 p.capture.1 captureLines, well 1 p.capture.2 captureLines, well 0 p.addLog.1 addLogLines, well 1 p.addLog.2 addLogLines]

/-- Quills that an entry names (R3, R27). -/
def entryQuills (e : StrokeEntry) : List Nat :=
  (e.gangs ++ e.conv).map (·.1) ++ e.active ++ e.convs.flatMap (fun l => l.stripes.map (·.quill))
    ++ e.rowReady.flatMap (fun r => r.producers ++ r.waits.map (·.quill)) ++ e.takes.map (·.quill)
    ++ e.counters.flatMap fun c => c.takers.map fun t => 256 * c.die + t.1

/-- A place in the T0 of a nib that is not there. -/
def State.nibMissing (s : State) (b : Buffer) : Bool := match b.place.space with | .t0 n => !s.nibPresent n | _ => false

/-- Gang mode of a quill in an entry. -/
def modeOf (e : StrokeEntry) (q : Nat) : Nat := ((e.gangs.find? fun g => g.1 = q).map (·.2)).getD 0

/-- A grid breaks R283 to R285. -/
def counterBad (c : CounterCfg) : Bool :=
  let g := gridOf c
  c.mt = 0 || c.nt = 0 || 65536 < g.1 * g.2 || 65536 < c.tidxBase + g.1 * g.2 || 8 < c.block || 2 < c.order
    || (c.aligned && (c.aPadded % c.mt ≠ 0 || c.bPadded % c.nt ≠ 0 || c.storageRows < g.1 * c.mt || c.storageCols < g.2 * c.nt))

def takersBad (e : StrokeEntry) (c : CounterCfg) : Bool :=
  c.takers.isEmpty || c.takers.any fun t => 8 < (t.2 + 1) * 2 ^ modeOf e (256 * c.die + t.1)

/-- A gang takes from a counter of the entry whose taker list does not name it (R278). -/
def takeBad (e : StrokeEntry) (t : TakeDecl) : Bool :=
  e.counters.any fun c => c.die = t.die && c.num = t.num && !(t.quill / 256 = c.die && c.takers.contains (t.quill % 256, t.gang))

def productBad (p : ProductDecl) : Bool :=
  p.mt = 0 || 4096 < p.mt || p.nt = 0 || 1024 < p.nt || p.segLines.isEmpty || 16 < p.segLines.length
    || p.segLines.any (fun l => l = 0 || 128 < l) || p.k = 0 || 262144 < p.k || ! [1, 2, 4, 8, 16, 32].contains p.g

/-- An aligned-tile product breaks a condition of R92: shapes, and the room of each operand's and the output's buffers. -/
def paddingBad (p : ProductDecl) : Bool :=
  let lines := p.segLines.foldl (· + ·) 0
  p.aligned && (p.mt % p.g ≠ 0 || p.nt % 128 ≠ 0 || p.segLines.any (fun l => l % 2 ^ p.gangMode ≠ 0)
    || p.aRows < p.tr * p.mt || p.bCols < p.tc * p.nt || p.aLines < lines || p.bLines < lines
    || p.outRows < p.tr * p.mt || p.outCols < p.tc * p.nt)

/-- How many of `k` tiles of length `m` reach into `lo` to `lo + n - 1`, clipped at the extent `valid`. -/
def tilesIn (m k valid lo n : Nat) : Nat :=
  ((List.range k).filter fun i => i * m < lo + n && lo < min (i * m + m) valid).length

/-- A storage tile that not exactly one array tile writes counts as written by several (R60). -/
def severalTiles (p : ProductDecl) (t : StorageTile) : Bool :=
  tilesIn p.mt p.tr p.validRows t.row0 t.rows * tilesIn p.nt p.tc p.validCols t.col0 t.cols ≠ 1

/-- A dynamic scale or list without the whole tile in T0, or a dynamic scale of a storage tile that several array tiles write (R60, R117). -/
def dynamicBad (p : ProductDecl) : Bool :=
  ((p.dynList || p.tiles.any (·.dyn)) && !p.wholeInT0) || p.tiles.any fun t => t.dyn && severalTiles p t

def rising : List Nat → Bool
  | a :: b :: rest => a < b && rising (b :: rest)
  | _ => true

def staticBad (p : ProductDecl) : Bool :=
  let l := ceilDiv p.validK 128
  p.staticLists.zipIdx.any fun e =>
    4 * min 8 (l - 8 * e.2) < e.1.length || !rising e.1 || e.1.any fun c => p.validK ≤ 1024 * e.2 + c || 1024 ≤ c

def attnBad (a : AttnDesc) : Bool :=
  ! [1, 2, 4, 8, 16].contains a.gqa || a.qrows = 0 || 4096 < a.qrows || a.qrows % a.gqa ≠ 0 || a.kvRatio = 0 || 64 < a.kvRatio
    || a.kvRatio % a.gqa ≠ 0 || (a.headDim ≠ 128 && a.headDim ≠ 256) || 3 < a.kvForm || (a.scoreFmt ≠ 6 && a.scoreFmt ≠ 8)
    || !normalPos a.scoreScale || 4 < a.maskKind || ((a.maskKind = 3 || a.maskKind = 4) && (a.window = 0 || 2 ^ 31 ≤ a.window))
    || a.wellKeys % 256 ≠ 0 || 256 * a.blocks < a.wellKeys || 1 < a.pmode || a.pscale = 0 || 0x80 < a.pscale
    || 1 < a.pround || 65535 < a.pstream || 1 < a.path

def scoreBytes (a : AttnDesc) : Nat := if a.scoreFmt = 6 then 2 else 4

/-- The score areas of a two-sweep stage are too small (R167); the wide path stores no scores (R176). -/
def areasBad (a : AttnDesc) : Bool :=
  a.path = 0 && (a.wellLines < a.qrows * ceilDiv (a.wellKeys * scoreBytes a) 64
    || a.spillLines < a.qrows * ceilDiv ((256 * a.blocks - a.wellKeys) * scoreBytes a) 64)

def headsBad (a : AttnDesc) : Bool :=
  a.qrows % a.gqa ≠ 0 || a.kvRatio % a.gqa ≠ 0 || a.heads0.any fun h => h / a.kvRatio ≠ (h + a.gqa - 1) / a.kvRatio

/-- MASK_KIND depends on the launch parameter CHUNK (R165). -/
def usesChunk (a : AttnDesc) : Bool := a.maskKind = 2 || a.maskKind = 3

/-- An attention read names position `k` of its list: it lies in the window, and MASK_KIND leaves it unmasked for some query row (R192). -/
def attnNames (a : AttnDesc) (chunk k : Nat) : Bool :=
  256 * a.slot0 ≤ k && k < 256 * (a.slot0 + a.blocks) && (List.range (ceilDiv a.qrows a.gqa)).any fun i => kindSees a chunk (a.q0 + i) k

/-- The scatters that publish at the end of a stroke of range `r` or later. Positions that REPLACE rewrites keep their old block for readers until then,
and count as published (R192). -/
def laterScatters (p : ProgramSet) (r : MapRange) : List ScatterDecl :=
  ((runsOf p).filter fun t => r.first ≤ t.1.last).flatMap fun t => t.2.scatters.filter (!·.replace)

/-- Strokes of range `r` read a position of a list that is published too late. -/
def namesLate (p : ProgramSet) (r : MapRange) (list : Nat) (names : Nat → Bool) : Bool :=
  (laterScatters p r).any fun c => c.list = list && (List.range c.count).any fun i => names (c.firstPos + i)

def attnLate (chunk : Nat) (p : ProgramSet) (r : MapRange) (a : AttnDesc) : Bool := namesLate p r a.list (attnNames a chunk)

def readNames (k : KvRead) (x : Nat) : Bool := k.firstPos ≤ x && x < k.firstPos + k.count

/-- Scatters that the program set itself shows to write position `x` of a list, or a later one of its block, at the end of a stroke before `n`, with that stroke. -/
def fillsBefore (p : ProgramSet) (list x n : Nat) : List Nat :=
  ((runsOf p).filter fun t => t.1.first < n && t.2.scatters.any fun c =>
    c.list = list && (List.range c.count).any fun i => x ≤ c.firstPos + i && (c.firstPos + i) / 256 = x / 256).map fun t => min t.1.last (n - 1)

/-- A scatter of a stroke after `m` and up to `n` begins the block of position `x`. -/
def blockBegun (p : ProgramSet) (list x m n : Nat) : Bool :=
  (runsOf p).any fun t => t.1.first ≤ n && m < t.1.last && t.2.scatters.any fun c =>
    c.list = list && c.allocs && (List.range c.count).any fun i => (c.firstPos + i) / 256 = x / 256

/-- A scatter without REPLACE writes, in some stroke of its range, a position below the FILL that the program set's own scatters have published by then
(R188; log entry 108). -/
def belowFill (p : ProgramSet) (r : MapRange) (_ : StrokeEntry) (c : ScatterDecl) : Bool :=
  !c.replace && !c.allocs && (List.range c.count).any fun i => [r.first, r.last].any fun n =>
    (fillsBefore p c.list (c.firstPos + i) n).any fun m => !blockBegun p c.list (c.firstPos + i) m n

/-- Entry changes that a scatter can publish: two for each block, one more where it takes an entry for it (R189). -/
def scatterChanges (c : ScatterDecl) : Nat :=
  (if c.count = 0 then 0 else (c.firstPos + c.count - 1) / 256 + 1 - c.firstPos / 256) * if c.allocs || c.cows || c.replace then 3 else 2

def between (lo hi x : Nat) : Bool := lo ≤ x && x ≤ hi

def convBad (d : ConvDesc) : Bool :=
  !(between 1 4 d.kt && between 1 7 d.kh && between 1 7 d.kw && between 1 2 d.st && between 1 4 d.sh && between 1 4 d.sw
    && between 1 2 d.dt && between 1 4 d.dh && between 1 4 d.dw && between 1 2 d.ut && between 1 2 d.uh && between 1 2 d.uw
    && [d.ot, d.oh, d.ow].all (fun o => (-128 : Int) ≤ o && o ≤ 127)
    && between 1 64 d.inT && between 1 8192 d.inH && between 1 8192 d.inW
    && between 1 128 d.outT && between 1 16384 d.outH && between 1 16384 d.outW && between 1 16384 d.cIn && between 1 1024 d.cOut
    && between 1 3 d.inFmt && normalPos d.inScale && between 1 4096 d.span && d.carry ≤ 6 && between 1 16 d.segs
    && d.chan0 % 32 = 0 && 0 < d.chanN && d.chan0 + d.chanN ≤ d.cIn && (d.chanN % 32 = 0 || d.chanN = d.cIn))

/-- (tap, line) pairs of a segment, taps by their offset in upsampled units (R202). -/
def segPairs (d : ConvDesc) : List (Nat × Nat × Nat × Nat) :=
  (tapsOf d).flatMap fun k => (List.range d.lineN).map fun l =>
    (d.tapT + k.1 * d.dt, d.tapH + k.2.1 * d.dh, d.tapW + k.2.2 * d.dw, d.line0 + l)

/-- (tap, line) pairs of a kernel over the lines that hold the channels of its group (R202, R211; log entry 84). -/
def kernelPairs (k : Nat × Nat × Nat) (d : ConvDesc) : List (Nat × Nat × Nat × Nat) :=
  (List.range k.1).flatMap fun t => (List.range k.2.1).flatMap fun y => (List.range k.2.2).flatMap fun x =>
    (List.range (ceilDiv (d.chan0 + d.chanN) 128 - d.chan0 / 128)).map fun l => (t * d.dt, y * d.dh, x * d.dw, d.chan0 / 128 + l)

/-- The axes, channels and input that every segment of a chain shares. -/
def sameConv (a b : ConvDesc) : Bool :=
  { a with kt := b.kt, kh := b.kh, kw := b.kw, tapT := b.tapT, tapH := b.tapH, tapW := b.tapW, line0 := b.line0, lineN := b.lineN } = b

/-- A chain of segments misses or repeats a (tap, line) of its kernel, or holds more than 16. -/
def chainBad (l : ConvLayer) : Bool :=
  let ps := l.segs.flatMap segPairs
  match l.segs with
  | [] => true
  | d :: rest =>
    16 < l.segs.length || l.segs.any (fun d => d.segs ≠ l.segs.length) || !rest.all (sameConv d) || !ps.Nodup
      || !(kernelPairs l.kernel d).all ps.contains || !ps.all (kernelPairs l.kernel d).contains

def bufferBad (d : ConvDesc) : Bool :=
  8192 < d.kt * (d.kh + 1) * (((d.span - 1) * d.sw + (d.kw - 1) * d.dw) / d.uw + d.uw) * d.lineN

/-! ### Bands and stripes (R213) -/

/-- A layer's stripes do not partition its band, belong to other quills than the stage's, or its quills lie on both dies. -/
def stripesBad (p : ProgramSet) (l : ConvLayer) : Bool :=
  let quills := match p.stages[l.stage]? with | some st => st.quills | none => []
  quills.any (fun q => q / 256 ≠ quills.headD 0 / 256) || l.stripes.any (fun x => !quills.contains x.quill || x.row0 < l.row0 || l.row0 + l.rows < x.row0 + x.rows)
    || (List.range l.rows).any fun i => (l.stripes.filter fun x => x.row0 ≤ l.row0 + i && l.row0 + i < x.row0 + x.rows).length ≠ 1

/-- Writes before a stroke of range `r` reads them, by the quills of stage `stage` in the same stroke, or in an earlier stroke. -/
def writesBy (own : Nat) (p : ProgramSet) (r : MapRange) (e : StrokeEntry) (stage : Nat) : List Buffer :=
  ((e.convs.filter fun l => l.stage = stage).flatMap (convDsts p)) ++ ((e.accesses.filter fun a => a.write && !a.mover && a.stage = stage).map (·.buf))
    ++ ((runsOf p).filter fun t => t.1.first < r.first).flatMap fun t => entryDsts p own t.2

/-- A layer reads a row, of its input or of its carry tensor, some line of which nothing has written by then. -/
def unwritten (own : Nat) (p : ProgramSet) (r : MapRange) (e : StrokeEntry) (l : ConvLayer) : Bool :=
  (convSrcs p l).any fun b =>
    !((((writesBy own p r e l.stage).filter (overlaps b)).map bufRange).foldl (fun acc x => cutOut x acc) [bufRange b]).isEmpty

/-! ### Row-ready counters (R216) -/

/-- Declarations of one counter. -/
def sameCounter (e : StrokeEntry) (r : RowReadyDecl) : List RowReadyDecl := e.rowReady.filter fun x => x.die = r.die && x.num = r.num

/-- Waits of an entry with their counters' producers and the places of the increments. -/
def waitsIn (e : StrokeEntry) : List (HaloDecl × RowReadyDecl) := e.rowReady.flatMap fun r => r.waits.map fun w => (w, r)

/-- The waits that come before the increment that a wait needs, in the order of the quill that makes it. -/
def waitNext (e : StrokeEntry) (w : HaloDecl × RowReadyDecl) : List (HaloDecl × RowReadyDecl) :=
  if w.1.value = 0 then []
  else match w.2.increments[w.1.value - 1]? with
    | none => []
    | some k => (waitsIn e).filter fun x => w.2.producers.contains x.1.quill && x.1.place < k

/-- A wait comes, through at most `fuel` others, to wait `goal`. -/
def waitReach (e : StrokeEntry) (goal : HaloDecl × RowReadyDecl) : Nat → HaloDecl × RowReadyDecl → Bool
  | 0, _ => false
  | n + 1, w => (waitNext e w).any fun x => x = goal || waitReach e goal n x

def rowReadyBad (e : StrokeEntry) (r : RowReadyDecl) : Bool :=
  2 ≤ r.die || 256 ≤ r.num || 1 < (((sameCounter e r).flatMap (·.producers)).foldl (fun l q => insertNat q l) []).length
    || 65535 < ((sameCounter e r).map fun x => x.increments.length).foldl (· + ·) 0 || r.waits.any (fun w => r.increments.length < w.value)
    || r.waits.any fun w => waitReach e (w, r) ((waitsIn e).length + 1) (w, r)

/-- An MX descriptor breaks the layout of R236, or exports INT4 (R71). -/
def mxBad (m : MoverDecl) : Bool :=
  (m.op = .mxImport || m.op = .mxExport) &&
    (!mxFields m.desc || if m.op = .mxImport then m.desc.src.space ≠ .raw || m.desc.dst.space = .raw
      else m.desc.dst.space ≠ .raw || m.desc.src.space = .raw || m.srcFmt ≠ if m.desc.mxint8 then 3 else 1)

/-- A mover's atomic adds reach a line that is not own, of a T3 index, or of the other die's well (R255). -/
def addBad (m : MoverDecl) : Bool :=
  m.op = .add && match m.desc.dst.space with
    | .line => (moverBufs m).2.any isT3
    | .well d => d ≠ m.die
    | _ => true

/-- Atomic adds of a stage's nibs reach a line outside the well of their own die (R21, R255). -/
def nibAddBad (p : ProgramSet) (a : Access) : Bool :=
  a.atomic && a.write && !a.mover && !match a.buf.place.space with
    | .well d => (stageDies p a.stage).all (· = d)
    | _ => false

/-! ### Collectives and the link map -/

def isRed (d : CollDesc) : Bool := d.op = .reduceScatter || d.op = .allReduce

/-- A source or destination of a step: a line address or a line of a well (R321). -/
def collPlaceBad (p : Place) : Bool :=
  match p.space with
  | .line => false
  | .well d => 2 ≤ d
  | _ => true

def collBad (d : CollDesc) : Bool :=
  d.lines = 0 || 2 ^ 24 < d.lines || 254 < d.tmo || d.inFmt = 0 || 8 < d.inFmt || ! [0, 6, 8].contains d.wireFmt
    || (isRed d && ! [6, 8].contains d.dstFmt) || collPlaceBad d.src || collPlaceBad d.dst

def stepsOf (e : StrokeEntry) : Nat := (e.colls.map fun d => if d.op = .allReduce then 2 else 1).foldl (· + ·) 0

def collFmtBad (d : CollDesc) : Bool :=
  let ok := fun f => f = 6 || f = 8
  if isRed d then !(ok d.inFmt && ok d.wireFmt && ok d.dstFmt) else d.wireFmt ≠ 0

def State.membersBad (s : State) (d : CollDesc) : Bool :=
  let ranks : List Nat := match s.grp.linkMap with | some m => m.members.map fun (r : Member) => r.rank | none => []
  !(s.grp.rankValid && d.members.getLsbD s.grp.rank.toNat) || (ranksOf d).any (fun r => !ranks.contains r)
    || (d.op = .transfer && ((ranksOf d).length ≠ 2 || !(ranksOf d).contains d.sender))

/-- Largest group for a number of pair links (R316). -/
def groupMax (p : Nat) (bundle : Option Bool) : Nat :=
  match bundle with
  | none => 1 + 96 / p
  | some true => 2 + 88 / p
  | some false => 1 + 88 / p

/-- The entries of one member break R315. -/
def memberLinksBad (m : LinkMap) (r : Member) : Bool :=
  let es := m.links.filter fun e => e.rank = r.rank && e.role ≠ 0
  let pairs := es.filter fun e => e.role = 1 || e.role = 3
  let bundle := es.filter fun e => e.role = 2 || e.role = 3
  let others := (m.members.filter fun x => x.rank ≠ r.rank).map (·.rank)
  let inside := match r.mirror with | some x => some (others.contains x) | none => none
  let back := fun (e : LinkEntry) => m.links.any fun f =>
    f.rank = e.peerRank && f.link = e.peerLink && f.peerRank = r.rank && f.peerLink = e.link && f.role = e.role
  let sorted := fun (l : List LinkEntry) => l.foldl (fun acc e => insertNat e.link acc) []
  let indexed := others.all fun x =>
    let mine := sorted (pairs.filter fun e => e.peerRank = x)
    mine.length = m.pairLinks && (mine.zipIdx.all fun e => match es.find? fun f => f.link = e.1 with
      | some f => (sorted ((m.links.filter fun g => g.rank = x && (g.role = 1 || g.role = 3) && g.peerRank = r.rank)))[e.2]? = some f.peerLink
      | none => false)
  es.any (fun e => 96 ≤ e.link || 96 ≤ e.peerLink || 96 < e.peerRank || e.peerRank = r.rank || 50000 < e.delay || 3 < e.role)
    || pairs.any (fun e => !others.contains e.peerRank)
    || (others.length ≠ 0 && !indexed) || (es.any fun e => others.contains e.peerRank && !back e)
    || !(sorted es).length = es.length
    || (match r.mirror with
        | none => !bundle.isEmpty
        | some x => bundle.length ≠ 8 || bundle.any (fun e => e.peerRank ≠ x || e.link / 8 ≠ (bundle.headD default).link / 8)
            || bundle.any fun e => e.role ≠ if inside = some true && e.link % 8 < m.pairLinks then 3 else 2)
    || groupMax m.pairLinks inside < m.members.length

def linkMapBad (m : LinkMap) : Bool :=
  m.members.isEmpty || 97 < m.members.length || m.pairLinks = 0 || 8 < m.pairLinks || m.masters.isEmpty || 4 < m.masters.length
    || m.members.any (fun r => 96 < r.rank || 63 < r.slot || 255 < r.rack) || !(m.members.map (·.rank)).Nodup
    || m.masters.any (fun x => !(m.members.map (·.rank)).contains x)
    || !((m.links.filter (·.role ≠ 0)).map fun e => (e.peerRank, e.peerLink)).Nodup
    || m.members.any fun r => memberLinksBad m r
        || match r.mirror with
          | some x => 96 < x || x = r.rank || m.members.any fun y => y.rank = x && y.mirror ≠ some r.rank
          | none => false

/-- A step's source is written in its stroke: by an access, a mover, an attention stage, a convolution, or as the destination of a step (R328). -/
def srcWritten (p : ProgramSet) (own : Nat) (e : StrokeEntry) (d : CollDesc) : Bool := (entryDsts p own e).any fun b => overlaps b (collSrc own d)

/-! ### The mirror set -/

def mirrorPageList (p : ProgramSet) : List Nat := (mirrorPages p).flatMap fun r => (List.range r.2).map fun k => r.1 + k
def imagePages (m : MirrorSet) : List Nat := (List.range m.image.2).map fun k => m.image.1 + k

/-- The latest mirror stroke before stroke `n`. -/
def mirrorBefore (marks : List Nat) (n : Nat) : Option Nat := (marks.filter (· < n)).getLast?

/-- The commit stroke of a mirror point that a range ends with is not below the next mirror stroke (R342). -/
def gapBad (p : ProgramSet) (m : MirrorSet) (r : MapRange) : Bool :=
  r.mirror && (mirrorMarks p.map).any fun x => r.last < x && x ≤ r.last + m.delay

/-- The banks that an entry writes. -/
def banksOf (p : ProgramSet) (own : Nat) (m : MirrorSet) (e : StrokeEntry) : List Nat :=
  let touches := fun (k : Nat × Nat) => (entryDsts p own e).any (namesPage ((List.range k.2).map fun i => k.1 + i))
  e.bankWrites ++ (if touches m.bank0 then [0] else []) ++ (if touches m.bank1 then [1] else [])

/-- Strokes of a map range write a bank outside the strokes that R342 permits. -/
def bankBad (own : Nat) (m : MirrorSet) (p : ProgramSet) (r : MapRange) : Bool :=
  match p.entries[r.entry]? with
  | none => false
  | some e =>
    let marks := mirrorMarks p.map
    let k := (marks.filter (· < r.first)).length + 1
    let from_ := match mirrorBefore marks r.first with | some x => x + m.delay + 1 | none => 0
    !(banksOf p own m e).isEmpty
      && (marks.any (fun x => r.first ≤ x && x < r.last) || r.first < from_ || (banksOf p own m e).any fun b => b ≠ k % 2)

/-! ### Reads across a mirror point (R342) -/

/-- Strokes of a range that can read across a mirror point, each with the mirror stroke: its first stroke, and the one after the last mirror stroke that the
range's strokes follow. -/
def crossings (p : ProgramSet) (r : MapRange) : List (Nat × Nat) :=
  let marks := mirrorMarks p.map
  (match mirrorBefore marks r.first with | some k => [(k, r.first)] | none => [])
    ++ match mirrorBefore marks r.last with | some k => if r.first ≤ k + 1 then [(k, k + 1)] else [] | none => []

/-- Writes, by runs that pass a test, outside the mirror set to lines of a buffer. -/
def plainWrites (p : ProgramSet) (own : Nat) (runs : MapRange → Bool) (b : Buffer) : List (Nat × Nat) :=
  ((runsOf p).filter fun t => runs t.1).flatMap fun t =>
    ((entryDsts p own t.2).filter fun w => overlaps w b && !namesPage (mirrorPageList p) w).map bufRange

/-- A read of a buffer, for which the same stroke has freshly written `now`, meets a line outside the mirror set that the job wrote last before a mirror point. -/
def staleRead (p : ProgramSet) (own : Nat) (r : MapRange) (now : List Buffer) (b : Buffer) : Bool :=
  let rng := bufRange b
  (crossings p r).any fun c =>
    let fresh := plainWrites p own (fun t => c.1 < t.last && t.first < c.2) b ++ (now.filter (overlaps b)).map bufRange
    (plainWrites p own (fun t => t.first ≤ c.1) b).any fun w =>
      !(fresh.foldl (fun acc x => cutOut x acc) [(max w.1 rng.1, min w.2 rng.2)]).isEmpty

def accessAcross (own : Nat) (p : ProgramSet) (r : MapRange) (e : StrokeEntry) (a : Access) : Bool :=
  !a.write && staleRead p own r ((e.accesses.filter fun w => w.write && w.stage = a.stage
    && (w.unit = a.unit || comesAfter e w.unit (unitsOf e).length a.unit)).map (·.buf)) a.buf

def moverAcross (own : Nat) (p : ProgramSet) (r : MapRange) (e : StrokeEntry) (m : MoverDecl) : Bool :=
  (moverBufs m).1.any (staleRead p own r ((e.accesses.filter (·.write)).map (·.buf)))

def collAcross (own : Nat) (p : ProgramSet) (r : MapRange) (_ : StrokeEntry) (d : CollDesc) : Bool := staleRead p own r [] (collSrc own d)

def convAcross (own : Nat) (p : ProgramSet) (r : MapRange) (e : StrokeEntry) (l : ConvLayer) : Bool :=
  (convSrcs p l).any (staleRead p own r (((e.convs.filter fun x => x.stage = l.stage).flatMap (convDsts p))
    ++ (e.accesses.filter fun a => a.write && a.stage = l.stage).map (·.buf)))

/-- A scatter's writes lie outside the mirror set: its blocks, or the list slot that it retargets. -/
def scatterPlain (p : ProgramSet) (c : ScatterDecl) : Bool :=
  (match p.mirror with | some m => !m.pools.contains c.pool | none => true)
    || ((c.allocs || c.cows || c.replace) && !namesPage (mirrorPageList p) (bufAt { space := .line, at_ := c.list } 1))

/-- A read of positions of a block list meets one that a scatter wrote last before a mirror point, outside the mirror set. -/
def kvAcross (p : ProgramSet) (r : MapRange) (list : Nat) (names : Nat → Bool) : Bool :=
  let scatters := fun (runs : MapRange → Bool) => ((runsOf p).filter fun t => runs t.1).flatMap fun t => t.2.scatters.filter fun c => c.list = list
  let writes := fun (c : ScatterDecl) (x : Nat) => c.firstPos ≤ x && x < c.firstPos + c.count
  (crossings p r).any fun k => (scatters fun t => t.first ≤ k.1).any fun c => scatterPlain p c && (List.range c.count).any fun i =>
    names (c.firstPos + i) && !(scatters fun t => k.1 < t.last && t.first < k.2).any fun x => writes x (c.firstPos + i)

/-- First item that reads across a mirror point. -/
def acrossBad (p : ProgramSet) (own : Nat) : Bad :=
  orBad (badRun p (·.accesses) (accessAcross own)) (orBad (badRun p (·.movers) (moverAcross own)) (orBad (badRun p (·.colls) (collAcross own))
    (orBad (badRun p (·.convs) (convAcross own)) (orBad (badRun p (·.attention) fun q r _ a => !usesChunk a && kvAcross q r a.list (attnNames a 1))
      (badRun p (·.kvReads) fun q r _ k => kvAcross q r k.list (readNames k))))))

/-! ### The VCU -/

def gangOk (l g : Nat) : Bool :=
  (g = 1 && l < 12) || (g = 2 && [0, 2, 4, 6, 8, 10].contains l) || (g = 4 && [0, 4, 8].contains l)

/-- Pages of a frame buffer (R368). -/
def frameLines (c : StreamCtx) : Nat := c.height * ceilDiv c.width 32 + 2 * (c.height / 2) * ceilDiv (c.width / 2) 32
def framePages (c : StreamCtx) : Nat := ceilDiv (frameLines c) pageLines

/-- Superblock rows and, for a gang, the rows of its bands (R362). -/
def sbRows (c : StreamCtx) : Nat := ceilDiv c.height 64
def sbCols (c : StreamCtx) : Nat := ceilDiv c.width 64
def bandRows (c : StreamCtx) : List Nat :=
  (List.range c.gang).map fun i => sbRows c / c.gang + if i < sbRows c % c.gang then 1 else 0

/-- Limits of a level: luma samples of a picture, its width and height in AV1, its longer side in HEVC, luma samples a second, bits a second in the Main tier of
AV1 and of HEVC, and in the High tier (PRESUMED, log entry 27). -/
structure LevelLimits where
  pic : Nat
  wide : Nat
  high : Nat
  side : Nat
  rate : Nat
  mainAv1 : Nat
  mainHevc : Nat
  highTier : Nat
  deriving DecidableEq, Repr, Inhabited

def level5 (rate main high : Nat) : LevelLimits :=
  { pic := 8912896, wide := 8192, high := 4352, side := 8444, rate := rate, mainAv1 := main, mainHevc := main, highTier := high }

def level6 (rate mainAv1 mainHevc high : Nat) : LevelLimits :=
  { pic := 35651584, wide := 16384, high := 8704, side := 16888, rate := rate, mainAv1 := mainAv1, mainHevc := mainHevc, highTier := high }

/-- The level of a context's gang (R364): 5.1, 6.0 and 6.1 to encode, 5.2, 6.1 and 6.2 to decode. -/
def limitsOf (c : StreamCtx) : LevelLimits :=
  match c.decode, c.gang with
  | false, 1 => level5 534773760 40000000 160000000
  | false, 2 => level6 1069547520 60000000 60000000 240000000
  | false, _ => level6 2139095040 100000000 120000000 480000000
  | true, 1 => level5 1069547520 60000000 240000000
  | true, 2 => level6 2139095040 100000000 120000000 480000000
  | true, _ => level6 4278190080 160000000 240000000 800000000

/-- Bits a second that a context may need: Main tier to encode, High tier to decode (R364). -/
def bitLimit (c : StreamCtx) : Nat :=
  let l := limitsOf c
  if c.decode then l.highTier else if c.hevc then l.mainHevc else l.mainAv1

/-- A context exceeds the level of its gang (R364); a CQP context has no target, and only VBR a peak. -/
def levelBad (c : StreamCtx) : Bool :=
  let l := limitsOf c
  l.pic < c.width * c.height || (if c.hevc then l.side < max c.width c.height else l.wide < c.width || l.high < c.height)
    || l.rate * c.fpsDen < c.width * c.height * c.fpsNum || ((c.decode || c.rateMode ≠ 0) && bitLimit c < c.bitrate)
    || (!c.decode && c.rateMode = 2 && bitLimit c < c.peak)

def ctxBad (c : StreamCtx) : Bool :=
  (c.bits ≠ 8 && c.bits ≠ 10) || c.width % 2 = 1 || c.height % 2 = 1 || !between 128 8192 c.width || !between 128 8192 c.height
    || 31 < c.ctx || !gangOk c.lead c.gang || (c.decode && c.lead < 8) || (!c.decode && 8 ≤ c.lead)
    || !between 2 64 c.depth || !between 1 68 c.unitRows || (c.decode && !between 2 17 c.bufs)
    || !between 100000 800000000 c.bitrate || !between 100000 800000000 c.peak || c.fpsDen = 0 || c.fpsNum < c.fpsDen || 240 * c.fpsDen < c.fpsNum
    || levelBad c
    || (!c.decode && (c.bufs ≠ c.refs + 1 || !between 1 2 c.refs || 2 < c.rateMode
        || (if c.hevc then 51 else 255) < c.qpMax || c.qpMax < c.qpMin || (if c.hevc then 51 else 255) < c.qpFix
        || !between 1 65535 c.keyInt || !between 1 8 c.keyMult))

def lineBuf (at_ n : Nat) : Buffer := { place := { space := .line, at_ := at_ }, count := n }

/-- Frame ring, output or input area and descriptor ring of a context. -/
def ctxBufs (c : StreamCtx) : List Buffer :=
  [lineBuf (lineAddr c.ringPage 0) (c.depth * framePages c * pageLines), lineBuf c.outArea c.outLines, lineBuf c.descArea c.descLines]

def poolBuf (p : ProgramSet) : Buffer := lineBuf (lineAddr p.vcuPool.1 0) (p.vcuPool.2 * pageLines)

/-- A buffer is not on own line pages, is lendable, or lies in a mirror set. -/
def State.vcuPlaceBad (s : State) (p : ProgramSet) (b : Buffer) : Bool :=
  outside (fun i => s.boot.config.rawPages.contains i) b || namesPage s.boot.config.lendable b || namesPage (mirrorPageList p) b
    || match bufPages b with | some (_, hi) => 73728 ≤ hi | none => true

def State.vcuPlacesBad (s : State) (p : ProgramSet) : Bool :=
  let bs := (if p.streams.isEmpty then [] else [poolBuf p]) ++ p.streams.flatMap ctxBufs
  bs.any (s.vcuPlaceBad p) || bs.zipIdx.any (fun a => (bs.drop (a.2 + 1)).any fun b => overlaps a.1 b)
    || (!p.streams.isEmpty && p.entries.any fun e => (entryBuffers p s.grp.rank.toNat e).any fun b => overlaps (poolBuf p) b)

/-- Frame ring slot `k` of a context. -/
def slotBuf (c : StreamCtx) (k : Nat) : Buffer := lineBuf (lineAddr (c.ringPage + k * framePages c) 0) (framePages c * pageLines)

/-- An encode request names a slot beyond the ring, a release no later than its stroke, or a slot written before its release. -/
def encodeBad (own : Nat) (p : ProgramSet) (r : MapRange) (q : Nat × Nat × Nat) : Bool :=
  match p.streams[q.1]? with
  | none => true
  | some c => q.2.2 = 0 || c.depth ≤ q.2.1 || ((runsOf p).filter fun t => r.first + 1 ≤ t.1.last && t.1.first ≤ r.last + q.2.2).any fun t =>
      (entryDsts p own t.2).any fun b => overlaps b (slotBuf c q.2.1)

def framesBad (c : StreamCtx) : Bool :=
  (List.range c.ready.length).any fun f =>
    c.freeAt.getD f 0 ≤ c.ready.getD f 0 || (c.depth ≤ f && c.ready.getD f 0 ≤ c.freeAt.getD (f - c.depth) 0)

/-- Strokes of a range read a decode ring's slot outside R(f) + 1 to Q(f). -/
def readsRingBad (own : Nat) (p : ProgramSet) (r : MapRange) (e : StrokeEntry) : Bool :=
  p.streams.any fun c => c.decode && (List.range c.depth).any fun k =>
    (entrySrcs p own e).any (overlaps · (slotBuf c k))
      && !(List.range c.ready.length).any fun f => f % c.depth = k && c.ready.getD f 0 < r.first && r.last ≤ c.freeAt.getD f 0

/-- Units of a frame, UNIT_ROWS superblock rows each, and the tiles they are in AV1 (R365, R381). -/
def unitCount (c : StreamCtx) : Nat := ceilDiv (sbRows c) c.unitRows
def tileColumns (c : StreamCtx) : Nat := if 4096 < c.width then 2 else 1

/-- Superblock rows above each band of a gang but the first. -/
def bandEdges (c : StreamCtx) : List Nat := (List.range (c.gang - 1)).map fun i => ((bandRows c).take (i + 1)).foldl (· + ·) 0

/-- The units exceed the tile and slice limits of the levels (PRESUMED, log entry 27), or a band edge is no unit edge (R381). -/
def unitsBad (c : StreamCtx) : Bool :=
  !c.decode && ((bandEdges c).any (fun x => x % c.unitRows ≠ 0) || if c.hevc then (if c.gang = 1 then 200 else 600) < unitCount c
    else (if c.gang = 1 then 64 else 128) < unitCount c * tileColumns c)

/-! ### Scroll ruling -/

/-- First failing check of a program set, in ascending code. -/
def State.scrollChecks (s : State) (p : ProgramSet) : List (Nat × Bad) :=
  let es := p.entries.zipIdx
  let quillBad := fun q => !s.quillPresent q
  let raw := fun i => s.boot.config.rawPages.contains i
  let lend := s.boot.config.lendable
  let own := s.grp.rank.toNat
  let names := entryBuffers p own
  [(0x0101, orBad (badItem p.stages fun st => st.quills.any quillBad)
      (orBad (badItem p.buffers fun b => s.nibMissing b.1)
        (orBad (badIn es entryQuills fun _ q => quillBad q)
          (orBad (badIn es (·.counters) fun _ c => 2 ≤ c.die || 256 ≤ c.num) (badIn es names fun _ b => s.nibMissing b))))),
   (0x0102, orBad (badItem p.buffers fun b => outside raw b.1) (badIn es names fun _ b => outside raw b)),
   (0x0103, orBad (badItem p.buffers fun b => (reservedBufs p).any (overlaps b.1))
      (badIn es names fun _ b => (reservedBufs p).any (overlaps b))),
   (0x0104, orBad (badItem p.buffers fun b => namesPage lend b.1) (orBad (badIn es names fun _ b => namesPage lend b)
      (badItem p.pools fun k => (k.pages ++ k.tailPages).any lend.contains))),
   (0x0105, orBad (badItem p.buffers fun b => b.2 && isT3 b.1) (badIn es (entryDsts p own) fun _ b => isT3 b)),
   (0x0203, badItem p.map fun r => p.entries.length ≤ r.entry),
   (0x0204, badIn es (·.accesses) fun e a => pairBad e (fun a b => a.write && !b.write && a.stage ≠ b.stage) a),
   (0x0205, badIn es (·.accesses) fun e a =>
      pairBad e (fun a b => a.write && (a.mover || b.mover) && !(a.atomic && b.atomic) && !inSequence e a b) a),
   (0x0206, badIn es unitsOf fun e u => comesAfter e u (unitsOf e).length u),
   (0x0207, badIn es (fun e => [e]) fun _ e =>
      8192 < (e.scatters.map scatterChanges).foldl (· + ·) 0 + e.freezes),
   (0x0301, badIn es (·.counters) fun _ c => counterBad c),
   (0x0302, orBad (badIn es (·.counters) takersBad) (badIn es (·.takes) takeBad)),
   (0x0401, badIn es (·.gangs) fun _ g => 3 < g.2),
   (0x0402, orBad (badIn es (·.products) fun _ x => productBad x) (orBad (badIn es (fun e => e.convs.flatMap (·.segs)) fun _ d => 128 < convPositions d)
      (badIn es (·.counters) fun _ c => 4096 < c.mt || 1024 < c.nt))),
   (0x0403, badIn es (·.products) fun _ x => paddingBad x),
   (0x0404, badIn es (·.products) fun _ x => dynamicBad x),
   (0x0405, badIn es (·.products) fun _ x => staticBad x),
   (0x0406, badIn es (·.counters) fun _ c => 1 < (gridOf c).2 && elemsPerLine c.outFmt ≠ 0 && c.nt % elemsPerLine c.outFmt ≠ 0),
   (0x0501, badItem p.stages fun st => imageBad st.image),
   (0x0502, badIn es (·.stats) fun _ x => 0xFFFFFFFF < x.extents.foldl (· + ·) 0),
   (0x0503, badIn es (·.stats) fun _ x => x.group && x.appliedAt ≤ x.lastPartial),
   (0x0504, badIn es (·.stats) fun _ x => !normalPos x.eps),
   (0x0505, badIn es (·.maskedFmts) fun _ f => f ≠ 6 && f ≠ 8),
   (0x0601, badIn es (·.attention) fun _ a => attnBad a),
   (0x0602, badIn es (·.attention) fun _ a => areasBad a),
   (0x0603, badIn es (·.attention) fun _ a => headsBad a),
   (0x0604, badIn es (·.attention) fun _ a => a.path = 0 && a.kvForm = 3),
   (0x0605, badItem p.pools fun k => (k.pages ++ k.tailPages).any fun g => 73728 ≤ g || raw g),
   (0x0606, badRun p (·.scatters) belowFill),
   (0x0607, orBad (badRun p (·.attention) fun q r _ a => !usesChunk a && attnLate 1 q r a)
      (badRun p (·.kvReads) fun q r _ k => namesLate q r k.list (readNames k))),
   (0x0701, badIn es (fun e => e.convs.flatMap (·.segs)) fun _ d => convBad d),
   (0x0702, badIn es (·.convs) fun _ l => chainBad l),
   (0x0703, badIn es (fun e => e.convs.flatMap (·.segs)) fun _ d => bufferBad d),
   (0x0704, orBad (badIn es (·.convs) fun _ l => stripesBad p l) (badRun p (·.convs) (unwritten own))),
   (0x0705, badIn es (·.rowReady) rowReadyBad),
   (0x0801, badIn es (·.movers) fun _ m => mxBad m),
   (0x0802, orBad (badIn es (·.movers) fun _ m => addBad m) (badIn es (·.accesses) fun _ a => nibAddBad p a)),
   (0x0803, badIn es (·.accesses) fun e a => pairBad e (fun a b => a.atomic && a.write && !b.atomic) a),
   (0x0901, orBad (badIn es (fun e => [e]) fun _ e => 64 < stepsOf e) (badIn es (·.colls) fun _ d => collBad d)),
   (0x0902, badIn es (·.colls) fun _ d => s.membersBad d),
   (0x0903, badIf (match s.grp.linkMap with | some m => linkMapBad m | none => false)),
   (0x0905, badIn es (·.colls) fun _ d => collFmtBad d),
   (0x0907, badIn es (·.colls) (srcWritten p own)),
   (0x0A01, badIf (match p.mirror with
      | some m => m.bank0.2 ≠ m.bank1.2 || (mirrorPageList p ++ imagePages m).any fun g => 73728 ≤ g || raw g || lend.contains g
      | none => false)),
   (0x0A02, badIf (match p.mirror with
      | some m => 16384 < (mirrorPageList p).length || !between 2 4096 m.delay
      | none => false)),
   (0x0A03, match p.mirror with
      | some m => badItem p.map fun r => someJob p r fun q => gapBad q m r || bankBad own m q r
      | none => none),
   (0x0A04, if p.mirror.isSome then acrossBad p own else none),
   (0x0B01, badItem p.streams ctxBad),
   (0x0B02, badIf (p.vcuGangs.any (fun g => !gangOk g.1 g.2)
      || !(p.vcuGangs.flatMap fun g => (List.range g.2).map fun i => g.1 + i).Nodup
      || (List.range 12).any fun q => 32 < (p.streams.filter fun c => c.lead ≤ q && q < c.lead + c.gang).length
      || p.streams.any fun c => c.gang ≠ 1 && !p.vcuGangs.contains (c.lead, c.gang))),
   (0x0B03, badIf (s.vcuPlacesBad p)),
   (0x0B04, badIf (p.vcuPool.2 < (p.streams.map fun c => c.bufs * framePages c).foldl (· + ·) 0)),
   (0x0B05, badRun p (·.encodes) fun q r _ x => encodeBad own q r x),
   (0x0B06, orBad (badItem p.streams fun c => c.decode && framesBad c)
      (badRun p (fun e => [e]) fun q r e _ => readsRingBad own q r e)),
   (0x0B07, badItem p.streams unitsBad)]

/-- The first rejection of a list of checks. -/
def firstBad : List (Nat × Bad) → Option (Nat × Nat × Nat)
  | [] => none
  | (code, some (item, entry)) :: _ => some (code, item, entry)
  | (_, none) :: rest => firstBad rest

/-- Write the outcome of a ruling: registers, and the log for a rejection (R298, R301, R454). -/
def State.ruled (s : State) (pset kind : Nat) (r : Option (Nat × Nat × Nat)) : State :=
  let reg : Rule := match r with
    | some (code, item, entry) => { code := BitVec.ofNat 16 code, pset := BitVec.ofNat 2 pset, kind := BitVec.ofNat 2 kind, result := 2,
                                    item := BitVec.ofNat 16 item, entry := BitVec.ofNat 16 entry }
    | none => { s.rule with pset := BitVec.ofNat 2 pset, kind := BitVec.ofNat 2 kind, result := 1 }
  let s := { s with rule := reg }
  match r with
  | some (code, item, entry) =>
    s.logEvent 0x0002 1 [w32 (code + pset % 4 * 2 ^ 16 + kind * 2 ^ 18 + 2 * 2 ^ 20), w32 (item % 65536 + entry % 65536 * 2 ^ 16)]
  | none => s

/-- Scroll ruling of the program sets of the running scroll (R298, R299). -/
def State.scrollRuling (s : State) (sets : List (Option ProgramSet)) : State :=
  (sets.zipIdx).foldl (fun s e =>
    match e.1 with
    | none => { s with psets := s.psets ++ [none] }
    | some p =>
      let r := firstBad (s.scrollChecks p)
      let s := s.ruled e.2 0 r
      { s with psets := s.psets ++ [some { set := p, code := match r with | some x => x.1 | none => 0 }] }) { s with psets := [] }

/-! ### Launch ruling -/

/-- First stroke of a job: 0, or the stroke after the resumed mirror point (R433). -/
def State.firstStroke (s : State) (d : JobDesc) : Nat :=
  if d.kind = 2 then
    match s.mir.snapshots.find? fun x => x.epoch = d.epoch with
    | some x => x.job.stroke + 1
    | none => 0
  else 0

/-- Entries that a job's strokes run. -/
def jobEntries (p : ProgramSet) (params : List Word) (first strokes : Nat) : List (StrokeEntry × Nat) :=
  (p.entries.zipIdx).filter fun e => (jobRanges p params).any fun r => r.entry = e.2 && r.first < strokes && first ≤ r.last

def insertRange (r : MapRange) : List MapRange → List MapRange
  | [] => [r]
  | q :: rest => if r.first ≤ q.first then r :: q :: rest else q :: insertRange r rest

/-- Some stroke of `n` up to `strokes` has no entry. -/
def uncovered (n strokes : Nat) : List MapRange → Bool
  | [] => n < strokes
  | r :: rest => if strokes ≤ n then false else if r.first ≤ n then uncovered (max n (r.last + 1)) strokes rest else true

def progPeriod (base f : Nat) : Nat := ceilDiv (base * f) 64

/-- Feed and result areas as buffers. -/
def feedBufs (d: JobDesc) : List Buffer :=
  ((d.feed.take d.feeds).map fun f => lineBuf f.first f.lines) ++ if d.result.lines = 0 then [] else [lineBuf d.result.first d.result.lines]

def paramsBad (d : JobDesc) : Bool :=
  3 < d.pset || !between 9 18 d.baseClock || !between 10000 50000000 d.basePeriod || !between 1 16 d.guard || !between 1 (2 ^ 40) d.strokes
    || d.chunk = 0 || 2 ^ 31 ≤ d.chunk || !between 1 255 d.stallMax || 41 < d.progShift || 4 < d.feeds
    || (d.kind = 1 && (d.epoch ≠ 0 || d.standin)) || (d.kind = 2 && !d.standin && d.pset ≠ 0) || (d.feed.take d.feeds).any (fun f => !between 1 (2 ^ 24) f.lines || f.due = 0) || 2 ^ 24 < d.result.lines

/-- Mirror strokes of a job. -/
def mirrorCount (marks : List Nat) (first strokes : Nat) : Nat := (marks.filter fun n => first ≤ n && n < strokes).length

/-- The module holds an image of a lost partner (R350). -/
def State.holding (s : State) : Bool := s.mir.st = .holding

/-- The job resumes the image that this module holds, by its committed epoch or that of the pending slot (R350). -/
def State.resumesImage (s : State) (d : JobDesc) : Bool :=
  d.kind = 2 && ((s.mir.image.any fun x => x.epoch = d.epoch) || s.mir.pend.any fun x => x.epoch = d.epoch)

/-- The resumed epoch is one that this member holds in the form the job names: on the stand-in the image's, else its own or the restored one (R353). -/
def State.resumable (s : State) (d : JobDesc) : Bool :=
  if d.standin && s.holding then
    (s.mir.image.any fun x => x.epoch = d.epoch) || (s.mir.pend.any fun x => x.epoch = d.epoch)
  else s.mir.ownEpoch.toNat = d.epoch || s.mir.restored = some d.epoch

/-- A stand-in's program set is one that the toolchain compiled for the group without some other members; on the stand-in the lost partner is one of them (R351). -/
def State.standInOk (s : State) (p : ProgramSet) : Bool :=
  !p.standIn.isEmpty && p.standIn.all (s.others.contains ·) && (!s.holding || match s.partner with | some q => p.standIn.contains q | none => false)

/-- The descriptor with the program set that the job runs: a restore, whose PSET is 0, runs the one of the job it resumes, as the job record names it (R340, R433). -/
def State.effective (s : State) (d : JobDesc) : JobDesc :=
  if d.kind = 2 && !d.standin then
    match s.mir.snapshots.find? fun x => x.epoch = d.epoch with
    | some x => { d with pset := x.job.launch.headD d.pset }
    | none => d
  else d

/-- A feed or result area lies outside T2's own line pages (R422). -/
def State.feedsBad (s : State) (d : JobDesc) : Bad :=
  badItem (feedBufs d) fun b => outside (fun i => (s.page i).kind = 1) b || isT3 b

def State.launchChecks (s : State) (d : JobDesc) : List (Nat × Bad) :=
  let raw := fun i => (s.page i).kind = 1
  let run := (s.effective d).pset
  let guardBad := badIf (!between 1 16 d.guard)
  match s.psets.getD run none with
  | none => [(0x0102, s.feedsBad d), (0x0202, guardBad), (0x0203, some (run, 0))]
  | some x =>
    let own := s.grp.rank.toNat
    let p := jobSet x.set d.params
    let first := s.firstStroke d
    let es := jobEntries x.set d.params first d.strokes
    let runs := fun (r : MapRange) => r.first < d.strokes && first ≤ r.last
    let members := match s.grp.linkMap with | some m => m.members.length | none => 1
    [(0x0102, orBad (s.feedsBad d) (orBad (badItem p.buffers fun b => wrongKind raw b.1) (badIn es (entryBuffers p own) fun _ b => wrongKind raw b))),
     (0x0201, badIn es (fun e => [e]) fun _ e => !between 10000 50000000 (progPeriod d.basePeriod e.factor)),
     (0x0202, orBad guardBad (badIn es (fun e => [e]) fun _ e => progPeriod d.basePeriod e.factor * d.guard / 64 < 3000)),
     (0x0203, badIf (paramsBad d || uncovered first d.strokes (p.map.foldl (fun acc r => insertRange r acc) []))),
     (0x0208, badIf (x.code ≠ 0)),
     (0x0607, badRun p (·.attention) fun q r _ a => runs r && usesChunk a && attnLate d.chunk q r a),
     (0x0804, badIn es (fun e => [e]) fun _ e => d.ordered && (addLogLines < e.addLines.1 || addLogLines < e.addLines.2)),
     (0x0904, badIn es (·.colls) fun _ c => d.stallMax ≤ c.tmo),
     (0x0906, badIf (1 < members && !s.grp.rankValid)),
     (0x0A04, if p.mirror.isSome then badRun p (·.attention) fun q r _ a => runs r && usesChunk a && kvAcross q r a.list (attnNames a d.chunk) else none),
     (0x0A05, badIf (p.mirror.isSome
        && 65535 < (if d.kind = 2 then d.epoch else 0) + mirrorCount (mirrorMarks p.map) first d.strokes)),
     (0x0A06, badIf (match p.mirror with | some m => m.image.2 * pageLines < s.mir.peerLines | none => false)),
     (0x0A07, badIf ((d.kind = 2 && !s.resumable d) || (d.kind = 2 && d.standin && !s.standInOk p) || (s.holding && !s.resumesImage d)))]

/-- Launch ruling of a job. -/
def State.launchRuling (s : State) (d : JobDesc) : Option (Nat × Nat × Nat) := firstBad (s.launchChecks d)

end Sys2Proof.Machine
end

