-- ==== Sys2Proof/Machine/Mirror.lean ====
section
/-! DEFINITION. Mirror partners (R337 to R354): the mirror set as lines, pushes and their chunks, the two phases of a mirror point, the loss of a
course, and restore. -/
namespace Sys2Proof.Machine

/-! ### The mirror set as a run of lines (R340, R345) -/

def regionLines (r : Nat) : Nat := min 4096 (pageLines - 4096 * r)

def snapLines : Nat := 58255
def recordLines : Nat := 57

/-- FIRST of the chunks that follow the last line `l` of a mirror set: the table snapshot, then the job record. -/
def tailFirsts (l : Nat) : List Nat := ((List.range 15).map fun k => l + 4096 * k) ++ [l + snapLines]

/-- Lines of the tail chunk at offset `k`. -/
def tailCount (k : Nat) : Nat := if k < snapLines then min 4096 (snapLines - k) else recordLines

/-- FIRST of the chunks of a whole mirror set of `l` lines, in their order. -/
def wholeFirsts (l : Nat) : List Nat :=
  ((List.range (l / pageLines)).flatMap fun i => (List.range 57).map fun r => i * pageLines + 4096 * r) ++ tailFirsts l

/-- The 128 bits of a KV block table entry (R184). -/
def kvBits (e : KvEntry) : Nat :=
  e.page.toNat + 2 ^ 17 * (e.line.toNat + 2 ^ 18 * (e.pool.toNat + 2 ^ 4 * (e.state.toNat + 2 ^ 3 * (e.fill.toNat + 2 ^ 9 * (e.refcnt.toNat
    + 2 ^ 16 * (e.leaseEnd.toNat + 2 ^ 16 * ((if e.leased then 1 else 0) + 2 * (e.tail.toNat + 2 ^ 12 * e.gen.toNat))))))))

/-- The entry that 128 bits hold. -/
def kvOfBits (x : Nat) : KvEntry :=
  { page := BitVec.ofNat 17 x, line := BitVec.ofNat 18 (x / 2 ^ 17), pool := BitVec.ofNat 4 (x / 2 ^ 35), state := BitVec.ofNat 3 (x / 2 ^ 39),
    fill := BitVec.ofNat 9 (x / 2 ^ 42), refcnt := BitVec.ofNat 16 (x / 2 ^ 51), leaseEnd := BitVec.ofNat 16 (x / 2 ^ 67),
    leased := x / 2 ^ 83 % 2 = 1, tail := BitVec.ofNat 12 (x / 2 ^ 84), gen := BitVec.ofNat 8 (x / 2 ^ 96) }

def kvEntries : Nat := 262144

/-- The 4 MiB of a table snapshot. -/
def tableBytes (t : Sparse KvEntry) : List Byte :=
  (List.range kvEntries).flatMap fun i => leBytes 16 (kvBits (sget (fun _ => KvEntry.reset) t i))

/-- The table that snapshot bytes hold. -/
def tableOfBytes (bs : List Byte) : Sparse KvEntry :=
  (List.range kvEntries).filterMap fun i =>
    let e := kvOfBits (leAt bs (16 * i) 16)
    if e = KvEntry.reset then none else some (i, e)

/-- `n` lines of 72 bytes. -/
def linesOf : Nat → List Byte → List Line
  | 0, _ => []
  | n + 1, bs => fitBytes 72 (bs.take 72) :: linesOf n (bs.drop 72)

/-- A rate request in one item: rank, clock, factor above 64, and stroke. -/
def rateItem (q : RateReq) : Nat := q.rank % 2 ^ 7 + 2 ^ 7 * (q.clock % 2 ^ 5 + 2 ^ 5 * ((q.factor - 64) % 2 ^ 12 + 2 ^ 12 * q.stroke))

def rateOfItem (x : Nat) : RateReq :=
  { rank := bitsOf x 0 7, clock := bitsOf x 7 5, factor := 64 + bitsOf x 12 12, stroke := x / 2 ^ 24 }

/-- A stream's state in four items: the context's key with its next FRAME and the frames since its last key frame; OFFSET; the carry with RESUMES; the position of the
latest random access point (R388). -/
def streamItems (q : Nat × List Nat) : List Nat :=
  let v := fun k => q.2.getD k 0
  [q.1 % 2 ^ 9 + 2 ^ 9 * (v 3 % 2 ^ 16 + 2 ^ 16 * v 0), v 1, v 4 % 2 ^ 8 + 2 ^ 8 * v 2, v 5]

def streamOfItems (l : List Nat) : Nat × List Nat :=
  let x := l.getD 0 0
  let y := l.getD 2 0
  (bitsOf x 0 9, [x / 2 ^ 25, l.getD 1 0, y / 2 ^ 8, bitsOf x 9 16, bitsOf y 0 8, l.getD 3 0])

/-- The items of a job record (R340, R388), lists led by their length. -/
def recItems (r : JobRec) : List Nat :=
  [r.epoch, r.stroke, r.launch.length] ++ r.launch ++ [r.rates.length] ++ r.rates.map rateItem ++ [r.streams.length] ++ r.streams.flatMap streamItems

/-- Stream states from items, four each. -/
def streamsOf : Nat → List Nat → List (Nat × List Nat)
  | 0, _ => []
  | n + 1, l => streamOfItems l :: streamsOf n (l.drop 4)

/-- The job record that items give. -/
def recOfItems (l : List Nat) : JobRec :=
  let k := l.getD 2 0
  let rs := l.drop (3 + k)
  let n := rs.getD 0 0
  let ss := rs.drop (1 + n)
  { epoch := l.getD 0 0, stroke := l.getD 1 0, launch := (l.drop 3).take k, rates := ((rs.drop 1).take n).map rateOfItem,
    streams := streamsOf (ss.getD 0 0) (ss.drop 1) }

/-- Bytes of a job record: the number of its items, then the items, eight bytes each, little-endian (R10; log entry 8). -/
def itemBytes (items : List Nat) : List Byte := leBytes 8 items.length ++ items.flatMap (leBytes 8)

/-- The items that such bytes hold. -/
def bytesItems (bs : List Byte) : List Nat := (List.range (min 512 (leAt bs 0 8))).map fun i => leAt bs (8 + 8 * i) 8

/-- Bytes of `n` lines of a received tail, from offset `a` past the mirror set's last line. -/
def tailBytes (t : Sparse Line) (a n : Nat) : List Byte := (List.range n).flatMap fun i => fitBytes 72 (sget (fun _ => zeroLine) t (a + i))

/-- The snapshot that a received tail holds. -/
def tailTable (t : Sparse Line) : Sparse KvEntry := tableOfBytes (tailBytes t 0 snapLines)
def tailRec (t : Sparse Line) : JobRec := recOfItems (bytesItems (tailBytes t snapLines recordLines))

/-- The lines of a tail chunk at offset `k` of a snapshot. -/
def snapTail (x : Snapshot) (k : Nat) : List Line :=
  if k < snapLines then ((linesOf snapLines (tableBytes x.table)).drop k).take (tailCount k)
  else linesOf recordLines (itemBytes (recItems x.job))

/-- The pages that hold the lines of a mirror chunk: this module's mirror set for a push, its image area for a restore. -/
def pagesFor (m : ProgramSet × MirrorSet) (step : Nat) : List Nat := if step = 0 then mirrorPageList m.1 else imagePages m.2

/-- The chunk at offset `first` of a push (`step` 0) or restore (1): its lines as read, and the state after the reads. -/
def State.mirrorPart (s : State) (step epoch first : Nat) : State × List Line :=
  match s.mirrorProg with
  | none => (s, [])
  | some m =>
    let len := if step = 0 then (mirrorPageList m.1).length * pageLines else s.mir.peerLines
    if first < len then
      let page := (pagesFor m step).getD (first / pageLines) 0
      let line := first % pageLines
      s.sourceLines { space := .line, at_ := lineAddr page line } 0 (regionLines (line / 4096))
    else if step = 0 then
      (s, match s.mir.snapshots.find? fun x => x.epoch = epoch with
        | some x => snapTail x (first - len)
        | none => [])
    else
      let slot := match s.mir.image with | some x => if x.epoch = epoch then some x else s.mir.pend | none => s.mir.pend
      (s, match slot with
        | some x => (List.range (tailCount (first - len))).map fun i => sget (fun _ => zeroLine) x.tail (first - len + i)
        | none => [])

/-- Send the chunk at offset `first`, the `k`-th of its push or restore (R338, R345). -/
def State.mirrorChunk (s : State) (step epoch k first : Nat) (resend : Bool) : State :=
  match s.partner with
  | none => s
  | some p =>
    let r := s.mirrorPart step epoch first
    let h : ChunkHdr := { op := 6, src := s.grp.rank.toNat, dst := p, stroke := s.strokeNum % 2 ^ 32, coll := epoch % 65536, step := step,
                          relayed := false, resend := resend, dhash := 0, lines := r.2.length, first := first }
    r.1.sendBundle k h r.2

/-- Send the chunks at some offsets, the first of them being the `k`-th. -/
def State.mirrorChunks (s : State) (step epoch k : Nat) : List Nat → State
  | [] => s
  | f :: rest => (s.mirrorChunk step epoch k f false).mirrorChunks step epoch (k + 1) rest

/-- A mirror chunk of this module is still queued, or sent and not acknowledged. -/
def State.mirrorSending (s : State) : Bool :=
  let mine := fun (c : Option ChunkHdr) => match c with | some h => h.op = 6 | none => false
  s.bundle.any fun l => (s.link l).vc2.any (fun e => mine e.chunk) || (s.link l).outgoing.any fun o => mine o.entry.chunk

/-! ### M_HELLO (R349) -/

/-- Send M_HELLO to the partner; courses form in OPERATIONAL only (R407), and a lost one forms again by a restore or a reset only (R339). -/
def State.hello (s : State) : State :=
  match s.partner with
  | none => s
  | some _ =>
    if s.upBundle.isEmpty || s.boot.life ≠ .operational || s.mir.gone then s
    else
      let n := match s.mirrorProg with
        | some m => ((mirrorPageList m.1).length * pageLines, m.2.image.2 * pageLines)
        | none => (0, 0)
      let s := if s.mir.st = .none then { s with mir := { s.mir with st := .forming } } else s
      s.sendPartner 0x40 [s.boot.count.toNat, n.1, n.2]

/-! ### Mirror points (R341, R345, R346) -/

/-- A mirror point lies at the boundary that ends stroke `n` of the running job (R341). -/
def State.pointDue (s : State) (n : Nat) : Bool := s.runMarks.contains n

/-- Members whose M_READY a mirror point needs: the group, for a stand-in without the ranks that its program set leaves out (R351). -/
def State.readyFrom (s : State) : List Nat :=
  let all := s.grp.rank.toNat :: s.others
  match s.strk.run, s.runSet with
  | some j, some p => if j.desc.standin then all.filter fun r => !p.standIn.contains r else all
  | _, _ => all

/-- Every M_READY of a mirror point is held. -/
def State.allReady (s : State) (e : Nat) : Bool := s.readyFrom.all fun r => s.mir.ready.contains (r, e, false)

/-- The pending slot of an epoch becomes the committed image (R346, R347, R352). -/
def State.promote (s : State) (e : Nat) : State :=
  match s.mir.pend with
  | some x => if x.epoch = e then { s with mir := { s.mir with image := some x, pend := none, imageEpoch := BitVec.ofNat 16 e } } else s
  | none => s

/-- Mirror point `e` commits on this member (R346). -/
def State.commitPoint (s : State) (e : Nat) : State :=
  let s := { s with mir := { s.mir with ownEpoch := BitVec.ofNat 16 e, restored := none } }
  let s := (s.releaseHeld e).modRun fun j => { j with commit := none }
  let s := if s.mir.gone then s else s.sendPartner 0x44 [e]
  match s.partner with
  | some p => if s.others.contains p then s.promote e else s
  | none => s

/-- ORIGIN of a release: the leaver, or none for this module (R431). -/
def State.endRelease (s : State) (detail : Nat) : State := s.finishJob 0x14 s.mir.leaver detail s.gtc.now.toNat

/-- A job whose strokes have stopped for a release commits as soon as every M_READY is held, and ends (R356 step 3). -/
def State.tryRelease (s : State) : State :=
  match s.strk.run with
  | some j => match j.commit with
    | some (e, _) => if j.stopped && s.allReady e then (s.commitPoint e).endRelease e else s
    | none => s
  | none => s

/-- M_READY of a member is known (R346, R348). -/
def State.gotReady (s : State) (rank e : Nat) (fail : Bool) : State :=
  match s.strk.run with
  | none => s
  | some j =>
    let origin := if rank = s.grp.rank.toNat then 0x7F else rank
    if fail then
      (if j.stopped then s.finishJob 0x13 origin e s.gtc.now.toNat
       else s.modRun fun j => { j with noCommit := true, collAbort := match j.collAbort with | some c => some c | none => some (0x13, e, origin) })
    else
      ({ s with mir := { s.mir with ready := if s.mir.ready.contains (rank, e, false) then s.mir.ready else s.mir.ready ++ [(rank, e, false)] } }).tryRelease

/-- Send M_READY to every member, this one included (R345 step 5). -/
def State.sendReady (s : State) (e : Nat) (fail : Bool) : State :=
  (s.sendAll 0x43 [e, if fail then 1 else 0]).gotReady s.grp.rank.toNat e fail

/-- A mirror point without a push: the member is ready at once; an unmirrored job says so (R349, R351). -/
def State.readyUnmirrored (s : State) (e : Nat) : State :=
  let flagged := match s.strk.run with | some j => j.unmirrored | none => false
  (if flagged then s.raiseMir 4 e else s).sendReady e false

/-- What the job record holds of a stream (R388). -/
def ctxItems (c : Ctx) : List Nat :=
  [c.next, c.offset, if c.carry < 0 then 2 * c.carry.natAbs + 1 else 2 * c.carry.natAbs, c.sinceKey, c.resumes, c.lastRap]

/-- The launch parameters of a job (R269). -/
def launchItems (d : JobDesc) : List Nat :=
  [d.pset, d.launch, d.strokes, d.basePeriod, d.guard, d.baseClock, d.stallMax, d.chunk, if d.ordered then 1 else 0]
    ++ d.params.map (·.toNat)

/-- The snapshot of mirror point `e` at the boundary that ends stroke `n` (R340). -/
def State.snapshotAt (s : State) (j : Job) (e n : Nat) : Snapshot :=
  { epoch := e, table := s.kvt.table,
    job := { epoch := e, stroke := n, launch := launchItems j.desc,
             rates := (s.grp.rank.toNat :: s.others).filterMap fun r => latestReq j.rates r (n + 1),
             streams := s.ctxs.filterMap fun c => c.2.bind fun (x : Ctx) => if x.isOpen then some (c.1, x.record) else none } }

/-- This member pushes at its mirror points: its course has formed and is not lost, and the job is not one in which this module stands in for its partner (R349, R351). -/
def State.pushes (s : State) (j : Job) (p : ProgramSet) : Bool :=
  s.mir.formed && match s.partner with
    | some q => !(j.desc.standin && p.standIn.contains q)
    | none => false

/-- Phase one begins at the boundary that ends stroke `n` (R345). -/
def State.mirrorPoint (s : State) (n : Nat) : State :=
  match s.strk.run, s.runSet with
  | some j, some p => match p.mirror with
    | none => s
    | some m =>
      let e := j.epoch + 1
      let keep := s.mir.snapshots.filter fun x => e < x.epoch + 3
      let s := { s with mir := { s.mir with snapshots := keep ++ [s.snapshotAt j e n] } }
      let s := s.modRun fun j => { j with epoch := e, commit := some (e, n + m.delay) }
      if !s.pushes j p then s.readyUnmirrored e
      else
        let pages := mirrorPageList p
        let firsts := (pages.zipIdx.flatMap fun g => (List.range 57).filterMap fun r =>
          if s.mir.dirty.contains (57 * g.1 + r) then some (g.2 * pageLines + 4096 * r) else none) ++ tailFirsts (pages.length * pageLines)
        let len := pages.length * pageLines
        let lines := (firsts.map fun f => if f < len then regionLines (f % pageLines / 4096) else tailCount (f - len)).foldl (· + ·) 0
        let s := { s with mir := { s.mir with
          dirty := [], pushlines := satAdd s.mir.pushlines lines,
          push := some { epoch := e, firsts := firsts, lines := lines, start := s.gtc.now.toNat, prepared := false, resent := [] } } }
        s.mirrorChunks 0 e 0 firsts
  | _, _ => s

/-- Every region of the mirror set is dirty (R341, R352). -/
def State.allDirty (s : State) : State :=
  match s.mirrorProg with
  | some m =>
    let pages := (mirrorPageList m.1).foldl (fun acc g => insertNat g acc) []
    { s with mir := { s.mir with dirty := pages.flatMap fun g => (List.range 57).map fun r => 57 * g + r } }
  | none => s

/-! ### The loss of a course (R339, R349, R350) -/

/-- The course is lost for a cause of GLB_MIR_LOSTCTX. -/
def State.loseCourse (s : State) (cause : Nat) : State :=
  match s.partner with
  | none => s
  | some p =>
    if s.mir.gone || s.mir.st = .none || s.mir.st = .released then s
    else
      let running := s.strk.run.isSome
      let st : MirSt := if s.mir.st = .leaving then .leaving else if running || cause = 3 then .holding else .lost
      let s := { s with mir := { s.mir with gone := true, formed := false, st := st, lostCause := BitVec.ofNat 4 cause } }.raiseMir 0 s.mir.ownEpoch.toNat
      if !running then s
      else
        let s := (s.logEvent 0x0032 2 [w32 cause, w32 p, s.mir.ownEpoch.setWidth 32 + s.mir.imageEpoch.setWidth 32 <<< 16]).raiseHost 1
        let s := s.modRun fun j => { j with courseLost := true }
        let inside := s.others.contains p
        if cause = 3 && inside then s
        else if inside then
          (s.failMember p (if cause = 2 then 4 else 3)).failJob 0x18 (if cause = 2 then 4 else 3)
        else
          let s := s.modRun fun j => { j with unmirrored := true }
          match s.mir.push with
          | some x => { s with mir := { s.mir with push := none } }.readyUnmirrored x.epoch
          | none => s

/-- BUNDLE_DOWN_TIMEOUT: every bundle link has been DOWN for 10 µs. -/
def execBundleDownTimeout (s : State) : Out State :=
  if s.live && s.upBundle.isEmpty && !s.bundle.isEmpty then .next (s.loseCourse 1) else .next s

/-! ### Records of the two phases -/

/-- What the partner's next push begins from: nothing received. -/
def State.clearReceived (s : State) : State :=
  { s with mir := { s.mir with recvChunks := 0, recvLines := 0, recvTail := [], recvBad := false, recvNak := [], recvGot := [], recvEpoch := none,
                               recvClosed := none } }

/-- M_HELLO received: another boot count than the one held loses the course (R339); outside OPERATIONAL it has no effect (R407). A partner sends it before the first
push of a job, so a push of the job before that is open no longer. -/
def execMHello (bootCount : Word) (setLines imageLines : Nat) (s : State) : Out State :=
  match s.partner with
  | none => .next s
  | some p => match s.takeRecord 0x40 p [bootCount.toNat, setLines, imageLines] with
    | none => .next s
    | some s =>
      if s.boot.life ≠ .operational then .next s
      else
        let changed := match s.mir.peerBoots with | some b => b != bootCount | none => false
        let s := { s with mir := { s.mir with peerBoots := some bootCount, peerLines := setLines, peerImage := imageLines } }.clearReceived
        let s := if changed then s.loseCourse 4 else s
        if !s.mir.gone && (s.mir.st = .none || s.mir.st = .forming) then
          .next { s.hello with mir := { s.hello.mir with st := .mirroring, formed := true } }
        else .next s

/-- MIRROR_PUSH_DONE: the last push chunk has been sent, and M_PREPARE follows (R345 step 3). -/
def execMirrorPushDone (s : State) : Out State :=
  match s.mir.push with
  | some x =>
    if s.live && !x.prepared && !s.mirrorSending && !s.upBundle.isEmpty then
      .next ({ s with mir := { s.mir with push := some { x with prepared := true } } }.sendPartner 0x41 [x.epoch, x.firsts.length, x.lines])
    else .next s
  | none => .next s

/-- Pushes of the partner are received: the course has formed, or the partner leaves and pushes its last mirror point (R350, R356). -/
def State.receiving (s : State) : Bool := s.mir.formed || (s.mir.gone && s.mir.lostCause = 3)

/-- M_PREPARE received: counts checked, the pending slot stored, M_ACCEPT sent (R345 step 4, R348). A chunk that was asked for again is
awaited first (log entry 38). While the course is lost, the image that is held stays as it is (R350). -/
def execMPrepare (epoch chunks lines : Nat) (s : State) : Out State :=
  match s.partner with
  | none => .next s
  | some p =>
    if !s.mir.recvNak.isEmpty then .next s
    else match s.takeRecord 0x41 p [epoch, chunks, lines] with
      | none => .next s
      | some s =>
        if !s.receiving then .next s
        else
          let area := match s.mirrorProg with | some m => m.2.image.2 * pageLines | none => 0
          let ok := !s.mir.recvBad && s.mir.recvEpoch = some (epoch % 65536) && s.mir.recvChunks = chunks && s.mir.recvLines = lines && s.mir.peerLines ≤ area
          let slot : ImageSlot := { epoch := epoch, tail := s.mir.recvTail }
          let s := s.clearReceived
          let s := { s with mir := { s.mir with recvClosed := some (epoch % 65536), pend := if ok then some slot else s.mir.pend } }
          if ok then .next (s.sendPartner 0x42 [epoch, 0]) else .next ((s.raiseMir 1 epoch).sendPartner 0x42 [epoch, 1])

/-- M_ACCEPT received: phase one ends, and M_READY goes to every member (R345 step 5, R348). -/
def execMAccept (epoch : Nat) (fail : Bool) (s : State) : Out State :=
  match s.partner with
  | none => .next s
  | some p => match s.takeRecord 0x42 p [epoch, if fail then 1 else 0] with
    | none => .next s
    | some s => match s.mir.push with
      | some x =>
        if x.epoch = epoch then
          let us := min ((s.gtc.now.toNat - x.start) / 1000) 0xFFFFFF
          .next ({ s with mir := { s.mir with push := none, pushtime := BitVec.ofNat 24 us } }.sendReady epoch fail)
        else .next s
      | none => .next s

/-- M_READY received. -/
def execMReady (sender epoch : Nat) (fail : Bool) (s : State) : Out State :=
  match s.takeRecord 0x43 sender [epoch, if fail then 1 else 0] with
  | none => .next s
  | some s => .next (s.gotReady sender epoch fail)

/-- M_COMMIT received: the pending slot is committed (R346). -/
def execMCommit (epoch : Nat) (s : State) : Out State :=
  match s.partner with
  | none => .next s
  | some p => match s.takeRecord 0x44 p [epoch] with
    | none => .next s
    | some s => .next (s.promote epoch)

/-! ### Mirror chunks received (R323, R345, R352) -/

/-- Write received lines to the pages of a list, from offset `first` of their run; lines past its end are not kept. -/
def State.mirrorWrite (s : State) (pages : List Nat) (first : Nat) : List Line → State
  | [] => s
  | l :: rest =>
    let s := match pages[first / pageLines]? with
      | some g => s.t2Write (lineAddr g (first % pageLines)) l .host
      | none => s
    s.mirrorWrite pages (first + 1) rest

/-- Lines beyond the mirror set's last one, by their offset past it. -/
def putTail (k : Nat) (m : Sparse Line) : List Line → Sparse Line
  | [] => m
  | l :: rest => putTail (k + 1) (sset (fun _ => zeroLine) m k l) rest

/-- Complete the RESTORE command that the scribe holds (R352, R456, R457). -/
def State.answerRestore (s : State) (status : Nat) : State :=
  s.answerWait 0x41 (fun _ => true) (match status with | 0 => 0 | 1 => 8 | _ => 2) [w32 status]

/-- The restore stops without success: the state before it comes back (R352). -/
def State.stopRestore (s : State) (status : Nat) : State :=
  { s with mir := { s.mir with restoreEpoch := none, st := s.mir.prior } }.clearReceived.answerRestore status

/-- A chunk belongs to an open exchange: the restore, or the push under way, which its first chunk opens (R323). -/
def State.mirrorOpen (s : State) (h : ChunkHdr) : Bool :=
  if h.step = 0 then
    s.receiving && s.mir.st ≠ .restoring && match s.mir.recvEpoch with
      | some e => e = h.coll
      | none => s.mir.recvClosed ≠ some h.coll
  else s.mir.restoreEpoch.any fun e => e % 65536 = h.coll

/-- A chunk that failed its CRC: asked for once, and after that the push cannot be accepted, or the restore stops (R345, R348, R352). -/
def State.mirrorFailed (s : State) (h : ChunkHdr) : State :=
  if !h.resend then { s with mir := { s.mir with recvNak := s.mir.recvNak ++ [h.first] } }.sendPartner 0x24 [h.stroke, h.coll, h.step, h.first]
  else if h.step = 0 then { s with mir := { s.mir with recvBad := true, recvNak := s.mir.recvNak.erase h.first } }
  else (s.sendPartner 0x47 [s.mir.restoreEpoch.getD 0, 2]).stopRestore 2

/-- A mirror chunk that arrived whole from the partner. A chunk that comes a second time, resent whole from a link that went DOWN (R312), counts once. -/
def State.mirrorArrive (s : State) (c : Chunk) : State :=
  let h := c.hdr
  let stale := { s with coll := { s.coll with stale := satAdd s.coll.stale 1 } }
  if s.partner ≠ some h.src || !s.mirrorOpen h then stale
  else
    let s := if h.step = 0 then { s with mir := { s.mir with recvEpoch := some h.coll } } else s
    match s.mirrorProg with
    | none => if h.step = 0 then { s with mir := { s.mir with recvBad := true } } else stale
    | some m =>
      if chunkCrc c.lines ≠ c.crc then s.mirrorFailed h
      else if s.mir.recvGot.contains h.first then s
      else
        let s := { s with mir := { s.mir with recvChunks := s.mir.recvChunks + 1, recvLines := s.mir.recvLines + c.lines.length,
                                              recvNak := s.mir.recvNak.erase h.first, recvGot := s.mir.recvGot ++ [h.first] } }
        let len := if h.step = 0 then s.mir.peerLines else (mirrorPageList m.1).length * pageLines
        if h.first < len then s.mirrorWrite (if h.step = 0 then imagePages m.2 else mirrorPageList m.1) h.first c.lines
        else { s with mir := { s.mir with recvTail := putTail (h.first - len) s.mir.recvTail c.lines } }

/-- A CHUNK_NAK for a mirror chunk: it is sent once more on the link of its position (R345, R352). -/
def State.mirrorResend (s : State) (step first : Nat) : State :=
  let counted := fun (s : State) => { s with coll := { s.coll with resends := satAdd s.coll.resends 1 } }
  if step = 0 then
    match s.mir.push with
    | some x =>
      if x.firsts.contains first && !x.resent.contains first then
        counted (({ s with mir := { s.mir with push := some { x with resent := x.resent ++ [first] } } }).mirrorChunk 0 x.epoch
          (x.firsts.idxOf first) first true)
      else s
    | none => s
  else
    match s.mir.serving with
    | some x =>
      let firsts := wholeFirsts s.mir.peerLines
      if x.resent.contains first || !firsts.contains first then s
      else counted (({ s with mir := { s.mir with serving := some { x with resent := x.resent ++ [first] } } }).mirrorChunk 1 x.epoch (firsts.idxOf first) first true)
    | none => s

/-! ### Restore (R352) -/

/-- M_RESTORE_REQ received: NO_EPOCH, or the image goes back in chunks. -/
def execMRestoreReq (epoch : Nat) (s : State) : Out State :=
  match s.partner with
  | none => .next s
  | some p => match s.takeRecord 0x46 p [epoch] with
    | none => .next s
    | some s =>
      let has := fun (x : Option ImageSlot) => match x with | some y => y.epoch = epoch | none => false
      if has s.mir.image || has s.mir.pend then
        .next ({ s with mir := { s.mir with serving := some { epoch := epoch, resent := [], sent := false } } }.mirrorChunks 1 epoch 0 (wholeFirsts s.mir.peerLines))
      else .next (s.sendPartner 0x47 [epoch, 1])

/-- IMAGE_RETURN_DONE: the image has been returned; its slot is committed, and the course forms again with the whole mirror set dirty. A chunk that fails at the module
being restored can still be asked for again. -/
def execImageReturnDone (s : State) : Out State :=
  match s.mir.serving with
  | some x =>
    if s.live && !x.sent && !s.mirrorSending && !s.upBundle.isEmpty then
      let s := s.promote x.epoch
      let s := { s with mir := { s.mir with serving := some { x with sent := true }, gone := false, formed := true, st := .mirroring } }.clearReceived
      .next (s.allDirty.sendPartner 0x47 [x.epoch, 0])
    else .next s
  | none => .next s

/-- The partner could not be restored: its image stays, and the course does not form again (R352). -/
def State.restoreFailed (s : State) : State :=
  { s with mir := { s.mir with serving := none, gone := true, formed := false, st := if s.mir.st = .mirroring then .holding else s.mir.st } }

/-- M_RESTORE_DONE received. At the module being restored the snapshot becomes its KV block table; at the partner a FAIL ends the return. -/
def execMRestoreDone (epoch status : Nat) (s : State) : Out State :=
  match s.partner with
  | none => .next s
  | some p =>
    if !s.mir.recvNak.isEmpty && s.mir.restoreEpoch.isSome then .next s
    else match s.takeRecord 0x47 p [epoch, status] with
      | none => .next s
      | some s => match s.mir.restoreEpoch with
        | some e =>
          if e ≠ epoch then .next s
          else if status ≠ 0 then .next (s.stopRestore status)
          else
            let snap : Snapshot := { epoch := e, table := tailTable s.mir.recvTail, job := tailRec s.mir.recvTail }
            let s := { s with
              kvt := { s.kvt with table := snap.table, pending := [], held := [] },
              mir := { s.mir with
                snapshots := (s.mir.snapshots.filter fun (x : Snapshot) => x.epoch ≠ e) ++ [snap], ownEpoch := BitVec.ofNat 16 e, restored := some e,
                restoreEpoch := none, gone := false, formed := true, st := .mirroring } }.clearReceived
            .next ((s.raiseMir 3 e).answerRestore 0)
        | none => .next (if status = 2 then s.restoreFailed else s)

end Sys2Proof.Machine
end

