-- ==== Sys2Proof/Machine/Release.lean ====
section
/-! DEFINITION. Orderly release (R355, R356, R436, R495, R502), and the loan messages that end loans (R249 to R251). -/
namespace Sys2Proof.Machine

/-! ### The end of loans at the lender -/

/-- A borrower has given entries up: RELEASED or RETURN. -/
def State.givenBack (s : State) (borrower : Nat) (t3 : List Nat) : State := (s.takeBack (s.loansOf borrower t3)).releaseNext

/-- A read of a page lent to the sender stands before its RELEASED among the records received. -/
def State.readFirst (s : State) (sender : Nat) (t3 : List Nat) : Bool :=
  (s.inbox.takeWhile fun r => !(r.kind = 0x35 && r.sender = sender)).any fun r =>
    r.kind = 0x37 && r.sender = sender && (s.loansOf sender t3).any fun g => g.page = leAt r.body 0 4

/-- RELEASED received, once every loaned read that came before it is answered (R250). -/
def execReleased (sender : Nat) (t3 : List Nat) (s : State) : Out State :=
  if s.readFirst sender t3 then .next s
  else match s.takeList 0x35 sender 0 (recordsFor t3.length) (t3.map fun i => [i]) with
  | none => .next s
  | some s => .next (s.givenBack sender t3)

/-- RETURN received (R248, R251): of pages that this module lent, or, from a first item 1, of home pages that the sender's T3 indices name no longer (log
entry 90). -/
def execReturn (sender : Nat) (t3 : List Nat) (s : State) : Out State :=
  match s.takeList 0x36 sender 0 (recordsFor t3.length) (t3.map fun i => [i]) with
  | some s => .next (s.givenBack sender t3)
  | none =>
    match s.takeList 0x36 sender 1 (recordsFor t3.length) (t3.map fun i => [i]) with
    | some s => .next (s.dropPins sender t3)
    | none => .next s

/-- No RELEASED within 100 ms of a RECALL: the lender takes the recalled pages back (R250). -/
def execRecallTimeout (borrower : Nat) (s : State) : Out State :=
  if !s.live then .next s
  else .next (s.takeBack (s.loan.granted.filter fun g => g.peer = borrower && g.recalled)).releaseNext

/-! ### The release sequence -/

/-- The stroke that LEAVING names in stroke `n` of a job (R356 step 1 and its cases). -/
def leavingStroke (mirrored : Bool) (marks : List Nat) (n strokes : Nat) : Nat :=
  if mirrored then ((marks.find? fun c => n + 2 ≤ c && c < strokes - 1).getD (strokes - 1)) else n + 2

/-- A member will leave at the end of stroke `m`; the earliest such stroke counts. -/
def State.noteLeaving (s : State) (leaver m : Nat) : State :=
  match s.strk.run with
  | none => s
  | some _ => match s.mir.leaving with
    | some k => if m < k then { s with mir := { s.mir with leaving := some m, leaver := leaver } } else s
    | none => { s with mir := { s.mir with leaving := some m, leaver := leaver } }

/-- The sequence of R356 begins; a second request adds nothing. A main domain without power has nothing to release: step 6 is next. -/
def State.beginRelease (s : State) : State :=
  if s.mir.releaseStep ≠ 0 then s
  else if !s.live then { s with mir := { s.mir with releaseStep := 6 } }
  else
    let s := s.raiseMir 2 s.mir.ownEpoch.toNat
    let s := { s with mir := { s.mir with st := .leaving } }
    match s.strk.run with
    | none => s.releaseLoans
    | some j =>
      let s := { s with mir := { s.mir with releaseStep := 1 } }
      if j.stopped then s
      else
        let m := leavingStroke (s.runSet.bind (·.mirror)).isSome s.runMarks j.stroke j.desc.strokes
        let s := s.sendAll 0x45 [m]
        let s := match s.partner with
          | some p => if s.others.contains p then s else s.sendPartner 0x45 [m]
          | none => s
        s.noteLeaving 0x7F m

/-- LEAVING received (R339, R356). -/
def execLeaving (sender m : Nat) (s : State) : Out State :=
  match s.takeRecord 0x45 sender [m] with
  | none => .next s
  | some s =>
    let s := s.noteLeaving sender m
    .next (if s.partner = some sender then s.loseCourse 3 else s)

/-- REL_RDY_N is asserted, then every rail goes off and the switch opens (R495, R502). -/
def State.assertReady (s : State) : State :=
  { s with
    pins := { s.pins with relRdy := true, vcbl := 0 },
    power := { s.power with vio := false, vlane := false, vwell := false, vcore := false, vstk := false, vddq := false, switchClosed := false,
                            rampDone := false, good := false, standby := s.power.scribe } }

/-- RELEASE_REQUEST: the second low sample of REL_REQ_N. In standby or in RETIRED REL_RDY_N follows at once (R502). -/
def execReleaseRequest (s : State) : Out State :=
  if !s.power.scribe || s.pins.relReq then .next s
  else
    let s := { s with pins := { s.pins with relReq := true } }
    if s.power.standby || s.boot.life = .retired then .next s.assertReady else .next s.beginRelease

/-- RELEASE_READY: the last log entry is in flash and the sequence is complete (R356 steps 6 and 7). -/
def execReleaseReady (s : State) : Out State :=
  if s.mir.releaseStep = 6 && s.scr.logQueue.isEmpty && s.power.scribe then
    let s := { s with mir := { s.mir with releaseStep := 7, st := .released } }
    .next (s.answerWait 0x40 (fun _ => true) 0 []).assertReady
  else .next s

/-! ### PCIe quiescence (R436) -/

/-- QUIESCE_ACK: the host writes 1 to GLB_HOST_CTRL.QUIESCE_ACK. -/
def execQuiesceAck (s : State) : Out State :=
  if s.live && s.host.quiesceReq && !s.host.quiesced then .next { s with host := { s.host with quiesceAck := true } } else .next s

/-- QUIESCE_COMPLETE: 100 µs after the acknowledgement, or 1 s after the request. -/
def execQuiesceComplete (s : State) : Out State :=
  if s.live && s.host.quiesceReq && !s.host.quiesced then
    .next { s with host := { s.host with quiesced := true },
                   mir := { s.mir with releaseStep := if s.mir.releaseStep = 5 then 6 else s.mir.releaseStep } }
  else .next s

end Sys2Proof.Machine
end

