-- ==== Sys2Proof/Machine/Launch.lean ====
section
/-! DEFINITION. How a job begins: rate requests (R291, R292, R448, R449), the beginning of a stroke (R271, R273), the job descriptor (R422), its fetch
(R420, R421, R423) and its launch (R269, R271, R433). -/
namespace Sys2Proof.Machine

/-! ### Time (log entry 18) -/

/-- A command that stands for the instant `t` of the GTC finds the GTC at `t` or later. -/
def State.reach (s : State) (t : Nat) : State :=
  { s with gtc := { s.gtc with now := BitVec.ofNat 64 (max s.gtc.now.toNat t) } }

/-! ### Rates -/

/-- Clock and factor of a rung below a top clock (R448). -/
def rungRate (top rung : Nat) : Nat × Nat :=
  if rung ≤ top - 9 then (top - rung, 64) else (9, min 128 (64 + 16 * (rung - (top - 9))))

/-- Number of the lowest rung. -/
def lowestRung (top : Nat) : Nat := top - 9 + 4

/-- The top clock: the running job's BASE_CLOCK, 1.8 GHz without a job. -/
def State.topClock (s : State) : Nat := match s.strk.run with | some j => j.desc.baseClock | none => 18

/-- The member's request: the ladder's rung and the host's request together (R449). -/
def State.combinedRate (s : State) : Nat × Nat :=
  let top := s.topClock
  let r := rungRate top (min s.scr.throttle.rung (lowestRung top))
  match s.scr.throttle.hostReq with
  | some h => (min r.1 (min h.1 top), max r.2 h.2)
  | none => r

/-- f(n) and μ(n) over the members (R292). -/
def rateAt (j : Job) (ranks : List Nat) (n : Nat) : Nat × Nat :=
  ranks.foldl (fun a r => match latestReq j.rates r n with
    | some q => (min a.1 q.clock, max a.2 q.factor)
    | none => (min a.1 j.desc.baseClock, max a.2 64)) (j.desc.baseClock, 64)

/-- P(n) (R292). -/
def periodOf (basePeriod entryFactor baseClock clock factor : Nat) : Nat :=
  min (ceilDiv (progPeriod basePeriod entryFactor * baseClock * factor) (clock * 64)) 50000000

/-- U(n) (R271). -/
def guardOf (period guard : Nat) : Nat := period * guard / 64

/-- A request is known; the later message for the same stroke stands (R291). -/
def addRate (rs : List RateReq) (q : RateReq) : List RateReq :=
  (rs.filter fun r => !(r.rank = q.rank && r.stroke = q.stroke)) ++ [q]

/-- Send RATE for the earliest stroke that R291 allows. -/
def State.sendRate (s : State) (clock factor : Nat) : State :=
  let c := s.strokeNum + 2
  (s.sendAll 0x21 [c, clock, factor]).modRun fun j =>
    { j with rates := addRate j.rates { rank := s.grp.rank.toNat, stroke := c, clock := clock, factor := factor } }

/-- The member's request has changed from `old`: RATE while a job runs, else the clock at once; the entry, whose
stroke has 64 bits, and SCR_ALERT.THROTTLE on a step down. -/
def State.changeRate (s : State) (old : Nat × Nat) (oldRung : Nat) (down : Bool) : State :=
  let new := s.combinedRate
  let c := if s.strk.run.isSome then s.strokeNum + 2 else 0
  let s := if new = old then s
    else if s.strk.run.isSome then s.sendRate new.1 new.2
    else { s with strk := { s.strk with clock := BitVec.ofNat 5 new.1 } }
  let s := s.mapTele fun t => { t with steps := t.steps + 1 }
  let s := s.logEvent 0x0021 1 [w32 oldRung, w32 s.scr.throttle.rung, s.scr.throttle.cause.setWidth 32, w32 c, w32 (c / 2 ^ 32)]
  if down then s.raiseAlert 1 else s

def State.setThrottle (s : State) (t : Throttle) : State := { s with scr := { s.scr with throttle := t } }

/-! ### The beginning of a stroke -/

/-- Every quill takes the modes of a stroke entry (R81, R97). -/
def State.setQuills (s : State) (e : StrokeEntry) : State :=
  ((List.range 512).filter s.quillPresent).foldl (fun s q => s.modQuill q fun x =>
    let conv := e.conv.find? fun c => c.1 = q
    { x with gang := BitVec.ofNat 2 (modeOf e q), convEn := conv.isSome, convGang := BitVec.ofNat 3 ((conv.map (·.2)).getD 0),
             active := e.active.contains q, attempt := [], lineBuf := [], window := [], halo := none, convLast := none, convBusy := false,
             hwaitNow := false }) s

/-- DESIGN CHOICE (log entry 99): the nibs' slot registers, of whose contents at reset and at a stroke's start the spec says nothing, start a stroke empty. -/
def State.clearSlots (s : State) : State := s.nibs.foldl (fun s e => s.modNib e.1 fun x => { x with slots := [] }) s

/-- Both dies' blotters and spill counters take the values of their registers (R126, R128, R467). -/
def State.setBlotters (s : State) : State :=
  (List.range 2).foldl (fun s d => s.modWell d fun w =>
    { w with nowK := w.blotK, nowEn := w.blotEn, nowAct := w.blotAct, nowRel := w.blotRel, nowAbs := w.blotAbs, thrNow := w.fspthr }) s

/-- Chunks that waited for the stroke which now runs are received; their slots are delivered (R311, R323). -/
def State.takeEarly (s : State) : State :=
  let es := s.coll.early
  let s := { s with coll := { s.coll with early := [] } }
  (es.foldl (fun s e => s.chunkArrive e.link e.vc e.held e.chunk) s).drainAll

/-- Stroke `n` of the running job begins at GTC `start` (R271, R273 steps 1, 2 and 6). -/
def State.enterStroke (s : State) (n start : Nat) : State :=
  match s.strk.run, s.runSet with
  | some j, some p => match entryAt p j.desc.params n with
    | none => s
    | some e =>
      let r := rateAt j (s.grp.rank.toNat :: s.others) n
      let s := if n ≠ j.first && (r.1 ≠ j.clock || r.2 ≠ j.factor) then s.raiseStrk 3 else s
      let void := j.isVoid || r.1 ≠ j.desc.baseClock || r.2 ≠ 64
      let j := { j with
        stroke := n, start := start, period := periodOf j.desc.basePeriod e.factor j.desc.baseClock r.1 r.2, clock := r.1, factor := r.2,
        ext := 0, lead := none, stalls := j.stalls.filter fun (x : StallMsg) => x.stroke ≥ n, written := [], poisoned := [], isVoid := void }
      let s := { s with strk := { s.strk with run := some j, clock := BitVec.ofNat 5 r.1, isVoid := void } }
      let s := ((s.setQuills e).clearSlots.setCounters j.desc.ordered e.counters).setBlotters
      let s := { s with coll := { s.coll with steps := openSteps e.colls, pinned := (List.range linkCount).filter s.linkUp, lost := [] } }
      s.takeEarly
  | _, _ => s

/-! ### The job descriptor (R422, R423) -/

def feedAt (b : List Byte) (at_ : Nat) : FeedArea := { first := leAt b at_ 8, lines := leAt b (at_ + 8) 4, due := leAt b (at_ + 12) 4 }

/-- The fields of 256 descriptor bytes. -/
def readDesc (b : List Byte) : JobDesc :=
  { kind := byteAt b 0, ordered := byteAt b 1 % 2 = 1, standin := byteAt b 1 / 2 % 2 = 1, notify := byteAt b 1 / 4 % 2 = 1, pset := byteAt b 2,
    baseClock := byteAt b 3, guard := byteAt b 4, stallMax := byteAt b 5, progShift := byteAt b 6, feeds := byteAt b 7, jobId := leAt b 8 8,
    launch := leAt b 16 8, strokes := leAt b 24 8, basePeriod := leAt b 32 4, chunk := leAt b 36 4, groupTag := leAt b 40 4, epoch := leAt b 44 2,
    params := (List.range 16).map fun i => w32 (leAt b (48 + 4 * i) 4), feed := (List.range 4).map fun i => feedAt b (112 + 16 * i),
    result := feedAt b 176 }

/-- Byte offset of the first field that makes a descriptor BAD_DESC: KIND, reserved bits, and the reserved bits and DUE of areas. -/
def badByte (b : List Byte) : Option Nat :=
  let areas : List (Nat × Bool) := (List.range 5).flatMap fun i =>
    [(112 + 16 * i, decide (leAt b (112 + 16 * i) 8 < 2 ^ 35))] ++ if i = 4 then [(188, decide (leAt b 188 4 = 0))] else []
  let checks : List (Nat × Bool) :=
    [(0, byteAt b 0 = 1 || byteAt b 0 = 2), (1, byteAt b 1 < 8), (46, byteAt b 46 = 0), (47, byteAt b 47 = 0)] ++ areas
      ++ (List.range 64).map fun i => (192 + i, decide (byteAt b (192 + i) = 0))
  (checks.find? fun c => !c.2).map (·.1)

/-- The lifecycle state admits the job (R407). -/
def State.lifeAllows (s : State) (d : JobDesc) : Bool :=
  match s.boot.life with
  | .operational => true
  | .diagnostic => match s.psets.getD d.pset none with
    | some x => x.set.diag
    | none => false
  | _ => false

def lifeNum (l : Life) : Nat :=
  match l with | .blank => 0 | .provisioned => 1 | .operational => 2 | .diagnostic => 3 | .retired => 4

/-- GROUP_TAG of the link map, 0 without one. -/
def State.groupTag (s : State) : Nat := match s.grp.linkMap with | some m => m.groupTag.toNat | none => 0

/-- A job as it is queued. -/
def newJob (ring : Nat) (d : JobDesc) : Job :=
  { ring := ring, desc := d, first := 0, stroke := 0, start := 0, period := 0, clock := d.baseClock, factor := 64, ext := 0, lead := none, stalls := [],
    rates := [], ends := [], failure := none, collAbort := none, noCommit := false, written := [], poisoned := [], stretches := 0,
    overrun := false, isVoid := false, fence := false, unmirrored := false, courseLost := false, epoch := 0, commit := none, resumes := 0,
    refs := [], stopped := false }

/-- The descriptor is refused with a status and DETAIL, or queued; the rulings' registers and log entries are written on the way. -/
def State.takeJob (s : State) (ring : Nat) (b : List Byte) (rulingNs : Nat) : State :=
  let d := readDesc b
  let refuse := fun (s : State) status detail => s.complete (s.refusal ring d status detail)
  match badByte b with
  | some o => refuse s 0x01 o
  | none =>
    let run := s.effective d
    if d.groupTag ≠ s.groupTag then refuse s 0x07 s.groupTag
    else if !s.lifeAllows run then refuse s 0x06 (lifeNum s.boot.life)
    else
      let r := s.launchRuling d
      let s := (s.reach (s.gtc.now.toNat + rulingNs)).ruled run.pset 1 r
      match r with
      | some (code, _, _) => refuse s 0x02 code
      | none =>
        if !s.gtc.locked then refuse s 0x03 0
        else if d.launch < s.gtc.now.toNat + 100000 then refuse s 0x04 (s.gtc.now.toNat % 2 ^ 32)
        else { s with strk := { s.strk with queued := some (newJob ring run) } }

/-! ### Fetch (R420, R421) -/

/-- Records that a ring's queue must still take: those of its queued and running jobs. -/
def State.reserved (s : State) (r : Nat) : Nat :=
  (match s.strk.queued with | some j => if j.ring = r then 1 else 0 | none => 0)
    + (match s.strk.run with | some j => if j.ring = r then 1 else 0 | none => 0)

/-- A ring has a descriptor to fetch, and its completion queue a free entry to reserve. -/
def State.fetchable (s : State) (r : Nat) : Bool :=
  let x := s.ring r
  let n := ringSize x
  x.en && x.head ≠ x.tail && (x.cqtail.toNat + n - x.cqhead.toNat) % n + s.reserved r + 1 < n

/-- The next ring to serve, round-robin after the one served last. -/
def State.nextRing (s : State) : Option Nat :=
  ((List.range 64).map fun k => (s.host.lastRing + 1 + k) % 64).find? s.fetchable

/-- JOB_FETCH: `descriptor` holds the 256 bytes that the host's memory returned, or none for an error completion; `rulingNs` is what the
launch ruling took. -/
def execJobFetch (descriptor : Option (List Byte)) (rulingNs : Nat) (s : State) : Out State :=
  if !s.live || !s.ready || s.host.quiesceReq || s.strk.queued.isSome then .next s
  else match s.nextRing with
    | none => .next s
    | some r =>
      let s := { s with host := { s.host with lastRing := r } }
      match descriptor with
      | none => .next ((s.modRing r fun x => { x with en := false }).raiseRing r 1)
      | some b =>
        let x := s.ring r
        .next ((s.setRing r { x with head := BitVec.ofNat 12 ((x.head.toNat + 1) % ringSize x) }).takeJob r (fitBytes 256 b) rulingNs)

/-! ### Launch -/

/-- Table images go to the nibs of the quills that own each stage (R145). -/
def State.loadImages (s : State) (p : ProgramSet) : State :=
  p.stages.foldl (fun s st => st.quills.foldl (fun s q => (List.range 8).foldl (fun s k =>
    s.modNib (8 * q + k) fun x => { x with image := st.image }) s) s) s

/-- A blotter setting within its range (R128). -/
def clamp (lo hi x : Nat) : Nat := max lo (min hi x)

/-- Blotter settings and spill thresholds of a program set (R120, R128, R467). DESIGN CHOICE (log entry 91), where R128 is silent: WELL_FSPTHRn of a layer for
which the set gives no threshold keeps its value. -/
def State.loadWells (s : State) (p : ProgramSet) : State :=
  (List.range 2).foldl (fun s d => s.modWell d fun w =>
    { w with blotK := BitVec.ofNat 5 (clamp 8 20 p.blotter.k), blotAct := p.blotter.action,
             blotRel := BitVec.ofNat 5 (clamp 8 20 p.blotter.rel), blotAbs := BitVec.ofNat 8 (min 149 p.blotter.abs),
             fspthr := p.thresholds.foldl (fun m t => sset (fun _ => 0xFFFFFFFF#32) m t.1 t.2) w.fspthr }) s

/-- Gangs of the pipes (R362, R391). -/
def State.loadPipes (s : State) (p : ProgramSet) : State :=
  (List.range 12).foldl (fun s k => s.modPipe k fun x =>
    let g := (p.vcuGangs.find? fun g => g.1 ≤ k && k < g.1 + g.2).getD (k, 1)
    { x with gang := if g.2 = 4 then 2 else if g.2 = 2 then 1 else 0, lead := BitVec.ofNat 4 g.1, frame := none, last := none,
             switching := false, bandSb := 0, windows := [] }) s

/-- Encode requests that strokes before `first` make for stream `k` (R374). -/
def requestsBefore (p : ProgramSet) (params : List Word) (k first : Nat) : List EncReq :=
  (List.range first).flatMap fun n => match entryAt p params n with
    | none => []
    | some e => (e.encodes.filter fun q => q.1 = k).map fun q => { slot := q.2.1, release := n + q.2.2, stroke := n }

/-- A context at launch, its frame buffers from page `buf` on; `st` is its state in the job record of a resumption (R388, R427), `drops` the counter kept. DESIGN
CHOICE (log entry 110): a resumption's context that no job record holds begins at frame 0 with RESUMES 1. -/
def newCtx (c : StreamCtx) (buf : Nat) (drops : Word) (resume : Bool) (epoch : Nat) (st : Option (List Nat)) (asked : List EncReq) : Ctx :=
  let l := st.getD []
  let k := l.getD 2 0
  let x : Ctx :=
    { decl := c, firstBuf := buf, pics := [], record := [], isOpen := true, hostpos := w32 (l.getD 1 0), descrd := 0, vcupos := w32 (l.getD 1 0),
      descwr := 0, drops := drops, carry := if k % 2 = 1 then -((k / 2 : Nat) : Int) else ((k / 2 : Nat) : Int), next := l.getD 0 0,
      offset := l.getD 1 0, sinceKey := l.getD 3 0, forceKey := true, resumes := if resume then min 255 (l.getD 4 0 + 1) else 0,
      epoch := epoch, requests := asked.drop (l.getD 0 0), lastRap := l.getD 5 0, inherited := false, bitsLast := [],
      back := if c.decode then l.getD 1 0 - l.getD 5 0 else 0, catching := resume && c.decode }
  { x with record := ctxItems x }

/-- The pool pages of each context, in the order of their declaration (R371; log entry 95). -/
def poolPages (first : Nat) : List StreamCtx → List (StreamCtx × Nat)
  | [] => []
  | c :: rest => (c, first) :: poolPages (first + c.bufs * framePages c) rest

/-- Contexts open with their frame buffers of the pool (R371, R372); every position register that no context of this job has reads zero. A
resumption's contexts come from the job records, this module's before the one of the image for which it stands in (R351, R388). -/
def State.loadStreams (s : State) (p : ProgramSet) (params : List Word) (first : Nat) (resume : Bool) (epoch : Nat) (recs : List JobRec) : State :=
  let drops := fun k => match sget (fun _ => none) s.ctxs k with | some (c : Ctx) => c.drops | none => 0
  let old := s.ctxs.map fun x => (x.1, x.2.map fun (c : Ctx) =>
    { c with isOpen := false, hostpos := 0, descrd := 0, vcupos := 0, descwr := 0, requests := [], pics := [] })
  let s' := { s with ctxs := old }
  (poolPages p.vcuPool.1 p.streams).zipIdx.foldl (fun s x =>
    let e := x.1
    let c := e.1
    let key := 32 * c.lead + c.ctx
    let st := recs.findSome? fun (r : JobRec) => (r.streams.find? fun (x : Nat × List Nat) => x.1 = key).map (·.2)
    s.setCtx c.lead c.ctx (some (newCtx c e.2 (drops key) resume epoch st (if resume then requestsBefore p params x.2 first else [])))) s'

/-- Job records that a resumption of an epoch reads: this module's, and on a stand-in the one in the partner's image (R351, R388). -/
def State.recordsOf (s : State) (d : JobDesc) : List JobRec :=
  if d.kind ≠ 2 then []
  else ((s.mir.snapshots.filter fun x => x.epoch = d.epoch).map (·.job)) ++ if d.standin && s.holding then
      (([s.mir.image, s.mir.pend].filterMap id).filter fun x => x.epoch = d.epoch).map fun x => tailRec x.tail
    else []

/-- The launch references the blocks of the program set's shared prefixes (R186). A resumption's table holds the references already (log entry 92). DESIGN CHOICE
(log entry 106): a block whose REF is refused counts among those that the job's end gives up. -/
def State.takePrefixes (s : State) (resume : Bool) (slots : List ListSlot) : State :=
  slots.foldl (fun s t =>
    let r := s.slotEntry t
    match r.2 with
    | none => r.1
    | some i => (if resume then r.1 else r.1.kvRef i).modRun fun j => { j with refs := j.refs ++ [i] }) s

/-- The queued job begins its first stroke at LAUNCH; it runs unmirrored on the stand-in, and while the course with a partner outside the group is lost
(R269, R271, R341, R349, R351, R353, R433). -/
def State.launch (s : State) (j : Job) : State :=
  match s.psets.getD j.desc.pset none with
  | none => s
  | some x =>
    let d := j.desc
    let p := x.set
    let first := s.firstStroke d
    let resume := d.kind = 2
    let snap := if resume then s.mir.snapshots.find? fun y => y.epoch = d.epoch else none
    let alone := s.mir.gone && (match s.partner with | some q => !s.others.contains q | none => false)
    let job := { j with first := first, stroke := first, isVoid := !s.gtc.locked, epoch := if resume then d.epoch else 0, unmirrored := (resume && d.standin && s.holding) || alone }
    let s := { s with
      strk := { s.strk with run := some job, queued := none, guard := BitVec.ofNat 5 d.guard, ordered := d.ordered, isVoid := !s.gtc.locked },
      kvt := { s.kvt with pending := [], counted := 0, held := [], table := match snap with | some y => y.table | none => s.kvt.table },
      mir := { s.mir with
        ready := [], push := none, leaving := none, lastSet := some d.pset,
        snapshots := if resume then s.mir.snapshots.filter fun y => y.epoch ≤ d.epoch else [],
        ownEpoch := if resume then BitVec.ofNat 16 d.epoch else 0, restored := if resume then s.mir.restored else none } }
    let s := s.modRing j.ring fun y => { y with prog := 0 }
    let s := (((s.loadWells p).loadImages p).loadPipes p).loadStreams p d.params first resume (if resume then d.epoch else 0) (s.recordsOf d)
    let s := if resume && d.standin then s.promote d.epoch else s
    let s := s.takePrefixes resume p.prefixes
    let s := s.allDirty.hello
    let s := s.enterStroke first d.launch
    let r := s.combinedRate
    if r.1 < d.baseClock || 64 < r.2 then s.changeRate (d.baseClock, 64) s.scr.throttle.rung true else s

/-- JOB_LAUNCH: the GTC reaches the LAUNCH of the queued job. While another job still runs, or when LAUNCH lies before the end of the last
one, the queued job ends with OVERLAP. A module that has come to hold an image since the job's ruling refuses it as ruling would (R350). -/
def execJobLaunch (s : State) : Out State :=
  match s.strk.queued with
  | none => .next s
  | some j =>
    if !s.live || 4 ≤ s.mir.releaseStep then .next s
    else
      let s := s.reach j.desc.launch
      if s.strk.run.isSome || j.desc.launch < s.strk.lastEnd then
        .next ({ s with strk := { s.strk with queued := none } }.complete (s.refusal j.ring j.desc 0x05 0))
      else if s.holding && !s.resumesImage j.desc then
        .next (({ s with strk := { s.strk with queued := none } }.ruled j.desc.pset 1 (some (0x0A07, 0, 0))).complete (s.refusal j.ring j.desc 0x02 0x0A07))
      else .next (s.launch j)

end Sys2Proof.Machine
end

