-- ==== Sys2Proof/Machine/Strokes.lean ====
section
/-! DEFINITION. Strokes of the running job: unfinished work and STALL (R286 to R290), the stroke boundary (R273), and the records STALL, RATE, JOB_END
and TRIP (R287, R291, R331, R430). -/
namespace Sys2Proof.Machine

/-! ### Times of a stroke (R271, R272, R287) -/

/-- E_(n,e) of the current stroke and extension. -/
def strokeEnd (j : Job) : Nat := j.start + j.period + j.ext * guardOf j.period j.desc.guard

/-- The stall lead of the stroke or extension is decided 2,500 ns before its end: longer where some member is reached only by relay then (R272). -/
def State.decideLead (s : State) : State :=
  match s.strk.run with
  | none => s
  | some j =>
    if j.lead.isSome || s.gtc.now.toNat + 2500 < strokeEnd j then s
    else
      let lead := if s.others.any fun r => (s.upPair r).isEmpty && (s.relayTo r).isSome then 2500 else 1500
      s.modRun fun j => { j with lead := some lead }

/-! ### Unfinished work (R286) -/

/-- Requests of an encode context whose reads of their slot are not closed: those of the frame being coded close with its last superblock (R374). -/
def State.openRequests (s : State) (c : Ctx) : List EncReq :=
  match (s.pipe c.decl.lead).frame with
  | some f => if f.ctx = c.decl.ctx && sbRows c.decl * sbCols c.decl ≤ f.sb then c.requests.drop 1 else c.requests
  | none => c.requests

/-- VCU work that the stroke's end waits for: an encode's reads of a slot (R374), a decoded frame's copy (R375). -/
def State.vcuLate (s : State) (n : Nat) : Bool :=
  s.ctxs.any fun x => match x.2 with
    | none => false
    | some (c : Ctx) => c.isOpen &&
      (if c.decl.decode then (List.range c.decl.ready.length).any fun f => c.next ≤ f && c.decl.ready.getD f 0 ≤ n
       else (s.openRequests c).any fun r => r.release ≤ n)

/-- A feed that the next stroke reads has not been declared complete (R425). -/
def State.feedLate (s : State) (j : Job) : Bool :=
  (List.range j.desc.feeds).any fun f =>
    (j.desc.feed.getD f default).due = j.stroke + 1 && !(s.ring j.ring).feeddone.getLsbD f

/-- Phase two of a mirror point waits for an M_READY (R346). -/
def State.readyLate (s : State) (j : Job) : Bool :=
  match j.commit with
  | some (e, c) => c = j.stroke && j.collAbort.isNone && !s.allReady e
  | none => false

/-- Causes of the overrun cause table that the module's own state shows. -/
def State.openWork (s : State) (j : Job) : List Nat :=
  let steps := s.coll.steps.filter fun (x : CollStep) => x.status.isNone && !s.stepComplete x
  (if s.quills.any (fun q => !q.2.attempt.isEmpty || !q.2.tickets.isEmpty) then [1] else [])
    ++ (if s.quills.any (fun q => !q.2.asked.isEmpty) then [2] else [])
    ++ (if s.quills.any (fun q => q.2.hwaitNow) then [3] else [])
    ++ (if s.movers.any (fun m => m.1 < 128 && m.2 ≠ 0) || s.vcuLate j.stroke then [4] else [])
    ++ (if steps.any (fun x => !(s.stepMissing x).isEmpty) || s.feedLate j || s.readyLate j then [5] else [])
    ++ (if steps.any fun x => s.stepSending x || !(x.issued || receiveOnly x.desc s.grp.rank.toNat) then [6] else [])

/-- A step that still misses chunks at the stall point of extension COLL_TMO ends (R329, R330). -/
def State.timeOut (s : State) (ext : Nat) : State :=
  s.coll.steps.foldl (fun s x => match s.findStep x.coll x.step with
    | none => s
    | some x =>
      if x.status.isSome || ext < x.desc.tmo then s
      else match x.nakked.find? fun k => !(x.got.any fun g => g.1 = k.1 && g.2.1 = k.2) with
        | some k => s.failStep x 5 0 k.1
        | none => match s.stepMissing x with
          | r :: _ => s.failStep x 2 0 r
          | [] => s) s

/-- STALL_POINT: `busy` names the causes of work in flight that no register shows (log entry 3). -/
def execStallPoint (busy : List Nat) (s : State) : Out State :=
  if !s.live then .next s
  else match s.strk.run with
    | none => .next s
    | some j =>
      if j.stopped then .next s
      else
        let s := (s.reach (strokeEnd j - 2500)).decideLead
        let s := (s.reach (strokeEnd j - (s.strk.run.bind (·.lead)).getD 1500)).timeOut j.ext
        match s.strk.run with
        | none => .next s
        | some j =>
          match ((busy.filter fun c => 1 ≤ c && c ≤ 7) ++ s.openWork j).min? with
          | none => .next s
          | some c =>
            if j.stalls.any fun x => x.own && x.stroke = j.stroke && x.ext = j.ext then .next s
            else
              let m : StallMsg := { stroke := j.stroke, rank := s.grp.rank.toNat, ext := j.ext, cause := c, own := true }
              .next ((s.sendAll 0x20 [j.stroke, j.ext, c]).modRun fun j => { j with stalls := j.stalls ++ [m] })

/-! ### The boundary (R273) -/

/-- The member of lowest rank among STALL messages. -/
def lowestStall (l : List StallMsg) : Option StallMsg :=
  l.foldl (fun acc x => match acc with | some a => if a.rank ≤ x.rank then acc else some x | none => some x) none

/-- Rank that a completion record names for a message. -/
def originOf (own : Bool) (rank : Nat) : Nat := if own then 0x7F else rank

/-- Header lines of the stroke's output tiles of a fenced nib's stage become poisoned (R111 step 1). -/
def State.poisonHeaders (s : State) (j : Job) : State :=
  j.written.foldl (fun s e =>
    if j.poisoned.contains e.1 then
      match (s.placeRead e.2).2 with
      | some l => s.placeWrite e.2 (sealLine (l.take 64 ++ List.replicate 4 0xFF#8)) .job
      | none => s
    else s) s

/-- What a stretched stroke leaves in the registers at its boundary (R288, R301). -/
def State.noteStretch (s : State) (j : Job) : State :=
  if j.ext = 0 then s
  else
    let ctx := match lowestStall (j.stalls.filter fun x => x.stroke = j.stroke && x.ext = 0) with
      | some m => j.ext + m.rank * 2 ^ 8 + m.cause * 2 ^ 16
          + if j.stalls.any (fun x => x.own && x.stroke = j.stroke && x.ext = 0) then 2 ^ 15 else 0
      | none => j.ext
    let s := s.raiseStrk 0
    let s := { s with strk := { s.strk with ovrctx := w32 ctx, ovrstrk := w32 j.stroke, stretches := satAdd s.strk.stretches j.ext, isVoid := true } }
    s.modRun fun j => { j with stretches := j.stretches + j.ext, overrun := true, isVoid := true }

/-- STALL_MAX is reached: the job, and with it the stroke, ends at the end of the extension (R111, R289). -/
def State.stretchLimit (s : State) (j : Job) (m : StallMsg) : State :=
  let s := ((((s.noteStretch j).poisonHeaders j).raiseStrk 1).modRun fun j => { j with noCommit := true })
  s.finishJob 0x11 (originOf m.own m.rank) (j.stroke % 2 ^ 32) (strokeEnd j)

/-- A failure of the stroke, one of its publication included, sends JOB_END (R240, R430). -/
def State.sendFailure (s : State) : State :=
  match s.strk.run.bind (·.failure) with
  | some f => (s.sendJobEnd f.1 f.2).modRun fun j => { j with failure := none }
  | none => s

/-- Leases, row-ready counters, and phase two of a mirror point whose commit stroke this was (R216, R346). -/
def State.commitDue (s : State) (j : Job) : State :=
  match j.commit with
  | some (e, c) =>
    if c ≠ j.stroke then s
    else if s.allReady e && !j.noCommit && j.collAbort.isNone then s.commitPoint e
    else s.modRun fun j => { j with commit := none }
  | none => s

/-- Encode requests of the stroke that ends become runnable (R374). -/
def State.queueEncodes (s : State) (n : Nat) : State :=
  match s.runSet with
  | none => s
  | some p => match entryAt p s.runParams n with
    | none => s
    | some e => e.encodes.foldl (fun s q => match p.streams[q.1]? with
      | none => s
      | some c => match s.ctx c.lead c.ctx with
        | none => s
        | some x => s.setCtx c.lead c.ctx (some { x with requests := x.requests ++ [{ slot := q.2.1, release := n + q.2.2, stroke := n }] })) s

/-- RING_PROG counts the stroke; the progress vector fires every 2^(PROG_SHIFT − 1) strokes (R426, R434). -/
def State.progress (s : State) (j : Job) : State :=
  let s := s.modRing j.ring fun x => { x with prog := x.prog + 1 }
  if j.desc.progShift ≠ 0 && (s.ring j.ring).prog.toNat % 2 ^ (j.desc.progShift - 1) = 0 then s.fire (64 + j.ring) else s

/-- After the boundary that ends stroke `n` at GTC `b`: the job ends, stops for a release, or begins its next stroke (R332, R348, R356, R430). -/
def State.afterStroke (s : State) (n b : Nat) : State :=
  match s.strk.run with
  | none => s
  | some j =>
    let s := s.modRun fun j => { j with stroke := n + 1 }
    let known := bestEnd j.ends
    let endBy := fun (e : EndMsg) => s.finishJob e.status (originOf e.own e.rank) e.detail b
    match j.collAbort with
    | some c => s.finishJob c.1 c.2.2 c.2.1 b
    | none =>
      if j.desc.strokes ≤ n + 1 then
        match known with
        | some e => endBy e
        | none => s.finishJob 0 0x7F 0 b
      else
        match known with
        | some e =>
          if e.stroke ≤ n + 1 || s.mir.leaving = some n then endBy e
          else s.enterStroke (n + 1) b
        | none =>
          if s.mir.leaving = some n then
            let s := s.idleQuills.modRun fun j => { j with stopped := true }
            if (s.runSet.bind (·.mirror)).isNone then s.endRelease 0 else s.tryRelease
          else s.enterStroke (n + 1) b

/-- The stroke is stretched by one guard unit, which ends the promise (R287, R295). -/
def State.stretch (s : State) : State :=
  { s with strk := { s.strk with isVoid := true } }.modRun fun j => { j with ext := j.ext + 1, lead := none, isVoid := true }

/-- The boundary that ends the current stroke. -/
def State.boundary (s : State) (j : Job) : State :=
  let n := j.stroke
  let b := strokeEnd j
  let s := (s.noteStretch j).poisonHeaders j
  let s := s.commitDue j
  let point := j.epoch + 1 + if s.pointDue n then 1 else 0
  let s := (s.publishKv n point).pageBoundary
  let s := (if j.desc.ordered then s.applyLogs else s).sendFailure
  let s := s.endWells.queueEncodes n
  let s := if s.pointDue n then s.mirrorPoint n else s
  (s.progress j).afterStroke n b

/-- STROKE_BOUNDARY: the end of the stroke or extension. With a STALL known it is extended by one guard unit; while this module has unfinished
work and no STALL is known the instant has not come (log entry 2). -/
def execStrokeBoundary (s : State) : Out State :=
  if !s.live then .next s
  else match s.strk.run with
    | none => .next s
    | some j =>
      if j.stopped then .next s
      else
        match lowestStall (j.stalls.filter fun x => x.stroke = j.stroke && x.ext = j.ext) with
        | some m =>
          let s := s.reach (strokeEnd j)
          if j.ext = j.desc.stallMax then .next (s.stretchLimit j m)
          else .next (s.stretch)
        | none => if (s.openWork j).isEmpty then .next ((s.reach (strokeEnd j)).boundary j) else .next s

/-! ### Records -/

/-- A record arrived too late: LATE_STALL is set, and this member ends the job at once, and its stroke with it (R111, R290, R291, R430). -/
def State.tooLate (s : State) (j : Job) (sender detail : Nat) : State :=
  (((s.noteStretch j).poisonHeaders j).raiseStrk 2).finishJob 0x10 sender detail s.gtc.now.toNat

/-- A STALL for extension `e` of stroke `n` arrives after E_(n,e) (R290). -/
def State.stallLate (s : State) (j : Job) (n e : Nat) : Bool :=
  n < j.stroke || (n = j.stroke && (j.stopped || j.start + j.period + e * guardOf j.period j.desc.guard < s.gtc.now.toNat))

/-- STALL received. -/
def execStall (sender n e cause : Nat) (s : State) : Out State :=
  match s.takeRecord 0x20 sender [n, e, cause] with
  | none => .next s
  | some s => match s.strk.run with
    | none => .next s
    | some j =>
      if s.stallLate j n e then .next (s.tooLate j sender 2)
      else .next (s.modRun fun j => { j with stalls := j.stalls ++ [{ stroke := n, rank := sender, ext := e, cause := cause % 16, own := false }] })

/-- RATE received. -/
def execRateMessage (sender c clock factor : Nat) (s : State) : Out State :=
  match s.takeRecord 0x21 sender [c, clock, factor] with
  | none => .next s
  | some s => match s.strk.run with
    | none => .next s
    | some j =>
      if c ≤ j.stroke && !j.stopped then .next (s.tooLate j sender 3)
      else .next (s.modRun fun j => { j with rates := addRate j.rates { rank := sender, stroke := c, clock := clock, factor := factor } })

/-- JOB_END received. A job whose strokes have stopped begins no stroke c: it ends now. -/
def execJobEnd (sender c status detail : Nat) (s : State) : Out State :=
  match s.takeRecord 0x25 sender [c, status, detail] with
  | none => .next s
  | some s => match s.strk.run with
    | none => .next s
    | some j =>
      if j.stopped then .next (s.finishJob status sender detail s.gtc.now.toNat)
      else if c ≤ j.stroke then .next (s.tooLate j sender 4)
      else .next (s.addEnd { rank := sender, own := false, stroke := c, status := status, detail := detail })

/-- TRIP received: steps that involve the member end with PEER_TRIP, and a partner's course is lost (R331, R339). -/
def execTrip (sender stroke : Nat) (s : State) : Out State :=
  match s.takeRecord 0x22 sender [stroke] with
  | none => .next s
  | some s =>
    let s := s.failMember sender 4
    .next (if s.partner = some sender then s.loseCourse 2 else s)

end Sys2Proof.Machine
end

