-- ==== Sys2Proof/Machine/Links.lean ====
section
/-! DEFINITION. Links: flits and their CRC (R305 to R307), sending (R308, R309), receiving with credits, replay and relay (R309, R311, R320), chunks as
they arrive (R323, R324), DOWN and retraining (R312), and IDENT (R315). -/
namespace Sys2Proof.Machine

/-! ### Flits (R305 to R307) -/

/-- `n` steps of the register of R307, its value kept as a number below 2^64 so that the kernel evaluates it step by step. -/
def shift64 (c : Nat) : Nat → Nat
  | 0 => c
  | n + 1 => if 2 ^ 63 ≤ c then shift64 (c * 2 % 2 ^ 64 ^^^ 0x42F0E1EBA9EA3693) n else shift64 (c * 2) n

def crcBytes64 (c : Nat) : List Byte → Nat
  | [] => c
  | b :: rest => match shift64 (c ^^^ b.toNat * 2 ^ 56) 8 with
    | 0 => crcBytes64 0 rest
    | m + 1 => crcBytes64 (m + 1) rest

/-- CRC-64 of R307. -/
def crc64 (l : List Byte) : Nat := 2 ^ 64 - 1 - crcBytes64 (2 ^ 64 - 1) l

/-- The flit header's fields (R306). -/
structure FlitHdr where
  type : Nat
  vc : Nat
  seq : Nat
  ack : Nat
  ackValid : Bool
  nak : Bool
  crVc : Nat
  credit : Nat
  valid : Nat
  deriving DecidableEq, Repr, Inhabited

def readFlitHdr (f : List Byte) : FlitHdr :=
  let x := leAt f 0 8
  { type := x % 16, vc := x / 2 ^ 4 % 4, seq := x / 2 ^ 6 % 4096, ack := x / 2 ^ 18 % 4096, ackValid := x / 2 ^ 30 % 2 = 1, nak := x / 2 ^ 31 % 2 = 1,
    crVc := x / 2 ^ 32 % 4, credit := x / 2 ^ 34 % 4096, valid := x / 2 ^ 46 % 256 }

def flitHdrBytes (h : FlitHdr) : List Byte :=
  leBytes 8 (h.type + h.vc * 2 ^ 4 + h.seq * 2 ^ 6 + h.ack * 2 ^ 18 + (if h.ackValid then 2 ^ 30 else 0) + (if h.nak then 2 ^ 31 else 0)
    + h.crVc * 2 ^ 32 + h.credit * 2 ^ 34 + h.valid * 2 ^ 46)

/-- The 592 bytes of a flit. -/
def flitBytes (h : FlitHdr) (slots : List Line) : List Byte :=
  let body := flitHdrBytes h ++ fitBytes 576 (slots.flatMap id)
  body ++ leBytes 8 (crc64 body)

def flitOk (f : List Byte) : Bool := f.length = 592 && crc64 (f.take 584) = leAt f 584 8

/-- The slots that VALID names, in order. -/
def flitSlots (f : List Byte) (valid : Nat) : List Line :=
  (List.range 8).filterMap fun i => if valid / 2 ^ i % 2 = 1 then some ((f.drop (8 + 72 * i)).take 72) else none

/-- Every flit before `ack` has been received: `seq` lies up to 256 before it (R306, R309). -/
def acked (seq ack : Nat) : Bool := let d := (ack + 4096 - seq) % 4096; 1 ≤ d && d ≤ 256

/-! ### Receive pool (R308, R311) -/

def guarantee (vc : Nat) : Nat := match vc with | 0 => 2048 | 1 => 512 | 2 => 1016 | _ => 64

/-- Free slots of the shared pool. -/
def State.sharedFree (s : State) : Nat :=
  582627 - (s.links.map fun l => l.2.granted.foldl (· + ·) 0).foldl (· + ·) 0

/-- A channel whose guaranteed slots are exhausted is granted shared slots as they are free. -/
def State.grantShared (s : State) (l vc : Nat) : State :=
  let x := s.link l
  if vc < 3 && guarantee vc + x.granted.getD vc 0 ≤ x.occ.getD vc 0 then
    let n := min (36414 - x.granted.foldl (· + ·) 0) s.sharedFree
    s.setLink l { x with granted := x.granted.set vc (x.granted.getD vc 0 + n), owed := x.owed.set vc (x.owed.getD vc 0 + n) }
  else s

/-! ### Another route (R312, R319) -/

/-- A record that goes to the mirror partner only, on its bundle (R338, R349). -/
def mirrorOnly (kind : Nat) : Bool := 0x40 ≤ kind && kind ≤ 0x47 && kind ≠ 0x43 && kind ≠ 0x45

/-- Put a record on the way to its addressee again: the partner's bundle for mirror records, otherwise a pair link or, on VC3, a relay. -/
def State.reroute (s : State) (vc : Nat) (e : Slots) : State :=
  let slot := e.slots.headD zeroLine
  let kind := byteAt slot 0
  let dest := byteAt slot 2
  if kind = 0x10 then s
  else if mirrorOnly kind then
    match s.upBundle with
    | l :: _ => if s.partner = some dest then s.enqueue l vc e else s
    | [] => s
  else match s.routePair dest with
    | l :: _ => s.enqueue l vc e
    | [] =>
      if s.partner = some dest && !s.upBundle.isEmpty then s.enqueue (s.upBundle.headD 0) vc e
      else if vc = 3 && !(0x11 ≤ kind && kind ≤ 0x14) && !(0x30 ≤ kind && kind ≤ 0x36) then
        match (s.relayTo dest).bind fun r => (s.routePair r).head? with
        | some l => s.enqueue l 3 e
        | none => s
      else s

/-- A record of a flit that was not acknowledged. -/
def State.rerouteSlot (s : State) (vc : Nat) (slot : Line) : State := s.reroute vc { msg := true, slots := [slot], chunk := none, sent := 0 }

/-- The next link of a list after `l` that passes a test, in ascending order and then from the start. -/
def nextOf (l : Nat) (ls : List Nat) (ok : Nat → Bool) : Option Nat := ((ls.filter fun k => l < k) ++ ls.filter fun k => k < l).find? ok

/-- A chunk to relay goes on VC1 of a link; without one it waits for one (R320; log entry 112). -/
def State.relayOn (s : State) (k : Option Nat) (e : Slots) : State :=
  match k with
  | some k => s.enqueue k 1 e
  | none => { s with coll := { s.coll with stranded := s.coll.stranded ++ [e] } }

/-- A chunk that a DOWN link has not delivered is sent whole on another route; one that had begun to leave counts as resent. -/
def State.rechunk (s : State) (l vc : Nat) (e : Slots) (begun : Bool) : State :=
  match e.chunk with
  | none => s.reroute vc e
  | some h =>
    let e : Slots := { e with sent := 0 }
    let count := fun (s : State) => if begun then { s with coll := { s.coll with resends := satAdd s.coll.resends 1 } } else s
    let own := h.src = s.grp.rank.toNat
    if h.op = 6 then
      match nextOf l s.bundle s.linkUp with
      | some k => count (s.enqueue k 2 e)
      | none => s
    else if h.op = 0 then
      match nextOf l (s.pairLinksTo h.dst) s.usable with
      | some k => count (s.enqueue k 2 e)
      | none => s
    else if !own then
      count (s.relayOn (nextOf l (s.pairLinksTo h.dst) s.usable) e)
    else if (s.nextHop s.strk.ordered h.dst (h.first / 4096)).isSome then
      let e' : Slots := { e with slots := hdrSlot { h with relayed := false } :: e.slots.drop 1, chunk := some { h with relayed := false } }
      if s.strk.ordered then
        match s.nextHop true h.dst (h.first / 4096) with
        | some hop => count (s.enqueue hop.1 0 (chunkEntry h ((e.slots.drop 1).dropLast) hop.2))
        | none => s
      else count { s with coll := { s.coll with unrouted := s.coll.unrouted ++ [e'] } }
    else s.failMember h.dst 6

/-- Forget an unfinished relay of a chunk whose way in is gone. -/
def State.dropRelay (s : State) (h : ChunkHdr) : State :=
  let part := fun (e : Slots) => e.chunk = some h && e.slots.length < h.lines + 2
  let s := { s with coll := { s.coll with stranded := s.coll.stranded.filter fun e => !part e } }
  (s.pairLinksTo h.dst).foldl (fun s l => s.modLink l fun x => { x with vc1 := x.vc1.filter fun e => !part e }) s

/-- What came on a link that has gone DOWN takes no pool space of it any longer. -/
def forgetLink (l : Nat) (e : Slots) : Slots := if e.inLink = l then { e with inLink := linkCount, owing := 0 } else e

def State.forgetRelays (s : State) (l : Nat) : State :=
  { s with
    links := s.links.map fun x => (x.1, { x.2 with vc1 := x.2.vc1.map (forgetLink l), vc3 := x.2.vc3.map (forgetLink l) })
    coll := { s.coll with
      stranded := s.coll.stranded.map (forgetLink l)
      steps := s.coll.steps.map fun (x : CollStep) =>
        { x with waits := x.waits.map fun (w : PoolWait) => if w.link = l then { w with link := linkCount } else w } } }

/-- Chunks not yet routed, to members that no link and no relay reach now: every step with such a member ends with NO_ROUTE (R320, R331). -/
def State.dropUnrouted (s : State) : State :=
  let cut := fun (e : Slots) => match e.chunk with | some h => (s.nextHop false h.dst 0).isNone | none => false
  (s.coll.unrouted.filter cut).foldl (fun s e => match e.chunk with
    | none => s
    | some h => s.failMember h.dst 6) { s with coll := { s.coll with unrouted := s.coll.unrouted.filter fun e => !cut e } }

/-- An UP link becomes DOWN (R312). -/
def State.linkDown (s : State) (l : Nat) : State :=
  let x := s.link l
  if x.st ≠ .up then s
  else
    let s := s.decideLead.raiseLink l 0
    let y := s.link l
    let s := s.setLink l
      { LinkState.reset with
        st := .down, laneLock := y.laneLock, err := y.err, peerRank := y.peerRank, peerValid := y.peerValid, peerLink := y.peerLink,
        fecCw := y.fecCw, fecCorr := y.fecCorr, fecSym := y.fecSym, fecUncorr := y.fecUncorr, crcerr := y.crcerr, retry := y.retry }
    let s := { s with
      inbox := s.inbox.map fun (r : Record) => if r.link = l then { r with link := linkCount } else r
      coll := { s.coll with
        lost := insertNat l s.coll.lost, doubles := s.coll.doubles ++ x.fresh.map fun (e : Nat × Line) => (l, e.2)
        early := s.coll.early.map fun (e : EarlyChunk) => if e.link = l then { e with link := linkCount } else e } }
    let s := s.forgetRelays l
    let s := match x.rx0 with
      | some c => if c.hdr.dst = s.grp.rank.toNat then s else s.dropRelay c.hdr
      | none => s
    let s := (x.replay.filter (·.msg)).foldl (fun s f => f.slots.foldl (fun s a => s.rerouteSlot f.vc a) s) s
    let s := x.outgoing.foldl (fun s o => if o.entry.msg then s else s.rechunk l o.vc o.entry true) s
    let s := x.vc0.foldl (fun s e => s.rechunk l 0 e (e.sent ≠ 0)) s
    let s := x.vc1.foldl (fun s e => s.rechunk l 1 e (e.sent ≠ 0)) s
    let s := x.vc2.foldl (fun s e => s.rechunk l 2 e (e.sent ≠ 0)) s
    (x.vc3.foldl (fun s e => s.rechunk l 3 e false) s).dropUnrouted.releaseNext

/-! ### Sending (R308, R309) -/

def LinkState.queue (x : LinkState) (vc : Nat) : List Slots :=
  match vc with | 0 => x.vc0 | 1 => x.vc1 | 2 => x.vc2 | _ => x.vc3

def LinkState.setQueue (x : LinkState) (vc : Nat) (q : List Slots) : LinkState :=
  match vc with
  | 0 => { x with vc0 := q }
  | 1 => { x with vc1 := q }
  | 2 => { x with vc2 := q }
  | _ => { x with vc3 := q }

/-- Slots that the channel can send now: a MSG flit of records, or slots of one chunk, within its credit. -/
def LinkState.sendable (x : LinkState) (vc : Nat) : Nat :=
  let c := min 8 (x.credit.getD vc 0)
  match x.queue vc with
  | [] => 0
  | e :: rest => if e.msg then min c (1 + (rest.takeWhile (·.msg)).length) else min c (e.slots.length - e.sent)

/-- The channel to serve: VC3 first, then VC0 to VC2 in turn. -/
def LinkState.choose (x : LinkState) : Option Nat :=
  if x.sendable 3 ≠ 0 then some 3
  else if x.st ≠ .up then none
  else ((List.range 3).map fun i => (x.rr + i) % 3).find? fun vc => x.sendable vc ≠ 0

/-- Header of a flit that carries the acknowledgement, NAK and credits due; and the link with those given (R306, R309, R311). -/
def LinkState.stamp (x : LinkState) (type vc seq valid : Nat) : FlitHdr × LinkState :=
  let cr := ((List.range 4).find? fun v => x.owed.getD v 0 ≠ 0).getD 0
  let n := min 4095 (x.owed.getD cr 0)
  ({ type := type, vc := vc, seq := seq, ack := x.rxSeq, ackValid := true, nak := x.nakDue, crVc := cr, credit := n, valid := valid },
   { x with owed := x.owed.set cr (x.owed.getD cr 0 - n), nakDue := false, sinceAck := 0 })

/-- A flit leaves. -/
def State.emit (s : State) (l : Nat) (h : FlitHdr) (slots : List Line) : State :=
  { s with linkOut := s.linkOut ++ [{ link := l, bytes := flitBytes h slots }] }

/-- The front of a channel's queue after `n` slots of it have left with flit `seq`. -/
def LinkState.take (x : LinkState) (vc n seq : Nat) : List Line × LinkState :=
  match x.queue vc with
  | [] => ([], x)
  | e :: rest =>
    if e.msg then (((e :: rest).take n).flatMap (·.slots), x.setQueue vc ((e :: rest).drop n))
    else
      let slots := (e.slots.drop e.sent).take n
      let e : Slots := { e with sent := e.sent + n, owing := e.owing - n }
      let whole : Bool := match e.chunk with | some h => h.lines + 2 ≤ e.sent | none => e.slots.length ≤ e.sent
      if whole then (slots, { x.setQueue vc rest with outgoing := x.outgoing ++ [{ last := seq, vc := vc, entry := e }] })
      else (slots, x.setQueue vc (e :: rest))

/-- Pool slots, by link and channel, that the next `n` slots of a channel give up as they go on (R311, R320). -/
def LinkState.gives (x : LinkState) (vc n : Nat) : List (Nat × Nat × Nat) :=
  match x.queue vc with
  | [] => []
  | e :: rest => if e.msg then ((e :: rest).take n).map fun m => (m.inLink, m.inVc, m.owing) else [(e.inLink, e.inVc, min n e.owing)]

/-- A DISC_SYNC of this module leaves: its DISC_FOLLOW carries t1, the GTC of the departure in units of 1/8 ns, of which the model's GTC does not know the last three
bits (R318; log entry 41). -/
def State.followSync (s : State) (l : Nat) (slot : Line) : State :=
  if byteAt slot 0 = 0x11 && byteAt slot 1 = s.grp.rank.toNat then
    let d := s.draw
    d.2.recordOn l (byteAt slot 2) 0x12 [leAt slot 4 4, 8 * s.gtc.now.toNat + d.1.toNat % 8]
  else s

/-- Send the next flit of a link: a replayed one, content of a channel, or IDLE. -/
def State.sendFlit (s : State) (l : Nat) : State :=
  match (s.link l).resend with
  | f :: rest =>
    let r := (s.link l).stamp (if f.msg then 2 else 1) f.vc f.seq (2 ^ f.slots.length - 1)
    (s.setLink l { r.2 with resend := rest }).emit l r.1 f.slots
  | [] =>
    let s := if (s.link l).st = .up then s.dropUnrouted.routeNext l else s
    let x := s.link l
    match if 256 ≤ x.replay.length then none else x.choose with
    | none =>
      let r := x.stamp 0 0 0 0
      (s.setLink l r.2).emit l r.1 []
    | some vc =>
      let n := x.sendable vc
      let msg := match x.queue vc with | e :: _ => e.msg | [] => false
      let t := x.take vc n x.txSeq
      let r := t.2.stamp (if msg then 2 else 1) vc x.txSeq (2 ^ n - 1)
      let y := { r.2 with
        txSeq := (x.txSeq + 1) % 4096, credit := x.credit.set vc (x.credit.getD vc 0 - n), rr := if vc < 3 then (vc + 1) % 3 else x.rr,
        replay := x.replay ++ [{ seq := x.txSeq, vc := vc, msg := msg, slots := t.1, episodes := 0 }] }
      let s := (x.gives vc n).foldl (fun s g => s.freeSlots g.1 g.2.1 g.2.2) ((s.setLink l y).emit l r.1 t.1)
      if msg then t.1.foldl (fun s slot => s.followSync l slot) s else s

def linkRuns (st : LinkSt) : Bool := st = .ident || st = .up

/-- FLIT_SEND: a flit boundary of a link. -/
def execFlitSend (link : Nat) (s : State) : Out State :=
  if linkCount ≤ link then .fault .absentUnit
  else if s.live && linkRuns (s.link link).st then .next (s.sendFlit link).releaseNext else .next s

/-- ACK_TIMER: 64 flits, or 200 ns, have gone without an acknowledgement; the next flit carries one. -/
def execAckTimer (link : Nat) (s : State) : Out State :=
  if linkCount ≤ link then .fault .absentUnit
  else if s.live && linkRuns (s.link link).st && (s.link link).sinceAck ≠ 0 then .next (s.sendFlit link) else .next s

/-! ### Chunks as they arrive (R246 to R248, R323, R324) -/

/-- Lines of a loaned or home read have come: counted, verified and put where the read wanted them. -/
def State.loanArrive (s : State) (c : Chunk) : State :=
  let h := c.hdr
  match s.loan.reads.find? fun w => w.rank = h.src && w.first = h.first && w.count = h.lines with
  | none => { s with coll := { s.coll with stale := satAdd s.coll.stale 1 } }
  | some w =>
    if chunkCrc c.lines ≠ c.crc then
      (if h.resend then s else s.sendRecord h.src 0x24 [h.stroke, h.coll, h.step, h.first])
    else
      let s := { s with loan := { s.loan with
        reads := s.loan.reads.erase w
        t3reads := if w.home then s.loan.t3reads else satAdd s.loan.t3reads h.lines
        homereads := if w.home && w.mover ≠ fillKey then satAdd s.loan.homereads h.lines else s.loan.homereads } }
      let s := if w.home && h.step = 1 then s.raiseLoan 3 w.t3 else s
      if w.hold then ((c.lines.zipIdx).foldl (fun s e => s.keepLine w.t3 (w.first + e.2) e.1) s).resumeParked w.mover
      else s.landLines w c.lines

/-- A whole chunk has arrived at its final receiver; `held` of its slots still take pool space. -/
def State.chunkDone (s : State) (l vc held : Nat) (c : Chunk) : State :=
  if c.hdr.op = 6 then (s.freeSlots l vc held).mirrorArrive c
  else if c.hdr.op = 0 then (s.freeSlots l vc held).loanArrive c
  else s.chunkArrive l vc held c

/-- A slot of a chunk that this module relays goes on VC1 of a pair link to its destination, and takes its place in the pool of the link that it came on until it
has left (R311, R320). -/
def State.relaySlot (s : State) (l : Nat) (h : ChunkHdr) (slot : Line) (isHdr : Bool) : State :=
  let part := fun (e : Slots) => e.chunk = some h && e.inLink = l && e.slots.length < h.lines + 2
  let add := fun (e : Slots) => if part e then { e with slots := e.slots ++ [slot], owing := e.owing + 1 } else e
  if isHdr then s.relayOn (s.routePair h.dst).head? { msg := false, slots := [slot], chunk := some h, sent := 0, inLink := l, inVc := 0, owing := 1 }
  else if s.coll.stranded.any part then { s with coll := { s.coll with stranded := s.coll.stranded.map add } }
  else
    match (s.pairLinksTo h.dst).find? fun k => (s.link k).vc1.any part with
    | some k => s.modLink k fun x => { x with vc1 := x.vc1.map add }
    | none => s.freeSlots l 0 1

/-- One slot of a DATA flit: of a chunk for this module, whose credit returns as it is delivered, or of one that this module relays (R311, R320). -/
def State.dataSlot (s : State) (l vc : Nat) (slot : Line) : State :=
  let old := (s.link l).rx vc
  let h := (old.map (·.hdr)).getD (readChunkRec slot)
  let relay := h.dst ≠ s.grp.rank.toNat && vc = 0
  let s := if relay then s.relaySlot l h slot old.isNone else s
  let n := if relay then 0 else 1
  match old with
  | none => (s.modLink l fun x => x.setRx vc (some { hdr := h, lines := [], held := n })).drainRx l vc
  | some r =>
    if r.lines.length < h.lines then (s.modLink l fun x => x.setRx vc (some { r with lines := r.lines ++ [slot], held := r.held + n })).drainRx l vc
    else
      let s := s.modLink l fun x => x.setRx vc none
      if relay then s else s.chunkDone l vc (r.held + n) { hdr := h, lines := r.lines, crc := (readChunkRec slot).dhash }

/-- A record has come on another link before: its sender has had to send it again (R312). -/
def State.secondCopy (s : State) (l : Nat) (slot : Line) : Bool := s.links.any fun x => x.1 ≠ l && x.2.fresh.any fun e => e.2 = slot

/-- One record of a MSG flit: for this module, or an IDENT, it waits to be consumed; another member's goes on by VC3 (R310, R315, R317, R320). A second copy of a
record that a sender had to send again is discarded (R312; log entry 113). -/
def State.msgSlot (s : State) (l vc seq : Nat) (slot : Line) : State :=
  let double := s.coll.doubles.find? fun e => e.2 = slot
  let second := s.secondCopy l slot
  let s := s.modLink l fun x => { x with fresh := x.fresh ++ [(seq, slot)] }
  if double.isSome || second then
    { s with coll := { s.coll with doubles := match double with | some e => s.coll.doubles.erase e | none => s.coll.doubles } }.freeSlots l vc 1
  else if byteAt slot 2 = s.grp.rank.toNat || byteAt slot 0 = 0x10 then
    { s with inbox := s.inbox ++ [{ link := l, kind := byteAt slot 0, sender := byteAt slot 1, addressee := byteAt slot 2, body := slot.drop 4 }] }
  else
    match s.routePair (byteAt slot 2) with
    | k :: _ => if vc = 3 then s.enqueue k 3 { msg := true, slots := [slot], chunk := none, sent := 0, inLink := l, inVc := 3, owing := 1 } else s.freeSlots l vc 1
    | [] => s.freeSlots l vc 1

/-! ### Receiving (R309, R335) -/

/-- FEC counters of a flit's codewords; every uncorrectable one sets UNCORR. -/
def State.countFec (s : State) (l : Nat) (f : FecCounts) : State :=
  let s := s.modLink l fun x =>
    { x with fecCw := satAdd x.fecCw f.words, fecCorr := satAdd x.fecCorr f.corrected, fecSym := satAdd x.fecSym f.symbols,
             fecUncorr := satAdd x.fecUncorr f.uncorrectable
             uncorrAt := (x.uncorrAt.filter fun e => s.gtc.now.toNat < e.1 + 1000000) ++ if f.uncorrectable = 0 then [] else [(s.gtc.now.toNat, f.uncorrectable)] }
  (List.range f.uncorrectable).foldl (fun s _ => s.raiseLink l 2) s

/-- Uncorrectable codewords of the last 1 ms (R312). -/
def LinkState.uncorrMs (x : LinkState) : Nat := x.uncorrAt.foldl (fun a e => a + e.2) 0

/-- A flit that is not accepted: NAK is sent once for each error episode. A flit that fails its CRC begins one, also when an earlier one's replay fails again; flits out of
sequence belong to the episode they follow (R309; log entry 114). -/
def State.badFlit (s : State) (l : Nat) (crc : Bool) : State :=
  s.modLink l fun x => if x.nakSent && !crc then x else { x with nakSent := true, nakDue := true }

/-- An acknowledgement frees the replay buffer; NAK is an error episode, and everything left of the buffer is replayed. -/
def State.gotAck (s : State) (l : Nat) (h : FlitHdr) : State :=
  let s := if !h.ackValid then s else s.modLink l fun x =>
    { x with replay := x.replay.filter (fun f => !acked f.seq h.ack), resend := x.resend.filter (fun f => !acked f.seq h.ack),
             outgoing := x.outgoing.filter fun o => !acked o.last h.ack }
  if !h.nak then s
  else
    let s := s.modLink l fun x => { x with retry := satAdd x.retry 1 }
    match (s.link l).replay with
    | [] => s
    | f :: rest =>
      let f := { f with episodes := f.episodes + 1 }
      let s := s.modLink l fun x => { x with replay := f :: rest, resend := f :: rest }
      let s := if f.episodes = 2 then s.raiseLink l 3 else s
      if 8 ≤ f.episodes then s.linkDown l else s

/-- The slots of an accepted flit. -/
def State.gotSlots (s : State) (l : Nat) (h : FlitHdr) (slots : List Line) : State :=
  let s := s.modLink l fun x => { x with occ := x.occ.set h.vc (x.occ.getD h.vc 0 + slots.length) }
  let s := slots.foldl (fun s x => if h.type = 2 then s.msgSlot l h.vc h.seq x else if h.vc < 3 then s.dataSlot l h.vc x else s) s
  s.grantShared l h.vc

/-- The slots as the receive pool delivers them: those whose error its code cannot correct are poisoned (R223, R224). -/
def poolSlots (f : FecCounts) (slots : List Line) : List Line := slots.mapIdx fun i x => if f.pool.contains i then poisonLine x else x

/-- A flit has come in. -/
def State.receive (s : State) (l : Nat) (flit : List Byte) (fec : FecCounts) : State :=
  let s := s.countFec l fec
  if 16 < (s.link l).uncorrMs && (s.link l).st = .up then s.linkDown l
  else if !flitOk flit then (s.modLink l fun x => { x with crcerr := satAdd x.crcerr 1 }).badFlit l true
  else
    let h := readFlitHdr flit
    let idle := h.type = 0
    if !idle && h.seq ≠ (s.link l).rxSeq then s.badFlit l false
    else
      let s := if idle then s else s.modLink l fun x => { x with
        rxSeq := (x.rxSeq + 1) % 4096, nakSent := false, sinceAck := x.sinceAck + 1,
        fresh := x.fresh.filter fun e => (h.seq + 4096 - e.1) % 4096 < 256 }
      let s := s.modLink l fun x => { x with credit := x.credit.set h.crVc (x.credit.getD h.crVc 0 + h.credit) }
      let s := if idle then s else s.gotSlots l h (poolSlots fec (flitSlots flit h.valid))
      (s.gotAck l h).closeSteps.releaseNext

/-- FLIT_RECEIVE: the 592 bytes after FEC, and what FEC saw. -/
def execFlitReceive (link : Nat) (flit : List Byte) (fec : FecCounts) (s : State) : Out State :=
  if linkCount ≤ link then .fault .absentUnit
  else if s.live && linkRuns (s.link link).st then .next (s.receive link flit fec) else .next s

/-! ### DOWN, training and IDENT (R312, R315) -/

/-- LINK_RX_TIMEOUT: no flit for 1 µs. -/
def execLinkRxTimeout (link : Nat) (s : State) : Out State :=
  if linkCount ≤ link then .fault .absentUnit else if s.live then .next (s.linkDown link) else .next s

/-- LANE_LOCK_LOSS. -/
def execLaneLockLoss (link lane : Nat) (s : State) : Out State :=
  if linkCount ≤ link || 4 ≤ lane then .fault .absentUnit
  else if s.live then .next ((s.modLink link fun x => { x with laneLock := x.laneLock &&& ~~~(BitVec.ofNat 4 (2 ^ lane)) }).linkDown link)
  else .next s

/-- All lanes of a link are locked: IDENT is sent with the link at its guaranteed credits. -/
def State.trainedLink (s : State) (link : Nat) : State :=
  match s.linkEntry link with
  | none => s
  | some e =>
    let s := s.modLink link fun x =>
      { x with st := .ident, laneLock := 0xF, credit := (List.range 4).map guarantee, occ := [0, 0, 0, 0], granted := [0, 0, 0], owed := [0, 0, 0, 0],
               txSeq := 0, rxSeq := 0, nakSent := false, nakDue := false, sinceAck := 0, fresh := [], replay := [], resend := [], outgoing := [],
               vc0 := [], vc1 := [], vc2 := [], vc3 := [], rx0 := none, rx1 := none, rx2 := none, uncorrAt := [] }
    s.recordOn link e.peerRank 0x10 [s.groupTag, s.grp.rank.toNat, s.grp.rackId.toNat, s.grp.slotId.toNat, link, s.grp.lmapTag.toNat]

/-- LINK_TRAINED: training of a link has ended. -/
def execLinkTrained (link : Nat) (s : State) : Out State :=
  if linkCount ≤ link then .fault .absentUnit
  else if !s.live || !((s.link link).st = .training || (s.link link).st = .down) then .next s
  else .next (s.trainedLink link)

/-- IDENT's values agree with the link map; the straps of a partner outside the group are not in it. -/
def State.identOk (s : State) (link : Nat) (groupTag : Word) (rank rack slot peerLink : Nat) (lmapTag : Word) : Bool :=
  match s.grp.linkMap, s.linkEntry link with
  | some m, some e =>
    groupTag = m.groupTag && lmapTag = s.grp.lmapTag && e.peerRank = rank && e.peerLink = peerLink
      && (match m.members.find? fun x => x.rank = rank with
        | some x => x.rack = rack && x.slot = slot
        | none => true)
  | _, _ => false

/-- A pair link to a lender is UP after a reset: RETURN for the pages that this module held (R252). -/
def State.returnOld (s : State) (rank : Nat) : State :=
  let lent := (s.loan.returnDue.filter fun r => r.1 = rank && !r.2.2).map (·.2.1)
  let named := (s.loan.returnDue.filter fun r => r.1 = rank && r.2.2).map (·.2.1)
  if (lent.isEmpty && named.isEmpty) || (s.upPair rank).isEmpty || s.boot.life ≠ .operational then s
  else
    let s := { s with loan := { s.loan with returnDue := s.loan.returnDue.filter fun r => r.1 ≠ rank } }
    let s := if lent.isEmpty then s else s.sendReturn rank lent
    if named.isEmpty then s else s.sendUnnamed rank named

/-- A link to a member is UP: chunks that waited for one go on, and records that the link carried before come no second time. -/
def State.openWays (s : State) (link rank : Nat) : State :=
  let mine := fun (e : Slots) => match e.chunk with | some h => h.dst = rank && (s.pairLinksTo rank).contains link | none => false
  let s' := { s with coll := { s.coll with stranded := s.coll.stranded.filter fun e => !mine e, doubles := s.coll.doubles.filter (·.1 ≠ link) } }
  (s.coll.stranded.filter mine).foldl (fun s e => s.enqueue link 1 e) s'

/-- IDENT received on a link: the link becomes UP, or MISWIRED until the next reset. -/
def execIdent (link : Nat) (groupTag : Word) (rank rack slot peerLink : Nat) (lmapTag : Word) (s : State) : Out State :=
  if linkCount ≤ link then .fault .absentUnit
  else if !s.live || (s.link link).st ≠ .ident then .next s
  else match s.inbox.find? fun r => r.link = link && r.kind = 0x10 && r.sender = rank
      && r.body = recordBody 0x10 [groupTag.toNat, rank, rack, slot, peerLink, lmapTag.toNat] with
    | none => .next s
    | some r =>
      let s := { s.decideLead with inbox := s.inbox.erase r }.freeSlots link 3 1
      if s.identOk link groupTag rank rack slot peerLink lmapTag then
        let s := s.modLink link fun x =>
          { x with st := .up, peerRank := BitVec.ofNat 7 rank, peerValid := true, peerLink := BitVec.ofNat 7 peerLink }
        let s := s.openWays link rank
        let first := s.bundle.contains link && s.upBundle.length = 1
        let s := if first && !s.mir.gone && (s.mir.st = .none || s.mir.st = .forming) then s.hello else s
        .next (s.returnOld rank)
      else .next ((s.modLink link fun x => { x with st := .miswired, vc0 := [], vc1 := [], vc2 := [], vc3 := [] }).raiseLink link 1)

/-! ### CHUNK_NAK (R329, R345) -/

/-- A served read is sent once more. -/
def State.reserve (s : State) (sender first : Nat) : State :=
  match s.loan.served.find? fun v => v.rank = sender && v.first = first && !v.resent with
  | some v =>
    let s := { s with loan := { s.loan with served := s.loan.served.map fun (w : Served) => if w = v then { v with resent := true } else w } }
    ({ s with coll := { s.coll with resends := satAdd s.coll.resends 1 } }).serveRead v true
  | none => s

/-- CHUNK_NAK received: for a collective step, else for a mirror push or restore, else for a read served. -/
def execChunkNak (sender stroke coll step first : Nat) (s : State) : Out State :=
  match s.takeRecord 0x24 sender [stroke, coll, step, first] with
  | none => .next s
  | some s => match s.nakStep sender stroke coll step first with
    | some _ => .next (s.answerNak sender stroke coll step first)
    | none =>
      let mirror := s.partner = some sender && (match s.mir.push, s.mir.serving with
        | some p, _ => step = 0 && p.epoch % 65536 = coll && p.firsts.contains first
        | none, some v => step = 1 && v.epoch % 65536 = coll
        | none, none => false)
      .next (if mirror then s.mirrorResend step first else s.reserve sender first)

end Sys2Proof.Machine
end

