-- ==== Sys2Proof/Machine/Rings.lean ====
section
/-! DEFINITION. The host's writes to a job ring (R419, R420, R425, R430, R438). -/
namespace Sys2Proof.Machine

/-- Ring blocks answer once the module is ready (R469); a write elsewhere has no effect (R463). -/
def State.ringOpen (s : State) (r : Nat) : Bool := s.live && s.ready && r < 64

/-- A write of RING_TAIL (R420). -/
def State.writeTail (s : State) (ring : Nat) (value : Word) : State :=
  if ringSize (s.ring ring) ≤ value.toNat then s.raiseRing ring 0
  else s.modRing ring fun x => { x with tail := value.setWidth 12 }

/-- A write of RING_CQHEAD (R420). -/
def State.writeCqhead (s : State) (ring : Nat) (value : Word) : State :=
  if ringSize (s.ring ring) ≤ value.toNat then s.raiseRing ring 0
  else s.modRing ring fun x => { x with cqhead := value.setWidth 12 }

/-- A write of RING_FEEDDONE: bits are set by ones (R425, R438). -/
def State.writeFeeddone (s : State) (ring : Nat) (value : Word) : State :=
  s.modRing ring fun x => { x with feeddone := x.feeddone ||| value.setWidth 4 }

/-- DOORBELL: a write of RING_TAIL. -/
def execDoorbell (ring : Nat) (value : Word) (s : State) : Out State :=
  if !s.ringOpen ring then .next s else .next (s.writeTail ring value)

/-- RING_CQHEAD_WRITE. -/
def execRingCqheadWrite (ring : Nat) (value : Word) (s : State) : Out State :=
  if !s.ringOpen ring then .next s else .next (s.writeCqhead ring value)

/-- ABORT on a ring: JOB_END for its running job, an end without a stroke for its queued one (R430). A job whose strokes have stopped for a release begins no stroke c: it
ends now, as it does on the members that receive the JOB_END. -/
def State.abortRing (s : State) (ring : Nat) : State :=
  let s := match s.strk.queued with
    | some j => if j.ring = ring then
        { s with strk := { s.strk with queued := none } }.complete (s.refusal j.ring j.desc 0x19 0) else s
    | none => s
  match s.strk.run with
  | some j =>
    if j.ring ≠ ring then s
    else
      let s := s.sendJobEnd 0x19 0
      if j.stopped then s.finishJob 0x19 0x7F 0 s.gtc.now.toNat else s
  | none => s

/-- SZ as a write stores it (R438). -/
def sizeOf (value : Word) : BitVec 4 :=
  let z := value.toNat / 16 % 16
  if 4 ≤ z && z ≤ 12 then BitVec.ofNat 4 z else 4

/-- A write of RING_CTRL: SZ while EN is 0, EN with its resets and the held records (R413, R419), ABORT. -/
def State.writeRingCtrl (s : State) (ring : Nat) (value : Word) : State :=
  let x := s.ring ring
  let x := if x.en then x else { x with sz := sizeOf value }
  let s :=
    if value.getLsbD 0 && !x.en then
      (s.setRing ring { x with en := true, head := 0, tail := 0, cqtail := 0, cqhead := 0, phase := true, cleared := false }).postHeld ring
    else s.setRing ring { x with en := value.getLsbD 0 }
  if value.getLsbD 1 then s.abortRing ring else s

/-- RING_ENABLE: a write of RING_CTRL that concerns EN. -/
def execRingEnable (ring : Nat) (value : Word) (s : State) : Out State :=
  if !s.ringOpen ring then .next s else .next (s.writeRingCtrl ring value)

/-- RING_ABORT: a write of 1 to RING_CTRL.ABORT. -/
def execRingAbort (ring : Nat) (s : State) : Out State := if !s.ringOpen ring then .next s else .next (s.abortRing ring)

/-- RING_FEEDDONE_WRITE. -/
def execRingFeeddoneWrite (ring : Nat) (value : Word) (s : State) : Out State :=
  if !s.ringOpen ring then .next s else .next (s.writeFeeddone ring value)

end Sys2Proof.Machine
end

