-- ==== Sys2Proof/Machine/Log.lean ====
section
/-! DEFINITION. The scribe log in flash (R450 to R453): its positions, the writing of entries, the erase of a sector with the FENCE entries that it
carries over, and the ALERT operation (R446). -/
namespace Sys2Proof.Machine

def logPositions : Nat := 16384
def sectorEntries : Nat := 1024

/-- The valid entries of a copy (R451). -/
def Flash.entries (f : Flash) : List LogEntry :=
  f.log.filterMap fun c => match c.2 with
    | .whole e => some e
    | _ => none

/-- Insert by SEQ; an entry of the same SEQ is the same entry. -/
def insertEntry (e : LogEntry) : List LogEntry → List LogEntry
  | [] => [e]
  | x :: rest => if e.seq < x.seq then e :: x :: rest else if e.seq = x.seq then x :: rest else x :: insertEntry e rest

/-- What a reader sees: the union of the valid entries of both copies, ordered by SEQ (R451). -/
def State.logEntries (s : State) : List LogEntry :=
  (s.flash0.entries ++ s.flash1.entries).foldl (fun acc e => insertEntry e acc) []

/-- SEQ of the next entry: one higher than the latest, never 0xFFFF_FFFF (R450). -/
def State.nextSeq (s : State) : Nat :=
  let n := (s.flash0.entries ++ s.flash1.entries).foldl (fun m (e : LogEntry) => max m e.seq) 0 + 1
  if n % 2 ^ 32 = 0xFFFFFFFF then 0 else n % 2 ^ 32

/-- The 64 bytes of an entry (R450); payload items are 32-bit words in the order of the entry type table (log entry 8). -/
def entryBytes (e : LogEntry) : List Byte :=
  let body := leBytes 4 e.seq ++ leBytes 8 e.gtc ++ leBytes 4 e.boot ++ leBytes 2 e.type ++ leBytes 1 e.severity ++ leBytes 1 e.flags
    ++ leBytes 4 e.count ++ ((e.payload.flatMap fun w => leBytes 4 w.toNat) ++ List.replicate 36 0#8).take 36
  body ++ leBytes 4 (crc32c body)

/-- Program a log position of a flash device; a failing one keeps what it holds (R457; log entry 63). -/
def Flash.putCell (f : Flash) (pos : Nat) (c : LogCell) : Flash :=
  if f.bad then f else { f with log := sset (fun _ => LogCell.erased) f.log pos c }

/-- The head moves on. -/
def State.nextHead (s : State) : State := { s with scr := { s.scr with logHead := (s.scr.logHead + 1) % logPositions } }

/-- Write an entry at the head of the ring with the next SEQ, into flash 0 and then into flash 1 (R451). -/
def State.appendLog (s : State) (e : LogEntry) : State :=
  let n := s.nextSeq
  let c := LogCell.whole { e with seq := n }
  let s := { s with flash0 := s.flash0.putCell s.scr.logHead c, flash1 := s.flash1.putCell s.scr.logHead c }
  { s.nextHead with scr := { s.nextHead.scr with logSeq := n } }

/-- Entry types of R454 that other rules name. -/
def fenceType : Nat := 0x0010
def fenceClearType : Nat := 0x0011

/-- SEQ of the latest FENCE_CLEAR; 0 without one. -/
def lastClear (es : List LogEntry) : Nat := es.foldl (fun m e => if e.type = fenceClearType then max m e.seq else m) 0

/-- FENCE entries that no later FENCE_CLEAR supersedes. -/
def liveFences (es all : List LogEntry) : List LogEntry := es.filter fun e => e.type = fenceType && lastClear all < e.seq

/-- Position `lo` begins a sector that holds entries. -/
def State.sectorHeld (s : State) (lo : Nat) : Bool := (s.flash0.log ++ s.flash1.log).any fun c => lo ≤ c.1 && c.1 < lo + sectorEntries

/-- Where the sector after the head's begins; the head's own where it stands at its start. -/
def sectorAhead (head : Nat) : Nat := (head + sectorEntries - 1) / sectorEntries * sectorEntries % logPositions

/-- Erase the sector at `lo` on both devices, and write the FENCE entries that it held and that stand again at the head, marked CARRIED (R452). -/
def State.eraseSector (s : State) (lo : Nat) : State :=
  let inside := fun (c : Nat × LogCell) => lo ≤ c.1 && c.1 < lo + sectorEntries
  let clear := fun (f : Flash) => if f.bad then f else { f with log := f.log.filter fun c => !inside c }
  let all := s.logEntries
  let old := ({ s with flash0 := { s.flash0 with log := s.flash0.log.filter inside },
                       flash1 := { s.flash1 with log := s.flash1.log.filter inside } }).logEntries
  let s := { s with flash0 := clear s.flash0, flash1 := clear s.flash1 }
  (liveFences old all).foldl (fun s e => s.appendLog { e with flags := e.flags ||| 1 }) s

/-- The sector ahead is erased once no more positions are left before it than the queue has entries, so that a hold-up, which starts no erase, can write a full queue
(R452, R453). DESIGN CHOICE (log entry 117). -/
def State.makeRoom (s : State) : State :=
  let lo := sectorAhead s.scr.logHead
  if s.power.holdup.isNone && (lo + logPositions - s.scr.logHead) % logPositions ≤ 64 && s.sectorHeld lo then s.eraseSector lo else s

/-- Write one entry. -/
def State.writeEntry (s : State) (e : LogEntry) : State := (s.makeRoom.appendLog e).makeRoom

/-- A LOG_GAP entry for the events dropped, under R454's limit: beyond the 16th in a second it is not written, and the next one carries it. -/
def State.writeGap (s : State) : State :=
  let r := s.countEntry 0x00FF
  let sup := sget (fun _ => 0) s.scr.suppressed 0x00FF
  if 16 ≤ r.2 then
    { r.1 with scr := { r.1.scr with gap := 0, gapHeld := s.scr.gapHeld + s.scr.gap, suppressed := sset (fun _ => 0) s.scr.suppressed 0x00FF (sup + 1) } }
  else
    let e : LogEntry :=
      { seq := 0, gtc := s.gtc.now.toNat, boot := s.boot.count.toNat, type := 0x00FF, severity := 1,
        flags := (if s.gtc.locked then 0 else 2) + (if sup = 0 then 0 else 4), count := 1 + sup, payload := [w32 (s.scr.gapHeld + s.scr.gap)] }
    { r.1 with scr := { r.1.scr with gap := 0, gapHeld := 0, suppressed := sset (fun _ => 0) s.scr.suppressed 0x00FF 0 } }.writeEntry e

/-- The next entry goes to flash: LOG_GAP first after a drop, otherwise the front of the queue (R451). -/
def State.writeLog (s : State) : State :=
  if s.scr.gap ≠ 0 then s.writeGap
  else match s.scr.logQueue with
    | [] => s
    | e :: rest =>
      let s := { s with scr := { s.scr with logQueue := rest } }
      let s := { s with power := { s.power with holdup := s.power.holdup.map fun (n : Nat) => n - 1 } }
      s.writeEntry e

/-- Write `n` entries. -/
def State.writeLogs (s : State) : Nat → State
  | 0 => s
  | n + 1 => s.writeLog.writeLogs n

/-- The queue is empty before the scribe leaves (R409, R451, R492). -/
def State.flushLog (s : State) : State := s.writeLogs (s.scr.logQueue.length + 1)

/-- LOG_ENTRY_WRITE. -/
def execLogEntryWrite (s : State) : Out State := if s.power.scribe then .next s.writeLog else .next s

/-- A reading has come to meet an ALERT threshold: one entry, the SCR_ALERT flag, the cause in the SMBus latch (R446). -/
def State.alert (s : State) (id : Nat) (value threshold : Word) (flag : Nat) : State :=
  let had := s.scr.logQueue.length
  let s := s.logEvent 0x0020 1 [w32 id, value, threshold]
  let s := if had < s.scr.logQueue.length then s.mapTele fun t => { t with alerts := t.alerts + 1 } else s
  let s := s.raiseAlert flag
  let bit := BitVec.ofNat 8 (2 ^ flag)
  { s with scr := { s.scr with latch := s.scr.latch ||| bit, latchSeen := s.scr.latchSeen &&& ~~~bit } }

end Sys2Proof.Machine
end

