-- ==== Sys2Proof/Machine/Scroll.lean ====
section
/-! DEFINITION. Flash as the boot ROM and the scribe read it: the provisioning record (R394, R395), scrolls and their verification (R396, R397),
and boot state records (R398). -/
namespace Sys2Proof.Machine

/-! ### Flash bytes (R393) -/

def erasedByte : Nat → Byte := fun _ => 0xFF#8

def Flash.read (f : Flash) (a : Nat) : Nat → List Byte
  | 0 => []
  | n + 1 => sget erasedByte f.bytes a :: f.read (a + 1) n

def flashPut (m : Sparse Byte) (a : Nat) : List Byte → Sparse Byte
  | [] => m
  | b :: rest => flashPut (sset erasedByte m a b) (a + 1) rest

/-- Program bytes at an offset; a failing device keeps what it holds (R457; log entry 63). -/
def Flash.write (f : Flash) (a : Nat) (bs : List Byte) : Flash := if f.bad then f else { f with bytes := flashPut f.bytes a bs }

/-- Erase `n` bytes from an offset. -/
def Flash.erase (f : Flash) (a n : Nat) : Flash := if f.bad then f else { f with bytes := f.bytes.filter fun c => c.1 < a || a + n ≤ c.1 }

/-- An erase or a program of one of the devices fails (R457). -/
def State.flashFails (s : State) : Bool := s.flash0.bad || s.flash1.bad

def State.flash (s : State) (b : Bool) : Flash := if b then s.flash1 else s.flash0
def State.setFlash (s : State) (b : Bool) (f : Flash) : State := if b then { s with flash1 := f } else { s with flash0 := f }

def slotBase : Nat := 0x200000
def slotSize : Nat := 132120576

/-- GLB_ID.GRADE from the fuses (R6). -/
def State.grade (s : State) : Nat := if s.fuses.f512 then 1 else 2

/-! ### The provisioning record (R394, R395) -/

def recordSize : Nat := 640

def rootKeyOf (r : List Byte) : List Byte := (r.drop 48).take 97
def keyOf (r : List Byte) (i : Nat) : List Byte := (r.drop (145 + 97 * i)).take 97
def recordKeys (r : List Byte) : Nat := byteAt r 40
def recordRevoked (r : List Byte) : Nat := byteAt r 41 % 16
def recordSeqOf (r : List Byte) : Nat := leAt r 20 4

def State.recordSigned (s : State) (r : List Byte) : Bool :=
  sha384 (rootKeyOf r) = s.fuses.rootHash && signatureVerifies (rootKeyOf r) (r.take 544) ((r.drop 544).take 96)

/-- A record is valid (R395). -/
def State.recordValid (s : State) (r : List Byte) : Bool :=
  leAt r 0 4 = 0x44565250 && leAt r 4 2 = 1 && leAt r 6 2 = 0x0E03 && byteAt r 8 = s.grade && byteAt r 9 = 0xA1 && s.recordSigned r

/-- The two copies. -/
def State.recordCopies (s : State) : List (List Byte) := [s.flash0.read 0 recordSize, s.flash1.read 0 recordSize]

/-- The record in use: of the valid copies the one with the higher RECORD_SEQ. -/
def State.record (s : State) : Option (List Byte) :=
  (s.recordCopies.filter s.recordValid).foldl (fun acc r => match acc with
    | some a => if recordSeqOf a < recordSeqOf r then some r else acc
    | none => some r) none

/-- Write both copies. -/
def State.writeRecord (s : State) (r : List Byte) : State :=
  { s with flash0 := s.flash0.write 0 r, flash1 := s.flash1.write 0 r }

/-! ### Scrolls (R396, R397) -/

/-- An entry of the section table. -/
structure Section where
  type : Nat
  flags : Nat
  offset : Nat
  length : Nat
  crc : Nat
  deriving DecidableEq, Repr, Inhabited

def State.scrollBytes (s : State) (slot : Bool) (a n : Nat) : List Byte := (s.flash slot).read (slotBase + a) n

/-- Sections of a slot's scroll. -/
def State.sections (s : State) (slot : Bool) : List Section :=
  let n := byteAt (s.scrollBytes slot 24 2) 0 + 256 * byteAt (s.scrollBytes slot 24 2) 1
  (List.range n).map fun i =>
    let e := s.scrollBytes slot (64 + 16 * i) 16
    { type := leAt e 0 2, flags := leAt e 2 2, offset := leAt e 4 4, length := leAt e 8 4, crc := leAt e 12 4 }

def State.sectionBytes (s : State) (slot : Bool) (x : Section) : List Byte := s.scrollBytes slot x.offset x.length

/-- The section of a type. -/
def State.sectionOf (s : State) (slot : Bool) (type : Nat) : Option Section := (s.sections slot).find? fun x => x.type = type

def countType (xs : List Section) (t : Nat) : Nat := (xs.filter fun x => x.type = t).length

/-- No section of a list overlaps a later one. -/
def disjoint : List Section → Bool
  | [] => true
  | x :: rest => (rest.all fun y => x.offset + x.length ≤ y.offset || y.offset + y.length ≤ x.offset) && disjoint rest

/-- Check 0x6 STRUCTURE. -/
def State.structureOk (s : State) (slot : Bool) (length : Nat) : Bool :=
  let xs := s.sections slot
  2 ≤ xs.length && xs.length ≤ 32 && [1, 2, 3, 4].all (fun t => countType xs t = 1) && [0x10, 0x11, 0x12, 0x13].all (fun t => countType xs t ≤ 1)
    && xs.all (fun x => [1, 2, 3, 4, 0x10, 0x11, 0x12, 0x13].contains x.type) && xs.all (fun x => x.offset + x.length ≤ length)
    && disjoint xs && xs.all fun x => crc32c (s.sectionBytes slot x) = x.crc

/-- Result code of a slot (R397): the first check that fails, 0x1 when all pass. `life`, and the record's keys, as they stand. -/
def State.verifySlot (s : State) (slot : Bool) (life : Life) (r : List Byte) : Nat :=
  let h := s.scrollBytes slot 0 64
  let length := leAt h 20 4
  let key := byteAt h 10
  if !(leAt h 0 4 = 0x4C524353 && leAt h 4 2 = 1 && leAt h 6 2 = 0x0E03 && byteAt h 8 = 0xA1
      && byteAt h 9 / (if s.fuses.f512 then 1 else 2) % 2 = 1 && 64 ≤ length && length ≤ 132120480) then 2
  else if leAt h 12 4 < s.fuses.fuseVer then 3
  else if !(if key = 0xFF then life = .blank else life ≠ .blank && key < recordKeys r && recordRevoked r / 2 ^ key % 2 = 0) then 4
  else if !signatureVerifies (if key = 0xFF then rootKeyOf r else keyOf r key) (s.scrollBytes slot 0 length) (s.scrollBytes slot length 96) then 5
  else if !s.structureOk slot length then 6
  else 1

/-- Program set `i` of a slot's scroll, with the DIAG flag of its section (R396). -/
def State.scrollSet (s : State) (slot : Bool) (i : Nat) : Option ProgramSet :=
  match s.sectionOf slot (0x10 + i) with
  | some x => (Config.programSetOf (s.sectionBytes slot x)).map fun p => { p with diag := decide (x.flags % 2 = 1) }
  | none => none

/-! ### Boot state records (R398, R400) -/

/-- The record that stands when no record passes: STATE from the fuses. -/
def State.defaultBootRec (s : State) : BootRec :=
  { seq := 0, active := false, trial := none, trialLeft := 0,
    state := if s.fuses.ret then .retired else if s.fuses.prov then .provisioned else .blank, rbPending := true, bootCount := 0, crcOk := true }

/-- Of the records whose CRC passes, on either flash, the one with the highest SEQ. -/
def State.bootRec (s : State) : BootRec :=
  match (s.flash0.boot ++ s.flash1.boot).filter (·.crcOk) with
  | [] => s.defaultBootRec
  | r :: rest => rest.foldl (fun a r => if a.seq < r.seq then r else a) r

/-- The records of a region after one more; a region that is full is erased first. -/
def pushRec (r : BootRec) (l : List BootRec) : List BootRec := if 256 ≤ l.length then [r] else r :: l

/-- Begin to program a record at the next free position of a flash: its CRC does not pass yet. -/
def State.beginRec (s : State) (b : Bool) (r : BootRec) : State :=
  let f := s.flash b
  if f.bad then s else s.setFlash b { f with boot := pushRec { r with crcOk := false } f.boot }

/-- The record that was begun last on a flash is complete. -/
def State.endRec (s : State) (b : Bool) : State :=
  let f := s.flash b
  if f.bad then s else s.setFlash b { f with boot := match f.boot with | r :: rest => { r with crcOk := true } :: rest | [] => [] }

/-- The steps in which a record with the next SEQ goes to flash 0 and then to flash 1 (R398, R400). -/
def State.recSteps (s : State) (f : BootRec → BootRec) : List (State → State) :=
  let r := { f s.bootRec with seq := s.bootRec.seq + 1 }
  [(·.beginRec false r), (·.endRec false), (·.beginRec true r), (·.endRec true)]

/-- Take steps one after another. -/
def runSteps (s : State) (steps : List (State → State)) : State := steps.foldl (fun s f => f s) s

/-- Write a record with the next SEQ to flash 0 and then to flash 1. -/
def State.writeBootRec (s : State) (f : BootRec → BootRec) : State := runSteps s (s.recSteps f)

/-- A scroll slot is erased, and the record copy beside it loses its keys (R408; log entry 40). -/
def State.eraseSlot (s : State) (b : Bool) : State :=
  s.setFlash b (((s.flash b).erase slotBase slotSize).write 40 (List.replicate 2 0#8) |>.write 145 (List.replicate 388 0#8))

/-- Both scroll slots are erased, and the record copies lose their keys. -/
def State.eraseOwner (s : State) : State := (s.eraseSlot false).eraseSlot true

end Sys2Proof.Machine
end

