-- ==== Sys2Proof/Machine/Boot.lean ====
section
/-! DEFINITION. Reset and boot: what a reset clears (R259, R468), the disabled-unit map (R26 to R33), the boot sequence (R399 to R406) and the report of
ready. -/
namespace Sys2Proof.Machine

/-! ### Sensor thresholds (R444, R445) -/

/-- Rows of the sensor threshold table: ALERT and THROTTLE, temperatures in 1/4 °C, power in W, the rail window in 1/10 % of the nominal voltage, the flow in
0.01 L/min (log entry 45). -/
def tableThreshold (row : Nat) : Option Int × Option Int :=
  match row with
  | 0 => (some 380, some 400)
  | 1 => (some 360, some 380)
  | 2 => (some 180, none)
  | 3 => (some 240, some 248)
  | 4 => (some 3600, some 3800)
  | 5 => (none, some 4200)
  | 6 => (some 30, none)
  | 7 => (some 400, none)
  | _ => (none, none)

/-- A lowered value never lies above the table's. -/
def lower (table value : Option Int) : Option Int :=
  match table, value with
  | some t, some v => some (min t v)
  | t, _ => t

/-- The thresholds of a row in force. -/
def State.threshold (s : State) (row : Nat) : Option Int × Option Int := sget tableThreshold s.scr.thr row

def State.setThreshold (s : State) (row : Nat) (v : Option Int × Option Int) : State :=
  let t := tableThreshold row
  { s with scr := { s.scr with thr := sset tableThreshold s.scr.thr row (lower t.1 v.1, lower t.2 v.2) } }

/-! ### What a reset clears -/

/-- What a module that has been reset returns once links are up: the pages that it held, to their lenders, and the home pages of other modules that its T3
entries named (R251, R252; log entry 90). -/
def State.oldLoans (s : State) : List (Nat × Nat × Bool) :=
  s.loan.returnDue ++ s.loan.held.map (fun (g : Granted) => (g.peer, g.t3, false))
    ++ (s.pmap.filter fun (e : Nat × PageEntry) => 73728 ≤ e.1 && e.2.kind = 2 && e.2.homeRank ≠ s.grp.rank).map fun e => (e.2.homeRank.toNat, e.1, true)

/-- The main domain's state is lost: every register at its reset value, every memory as the wipe leaves it, no loan. What survives is in fuses, flash and
the auxiliary domain; the pages that this module held as a borrower are known for their RETURN (R252, R259, R468). -/
def State.clearMain (s : State) : State :=
  { State.reset with
    fuses := s.fuses, flash0 := s.flash0, flash1 := s.flash1, power := s.power, pins := s.pins, boot := s.boot,
    loan := { Loan.reset with returnDue := s.oldLoans },
    pcieOut := s.pcieOut, linkOut := s.linkOut, rdata := s.rdata, rbytes := s.rbytes, scr := s.scr, free := s.free, pending := s.pending }

/-- The scribe is reset (R492). Energy, time and trips are counted since the auxiliary domain was powered, and each channel's telemetry since its last
read (R455); the latch of ALERT_N, the head of the log and what the UART has printed stay. -/
def State.clearScribe (s : State) : State :=
  { s with scr := { Scribe.reset with
      latch := s.scr.latch, latchSeen := s.scr.latchSeen, teleM := s.scr.teleM, teleU := s.scr.teleU, teleS := s.scr.teleS,
      energyNj := s.scr.energyNj, uptimeNs := s.scr.uptimeNs, trips := s.scr.trips, logQueue := s.scr.logQueue, logHead := s.scr.logHead,
      uart := s.scr.uart } }

/-- Every rail is off and the hot-swap switch open (R496). -/
def Power.off (p : Power) : Power :=
  { p with good := false, switchClosed := false, rampDone := false, vio := false, vlane := false, vwell := false, vcore := false, vstk := false,
           vddq := false, standby := p.scribe }

/-- Main power is lost: only the auxiliary domain survives, and the scribe goes on in standby (R357, R492, R496). -/
def State.mainOff (s : State) : State :=
  let s := s.clearMain
  { s with power := s.power.off, pins := { s.pins with vcbl := 0 },
           boot := { s.boot with code := 0, phase := 1, timeMs := 0, noPset := false } }

/-! ### Register words that the log carries -/

def bit (b : Bool) : Nat := if b then 1 else 0

/-- GLB_BOOT_STAT (R410). -/
def State.bootStatWord (s : State) : Word :=
  w32 (s.boot.code.toNat + s.boot.phase.toNat * 2 ^ 8 + bit s.boot.noPset * 2 ^ 12 + bit s.boot.rbPending * 2 ^ 13 + s.boot.timeMs.toNat * 2 ^ 16)

/-- GLB_BOOT_SLOT (R410). -/
def State.bootSlotWord (s : State) : Word :=
  w32 (bit s.boot.active + bit s.boot.booted * 2 + bit s.boot.trial * 4 + s.boot.trialLeft % 4 * 8 + s.boot.resA % 8 * 2 ^ 5 + s.boot.resB % 8 * 2 ^ 8
    + s.boot.secVer % 64 * 2 ^ 16 + s.fuses.fuseVer % 64 * 2 ^ 22)

def gradeCount (s : State) : Nat := if s.fuses.f512 then 256 else 240

/-- GLB_UNITS (R31); DEGRADED is 0 until the map is built (log entry 93). -/
def State.unitsWord (s : State) : Word :=
  w32 (s.units.quills0 % 512 + s.units.quills1 % 512 * 2 ^ 16
    + bit (!s.units.map0.isEmpty && (s.units.quills0 < gradeCount s || s.units.quills1 < gradeCount s)) * 2 ^ 31)

/-- GLB_DUMAP (R32). -/
def State.dumapWord (s : State) : Word := w32 (s.units.spares0 % 64 + s.units.spares1 % 64 * 2 ^ 8 + s.units.tag.toNat * 2 ^ 16)

/-! ### The disabled-unit map (R26 to R33) -/

def sitesPerDie : Nat := 272

/-- Map image entries of the sites `site` and up of a die, `n` of them left to look at, with `used` numbers given. -/
def mapEntries (bad : Nat → Bool) (count : Nat) : Nat → Nat → Nat → List (BitVec 16)
  | _, _, 0 => []
  | site, used, n + 1 =>
    if bad site then 0x01FF#16 :: mapEntries bad count (site + 1) used n
    else if used < count then BitVec.ofNat 16 used :: mapEntries bad count (site + 1) (used + 1) n
    else 0x01FE#16 :: mapEntries bad count (site + 1) used n

/-- Sites of a die that the log records as fenced since the last clearing (R26 step 2, R452). -/
def State.fencedSites (s : State) (die : Nat) : List Nat :=
  let es := s.logEntries
  ((liveFences es es).filter fun e => (e.payload.getD 1 0#32).toNat = die).map fun e => (e.payload.getD 2 0#32).toNat

/-- Build the map of both dies: fused sites, fenced sites and sites that fail the self-test are defective. Fuses and the self-test name a site of die
`d` as 272 d + site. -/
def State.buildMap (s : State) (fails : List Nat) : State :=
  let count := gradeCount s
  let entries := fun (die : Nat) =>
    let fenced := s.fencedSites die
    mapEntries (fun site => s.fuses.defect.contains (sitesPerDie * die + site) || fenced.contains site || fails.contains (sitesPerDie * die + site))
      count 0 0 sitesPerDie
  let m0 := entries 0
  let m1 := entries 1
  let good := fun (m : List (BitVec 16)) => (m.filter fun e => e.toNat < 256).length
  let spare := fun (m : List (BitVec 16)) => (m.filter fun e => e.toNat = 0x1FE).length
  { s with units := { map0 := m0, map1 := m1, quills0 := good m0, quills1 := good m1, spares0 := spare m0, spares1 := spare m1,
                      tag := BitVec.ofNat 16 (crc16 ((m0 ++ m1).flatMap fun e => leBytes 2 e.toNat)) } }

/-! ### Rails (R494, R469) -/

/-- VIO is on, and with it the PCIe link trains. -/
def State.vioOn (s : State) : State :=
  { s with power := { s.power with vio := true } }

/-- Every rail is on, in the order of R494; VCBL follows the cables (R482). -/
def State.railsOn (s : State) : State :=
  let s := s.vioOn
  { s with power := { s.power with vlane := true, vwell := true, vcore := true, vstk := true, vddq := true },
           pins := { s.pins with vcbl := s.pins.cblPrsnt } }

/-! ### The steps -/

/-- Boot stops: the code and the step stand in GLB_BOOT_STAT and in the log; before step 4 VIO alone is powered (R405, R469, R494). -/
def State.stopBoot (s : State) (code phase : Nat) : State :=
  let s := if s.power.vio then s else s.vioOn
  let s := { s with boot := { s.boot with code := BitVec.ofNat 8 code, phase := BitVec.ofNat 4 phase } }
  s.logEvent 0x0001 3 [s.bootStatWord, s.bootSlotWord, s.unitsWord, s.dumapWord]

/-- The GTC and the scribe's clock stand `ms` later (log entry 18). -/
def State.passMs (s : State) (ms : Nat) : State :=
  { s with gtc := { s.gtc with now := s.gtc.now + BitVec.ofNat 64 (ms * 1000000) }, scr := { s.scr with uptimeNs := s.scr.uptimeNs + ms * 1000000 } }

/-- The module reports ready (R401 step 12); TIME_MS is what the GTC has counted since power-good, `now` in ns. -/
def State.becomeReady (s : State) (now : Nat) : State :=
  let s := { s with boot := { s.boot with code := 1, phase := 12, timeMs := BitVec.ofNat 16 (min 0xFFFF (now / 1000000)) } }
  s.logEvent 0x0001 0 [s.bootStatWord, s.bootSlotWord, s.unitsWord, s.dumapWord]

/-- The slot to try first, after the bookkeeping of steps 1 and 2 of R399, and whether it is tried as a trial. -/
def State.chooseSlot (s : State) : State × Bool × Bool :=
  let r := s.bootRec
  match r.trial with
  | none => (s, r.active, false)
  | some t =>
    if r.trialLeft ≠ 0 then (s.writeBootRec fun r => { r with trialLeft := r.trialLeft - 1 }, t, true)
    else
      let s := s.writeBootRec fun r => { r with trial := none }
      ({ s with boot := if t then { s.boot with resB := 7 } else { s.boot with resA := 7 } }, r.active, false)

def State.setResult (s : State) (slot : Bool) (res : Nat) : State :=
  { s with boot := if slot then { s.boot with resB := res } else { s.boot with resA := res } }

/-- Steps 1 to 4 of R399: the slot that boots, none when neither verifies. -/
def State.selectSlot (s : State) (r : List Byte) : State × Option Bool :=
  let c := s.chooseSlot
  let first := c.2.1
  let res := c.1.verifySlot first s.boot.life r
  let s := c.1.setResult first res
  if res = 1 then ({ s with boot := { s.boot with trial := c.2.2 } }, some first)
  else
    let res := s.verifySlot (!first) s.boot.life r
    let s := s.setResult (!first) res
    (s, if res = 1 then some (!first) else none)

/-- What the flash and the running scroll say stands in the registers of R410 and R336. -/
def State.loadScroll (s : State) (slot : Bool) : State :=
  let h := s.scrollBytes slot 0 64
  let cfg := match s.sectionOf slot 3 with | some x => Config.scrollConfigOf (s.sectionBytes slot x) | none => default
  let map := (s.sectionOf slot 4).map fun x => Config.linkMapOf (s.sectionBytes slot x)
  let tag := match s.sectionOf slot 4 with | some x => x.crc | none => 0
  let mine : List Member := match map with
    | some m => m.members.filter fun x => x.rack = s.grp.rackId.toNat && x.slot = s.grp.slotId.toNat
    | none => []
  let s := { s with
    boot := { s.boot with booted := slot, secVer := leAt h 12 4, fwVer := w32 (leAt h 16 4), config := cfg },
    grp := { s.grp with linkMap := map, lmapTag := w32 tag,
                        rankValid := mine.length = 1,
                        rank := if mine.length = 1 then BitVec.ofNat 7 (mine.map (·.rank)).sum else 0,
                        mirrorRank := match mine with
                          | [x] => (match x.mirror with | some r => BitVec.ofNat 7 r | none => 0x7F)
                          | _ => 0x7F } }
  let s := cfg.thresholds.foldl (fun s t => s.setThreshold t.1 t.2) s
  cfg.rawPages.foldl (fun s p => if p < 73728 then s.setPage p { s.page p with kind := 1 } else s) s

/-- What the boot state record says stands in the registers. -/
def State.noteBootRec (s : State) : State :=
  let r := s.bootRec
  { s with boot := { s.boot with active := r.active, trialLeft := r.trialLeft, rbPending := r.rbPending, count := r.bootCount, life := r.state } }

/-- The stacks after step 5: trained, or not with STK_ERR.TRAIN set. -/
def State.trainStacks (s : State) (fails : List Nat) : State :=
  (List.range 12).foldl (fun s k =>
    if fails.contains k then s.raiseStack k 1 else s.modStack k fun x => { x with trained := true }) s

/-- Links of the link map with a cable take up training (R313, R401 step 10, R482); in BLANK and RETIRED every link stays DISABLED (R407). -/
def State.trainLink (s : State) (l : Nat) : State :=
  if s.boot.life = .blank || s.boot.life = .retired || (s.linkEntry l).isNone || !s.pins.cblPrsnt.getLsbD (l / 8) then s
  else s.modLink l fun x => if x.st = .disabled then { x with st := .training } else x

def State.startLinks (s : State) : State := (List.range linkCount).foldl State.trainLink s

/-- A module without peers is its own time master and is locked (R265, R313, R403). -/
def State.ownMaster (s : State) : State :=
  { s with gtc := { s.gtc with locked := true, master := true, holdover := false, masterRank := s.grp.rank, offset := 0, window := [], slewPpm := 0,
                               exch := none, stepDue := false } }

/-- Steps 10 to 12. `trained` names the links whose training has ended. -/
def State.joinGroup (s : State) (trained : List Nat) : State :=
  let s := { s with boot := { s.boot with phase := 10 } }.startLinks
  let s := trained.foldl (fun s l => if (s.link l).st = .training then s.trainedLink l else s) s
  let s := { s with boot := { s.boot with phase := 11 } }
  if s.boot.life = .blank || !s.grp.rankValid || s.others.isEmpty then s.ownMaster.becomeReady s.gtc.now.toNat else s

/-- Step 9: the wipe, and the read-back while one is due (R260, R263, R409). -/
def State.wipeDone (s : State) (us : Nat) (readBackOk : Bool) : State :=
  let s := (List.range 12).foldl (fun s k => s.modStack k fun x => { x with wiped := true }) s
  let s := { s with wipe := { wiping := false, done := true, rbOk := s.boot.rbPending && readBackOk, rbFail := s.boot.rbPending && !readBackOk,
                              us := BitVec.ofNat 16 (min us 0xFFFF) } }
  if s.boot.rbPending && readBackOk then (s.writeBootRec fun r => { r with rbPending := false }).noteBootRec else s

/-- Steps 4 to 12 of R401, once a slot has been chosen and its firmware runs. -/
def State.bootMain (s : State) (slot : Bool) (env : BootEnv) : State :=
  let s := s.railsOn.trainStacks env.stackFail
  if !env.stackFail.isEmpty then s.stopBoot 0x20 5
  else if env.fabricFail then s.stopBoot 0x21 5
  else if env.ioFail then s.stopBoot 0x22 5
  else
    let s := s.buildMap env.failSites
    let s := { s with boot := { s.boot with fullSelfTest := false } }
    if s.units.quills0 < 128 || s.units.quills1 < 128 then s.stopBoot 0x23 7
    else
      let s := s.scrollRuling ((List.range 4).map (s.scrollSet slot))
      let pass := s.psets.any fun p => match p with | some q => q.code = 0 | none => false
      let s := { s with boot := { s.boot with noPset := !pass } }
      let s := s.wipeDone env.wipeUs env.readBackOk
      if s.wipe.rbFail then s.stopBoot 0x30 9 else (s.passMs env.timeMs).joinGroup env.trained

/-- Steps 1 to 3, then the rest. The fuses, the straps and the boot state records are read; the record and the slot are chosen and verified. -/
def State.bootUp (s : State) (env : BootEnv) : State :=
  let s := { s with
    power := { s.power with good := true, rampDone := true, ref100 := true, standby := false, tripped := false, latchedOpen := false },
    grp := { s.grp with rackId := env.rackId, slotId := env.slotId },
    boot := { Boot.reset with fullSelfTest := s.boot.fullSelfTest },
    flash0 := { s.flash0 with bad := env.flashFail.contains 0 }, flash1 := { s.flash1 with bad := env.flashFail.contains 1 } }
  let s := s.noteBootRec
  if s.fuses.ret || s.boot.life = .retired then
    let s := s.eraseOwner
    { s with boot := { s.boot with life := .retired, keys := 0, revoked := 0, serial := BitVec.ofNat 64 (leAt (s.flash0.read 0 recordSize) 12 8) } }.stopBoot 0x40 1
  else match s.record with
    | none => s.stopBoot 0x11 2
    | some r =>
      let keyed := (s.recordCopies.filter s.recordValid).any fun r => recordKeys r ≠ 0
      let s := { s with boot := { s.boot with
        keys := recordKeys r, revoked := BitVec.ofNat 4 (recordRevoked r), serial := BitVec.ofNat 64 (leAt r 12 8), recordSeq := w32 (recordSeqOf r) } }
      if s.fuses.prov && !keyed then s.stopBoot 0x11 2
      else
        let c := s.selectSlot r
        match c.2 with
        | none => c.1.noteBootRec.stopBoot 0x10 2
        | some slot =>
          let s := (c.1.writeBootRec fun r => { r with bootCount := r.bootCount + 1 }).noteBootRec
          (s.loadScroll slot).bootMain slot env

/-- A reset of the module, before its boot (R259, R468, R497, R502). -/
def State.restart (s : State) : State :=
  let s := s.flushLog.clearMain.clearScribe
  { s with pins := { s.pins with thermtrip := false, relRdy := false, relReq := false } }

/-- A module reset by the scribe. With main power off the boot comes with the next power-good (R491). -/
def State.resetModule (s : State) (env : BootEnv) : State :=
  if s.power.switchClosed then
    let s := s.restart
    { s with power := { s.power with vio := false, vlane := false, vwell := false, vcore := false, vstk := false, vddq := false } }.bootUp env
  else
    let s := s.restart
    { s with power := { s.power with tripped := false, latchedOpen := false } }

end Sys2Proof.Machine
end

