-- ==== Sys2Proof/Machine/Sensors.lean ====
section
/-! DEFINITION. Sensors, thresholds, the thermal trip and the throttle ladder (R442 to R449). -/
namespace Sys2Proof.Machine

/-! ### Readings (R442, R443) -/

/-- An ID of the sensor inventory. -/
def sensorExists (id : Nat) : Bool := id < 158 || (160 ≤ id && id < 184)

/-- What a sensor ID reads: 0x8001 where none is assigned. -/
def State.sensorValue (s : State) (id : Nat) : BitVec 16 := if sensorExists id then (s.sensor id).value else 0x8001#16

/-- A sensor that answers takes part in thresholds. -/
def Sensor.answers (x : Sensor) : Bool := x.missed < 3

/-- The value of an answering sensor as a signed count. -/
def State.reading (s : State) (id : Nat) : Option Int :=
  let x := s.sensor id
  if x.answers then some x.value.toInt else none

/-- Row of the threshold table for a temperature sensor (R444). -/
def thresholdRow (id : Nat) : Nat := if id < 144 then 0 else if id < 156 then 1 else if id = 156 then 2 else 3

/-- Highest reading of a range of sensors, the lowest value of all where none answers. -/
def State.highest (s : State) (first count : Nat) : BitVec 16 :=
  (List.range count).foldl (fun m i => match s.reading (first + i) with
    | some v => if m.toInt < v then BitVec.ofInt 16 v else m
    | none => m) 0x8000#16

/-! ### Input power (R442, R444) -/

/-- Sum and number of the newest `n` power samples, each in 0.1 mW. -/
def State.powerSum (s : State) (n : Nat) : Nat × Nat :=
  let l := s.scr.powerWin.take n
  (l.foldl (· + ·) 0, l.length)

/-- The 100 ms average meets `w` watts. -/
def State.power100Meets (s : State) (w : Int) : Bool :=
  let p := s.powerSum 10000
  p.2 ≠ 0 && w * (10000 * p.2 : Nat) ≤ (p.1 : Int)

/-- The 2 ms average meets `w` watts. -/
def State.power2Meets (s : State) (w : Int) : Bool :=
  let p := s.powerSum 200
  p.2 ≠ 0 && w * (10000 * p.2 : Nat) ≤ (p.1 : Int)

/-- Input power in W over 100 ms and over 2 ms. -/
def State.power100 (s : State) : Nat := let p := s.powerSum 10000; p.1 / (10000 * p.2)
def State.power2 (s : State) : Nat := let p := s.powerSum 200; p.1 / (10000 * p.2)

/-! ### Rails (R442, R444, R493) -/

/-- The setpoint of a die's VCORE in force, in mV: the fused value for the clock in force. -/
def State.vcoreOf (s : State) (die : Nat) : Nat := s.fuses.vcore.getD (10 * die + (s.strk.clock.toNat - 9)) 0

/-- Nominal value of rail `r` in mV. -/
def State.nominal (s : State) (r : Nat) : Nat :=
  match r with
  | 0 => 54000
  | 1 => 3300
  | 2 => s.vcoreOf 0
  | 3 => s.vcoreOf 1
  | 4 => 800
  | 5 => 800
  | 6 => 800
  | 7 => 900
  | 8 => 1100
  | 9 => 1100
  | _ => 400

/-- Rail `r` is on: only then its voltage is judged (log entry 45). -/
def State.railOn (s : State) (r : Nat) : Bool :=
  match r with
  | 0 => s.power.vin && s.power.switchClosed
  | 1 => s.power.aux
  | 2 => s.power.vcore
  | 3 => s.power.vcore
  | 4 => s.power.vwell
  | 5 => s.power.vwell
  | 6 => s.power.vio
  | 7 => s.power.vlane
  | 8 => s.power.vstk
  | 9 => s.power.vstk
  | _ => s.power.vddq

/-- The bound of the window of ±`w` / 10 % that a voltage has crossed, in mV. -/
def windowBound (w nominal v : Nat) : Option Nat :=
  if 1000 * v < (1000 - w) * nominal then some ((1000 - w) * nominal / 1000)
  else if (1000 + w) * nominal < 1000 * v then some ((1000 + w) * nominal / 1000) else none

/-- Half the width of the rails' window, in 1/10 % (R444, R445). -/
def State.railWindow (s : State) : Nat := ((s.threshold 6).1.getD 30).toNat

/-! ### The SMBus alert latch (R446) -/

/-- The 100 ms average lies 3 % below its ALERT value (R446). -/
def State.powerQuiet (s : State) : Bool :=
  let sum := s.powerSum 10000
  match (s.threshold 4).1 with
  | some t => 100 * (sum.1 : Int) ≤ 97 * t * (10000 * sum.2 : Nat)
  | none => true

/-- Every reading of a cause's class is far enough below its ALERT value. Rails and flow have no such margin: they must have left their alert
(log entry 45). -/
def State.quiet (s : State) (cause : Nat) : Bool :=
  let cool := fun (id : Nat) => match s.reading id, (s.threshold (thresholdRow id)).1 with
    | some v, some t => v ≤ t - 12
    | _, _ => true
  match cause with
  | 0 => (List.range 156).all cool
  | 3 => cool 156 && cool 157 && !s.scr.flowAlerted
  | 4 => s.powerQuiet
  | 5 => (List.range 12).all fun r => !(s.sensor (160 + 2 * r)).answers || !(s.sensor (160 + 2 * r)).alerted
  | _ => true

/-- Causes that the tray controller has read and whose class is quiet leave the latch. -/
def State.settleLatch (s : State) : State :=
  let gone := (List.range 8).foldl (fun m i => if s.scr.latchSeen.getLsbD i && s.quiet i then m ||| BitVec.ofNat 8 (2 ^ i) else m) 0#8
  { s with scr := { s.scr with latch := s.scr.latch &&& ~~~gone, latchSeen := s.scr.latchSeen &&& ~~~gone } }

/-! ### Thresholds of one sample (R444, R446) -/

def State.modSensor (s : State) (id : Nat) (f : Sensor → Sensor) : State := s.setSensor id (f (s.sensor id))

/-- A temperature against its ALERT value: one alert when it comes to meet it, armed again 3 °C below. -/
def State.checkTemp (s : State) (id : Nat) (v : Int) : State :=
  match (s.threshold (thresholdRow id)).1 with
  | none => s
  | some t =>
    let x := s.sensor id
    if t ≤ v && !x.alerted then
      (s.modSensor id fun x => { x with alerted := true }).alert id (x.value.setWidth 32) ((BitVec.ofInt 16 t).setWidth 32) (if id < 156 then 0 else 3)
    else if v ≤ t - 12 then s.modSensor id fun x => { x with alerted := false }
    else s

/-- A rail voltage against its window. -/
def State.checkRail (s : State) (id : Nat) : State :=
  let x := s.sensor id
  let r := (id - 160) / 2
  match if s.railOn r then windowBound s.railWindow (s.nominal r) x.value.toNat else none with
  | some b =>
    if x.alerted then s
    else (s.modSensor id fun x => { x with alerted := true }).alert id (x.value.setWidth 32) (w32 b) 5
  | none => s.modSensor id fun x => { x with alerted := false }

/-- A sample of input power: energy, averages, PMAX and the ALERT of the 100 ms average. -/
def State.powerSample (s : State) : State :=
  let v := s.sensor 160
  let i := s.sensor 161
  if !v.answers || !i.answers then s
  else
    let p := v.value.toNat * i.value.toNat
    let s := { s with scr := { s.scr with
      powerWin := (p :: s.scr.powerWin).take 10000, energyNj := s.scr.energyNj + p, flowSum := s.scr.flowSum + p, flowCount := s.scr.flowCount + 1 } }
    let s := s.mapTele fun t => { t with pmax := max t.pmax s.power2 }
    match (s.threshold 4).1 with
    | none => s
    | some t =>
      if s.power100Meets t && !s.scr.powerAlerted then
        { s with scr := { s.scr with powerAlerted := true } }.alert 161 (w32 s.power100) (w32 t.toNat) 4
      else if s.powerQuiet then { s with scr := { s.scr with powerAlerted := false } } else s

/-- Highest readings since each channel's last TELEMETRY (R455). -/
def State.noteMax (s : State) (id : Nat) : State :=
  let v := (s.sensor id).value
  let up := fun (m : BitVec 16) => if m.toInt < v.toInt then v else m
  if id < 144 then s.mapTele fun t => { t with tmaxDie := up t.tmaxDie }
  else if id < 156 then s.mapTele fun t => { t with tmaxStack := up t.tmaxStack }
  else if id = 157 then s.mapTele fun t => { t with tmaxOut := up t.tmaxOut }
  else s

/-! ### The thermal trip (R447) -/

/-- TRIP value of a sensor with a comparator, in 1/4 °C. -/
def tripValue (id : Nat) : Option Int := if id < 144 then some 440 else if id < 156 then some 420 else none

/-- Flits leave a link until its VC3 holds nothing that can go. -/
def State.flushVc3 (s : State) (l : Nat) : Nat → State
  | 0 => s
  | n + 1 => if (s.link l).resend.isEmpty && (s.link l).sendable 3 = 0 then s else (s.sendFlit l).flushVc3 l n

/-- TRIP goes out on an UP link (R331). -/
def State.sendTrip (s : State) (l : Nat) : State :=
  let s := s.recordOn l (s.link l).peerRank.toNat 0x22 [s.strokeNum]
  s.flushVc3 l ((s.link l).resend.length + (s.link l).vc3.length)

/-- The module trips: TRIP on every UP link, THERMTRIP_N, every rail off, the TRIP entry and SCR_ALERT.TRIP. -/
def State.trip (s : State) (id : Nat) : State :=
  let s := if s.live then ((List.range linkCount).filter s.linkUp).foldl State.sendTrip s else s
  let s := s.logEvent 0x0022 3 [w32 id, (s.sensor id).value.setWidth 32]
  let s := s.mainOff
  let s := { s with pins := { s.pins with thermtrip := true }, power := { s.power with tripped := true },
                    scr := { s.scr with trips := s.scr.trips + 1 } }
  s.raiseAlert 2

/-- Every answering sensor reads at least 20 °C below its TRIP value, so RESET is no longer refused. -/
def State.cooled (s : State) : Bool :=
  (List.range 156).all fun id => match s.reading id, tripValue id with
    | some v, some t => v ≤ t - 80
    | _, _ => true

/-- The comparators see a sample. -/
def State.checkTrip (s : State) (id : Nat) (v : Int) : State :=
  match tripValue id with
  | some t => if t ≤ v && !s.power.tripped then s.trip id else s
  | none => s

/-- A temperature sensor of a throttle class reads at least 5 °C below its THROTTLE value. -/
def State.coolEnough (s : State) (id : Nat) : Bool :=
  match s.reading id, (s.threshold (thresholdRow id)).2 with
  | some v, some t => v ≤ t - 20
  | _, _ => true

/-- Every temperature of a throttle class reads at least 5 °C below its THROTTLE value, and the 100 ms power is below 3,500 W. -/
def State.stepUpOk (s : State) : Bool := (List.range 156 ++ [157]).all s.coolEnough && !s.power100Meets 3500

/-- A sample that is not cool enough ends the continuous second before a step up (R448). -/
def State.noteWarm (s : State) (id : Nat) : State :=
  if (id < 156 || id = 157) && !s.coolEnough id || id = 161 && s.power100Meets 3500 then
    { s with scr := { s.scr with throttle := { s.scr.throttle with coolMs := 0 } } }
  else s

/-! ### The commands of the sensor table -/

/-- SENSOR_SAMPLE: `reading = none` is a sample that the sensor misses. A missed sample counts with the last answered value, the third in a row reads
0x8000 and sets SCR_ALERT.SENSOR. -/
def State.takeSample (s : State) (id : Nat) (reading : Option (BitVec 16)) : State :=
  let x := s.sensor id
  let s := match reading with
    | some v => s.setSensor id { x with value := v, missed := 0 }
    | none =>
      if x.missed + 1 < 3 then s.setSensor id { x with missed := x.missed + 1 }
      else
        let s := s.setSensor id { x with value := 0x8000#16, missed := 3 }
        let s := if id = 160 || id = 161 then { s with scr := { s.scr with powerWin := [] } } else s
        if x.missed = 2 then s.raiseAlert 7 else s
  let s := if (s.sensor id).answers then
      (if id < 158 then
        let v := (s.sensor id).value.toInt
        ((s.noteMax id).checkTemp id v).checkTrip id v
      else if id % 2 = 0 then s.checkRail id
      else if id = 161 then s.powerSample
      else s)
    else s
  (s.noteWarm id).settleLatch

def execSensorSample (id : Nat) (reading : Option (BitVec 16)) (s : State) : Out State :=
  if s.power.scribe && sensorExists id then .next (s.takeSample id reading) else .next s

/-- The sums that the flow estimate is taken from: with `n` power samples of 0.1 mW and a rise of `rise` quarters of a kelvin, the flow in 0.01 L/min is the first number
over the second (R444). -/
def flowRatio (sum n rise : Nat) : Nat × Nat := (24000 * sum, 3978 * 10000 * n * rise)

/-- FLOW_ESTIMATE: the estimate over 1 s, from the average power and the coolant's present rise, judged exactly and kept in whole units of 0.01 L/min; none where the coolant
does not rise, and none of a second without a power sample (R444; log entry 15). -/
def execFlowEstimate (s : State) : Out State :=
  if !s.power.scribe then .next s
  else
    let sum := s.scr.flowSum
    let n := s.scr.flowCount
    let s := { s with scr := { s.scr with flowSum := 0, flowCount := 0 } }
    match s.reading 156, s.reading 157 with
    | some i, some o =>
      if o ≤ i || n = 0 then .next s
      else
        let q := flowRatio sum n (o - i).toNat
        let limit := ((s.threshold 7).1.getD 0).toNat
        let s := s.mapTele fun t => { t with flowMin := min t.flowMin (min (q.1 / q.2) 0xFFFF) }
        let low := decide (1000 * 10000 * n < sum) && decide (q.1 < limit * q.2)
        let s := if low && !s.scr.flowAlerted then s.alert 157 (w32 (q.1 / q.2)) (w32 limit) 3 else s
        .next ({ s with scr := { s.scr with flowAlerted := low } }.settleLatch)
    | _, _ => .next s

/-! ### The throttle ladder (R448, R449) -/

/-- The cause bits of the throttle condition: die, stack, coolant, power over 100 ms and over 2 ms. -/
def State.throttleCause (s : State) : BitVec 6 :=
  let hot := fun (ids : List Nat) => ids.any fun id => match s.reading id, (s.threshold (thresholdRow id)).2 with
    | some v, some t => t ≤ v
    | _, _ => false
  let meets := fun (row : Nat) (f : Int → Bool) => match (s.threshold row).2 with | some t => f t | none => false
  BitVec.ofNat 6 (bit (hot (List.range 144)) + 2 * bit (hot ((List.range 12).map (· + 144))) + 4 * bit (hot [157])
    + 8 * bit (meets 4 s.power100Meets) + 16 * bit (meets 5 s.power2Meets))

/-- One evaluation's bookkeeping: pending step, times, links' error windows (R304), THROTTLE_MS, and without a job the clock of the rung. -/
def State.throttleTick (s : State) : State :=
  let t := s.scr.throttle
  let took := match t.downPending with | some c => s.strk.run.isNone || c ≤ s.strokeNum | none => false
  let ok := s.stepUpOk
  let t := if took then t.tookEffect else { t with downMs := t.downMs - 1 }
  let s := s.setThrottle { t with
    coolMs := if ok then t.coolMs + 1 else 0, sinceUpMs := t.sinceUpMs + 1 }
  let s := if 0 < t.rung then s.mapTele fun x => { x with throttleMs := x.throttleMs + 1 } else s
  if s.strk.run.isNone then { s with strk := { s.strk with clock := BitVec.ofNat 5 s.combinedRate.1 } } else s

/-- THROTTLE_EVALUATION, every 1 ms. -/
def execThrottleEvaluation (s : State) : Out State :=
  if !s.live || !s.power.scribe then .next s
  else
    let s := s.throttleTick
    let t := s.scr.throttle
    let old := s.combinedRate
    let rung := min t.rung (lowestRung s.topClock)
    let cause := s.throttleCause
    if cause ≠ 0 && t.downPending.isNone && t.downMs = 0 && rung < lowestRung s.topClock then
      let n : Throttle := { t with rung := rung + 1, cause := t.cause ||| cause }
      let s := s.setThrottle n
      let s := s.setThrottle (if s.strk.run.isSome && s.combinedRate ≠ old then { n with downPending := some (s.strokeNum + 2) } else { n with downMs := 10 })
      .next (s.changeRate old rung true)
    else if 0 < rung && 1000 < t.coolMs && 1000 ≤ t.sinceUpMs then
      let s := s.setThrottle { t with rung := rung - 1, cause := if rung = 1 then t.cause &&& 0x20#6 else t.cause, sinceUpMs := 0 }
      .next (s.changeRate old rung false)
    else .next s

end Sys2Proof.Machine
end

