-- ==== Sys2Proof/Machine/VcuTools.lean ====
section
/-! DEFINITION. What the video codec unit may use and decode (R364 to R367, R378): the encoder's tools, its motion vectors within the search window,
the bitstreams that the decoder supports, and the bytes of OBUs and NAL units. -/
namespace Sys2Proof.Machine

/-! ### The encoder's tools (R365) -/

/-- A block, prediction or coding unit of a standard that the encoder's block structure reaches: every AV1 partition of a 64 × 64 superblock down to 8 × 8; HEVC
coding units of 8 × 8 to 64 × 64 and their symmetric and asymmetric partitions (R365). -/
def blockOk (hevc : Bool) (w h : Nat) : Bool :=
  let sides := [8, 16, 32, 64]
  if hevc then sides.any fun n => (w = n && [n / 4, n / 2, 3 * n / 4, n].contains h || h = n && [n / 4, n / 2, 3 * n / 4].contains w) && (8 < n || 4 ≤ min w h)
  else sides.contains w && sides.contains h && w ≤ 4 * h && h ≤ 4 * w

/-- An AV1 transform size. -/
def av1Transform (w h : Nat) : Bool := [4, 8, 16, 32, 64].contains w && [4, 8, 16, 32, 64].contains h && w ≤ 4 * h && h ≤ 4 * w

/-- The table of R365; `columns` are the tile columns that AV1 uses at the picture's width, and `guard` says that the budget guard has fired before the superblock, the only
cause of a changed quantiser. -/
def toolOk (hevc : Bool) (columns : Nat) (guard : Bool) : EncTool → Bool
  | .block w h => blockOk hevc w h
  | .dct w h => if hevc then w = h && [4, 8, 16, 32].contains w else av1Transform w h
  | .adst w h | .flipAdst w h | .identity w h => !hevc && av1Transform w h
  | .dst n | .transformSkip n => hevc && n = 4
  | .directional | .smoothIntra | .paeth | .chromaFromLuma | .intraEdgeFilter => !hevc
  | .hevcIntra mode => hevc && mode < 35
  | .single | .compoundAverage => true
  | .compoundDistance | .regularInterpolation => !hevc
  | .merge | .amvp => hevc
  | .deblocking => true
  | .cdef | .wiener | .selfGuided => !hevc
  | .sao | .signHiding => hevc
  | .deltaQ => guard
  | .tiles n => !hevc && n = columns
  | .palette | .intraBlockCopy | .obmc | .warped | .globalMotion | .wedge | .differenceWeighted | .interIntra | .switchableInterpolation
  | .eighthSample | .superres | .referenceScaling | .filmGrain => false
  | .wavefront | .dependentSlices | .pcm | .weightedPrediction | .scalingLists | .longTerm | .transquantBypass | .fieldCoding => false

/-! ### Motion vectors (R376, R378) -/

/-- A prediction block at `x`, `y` of the superblock with a vector in quarter samples lies, with its margin of 3 samples above and to the left and 4 below and to
the right, within the window of ±192 columns and ±96 rows (R378). -/
def inWindow (b : InterBlock) (mvx mvy : Int) : Bool :=
  let dx := mvx / 4
  let dy := mvy / 4
  decide (-192 ≤ (b.x : Int) + dx - 3 ∧ (b.x : Int) + b.w - 1 + dx + 4 ≤ 255 ∧ -96 ≤ (b.y : Int) + dy - 3 ∧ (b.y : Int) + b.h - 1 + dy + 4 ≤ 159)

/-- An inter block that the encoder may choose: inside its superblock, from one of the picture's references, with its vector and its candidate in the
window. -/
def interOk (refs : Nat) (b : InterBlock) : Bool :=
  b.ref < refs && 0 < b.w && 0 < b.h && b.x + b.w ≤ 64 && b.y + b.h ≤ 64 && inWindow b b.mvx b.mvy && inWindow b b.candX b.candY

/-! ### Bitstreams to decode (R364, R366, R387) -/

/-- The highest level that a gang decodes, as 10 times its number (R364). -/
def decodeLevel (gang : Nat) : Nat := if gang = 1 then 52 else if gang = 2 then 61 else 62

/-- The context decodes a sequence: its profile, bit depth and chroma format, no excluded feature, and the context's size, level and buffers (R364, R366, R387). -/
def seqSupported (d : StreamCtx) (q : SeqInfo) : Bool :=
  (if d.hevc then (q.profile = 1 || q.profile = 2) && q.chroma = 1 && !q.extension else q.profile = 0 && q.chroma ≤ 1 && !q.largeScaleTile)
    && (q.bits = 8 || q.bits = 10) && (q.bits = 8 || !d.hevc || q.profile = 2)
    && q.width ≤ d.width && q.height ≤ d.height && q.level ≤ decodeLevel d.gang && q.buffers ≤ d.bufs

/-! ### Bytes of a bitstream (R367, R381) -/

/-- The leb128 code of a number, as AV1 codes sizes (PRESUMED, log entry 94). -/
def leb128 : Nat → Nat → List Byte
  | 0, n => [BitVec.ofNat 8 (n % 128)]
  | fuel + 1, n => if n < 128 then [BitVec.ofNat 8 n] else BitVec.ofNat 8 (n % 128 + 128) :: leb128 fuel (n / 128)

/-- An OBU of the low-overhead format, with obu_has_size_field 1 (R367). -/
def obuBytes (u : StreamUnit) : List Byte := BitVec.ofNat 8 (8 * (u.type % 16) + 2) :: leb128 8 u.payload.length ++ u.payload

/-- A NAL unit's payload with its emulation prevention bytes; `zeros` counts the zero bytes before it (PRESUMED, log entry 94). -/
def escapeNal : Nat → List Byte → List Byte
  | _, [] => []
  | zeros, b :: rest =>
    if 2 ≤ zeros && b.toNat ≤ 3 then 3#8 :: b :: escapeNal (if b = 0 then 1 else 0) rest
    else b :: escapeNal (if b = 0 then zeros + 1 else 0) rest

/-- A NAL unit of the Annex B byte stream; parameter sets and the first unit of a picture have the start code of four bytes (R367). -/
def nalBytes (first : Bool) (u : StreamUnit) : List Byte :=
  (if first || 32 ≤ u.type then [0#8] else []) ++ [0#8, 0#8, 1#8, BitVec.ofNat 8 (2 * (u.type % 64)), 1#8] ++ escapeNal 0 u.payload

/-- The types of the OBUs or NAL units that make an emission unit (R367, R381): temporal delimiter 2, sequence header 1 and frame header 3 before the first tile
group 4; VPS 32, SPS 33 and PPS 34 before the first slice of an IDR picture, a slice of which is 19 or 20 and of another picture 0 to 9. -/
def unitTypesOk (hevc key first : Bool) (types : List Nat) : Bool :=
  if hevc then
    let sets := if first && key then [32, 33, 34] else []
    types.take sets.length = sets && match types.drop sets.length with
      | [t] => if key then t = 19 || t = 20 else t ≤ 9
      | _ => false
  else types = (if first then [2] ++ (if key then [1] else []) ++ [3] else []) ++ [4]

/-- The parts of an emission unit, a temporal delimiter being empty. -/
def unitPartsOk (hevc key first : Bool) (parts : List StreamUnit) : Bool :=
  unitTypesOk hevc key first (parts.map (·.type)) && (hevc || parts.all fun u => u.type ≠ 2 || u.payload.isEmpty)

/-- The bytes of an emission unit. -/
def unitBytes (hevc first : Bool) (parts : List StreamUnit) : List Byte :=
  if hevc then parts.zipIdx.flatMap fun e => nalBytes (first && e.2 = 0) e.1 else parts.flatMap obuBytes

end Sys2Proof.Machine
end

