-- ==== Sys2Proof/Machine/Vcu.lean ====
section
/-! DEFINITION. The video codec unit (R360 to R391): the choice of a frame, rate control and the budget guard, search windows, reconstructed pictures, emission,
decoded frames, and the host's stream positions (R427 to R429). The choices that the coding of a superblock makes, and the samples it yields, are an operand
(log entry 3); the unit holds them to R365, R378 and R380 (log entry 95). A decoded sample is a free function of the bytes that it is decoded from (log entry 115). -/
namespace Sys2Proof.Machine

def pipeCount : Nat := 12

/-! ### Frame start (R373 to R375, R379) -/

/-- Difference of two positions modulo 2^32, as a signed value (R427). -/
def posDiff (a b : Word) : Int := (a - b).toInt

/-- Due stroke of a context's runnable frame: a request's release stroke, or the ready stroke of a frame that has input (R374, R375). -/
def runnable (c : Ctx) : Option Nat :=
  if !c.isOpen then none
  else if c.decl.decode then
    (if c.next < c.decl.ready.length && (0 < posDiff c.hostpos c.vcupos || 0 < c.back) then some (c.decl.ready.getD c.next 0) else none)
  else c.requests.head?.map (·.release)

/-- The context of a lead pipe whose frame has the earliest due stroke, ties to the lower CTX. -/
def State.pickCtx (s : State) (lead : Nat) : Option (Ctx × Nat) :=
  (List.range 32).foldl (fun acc k => match s.ctx lead k with
    | none => acc
    | some c => match runnable c with
      | none => acc
      | some due => match acc with
        | some a => if due < a.2 then some (c, due) else acc
        | none => some (c, due)) none

/-- N (R379). -/
def nominalBits (d : StreamCtx) : Nat := if d.fpsNum = 0 then 0 else d.bitrate * d.fpsDen / d.fpsNum

/-- Frames of one second, at least one. -/
def framesPerSecond (d : StreamCtx) : Nat := if d.fpsDen = 0 then 1 else max 1 (d.fpsNum / d.fpsDen)

/-- The nominal budget; under VBR with firmware's ratio, between a half and two, and within PEAK over the last second (log entry 10). -/
def frameNominal (d : StreamCtx) (key : Bool) (last : List Nat) (ratio : Nat) : Nat :=
  let n := nominalBits d
  if d.rateMode = 2 then
    min (n * max 32768 (min 131072 ratio) / 65536) (d.peak - ((last.take (framesPerSecond d - 1)).foldl (· + ·) 0))
  else if key then d.keyMult * n else n

/-- B from the nominal budget and the carry. -/
def frameBudget (d : StreamCtx) (nominal : Nat) (carry : Int) : Nat := (max ((nominal : Int) - carry) ((nominalBits d / 4 : Nat) : Int)).toNat

/-- The next frame of an encode context is a key frame (R379, R388; log entry 43). -/
def isKey (c : Ctx) : Bool := c.forceKey || c.decl.keyInt ≤ c.sinceKey + 1

/-- The frame buffers of an encoded frame's reference pictures: the context's latest pictures, none for a key frame (R365, R372). -/
def frameRefs (c : Ctx) : List Nat := if c.decl.decode || isKey c then [] else (c.pics.map (·.buf)).take c.decl.refs

/-- The frame buffer that takes an encoded frame's reconstruction: the lowest that holds no reference picture (R371; log entry 95). -/
def frameBuf (c : Ctx) : Nat := ((List.range (c.decl.refs + 1)).find? fun k => !(frameRefs c).contains k).getD 0

/-- A context's parameters as the operands of a free value (R363, R372). -/
def declNats (d : StreamCtx) : List Nat :=
  [if d.decode then 1 else 0, if d.hevc then 1 else 0, d.bits, d.width, d.height, d.lead, d.gang, d.ctx, d.bufs, d.rateMode, d.bitrate, d.peak, d.fpsNum, d.fpsDen,
    d.qpMin, d.qpMax, d.qpFix, d.keyInt, d.keyMult, d.refs, d.unitRows]

/-- What firmware of version `fw` chooses a frame's parameters from: the context's parameters, the frame's number, the epoch of the run, and the bits and quantiser of the
frames before it. Neither time nor another context has a part in it (R363). -/
def frameNats (c : Ctx) (fw : Word) : List Nat := declNats c.decl ++ [fw.toNat, c.next, c.resumes, c.epoch, c.qpLast] ++ c.bitsLast

/-- The parameters of a context's next frame under firmware `fw`. -/
def frameParams (c : Ctx) (fw : Word) : VcuFrame :=
  let d := c.decl
  let key := isKey c
  let rated := !d.decode && d.rateMode ≠ 0
  let nominal := if rated then frameNominal d key c.bitsLast (Config.vbrRatio (frameNats c fw)) else 0
  let budget := if rated then frameBudget d nominal c.carry else 0
  { ctx := d.ctx, frame := c.next, key := !d.decode && key,
    slot := if d.decode then c.next % max 1 d.depth else (c.requests.head?.map (·.slot)).getD 0,
    release := (runnable c).getD 0, nominal := nominal, budget := budget,
    qp := if d.decode then 0 else if rated then max d.qpMin (min d.qpMax (Config.frameQp (budget :: frameNats c fw))) else d.qpFix,
    buf := frameBuf c, refs := frameRefs c, bits := 0, sb := 0, guardSb := none, clamped := 0, poison := false, unit := 0, bytes := 0, dropping := false,
    concealed := 0, flags := 0 }

/-- The pipes of a gang begin a frame: no superblock of their bands is done, no edge row was exchanged, no window is loaded (R362, R377). -/
def State.openBands (s : State) (lead gang : Nat) : State :=
  (List.range gang).foldl (fun s i => s.modPipe (lead + i) fun x => { x with bandSb := 0, edges := [], windows := [] }) s

/-- VCU_FRAME_START. -/
def execVcuFrameStart (pipe : Nat) (s : State) : Out State :=
  if pipeCount ≤ pipe then .fault .absentUnit
  else
    let x := s.pipe pipe
    if !s.live || s.strk.run.isNone || x.frame.isSome || x.lead.toNat ≠ pipe then .next s
    else match s.pickCtx pipe with
      | none => .next s
      | some (c, _) =>
        let k := c.decl.ctx
        let change := match x.last with | some l => l ≠ k | none => false
        .next ((s.setPipe pipe { x with
            frame := some (frameParams c s.boot.fwVer), ctx := BitVec.ofNat 5 k, last := some k, switching := change,
            cswitch := if change then satAdd x.cswitch 1 else x.cswitch }).openBands pipe c.decl.gang)

/-! ### Input samples (R368, R369) -/

/-- A sample that a clamp or the mid-grey value changes: the element is NaN, or its rounding lies outside 0 to 2^b − 1. -/
def sampleChanged (bits : Nat) (v : FV) : Bool :=
  match v with
  | .nan => true
  | .inf _ => true
  | .num neg mag => if neg then (1 : Rat) / 2 < mag else (2 : Rat) ^ bits - 1 / 2 ≤ mag

/-- 2^(b − 1). -/
def midGrey (bits : Nat) : Nat := 2 ^ (bits - 1)

/-- The sample of an element: rounded and clamped, mid-grey for a NaN or poisoned one (R369). DESIGN CHOICE (log entry 95) for pictures in frame buffers, where
the spec is silent. -/
def sampleOf (bits : Nat) (v : FV) : Nat :=
  match v with
  | .nan => midGrey bits
  | .inf neg => if neg then 0 else 2 ^ bits - 1
  | .num neg mag => if neg then 0 else min (roundNat mag) (2 ^ bits - 1)

/-- The first `n` samples of a line. -/
def picSamples (bits n : Nat) (l : Line) : List Nat := ((lineValues 7 l l 32).take n).map (sampleOf bits)

/-- Changed samples among the first `n` of a line, and whether one of them is poisoned. -/
def lineSamples (bits n : Nat) (l : Line) : Nat × Bool :=
  (((lineValues 7 l l 32).take n).countP (sampleChanged bits),
   (List.range 4).any fun b => 8 * b < n && scaleByte l b ≠ 0 && scaleByte l b ≠ 0x78)

/-- Lines of a plane that a superblock covers: offset in the frame and samples within the plane's width. `size` is the superblock's side. -/
def planeLines (first w h size row col : Nat) : List (Nat × Nat) :=
  let n := ceilDiv w 32
  (List.range (min size (h - size * row))).flatMap fun r => (List.range (size / 32)).filterMap fun j =>
    let k := size / 32 * col + j
    if k < n then some (first + (size * row + r) * n + k, min 32 (w - 32 * k)) else none

/-- Lines of superblock `sb` of a pixel frame, all three planes. -/
def sbLines (d : StreamCtx) (sb : Nat) : List (Nat × Nat) :=
  let row := sb / sbCols d
  let col := sb % sbCols d
  let y := d.height * ceilDiv d.width 32
  let c := d.height / 2 * ceilDiv (d.width / 2) 32
  planeLines 0 d.width d.height 64 row col ++ planeLines y (d.width / 2) (d.height / 2) 32 row col
    ++ planeLines (y + c) (d.width / 2) (d.height / 2) 32 row col

/-- Line address of line `k` of ring slot `slot`. -/
def slotLine (d : StreamCtx) (slot k : Nat) : Nat := lineStep (lineAddr (d.ringPage + slot * framePages d) 0) k

/-- A superblock's input: its converted samples line by line, how many a clamp or mid-grey changed, and whether one was poisoned (R369). -/
structure InputSb where
  samples : List (List Nat)
  changed : Nat
  poison : Bool
  deriving DecidableEq, Repr, Inhabited

/-- Read a superblock's input lines and convert their elements (R369). -/
def State.readSamples (s : State) (d : StreamCtx) (slot : Nat) : List (Nat × Nat) → State × InputSb
  | [] => (s, { samples := [], changed := 0, poison := false })
  | e :: rest =>
    let r := s.moverNowOf 2 (slotLine d slot e.1)
    let a := lineSamples d.bits e.2 r.2
    let b := r.1.readSamples d slot rest
    (b.1, { samples := picSamples d.bits e.2 r.2 :: b.2.samples, changed := a.1 + b.2.changed, poison := a.2 || b.2.poison })

/-! ### Pictures in frame buffers (R368, R371) -/

/-- A line of a pixel frame with the given samples: elements beyond the width are +0, and a quarter wholly beyond it has tag 0x00 (R368). -/
def picLine (xs : List Nat) : Line :=
  wideLine 7 (xs.map fun x => .num false (x : Rat)) ((List.range 4).map fun b => if 8 * b < xs.length then 0x78#8 else 0#8)

/-- Line address of line `k` of frame buffer `buf` of a context. -/
def picAddr (c : Ctx) (buf k : Nat) : Nat := lineStep (lineAddr (c.firstBuf + buf * framePages c.decl) 0) k

/-- Write a superblock's samples into a frame buffer, line by line. -/
def State.putSb (s : State) (c : Ctx) (buf : Nat) (lines : List (Nat × Nat)) (recon : List (List Nat)) : State :=
  (lines.zip recon).foldl (fun s e => s.t2Write (picAddr c buf e.1.1) (picLine e.2) .job) s

/-- Samples of one line for each line of a superblock, each within the bit depth. -/
def reconOk (bits : Nat) (lines : List (Nat × Nat)) (recon : List (List Nat)) : Bool :=
  recon.map (·.length) = lines.map (·.2) && recon.all fun l => l.all fun x => x < 2 ^ bits

/-! ### Search windows (R376, R377) -/

/-- Samples of row `y` of a plane of a buffer in the `size` columns of superblock column `col`; those beyond the width repeat the last one. -/
def State.refRow (s : State) (c : Ctx) (buf first w size col y : Nat) : State × List Nat :=
  let n := ceilDiv w 32
  let r := ((List.range (size / 32)).filter fun j => size / 32 * col + j < n).foldl (fun (a : State × List Nat) j =>
    let k := size / 32 * col + j
    let x := a.1.moverNowOf 2 (picAddr c buf (first + y * n + k))
    (x.1, a.2 ++ picSamples c.decl.bits (min 32 (w - 32 * k)) x.2)) (s, [])
  (r.1, r.2 ++ List.replicate (size - r.2.length) (r.2.getLastD 0))

/-- The rows of a plane around superblock row `row`, `size` samples wide and 4 · `size` high: only rows of the picture are read, and those outside repeat its edge
rows (R376, R377). -/
def State.refRows (s : State) (c : Ctx) (buf first w h size row col : Nat) : State × List (List Nat) :=
  let top := size * row - min (size * row) (3 * size / 2)
  let above := 3 * size / 2 - (size * row - top)
  let bottom := min h (size * row + 5 * size / 2)
  let r := (List.range (bottom - top)).foldl (fun (a : State × List (List Nat)) i =>
    let x := a.1.refRow c buf first w size col (top + i)
    (x.1, a.2 ++ [x.2])) (s, [])
  (r.1, List.replicate above (r.2.headD []) ++ r.2 ++ List.replicate (4 * size - above - r.2.length) (r.2.getLastD []))

/-- One column of a search window, read from a frame buffer (R377). -/
def State.refCol (s : State) (c : Ctx) (buf row col : Nat) : State × WindowCol :=
  let d := c.decl
  let y := d.height * ceilDiv d.width 32
  let k := d.height / 2 * ceilDiv (d.width / 2) 32
  let a := s.refRows c buf 0 d.width d.height 64 row col
  let b := a.1.refRows c buf y (d.width / 2) (d.height / 2) 32 row col
  let e := b.1.refRows c buf (y + k) (d.width / 2) (d.height / 2) 32 row col
  (e.1, { luma := a.2, cb := b.2, cr := e.2 })

/-- A column beyond an edge of the picture: every row repeats the edge sample that the neighbour's row gives (R376). -/
def WindowCol.repeatEdge (w : WindowCol) (right : Bool) : WindowCol :=
  let f := fun (size : Nat) (rows : List (List Nat)) => rows.map fun (r : List Nat) => List.replicate size (if right then r.getLastD 0 else r.headD 0)
  { luma := f 64 w.luma, cb := f 32 w.cb, cr := f 32 w.cr }

/-- The next column of a window: read where it lies in the picture, else the edge repeated. -/
def State.nextCol (s : State) (c : Ctx) (buf row col : Nat) (w : List WindowCol) : State × List WindowCol :=
  if col < sbCols c.decl then
    let r := s.refCol c buf row col
    (r.1, w ++ [r.2])
  else (s, w ++ [(w.getLastD default).repeatEdge true])

/-- The search window of one reference picture at a superblock: the whole window in column 0, else one new column for the leftmost (R377). -/
def State.moveWindow (s : State) (c : Ctx) (buf row col : Nat) (w : List WindowCol) : State × List WindowCol :=
  if col = 0 then
    let r := (List.range 4).foldl (fun (a : State × List WindowCol) j => a.1.nextCol c buf row j a.2) (s, [])
    (r.1, List.replicate 3 ((r.2.headD default).repeatEdge false) ++ r.2)
  else s.nextCol c buf row (col + 3) (w.drop 1)

/-- The windows of a pipe at a superblock, one for each reference picture. -/
def State.moveWindows (s : State) (pipe : Nat) (c : Ctx) (refs : List Nat) (row col : Nat) : State :=
  let r := refs.zipIdx.foldl (fun (a : State × List (List WindowCol)) e =>
    let x := a.1.moveWindow c e.1 row col (((s.pipe pipe).windows).getD e.2 [])
    (x.1, a.2 ++ [x.2])) (s, [])
  r.1.modPipe pipe fun x => { x with windows := r.2 }

/-! ### Superblocks (R380, R384, R385, R387) -/

def sbCount (d : StreamCtx) : Nat := sbRows d * sbCols d

/-- O of a frame (R380). -/
def overshoot (f : VcuFrame) : Nat := f.bits - f.budget

/-- C after a frame (R379). -/
def nextCarry (carry : Int) (f : VcuFrame) : Int := max (carry - ((f.nominal : Int) - f.budget)) 0 + overshoot f

/-- The end of a rated frame's last superblock: carry, and the overshoot's event, count and log entry. -/
def State.endBits (s : State) (lead : Nat) (c : Ctx) (f : VcuFrame) : State :=
  let s := s.setCtx lead f.ctx (some { c with
    carry := if c.decl.rateMode = 0 then c.carry else nextCarry c.carry f, bitsLast := (f.bits :: c.bitsLast).take 240, qpLast := f.qp })
  if c.decl.rateMode = 0 || overshoot f = 0 then s
  else
    let s := (s.raiseVcu lead 3 f.ctx f.frame).modPipe lead fun x => { x with overbits := satAdd x.overbits (overshoot f) }
    s.logEvent 0x0031 0 [w32 lead, w32 f.ctx, w32 f.frame, w32 (overshoot f)]

/-- First superblock row of band `b` (R362). -/
def bandStart (d : StreamCtx) (b : Nat) : Nat := ((bandRows d).take b).sum

/-- The superblock that a pipe of the gang codes next: the one after those of its band that are done (R362, R380). -/
def nextSb (d : StreamCtx) (band done : Nat) : Nat := bandStart d band * sbCols d + done

/-- Superblocks of band `b`. -/
def bandSize (d : StreamCtx) (b : Nat) : Nat := (bandRows d).getD b 0 * sbCols d

/-- The pipe is one of the gang, and `sb` is its next superblock. -/
def State.sbTurn (s : State) (d : StreamCtx) (lead pipe sb : Nat) : Bool :=
  let b := pipe - lead
  let done := (s.pipe pipe).bandSb
  lead ≤ pipe && b < d.gang && done < bandSize d b && sb = nextSb d b done

/-! ### Band edges (R362) -/

/-- Superblocks in the bands next to band `b` that superblock `sb` of band `b` borders: band and superblock. -/
def bandNeighbours (d : StreamCtx) (b sb : Nat) : List (Nat × Nat) :=
  let row := sb / sbCols d
  (if 0 < b && row = bandStart d b then [(b - 1, sb - sbCols d)] else [])
    ++ if b + 1 < d.gang && row + 1 = bandStart d (b + 1) then [(b + 1, sb + sbCols d)] else []

/-- The bordering superblocks that are reconstructed already: the pipe has their edge rows. -/
def State.doneAcross (s : State) (d : StreamCtx) (lead pipe sb : Nat) : List Nat :=
  ((bandNeighbours d (pipe - lead) sb).map (·.2)).filter fun k => (s.pipe pipe).edges.any fun e => e.sb = k

/-- The pipe sends a superblock of its band's edge rows to the pipes of the bands that it borders. -/
def State.giveEdges (s : State) (d : StreamCtx) (lead pipe sb : Nat) (lines : List (List Nat)) : State :=
  (bandNeighbours d (pipe - lead) sb).foldl (fun s n => s.modPipe (lead + n.1) fun x => { x with edges := x.edges ++ [{ sb := sb, lines := lines }] }) s

/-- The in-loop filters run across a band edge when both its superblocks are reconstructed: the earlier one's lines as they leave them (R362; log entry 43). -/
def State.filterAcross (s : State) (c : Ctx) (buf : Nat) (es : List (Nat × List (List Nat))) : State :=
  es.foldl (fun s e => s.putSb c buf (sbLines c.decl e.1) e.2) s

/-- A coded superblock is one that the encoder makes: tools of R365, inter blocks of R378, the frame's quantiser until the budget guard fires and QP_MAX after it (R380),
and a sample for every element of its lines and of those across a band edge. `done` names the superblocks there. -/
def codedOk (d : StreamCtx) (f : VcuFrame) (done : List Nat) (sb : Nat) (x : CodedSb) : Bool :=
  let guard := match f.guardSb with | some g => decide (g ≤ sb) | none => false
  x.tools.all (toolOk d.hevc (tileColumns d) guard) && x.blocks.all (interOk f.refs.length) && reconOk d.bits (sbLines d sb) x.recon
    && x.qp = (if guard then d.qpMax else f.qp) && (x.qp = f.qp || x.tools.contains .deltaQ)
    && x.across.length = done.length && (done.zip x.across).all fun e => reconOk d.bits (sbLines d e.1) e.2

/-- A picture in a frame buffer is the context's newest; `keep` of them stay (R371). -/
def addPic (pics : List Pic) (x : Pic) (keep : Nat) : List Pic := (x :: pics.filter fun y => y.buf ≠ x.buf).take keep

/-- An encoded frame's last superblock is done: its reconstruction is the newest reference picture, and the only one after a key frame. -/
def State.endPicture (s : State) (lead : Nat) (f : VcuFrame) : State :=
  match s.ctx lead f.ctx with
  | none => s
  | some c => s.setCtx lead f.ctx (some { c with pics := addPic (if f.key then [] else c.pics) { buf := f.buf, flags := 0, concealed := 0 } c.decl.refs })

/-- One more superblock of an encoded frame: the windows move, the input is read, the reconstruction goes to the frame's buffer, its edge rows to the neighbours, the bits
are counted. -/
def State.encodeSb (s : State) (lead pipe : Nat) (c : Ctx) (f : VcuFrame) (sb : Nat) (x : CodedSb) : State :=
  let d := c.decl
  let across := s.doneAcross d lead pipe sb
  if sbCount d ≤ f.sb || !s.sbTurn d lead pipe sb || !codedOk d f across sb x then s
  else
    let s := s.moveWindows pipe c f.refs (sb / sbCols d) (sb % sbCols d)
    let r := s.readSamples d f.slot (sbLines d sb)
    let s := ((r.1.putSb c f.buf (sbLines d sb) x.recon).filterAcross c f.buf (across.zip x.across)).giveEdges d lead pipe sb x.recon
    let s := s.modPipe pipe fun p => { p with bandSb := p.bandSb + 1, input := r.2.samples }
    let done := f.sb + 1
    let total := f.bits + x.bits
    let g := { f with
      bits := total, sb := done, clamped := f.clamped + r.2.changed, poison := f.poison || r.2.poison,
      guardSb := if f.guardSb.isNone && d.rateMode ≠ 0 && f.budget ≤ total && done < sbCount d && sb + 1 < sbCount d then some (sb + 1) else f.guardSb }
    let s := s.modPipe lead fun p => { p with frame := some g, switching := false, inclamp := satAdd p.inclamp r.2.changed }
    let s := if f.clamped = 0 && r.2.changed ≠ 0 then s.raiseVcu lead 4 f.ctx f.frame else s
    if done = sbCount d then (s.endBits lead c g).endPicture lead g else s

/-! ### Decoder input (R370, R429) -/

/-- Input bytes that the host has supplied and the decoder has not consumed. -/
def supplied (c : Ctx) : Nat := c.back + (posDiff c.hostpos c.vcupos).toNat

/-- Read `n` input bytes from a byte position on (R237, R370, R429). -/
def State.readInput (s : State) (c : Ctx) (pos n : Nat) : State × List Byte :=
  let r := (List.range ((pos + n + 63) / 64 - pos / 64)).foldl (fun (a : State × List Byte) i =>
    let x := a.1.moverNowOf 2 (lineStep c.decl.outArea ((pos / 64 + i) % max 1 c.decl.outLines))
    (x.1, a.2 ++ fitBytes 64 x.2)) (s, [])
  (r.1, (r.2.drop (pos % 64)).take n)

/-- The decoder of context `key` of a gang has read `n` bytes from its position on. -/
def State.readAhead (s : State) (lead key : Nat) (c : Ctx) (n : Nat) : State × Ctx :=
  let k := c.ahead.length
  let r := s.readInput c (c.offset - c.back + k) (n - k)
  let c := { c with ahead := c.ahead ++ r.2 }
  (r.1.setCtx lead key (some c), c)

/-- The context after its decoder consumed `n` bytes that it has read: those below the position of a resumption count for nothing (R388, R429). A random access point at
`rap` begins the bytes that later pictures are decoded from. -/
def consume (c : Ctx) (n : Nat) (rap : Option Nat) : Ctx :=
  let k := n - min n c.back
  let all := c.stream ++ c.ahead.take n
  let start := c.offset - c.back - c.stream.length
  { c with
    back := c.back - n, offset := c.offset + k, vcupos := c.vcupos + w32 k, ahead := c.ahead.drop n,
    stream := match rap with | some p => all.drop (p - start) | none => all, lastRap := rap.getD c.lastRap }

/-! ### Decoded pictures (R366, R384 to R387) -/

/-- A picture begins: what its headers say (R384, R385). -/
def beginPicture (f : VcuFrame) (o : DecodeOutcome) : VcuFrame := { f with buf := o.buf, key := o.key, named := o.refs, fills := o.fills, lost := [] }

/-- The picture refers to a reference that was never received (R384). -/
def missing (c : Ctx) (f : VcuFrame) : Bool := f.named.any fun r => !c.slots.any fun x => x.id = r

/-- Superblock `sb` lies in a run. -/
def inRuns (rs : List (Nat × Nat)) (sb : Nat) : Bool := rs.any fun r => r.1 ≤ sb && sb < r.1 + r.2

/-- What an error at superblock `sb` leaves undecoded: the rest of its unit, or the whole frame (R385). -/
def errorRuns (d : StreamCtx) : DecodeError → List (Nat × Nat)
  | .none => []
  | .unit rs => rs
  | .header => [(0, sbCount d)]

/-- An error shows at superblock `sb`: the rest of its unit holds `sb` and ends in the picture; a header is read before the first superblock. -/
def errorOk (d : StreamCtx) (f : VcuFrame) (sb : Nat) : DecodeError → Bool
  | .none => true
  | .unit rs => inRuns rs sb && rs.all fun r => r.1 + r.2 ≤ sbCount d
  | .header => f.sb = 0

/-- Events of a picture's superblock, and its flags: a missing reference with the picture's first, an error where it shows (R384, R385). Bit 1 is CONCEALED, bit 6 GRAIN. -/
def State.notePicture (s : State) (lead : Nat) (c : Ctx) (f : VcuFrame) (o : DecodeOutcome) (first err : Bool) : State × VcuFrame :=
  let miss := first && missing c f
  let s := if miss then s.raiseVcu lead 0 f.ctx f.frame else s
  let s := if err then s.raiseVcu lead 1 f.ctx f.frame else s
  (s, { f with flags := f.flags ||| (if miss || err then 2 else 0) ||| if o.grain then 64 else 0 })

/-- A frame of an unsupported sequence: its event, once, and bit 5, UNSUPPORTED (R387). -/
def State.noteUnsupported (s : State) (lead : Nat) (f : VcuFrame) (o : DecodeOutcome) : State × VcuFrame :=
  let s := if f.flags / 2 ^ 5 % 2 = 0 then s.raiseVcu lead 2 f.ctx f.frame else s
  (s, { f with flags := f.flags ||| 32 ||| if o.grain then 64 else 0 })

/-- Samples of a superblock's lines in the substitute picture: the most recent decoded one, or mid-grey (R384, R385). -/
def State.substitute (s : State) (c : Ctx) : List (Nat × Nat) → State × List (List Nat)
  | [] => (s, [])
  | e :: rest => match c.pics.head? with
    | none =>
      let b := s.substitute c rest
      (b.1, List.replicate e.2 (midGrey c.decl.bits) :: b.2)
    | some x =>
      let r := s.moverNowOf 2 (picAddr c x.buf e.1)
      let b := r.1.substitute c rest
      (b.1, picSamples c.decl.bits e.2 r.2 :: b.2)

/-- Samples of superblock `sb` of the picture whose data end `length` bytes after the position, each of the bit depth; `pass` tells a superblock's own samples from those
that the filters leave it across a band edge (R363, R366; log entry 115). -/
def decodedLines (c : Ctx) (pass sb length : Nat) : List (List Nat) :=
  (sbLines c.decl sb).zipIdx.map fun e => (List.range e.1.2).map fun k =>
    Config.decoded (declNats c.decl) [pass, sb, e.2] (c.stream ++ c.ahead.take length) k % 2 ^ c.decl.bits

/-- A monochrome picture's chroma samples are mid-grey (R366): the lines after the luma lines of a superblock. -/
def greyChroma (d : StreamCtx) (lines : List (Nat × Nat)) (recon : List (List Nat)) : List (List Nat) :=
  (lines.zip recon).map fun e => if e.1.1 < d.height * ceilDiv d.width 32 then e.2 else List.replicate e.1.2 (midGrey d.bits)

/-- A decoded superblock's samples, its chroma planes mid-grey where the sequence has none. -/
def decodedSb (c : Ctx) (o : DecodeOutcome) (pass sb : Nat) : List (List Nat) :=
  let x := decodedLines c pass sb o.length
  if o.seq.chroma = 0 then greyChroma c.decl (sbLines c.decl sb) x else x

/-- The references that a decoder holds after a picture: it fills slots of an AV1 decoder, which a key frame empties first; of an HEVC decoder's pictures those that its
picture set names stay (R384; log entry 116). -/
def nextSlots (c : Ctx) (f : VcuFrame) (tainted : Bool) : List RefSlot :=
  let stay := if c.decl.hevc then c.slots.filter fun x => f.named.contains x.id else if f.key then [] else c.slots.filter fun x => !f.fills.contains x.id
  stay ++ f.fills.map fun k => { id := k, tainted := tainted }

/-- A picture predicted from a substitute, or from a picture that was concealed or so predicted itself, and every picture after it until a key picture that needs no
concealment, carries INHERITED (R386; log entry 116). -/
def inherits (c : Ctx) (f : VcuFrame) : Bool :=
  missing c f || (f.named.any fun r => c.slots.any fun x => x.id = r && x.tainted) || (c.inherited && !(f.key && f.flags / 2 % 2 = 0))

/-- The superblocks of a decoded picture are done: the picture is the context's newest with its flags, references follow it, and its pipes await the next one. -/
def State.closePicture (s : State) (lead : Nat) (c : Ctx) (f : VcuFrame) : State :=
  let inh := inherits c f
  let flags := f.flags + (if f.key then 1 else 0) + if inh then 4 else 0
  let s := (s.openBands lead c.decl.gang).modPipe lead fun x => { x with frame := some { f with sb := 0, flags := 0, concealed := 0, lost := [] } }
  s.setCtx lead f.ctx (some { c with
    pics := addPic c.pics { buf := f.buf, flags := flags, concealed := f.concealed } c.decl.bufs, inherited := inh,
    slots := nextSlots c f (inh || flags / 2 % 2 = 1) })

/-- A superblock of a decoded picture, decoded or concealed; one that an error made undecodable is concealed (R385). An unsupported sequence is not decoded (R387). -/
def State.decodeSb (s : State) (lead pipe : Nat) (c : Ctx) (f : VcuFrame) (sb : Nat) (o : DecodeOutcome) : State :=
  let d := c.decl
  let first := f.sb = 0
  let f := if first then beginPicture f o else f
  let err := o.error ≠ .none && !inRuns f.lost sb
  if !seqSupported d o.seq then
    let r := s.noteUnsupported lead f o
    r.1.modPipe lead fun p => { p with frame := some r.2, switching := false }
  else if !s.sbTurn d lead pipe sb || d.bufs ≤ f.buf || supplied c < o.length || !errorOk d f sb o.error then s
  else
    let r := s.notePicture lead c (if first then { f with flags := 0 } else f) o first err
    let lost := if err then f.lost ++ errorRuns d o.error else f.lost
    let gone := inRuns lost sb
    let a := r.1.readAhead lead f.ctx c o.length
    let c := a.2
    let x := if gone then a.1.substitute c (sbLines d sb) else (a.1, decodedSb c o 0 sb)
    let across := if gone then [] else ((x.1.doneAcross d lead pipe sb).filter fun k => !inRuns lost k).map fun k => (k, decodedSb c o 1 k)
    let s := ((x.1.putSb c f.buf (sbLines d sb) x.2).filterAcross c f.buf across).giveEdges d lead pipe sb x.2
    let g := { r.2 with sb := f.sb + 1, lost := lost, concealed := f.concealed + if gone then 1 else 0 }
    let s := (s.modPipe pipe fun p => { p with bandSb := p.bandSb + 1 }).modPipe lead fun p => { p with frame := some g, switching := false }
    if g.sb = sbCount d then s.closePicture lead c g else s

/-- SUPERBLOCK_DONE: superblock `sb` of the frame that a gang codes, as the pipe coded it; for a decoded superblock `outcome` says what its headers say. -/
def execSuperblockDone (pipe sb : Nat) (coded : CodedSb) (outcome : DecodeOutcome) (s : State) : Out State :=
  if pipeCount ≤ pipe then .fault .absentUnit
  else
    let lead := (s.pipe pipe).lead.toNat
    match (s.pipe lead).frame with
    | none => .next s
    | some f => match s.ctx lead f.ctx with
      | none => .next s
      | some c =>
        if !s.live then .next s
        else if c.decl.decode then .next (s.decodeSb lead pipe c f sb outcome)
        else .next (s.encodeSb lead pipe c f sb coded)

/-! ### Descriptors (R370, R383) -/

/-- A byte line: at most 64 stream bytes, with the tags of R370. -/
def byteLine (bs : List Byte) : Line :=
  mkLine ((bs ++ List.replicate 64 0#8).take 64) ((List.range 4).map fun b => if 16 * b < bs.length then 0x78#8 else 0#8)

/-- Write bytes into a ring of byte lines from a byte position that is a multiple of 64. -/
def State.putStream (s : State) (area lines pos : Nat) : Nat → List Byte → State
  | 0, _ => s
  | fuel + 1, bs =>
    if bs.isEmpty then s
    else ((s.t2Write (lineStep area (pos / 64 % max 1 lines)) (byteLine (bs.take 64)) .job).putStream area lines (pos + 64) fuel (bs.drop 64))

/-- What a descriptor says beside the context's own fields. -/
structure DescItems where
  kind : Nat
  unit : Nat
  frame : Nat
  flags : Nat
  offset : Nat
  length : Nat
  budget : Nat
  overbits : Nat
  qp : Nat
  guardSb : Nat
  concealed : Nat
  deriving DecidableEq, Repr

/-- The 64 bytes of an output descriptor. -/
def descBytes (c : Ctx) (gtc : Nat) (i : DescItems) : List Byte :=
  leBytes 1 i.kind ++ leBytes 1 c.decl.ctx ++ leBytes 1 c.decl.lead ++ leBytes 1 (min 255 c.resumes) ++ leBytes 2 c.epoch ++ leBytes 2 i.unit
    ++ leBytes 4 i.frame ++ leBytes 4 (i.flags % 256) ++ leBytes 8 i.offset ++ leBytes 4 i.length ++ leBytes 4 i.budget ++ leBytes 4 i.overbits
    ++ leBytes 2 i.qp ++ leBytes 2 i.guardSb ++ leBytes 4 i.concealed ++ leBytes 8 gtc ++ List.replicate 12 0#8

/-- Free lines of the descriptor ring (R428). -/
def descRoom (c : Ctx) : Int := (c.decl.descLines : Int) - posDiff c.descwr c.descrd

/-- Write a descriptor into line DESCWR mod DESC_LINES; the lead pipe's vector fires (R427, R434). -/
def State.putDesc (s : State) (lead k : Nat) (i : DescItems) : State :=
  match s.ctx lead k with
  | none => s
  | some c =>
    let at_ := lineStep c.decl.descArea (c.descwr.toNat % max 1 c.decl.descLines)
    let s := s.t2Write at_ (mkLine (descBytes c s.gtc.now.toNat i) (List.replicate 4 0x78#8)) .job
    (s.setCtx lead k (some { c with descwr := c.descwr + 1 })).fire (128 + lead)

/-! ### Emission (R381, R382, R428) -/

/-- Superblock rows of each unit of a frame in raster order. -/
def unitRowsOf (d : StreamCtx) : List Nat :=
  (bandRows d).flatMap fun r => (List.range (ceilDiv r (max 1 d.unitRows))).map fun i => min (max 1 d.unitRows) (r - max 1 d.unitRows * i)

/-- Where unit `u` ends, in the bands from `b` on: its band, and the superblock rows of that band up to its end (R381). -/
def unitPlace (d : StreamCtx) : Nat → Nat → List Nat → Option (Nat × Nat)
  | _, _, [] => none
  | b, u, r :: rest =>
    let n := ceilDiv r (max 1 d.unitRows)
    if u < n then some (b, min r (max 1 d.unitRows * (u + 1))) else unitPlace d (b + 1) (u - n) rest

/-- Every superblock of unit `u` is done. -/
def State.unitDone (s : State) (d : StreamCtx) (lead u : Nat) : Bool :=
  match unitPlace d 0 u (bandRows d) with
  | none => false
  | some (b, rows) => rows * sbCols d ≤ (s.pipe (lead + b)).bandSb

/-- The output area has room for a span (R428). -/
def spanFits (c : Ctx) (offset len : Nat) : Bool :=
  let span := 64 * ceilDiv len 64
  let size := c.decl.outLines * 64
  span ≤ size && (posDiff c.vcupos c.hostpos ≤ 0 || posDiff (w32 (offset + span)) (c.hostpos + w32 size) ≤ 0)

/-- The frame is complete: the pipe is free, the request is served. -/
def State.frameDone (s : State) (lead : Nat) (f : VcuFrame) : State :=
  let s := s.modPipe lead fun x => { x with frame := none, switching := false, frames := satAdd x.frames 1 }
  match s.ctx lead f.ctx with
  | none => s
  | some c =>
    let x := { c with next := c.next + 1, requests := c.requests.drop 1, forceKey := false, sinceKey := if f.key then 0 else c.sinceKey + 1 }
    s.setCtx lead f.ctx (some { x with record := ctxItems x })

/-- OFFSET of a FRAME_END, which the spec does not give: a free value that hangs on what R363 allows alone (log entry 44). -/
def endOffset (c : Ctx) (f : VcuFrame) : Nat :=
  (Config.freeOf 8 (declNats c.decl ++ [c.offset, f.frame, f.bytes, c.resumes, c.epoch]) 0).toNat

/-- FRAME_END of a frame. -/
def State.frameEnd (s : State) (lead : Nat) (c : Ctx) (f : VcuFrame) (rated : Bool) : State :=
  let exceeds := if rated then overshoot f else 0
  s.putDesc lead f.ctx
    { kind := 2, unit := f.unit, frame := f.frame,
      flags := (if f.key then 1 else 0) + (if exceeds = 0 then 0 else 8) + if f.poison then 16 else 0,
      offset := endOffset c f, length := f.bytes, budget := f.budget, overbits := exceeds, qp := f.qp, guardSb := f.guardSb.getD 0xFFFF, concealed := 0 }

/-- A finished unit goes out, or is dropped with the rest of its frame. -/
def State.emitUnit (s : State) (lead : Nat) (c : Ctx) (f : VcuFrame) (bytes : List Byte) : State :=
  let d := c.decl
  let len := bytes.length
  let rated := d.rateMode ≠ 0
  let last := f.unit + 1 = (unitRowsOf d).length
  let offset := c.offset
  let next := offset + 64 * ceilDiv len 64
  let drop := f.dropping || !spanFits c offset len || descRoom c < (if last then 2 else 1)
  let g := { f with unit := f.unit + 1, bytes := f.bytes + len, dropping := drop }
  let exceeds := if rated && f.sb = sbCount d then overshoot f else 0
  if drop then
    let s := (s.setCtx lead f.ctx (some { c with offset := next, drops := satAdd c.drops (if last then 2 else 1) })).modPipe lead fun x =>
      { x with frame := some g }
    if last then s.frameDone lead g else s
  else
    let s := s.putStream d.outArea d.outLines offset (len + 1) bytes
    let s := s.setCtx lead f.ctx (some { c with offset := next, vcupos := w32 next })
    let s := s.putDesc lead f.ctx
      { kind := 1, unit := f.unit, frame := f.frame, flags := (if f.key then 1 else 0) + if last then 128 else 0, offset := offset, length := len,
        budget := f.budget, overbits := exceeds, qp := f.qp, guardSb := f.guardSb.getD 0xFFFF, concealed := 0 }
    let s := s.modPipe lead fun x => { x with frame := some g, units := satAdd x.units 1, bytes := satAdd x.bytes len }
    if last then (s.frameEnd lead c g rated).frameDone lead g else s

/-- UNIT_EMIT: the frame's next unit, once its superblocks are done, with the OBUs or NAL units that R367 and R381 give it. -/
def execUnitEmit (pipe : Nat) (parts : List StreamUnit) (s : State) : Out State :=
  if pipeCount ≤ pipe then .fault .absentUnit
  else
    let lead := (s.pipe pipe).lead.toNat
    match (s.pipe lead).frame with
    | none => .next s
    | some f => match s.ctx lead f.ctx with
      | none => .next s
      | some c =>
        let first := f.unit = 0
        if !s.live || c.decl.decode || !s.unitDone c.decl lead f.unit || !unitPartsOk c.decl.hevc f.key first parts then .next s
        else .next (s.emitUnit lead c f (unitBytes c.decl.hevc first parts))

/-! ### Decoded frames (R375, R382 to R387) -/

/-- Copy a picture from its frame buffer into a ring slot, line by line; a frame that is not decoded travels as poison (R375, R387). -/
def State.copyFrame (s : State) (c : Ctx) (slot : Nat) (from_ : Option Nat) (k : Nat) : Nat → State
  | 0 => s
  | n + 1 =>
    let r := match from_ with
      | some buf => s.moverNowOf 2 (picAddr c buf k)
      | none => (s, poisonedLine)
    (r.1.t2Write (slotLine c.decl slot k) r.2 .job).copyFrame c slot from_ (k + 1) n

/-- The frame's slot is free: the boundary that ends Q(f − DEPTH) has passed (R375). -/
def slotFree (c : Ctx) (stroke : Nat) : Bool := c.next < c.decl.depth || c.decl.freeAt.getD (c.next - c.decl.depth) 0 < stroke

/-- Flags of a copied frame and its concealed superblocks: those of its picture, or those of a frame that is not decoded (R383, R387). -/
def copyFlags (c : Ctx) (f : VcuFrame) (o : DecodeOutcome) : Option Pic → Nat × Nat
  | some y => (y.flags % 128, y.concealed)
  | none => ((f.flags &&& 96) + (if o.key then 1 else 0) + if c.inherited then 4 else 0, 0)

/-- The copy of a decoded frame closes, or that of an unsupported one as poison (R375, R382, R386, R387). -/
def State.closeDecode (s : State) (lead : Nat) (c : Ctx) (f : VcuFrame) (x : DecodedFrame) (o : DecodeOutcome) : State :=
  let bad := !seqSupported c.decl o.seq
  let pic := if bad then none else c.pics.find? fun y => y.buf = x.buf
  let a := s.readAhead lead f.ctx c x.consumed
  let r := if bad then a.1.noteUnsupported lead f o else (a.1, f)
  let c := a.2
  let flags := copyFlags c r.2 o pic
  let s := r.1.copyFrame c (c.next % max 1 c.decl.depth) (pic.map (·.buf)) 0 (frameLines c.decl)
  let room := 1 ≤ descRoom c
  let c1 := consume c x.consumed (if flags.1 % 2 = 1 then some x.position else none)
  let c1 := { c1 with next := c.next + 1, catching := false, drops := if room then c.drops else satAdd c.drops 1 }
  let s := s.setCtx lead f.ctx (some { c1 with record := ctxItems c1 })
  let s := if room then s.putDesc lead f.ctx
      { kind := 3, unit := x.units, frame := c.next, flags := flags.1, offset := x.position, length := x.length, budget := 0, overbits := 0, qp := x.qp,
        guardSb := 0xFFFF, concealed := flags.2 }
    else s
  s.modPipe lead fun p => { p with frame := none, switching := false, frames := satAdd p.frames 1, bytes := satAdd p.bytes x.consumed }

/-- A picture that is not output: its bytes are consumed (R366, R388). -/
def State.dropPicture (s : State) (lead : Nat) (c : Ctx) (f : VcuFrame) (x : DecodedFrame) : State :=
  let r := s.readAhead lead f.ctx c x.consumed
  (r.1.setCtx lead f.ctx (some (consume r.2 x.consumed none))).modPipe lead fun p => { p with bytes := satAdd p.bytes x.consumed }

/-- DECODE_COPY_DONE: the copy begins once its slot is free, the decoder reads only bytes that the host has supplied, and the picture is one that the context
holds (R371, R375, R429). Each field of an HEVC field pair is a picture of its own (R366). A picture of another operating point than 0 is dropped (R366); a resumed context
copies none before the recorded FRAME (R388). -/
def execDecodeCopyDone (pipe ctx : Nat) (d : DecodedFrame) (outcome : DecodeOutcome) (s : State) : Out State :=
  if pipeCount ≤ pipe then .fault .absentUnit
  else
    let lead := (s.pipe pipe).lead.toNat
    match (s.pipe lead).frame, s.ctx lead ctx with
    | some f, some c =>
      if !s.live || f.ctx ≠ ctx || !c.decl.decode || supplied c < d.consumed then .next s
      else if !d.inPoint0 || (c.catching && d.frame < c.next) then .next (s.dropPicture lead c f d)
      else if d.frame ≠ c.next || !slotFree c s.strokeNum || (seqSupported c.decl outcome.seq && (f.sb ≠ 0 || !c.pics.any fun x => x.buf = d.buf)) then .next s
      else .next (s.closeDecode lead c f d outcome)
    | _, _ => .next s

/-! ### Positions (R427 to R429, R440, R462) -/

/-- A pipe is the lead of some open context: only then its block has context registers. -/
def State.hasCtxs (s : State) (pipe : Nat) : Bool := (List.range 32).any fun k => match s.ctx pipe k with | some c => c.isOpen | none => false

/-- A context whose registers the host reaches. -/
def State.openCtx (s : State) (pipe ctx : Nat) : Option Ctx :=
  if s.live && s.ready && pipe < pipeCount && ctx < 32 && s.hasCtxs pipe then s.ctx pipe ctx else none

/-- A value of HOSTPOS that a decode context takes (R429). -/
def hostposOk (c : Ctx) (v : Word) : Bool :=
  !c.decl.decode || (0 ≤ posDiff v c.hostpos && posDiff v (c.vcupos + w32 (c.decl.outLines * 64)) ≤ 0)

/-- VCU_CTX_HOSTPOS_WRITE. -/
def execVcuCtxHostposWrite (pipe ctx : Nat) (value : Word) (s : State) : Out State :=
  match s.openCtx pipe ctx with
  | none => .next s
  | some c => if hostposOk c value then .next (s.setCtx pipe ctx (some { c with hostpos := value })) else .next s

/-- VCU_CTX_DESCRD_WRITE. -/
def execVcuCtxDescrdWrite (pipe ctx : Nat) (value : Word) (s : State) : Out State :=
  match s.openCtx pipe ctx with
  | none => .next s
  | some c => .next (s.setCtx pipe ctx (some { c with descrd := value }))

end Sys2Proof.Machine
end

