-- ==== Sys2Proof/Machine/Regs.lean ====
section
/-! DEFINITION. The register map of BAR0 (R12 to R16, R462 to R473): which register stands at an offset, what it reads, which counters a read clears, which
flags a write clears, and what a write does. -/
namespace Sys2Proof.Machine

/-! ### The map (R462, R469, R470) -/

/-- A region of BAR0, the number of the block within it, and the offset within the block. -/
inductive Block where
  | glb (o : Nat)
  | scr (o : Nat)
  | msix (o : Nat)
  | pba (o : Nat)
  | ring (n o : Nat)
  | nib (n o : Nat)
  | quill (n o : Nat)
  | link (n o : Nat)
  | stack (n o : Nat)
  | pipe (n o : Nat)
  | well (n o : Nat)
  | hole
  deriving DecidableEq, Repr

/-- The region that holds an offset. -/
def blockOf (a : Nat) : Block :=
  if a < 0x40000 then .glb a
  else if a < 0x60000 then .scr (a - 0x40000)
  else if a < 0x61000 then .msix (a - 0x60000)
  else if a < 0x68000 then .hole
  else if a < 0x68020 then .pba (a - 0x68000)
  else if a < 0x80000 then .hole
  else if a < 0x84000 then .ring ((a - 0x80000) / 0x100) (a % 0x100)
  else if a < 0x1000000 then .hole
  else if a < 0x2000000 then .nib ((a - 0x1000000) / 0x1000) (a % 0x1000)
  else if a < 0x2080000 then .quill ((a - 0x2000000) / 0x400) (a % 0x400)
  else if a < 0x3000000 then .hole
  else if a < 0x3030000 then .link ((a - 0x3000000) / 0x800) (a % 0x800)
  else if a < 0x3080000 then .hole
  else if a < 0x3140000 then .stack ((a - 0x3080000) / 0x10000) (a % 0x10000)
  else if a < 0x3200000 then .hole
  else if a < 0x3230000 then .pipe ((a - 0x3200000) / 0x4000) (a % 0x4000)
  else if a < 0x3300000 then .hole
  else if a < 0x3320000 then .well ((a - 0x3300000) / 0x10000) (a % 0x10000)
  else .hole

/-- A block answers: the global block, the mailbox and the MSI-X structures with VIO; everything else once the module is ready, blocks of absent nibs and
quills never, and context registers only on the lead pipe of an open context (R463, R469, R470). -/
def State.answers (s : State) (b : Block) : Bool :=
  match b with
  | .glb _ => s.power.vio
  | .scr _ => s.power.vio
  | .msix _ => s.power.vio
  | .pba _ => s.power.vio
  | .ring _ _ => s.live && s.ready
  | .nib n _ => s.live && s.ready && s.nibPresent n
  | .quill n _ => s.live && s.ready && s.quillPresent n
  | .link _ _ => s.live && s.ready
  | .stack _ _ => s.live && s.ready
  | .pipe p o => s.live && s.ready && (o < 0x1000 || s.hasCtxs p)
  | .well _ _ => s.live && s.ready
  | .hole => false

/-- The block that an aligned 32-bit access reaches, `hole` where none answers. -/
def State.target (s : State) (a : Nat) : Block := if a % 4 = 0 && s.answers (blockOf a) then blockOf a else .hole

/-- Index `i` of an array of registers `stride` bytes apart from `base`, `count` of them. -/
def index (o base stride count : Nat) : Option Nat :=
  if base ≤ o && o < base + stride * count && (o - base) % stride = 0 then some ((o - base) / stride) else none

/-! ### W1C flag registers and their counters (R472) -/

/-- The flag registers of R472. -/
inductive FlagReg where
  | gfault (q : Nat)
  | memerr (d : Nat)
  | blot (d : Nat)
  | fsp (d : Nat)
  | stack (k : Nat)
  | link (l : Nat)
  | gtc | strk | kvt | loan | coll | mir | host
  | ring (r : Nat)
  | vcu (p : Nat)
  | mbx | alert
  deriving DecidableEq, Repr

/-- Number of flags. -/
def FlagReg.count (f : FlagReg) : Nat :=
  match f with
  | .gfault _ => 8 | .memerr _ => 2 | .blot _ => 1 | .fsp _ => 1 | .stack _ => 2 | .link _ => 4 | .gtc => 4 | .strk => 4 | .kvt => 4 | .loan => 6
  | .coll => 6 | .mir => 5 | .host => 5 | .ring _ => 2 | .vcu _ => 5 | .mbx => 1 | .alert => 8

/-- The interrupt vector of a flag (R434, R472). -/
def FlagReg.vector (f : FlagReg) (i : Nat) : Nat :=
  match f with
  | .gfault _ => 144 | .memerr _ => 144 | .blot _ => 140 | .fsp _ => 140 | .stack _ => 144 | .link _ => 145 | .gtc => 142 | .strk => 142 | .kvt => 144
  | .loan => 144 | .coll => 143 | .mir => 141 | .host => if i = 0 then 140 else if i = 1 then 141 else 146 | .ring _ => 146 | .vcu p => 128 + p
  | .mbx => 147 | .alert => 147

/-- The flags and counters of a flag register. -/
def State.events (s : State) (f : FlagReg) : Events :=
  match f with
  | .gfault q => (s.quill q).gfault
  | .memerr d => (s.well d).memerr
  | .blot d => (s.well d).blotstat
  | .fsp d => (s.well d).fspevt
  | .stack k => (s.stack k).err
  | .link l => (s.link l).err
  | .gtc => s.gtc.evt
  | .strk => s.strk.evt
  | .kvt => s.kvt.err
  | .loan => s.loan.err
  | .coll => s.coll.evt
  | .mir => s.mir.evt
  | .host => s.host.evt
  | .ring r => (s.ring r).evt
  | .vcu p => (s.pipe p).evt
  | .mbx => s.scr.mbx.evt
  | .alert => s.scr.alert

def State.setEvents (s : State) (f : FlagReg) (e : Events) : State :=
  match f with
  | .gfault q => s.modQuill q fun x => { x with gfault := e }
  | .memerr d => s.modWell d fun x => { x with memerr := e }
  | .blot d => s.modWell d fun x => { x with blotstat := e }
  | .fsp d => s.modWell d fun x => { x with fspevt := e }
  | .stack k => s.modStack k fun x => { x with err := e }
  | .link l => s.modLink l fun x => { x with err := e }
  | .gtc => { s with gtc := { s.gtc with evt := e } }
  | .strk => { s with strk := { s.strk with evt := e } }
  | .kvt => { s with kvt := { s.kvt with err := e } }
  | .loan => { s with loan := { s.loan with err := e } }
  | .coll => { s with coll := { s.coll with evt := e } }
  | .mir => { s with mir := { s.mir with evt := e } }
  | .host => { s with host := { s.host with evt := e } }
  | .ring r => s.modRing r fun x => { x with evt := e }
  | .vcu p => s.modPipe p fun x => { x with evt := e }
  | .mbx => { s with scr := { s.scr with mbx := { s.scr.mbx with evt := e } } }
  | .alert => { s with scr := { s.scr with alert := e } }

/-- The flag register at a place. -/
def flagAt (b : Block) : Option FlagReg :=
  match b with
  | .quill q 0x10 => some (.gfault q)
  | .well d 0x100 => some (.memerr d)
  | .well d 0x808 => some (.blot d)
  | .well d 0x820 => some (.fsp d)
  | .stack k 0x4 => some (.stack k)
  | .link l 0x4 => some (.link l)
  | .glb 0x10C => some .gtc
  | .glb 0x130 => some .strk
  | .glb 0x1004 => some .kvt
  | .glb 0x1108 => some .loan
  | .glb 0x1210 => some .coll
  | .glb 0x130C => some .mir
  | .glb 0x1508 => some .host
  | .ring r 0x8 => some (.ring r)
  | .pipe p 0x4 => some (.vcu p)
  | .scr 0x8 => some .mbx
  | .scr 0xA0 => some .alert
  | _ => none

/-- The base of a flag register's counters in its block: the register they belong to. -/
def countBase (b : Block) : Option (FlagReg × Nat × Nat) :=
  match b with
  | .quill q o => some (.gfault q, 0x40, o)
  | .well d o => some (if o < 0x200 then .memerr d else if o < 0x820 then .blot d else .fsp d, if o < 0x200 then 0x104 else if o < 0x820 then 0x80C else 0x824, o)
  | .stack k o => some (.stack k, 0x8, o)
  | .link l o => some (.link l, 0x8, o)
  | .glb o =>
    if o < 0x120 then some (.gtc, 0x110, o)
    else if o < 0x1000 then some (.strk, 0x134, o)
    else if o < 0x1100 then some (.kvt, 0x1010, o)
    else if o < 0x1200 then some (.loan, 0x1110, o)
    else if o < 0x1300 then some (.coll, 0x1214, o)
    else if o < 0x1400 then some (.mir, 0x1310, o)
    else some (.host, 0x1510, o)
  | .ring r o => some (.ring r, 0xC, o)
  | .pipe p o => some (.vcu p, 0x8, o)
  | .scr o => if o < 0xA0 then some (.mbx, 0xC, o) else some (.alert, 0xA4, o)
  | _ => none

/-- The sticky counter at a place: its flag register and index. -/
def countAt (b : Block) : Option (FlagReg × Nat) :=
  match countBase b with
  | some (f, base, o) => (index o base 4 f.count).map fun i => (f, i)
  | none => none

/-! ### Other RC counters (R14, R466) -/

/-- A counter that no flag owns: its value, and the state once it holds `w`. -/
def State.plainCounter (s : State) (b : Block) : Option (Word × (Word → State)) :=
  match b with
  | .glb o =>
    match o with
    | 0x14C => some (s.strk.stretches, fun w => { s with strk := { s.strk with stretches := w } })
    | 0x1030 => some (s.kvt.allocs, fun w => { s with kvt := { s.kvt with allocs := w } })
    | 0x1034 => some (s.kvt.cows, fun w => { s with kvt := { s.kvt with cows := w } })
    | 0x1038 => some (s.kvt.frees, fun w => { s with kvt := { s.kvt with frees := w } })
    | 0x1130 => some (s.loan.t3reads, fun w => { s with loan := { s.loan with t3reads := w } })
    | 0x1134 => some (s.loan.homereads, fun w => { s with loan := { s.loan with homereads := w } })
    | 0x1138 => some (s.loan.lentserved, fun w => { s with loan := { s.loan with lentserved := w } })
    | 0x113C => some (s.loan.iomovchk, fun w => { s with loan := { s.loan with iomovchk := w } })
    | 0x1238 => some (s.coll.stale, fun w => { s with coll := { s.coll with stale := w } })
    | 0x123C => some (s.coll.resends, fun w => { s with coll := { s.coll with resends := w } })
    | 0x1334 => some (s.mir.pushlines, fun w => { s with mir := { s.mir with pushlines := w } })
    | _ => none
  | .scr o =>
    match o with
    | 0x90 => some (s.scr.mbx.ignored, fun w => { s with scr := { s.scr with mbx := { s.scr.mbx with ignored := w } } })
    | _ => none
  | .nib n o =>
    let x := s.nib n
    match o with
    | 0x104 => some (x.feedwait, fun w => s.setNib n { x with feedwait := w })
    | 0x108 => some (x.drainwait, fun w => s.setNib n { x with drainwait := w })
    | 0x10C => some (x.maskissue, fun w => s.setNib n { x with maskissue := w })
    | 0x110 => some (x.pinput, fun w => s.setNib n { x with pinput := w })
    | 0x180 => some (x.qflush, fun w => s.setNib n { x with qflush := w })
    | 0x184 => some (x.qsat, fun w => s.setNib n { x with qsat := w })
    | 0x188 => some (x.qpoison, fun w => s.setNib n { x with qpoison := w })
    | 0x18C => some (x.lchkerr, fun w => s.setNib n { x with lchkerr := w })
    | 0x200 => some (x.csmism, fun w => s.setNib n { x with csmism := w })
    | 0x204 => some (x.cscure, fun w => s.setNib n { x with cscure := w })
    | 0x208 => some (x.flchan, fun w => s.setNib n { x with flchan := w })
    | 0x304 => some (x.vinvalid, fun w => s.setNib n { x with vinvalid := w })
    | 0x308 => some (x.vmclamp, fun w => s.setNib n { x with vmclamp := w })
    | 0x30C => some (x.sfuovf, fun w => s.setNib n { x with sfuovf := w })
    | 0x400 => some (x.attfull, fun w => s.setNib n { x with attfull := w })
    | 0x404 => some (x.attnan, fun w => s.setNib n { x with attnan := w })
    | 0x408 => some (x.attspill, fun w => s.setNib n { x with attspill := w })
    | _ => none
  | .quill q o =>
    let x := s.quill q
    match o with
    | 0x84 => some (x.convHwait, fun w => s.setQuill q { x with convHwait := w })
    | 0x88 => some (x.convLines, fun w => s.setQuill q { x with convLines := w })
    | 0x8C => some (x.convPad, fun w => s.setQuill q { x with convPad := w })
    | _ => none
  | .link l o =>
    let x := s.link l
    match o with
    | 0x2C => some (x.fecCw, fun w => s.setLink l { x with fecCw := w })
    | 0x30 => some (x.fecCorr, fun w => s.setLink l { x with fecCorr := w })
    | 0x34 => some (x.fecSym, fun w => s.setLink l { x with fecSym := w })
    | 0x38 => some (x.fecUncorr, fun w => s.setLink l { x with fecUncorr := w })
    | 0x3C => some (x.crcerr, fun w => s.setLink l { x with crcerr := w })
    | 0x40 => some (x.retry, fun w => s.setLink l { x with retry := w })
    | _ => none
  | .stack k o =>
    let x := s.stack k
    match o with
    | 0x10 => some (x.ce, fun w => s.setStack k { x with ce := w })
    | 0x18 => some (x.refwait, fun w => s.setStack k { x with refwait := w })
    | 0x1C => some (x.atomadds, fun w => s.setStack k { x with atomadds := w })
    | _ => none
  | .pipe p o =>
    let x := s.pipe p
    match o with
    | 0x24 => some (x.frames, fun w => s.setPipe p { x with frames := w })
    | 0x28 => some (x.units, fun w => s.setPipe p { x with units := w })
    | 0x2C => some (x.bytes, fun w => s.setPipe p { x with bytes := w })
    | 0x30 => some (x.overbits, fun w => s.setPipe p { x with overbits := w })
    | 0x34 => some (x.inclamp, fun w => s.setPipe p { x with inclamp := w })
    | 0x38 => some (x.cswitch, fun w => s.setPipe p { x with cswitch := w })
    | _ =>
      if o % 0x20 = 0x10 && 0x1000 ≤ o && o < 0x1400 then
        (s.ctx p ((o - 0x1000) / 0x20)).map fun c => (c.drops, fun w => s.setCtx p ((o - 0x1000) / 0x20) (some { c with drops := w }))
      else none
  | .well d o =>
    let x := s.well d
    match o with
    | 0x110 => some (x.eccce, fun w => s.setWell d { x with eccce := w })
    | 0x114 => some (x.mxflush, fun w => s.setWell d { x with mxflush := w })
    | 0x118 => some (x.atomadds, fun w => s.setWell d { x with atomadds := w })
    | 0x200 => some (x.tktretry, fun w => s.setWell d { x with tktretry := w })
    | 0x204 => some (x.tktempty, fun w => s.setWell d { x with tktempty := w })
    | 0x810 => some (x.blotdone, fun w => s.setWell d { x with blotdone := w })
    | 0x814 => some (x.blotskip, fun w => s.setWell d { x with blotskip := w })
    | _ =>
      (index o 0x1000 4 256).map fun n =>
        (sget (fun _ => 0#32) x.fspill n, fun w => s.setWell d { x with fspill := sset (fun _ => 0#32) x.fspill n w })
  | _ => none

/-- The RC register at a place. -/
def State.counterAt (s : State) (b : Block) : Option (Word × (Word → State)) :=
  match countAt b with
  | some (f, i) => some ((s.events f).count i, fun w => s.setEvents f ((s.events f).setCount i w))
  | none => s.plainCounter b

/-! ### Summaries (R473) -/

/-- A word whose bit `j` tells whether `f` holds of number `first + j`. -/
def sumWord (first count : Nat) (f : Nat → Bool) : Word := w32 ((List.range count).foldl (fun a j => a + bit (f (first + j)) * 2 ^ j) 0)

def State.qfaultSum (s : State) (i : Nat) : Word := sumWord (32 * i) 32 fun q => s.quillPresent q && (s.quill q).gfault.flags ≠ 0
def State.qfenceSum (s : State) (i : Nat) : Word := sumWord (32 * i) 32 fun q => s.quillPresent q && (s.quill q).fenced ≠ 0
def State.linkErrSum (s : State) (i : Nat) : Word := sumWord (32 * i) 32 fun l => (s.link l).err.flags ≠ 0
def State.stkErrSum (s : State) : Word :=
  sumWord 0 14 fun k => if k < 12 then (s.stack k).err.flags ≠ 0 else (s.well (k - 12)).memerr.flags ≠ 0
def State.vcuSum (s : State) : Word := sumWord 0 12 fun p => (s.pipe p).evt.flags ≠ 0
def State.ringSum (s : State) (i : Nat) : Word := sumWord (32 * i) 32 fun r => (s.ring r).evt.flags ≠ 0

/-- GLB_EVT_SUM. -/
def State.evtSum (s : State) : Word :=
  let any := fun (n : Nat) (f : Nat → Word) => (List.range n).any fun i => f i ≠ 0
  sumWord 0 17 fun i =>
    match i with
    | 0 => any 16 s.qfaultSum
    | 1 => any 16 s.qfenceSum
    | 2 => any 3 s.linkErrSum
    | 3 => s.stkErrSum ≠ 0
    | 4 => (s.well 0).blotstat.flags ≠ 0 || (s.well 1).blotstat.flags ≠ 0
    | 5 => (s.well 0).fspevt.flags ≠ 0 || (s.well 1).fspevt.flags ≠ 0
    | 6 => s.kvt.err.flags ≠ 0
    | 7 => s.loan.err.flags ≠ 0
    | 8 => s.gtc.evt.flags ≠ 0
    | 9 => s.strk.evt.flags ≠ 0
    | 10 => s.coll.evt.flags ≠ 0
    | 11 => s.mir.evt.flags ≠ 0
    | 12 => s.host.evt.flags ≠ 0
    | 13 => s.ringSum 0 ≠ 0 || s.ringSum 1 ≠ 0
    | 14 => s.vcuSum ≠ 0
    | 15 => s.scr.alert.flags ≠ 0
    | _ => s.scr.mbx.evt.flags ≠ 0

/-! ### Words of the global block -/

/-- GLB_ID (R6). -/
def State.idWord (s : State) : Word := w32 (0xA1 + (if s.fuses.f512 then 1 else 2) * 2 ^ 8 + 0x0E03 * 2 ^ 16)

/-- The identification words of configuration space, at their PCIe offsets (R412): vendor 0x1FD7 and device 0x0E03; revision 0xA1 and class code 0x12_0000; the
subsystem's vendor, and its ID equal to GLB_ID.GRADE. -/
def State.configWord (s : State) (o : Nat) : Word :=
  match o with
  | 0x00 => 0x0E031FD7
  | 0x08 => 0x120000A1
  | 0x2C => w32 (0x1FD7 + s.idWord.toNat / 2 ^ 8 % 16 * 2 ^ 16)
  | _ => 0

/-- GLB_LIFECYCLE (R410). -/
def State.lifeWord (s : State) : Word :=
  w32 (lifeNum s.boot.life + bit s.fuses.prov * 2 ^ 3 + bit s.fuses.ret * 2 ^ 4 + s.boot.keys % 8 * 2 ^ 5 + s.boot.revoked.toNat * 2 ^ 8)

/-- State numbers of a course (R359). -/
def mirNum (m : MirSt) : Nat :=
  match m with
  | .none => 0 | .forming => 1 | .mirroring => 2 | .lost => 3 | .holding => 4 | .restoring => 5 | .leaving => 6 | .released => 7

/-- State numbers of a link (R335). -/
def linkNum (x : LinkSt) : Nat :=
  match x with | .disabled => 0 | .down => 1 | .training => 2 | .ident => 3 | .up => 4 | .miswired => 5

/-- GLB_GTC_STAT (R301). -/
def State.gtcStat (s : State) : Word :=
  w32 (bit s.gtc.locked + bit s.gtc.master * 2 + bit s.gtc.holdover * 4 + s.gtc.masterRank.toNat * 2 ^ 3 + s.gtc.offset.toNat * 2 ^ 16)

/-- GLB_STRK_RATE (R301). -/
def State.strkRate (s : State) : Word :=
  w32 (s.strk.clock.toNat + s.strk.guard.toNat * 2 ^ 8 + bit (match s.strk.run with | some j => !j.stopped | none => false) * 2 ^ 16
    + bit s.strk.ordered * 2 ^ 17 + bit s.strk.isVoid * 2 ^ 18)

/-- GLB_GRP_ID (R336). -/
def State.grpId (s : State) : Word :=
  w32 (s.grp.rank.toNat + bit s.grp.rankValid * 2 ^ 7 + s.grp.rackId.toNat * 2 ^ 8 + s.grp.slotId.toNat * 2 ^ 16 + s.grp.mirrorRank.toNat * 2 ^ 22)

/-- GLB_GRP_CFG (R336). -/
def State.grpCfg (s : State) : Word :=
  match s.grp.linkMap with
  | some m => w32 (m.members.length % 128 + m.pairLinks % 16 * 2 ^ 7)
  | none => 0

/-- GLB_HOST_STAT (R439). -/
def State.hostStat (s : State) : Word := w32 (bit s.host.quiesceReq + bit s.host.quiesced * 2 + bit (!s.host.held.isEmpty) * 4)

/-- GLB_WIPESTAT (R263). -/
def State.wipeStat (s : State) : Word :=
  w32 (bit s.wipe.wiping + bit s.wipe.done * 2 + bit s.wipe.rbOk * 4 + bit s.wipe.rbFail * 8 + s.wipe.us.toNat * 2 ^ 16)

/-- The RO and RW registers of the global block. -/
def State.readGlb (s : State) (o : Nat) : Word :=
  match o with
  | 0x0 => s.idWord
  | 0x4 => s.unitsWord
  | 0x8 => s.dumapWord
  | 0x10 => s.evtSum
  | 0xB0 => s.stkErrSum
  | 0xB4 => s.vcuSum
  | 0xB8 => s.ringSum 0
  | 0xBC => s.ringSum 1
  | 0x100 => s.gtc.now.setWidth 32
  | 0x104 => (s.gtc.now >>> 32).setWidth 32
  | 0x108 => s.gtcStat
  | 0x120 => w32 s.strokeNum
  | 0x124 => w32 (s.strokeNum / 2 ^ 32)
  | 0x128 => match s.strk.run with | some j => w32 (j.period % 2 ^ 26) | none => 0
  | 0x12C => s.strkRate
  | 0x144 => s.strk.ovrctx
  | 0x148 => s.strk.ovrstrk
  | 0x180 => w32 (s.rule.code.toNat + s.rule.pset.toNat * 2 ^ 16 + s.rule.kind.toNat * 2 ^ 18 + s.rule.result.toNat * 2 ^ 20)
  | 0x184 => w32 (s.rule.item.toNat + s.rule.entry.toNat * 2 ^ 16)
  | 0x1000 => w32 s.kvFree
  | 0x1008 => w32 (s.kvt.errIndex.toNat + s.kvt.errFlag.toNat * 2 ^ 18)
  | 0x1100 => w32 (s.pmap.filter fun e => 73728 ≤ e.1 && e.2.state = 2).length
  | 0x1104 => w32 (s.pmap.filter fun e => e.1 < 73728 && e.2.lent).length
  | 0x110C => w32 (s.loan.errIndex.toNat + s.loan.errFlag.toNat * 2 ^ 17)
  | 0x1140 => s.wipeStat
  | 0x1200 => s.grpId
  | 0x1204 => s.grpCfg
  | 0x1208 => s.grp.lmapTag
  | 0x120C => w32 (s.coll.stat.toNat + s.coll.origin.toNat * 2 ^ 8)
  | 0x1230 => w32 (s.coll.ctxRank.toNat + s.coll.ctxColl.toNat * 2 ^ 8 + bit s.coll.ctxStep * 2 ^ 24)
  | 0x1234 => s.coll.strk
  | 0x1300 => w32 (mirNum s.mir.st + s.upBundle.length % 16 * 2 ^ 3 + bit s.mir.pend.isSome * 2 ^ 7)
  | 0x1304 => w32 (s.mir.ownEpoch.toNat + s.mir.imageEpoch.toNat * 2 ^ 16)
  | 0x1308 => match s.mir.pend with | some p => w32 (p.epoch % 2 ^ 16) | none => 0
  | 0x1330 => w32 s.mir.lostCause.toNat
  | 0x1338 => w32 s.mir.pushtime.toNat
  | 0x133C => w32 s.mir.dirty.length
  | 0x1400 => s.bootStatWord
  | 0x1404 => s.bootSlotWord
  | 0x1408 => s.lifeWord
  | 0x140C => s.boot.fwVer
  | 0x1410 => s.boot.count
  | 0x1504 => s.hostStat
  | 0x1530 => w32 s.host.errSlot.toNat
  | _ =>
    match index o 0x20 4 16, index o 0x60 4 16, index o 0xA0 4 3, index o 0x20000 4 4096 with
    | some i, _, _, _ => s.qfaultSum i
    | _, some i, _, _ => s.qfenceSum i
    | _, _, some i, _ => s.linkErrSum i
    | _, _, _, some i => sget (fun _ => 0#32) s.host.bar2 i
    | _, _, _, _ => 0

/-! ### Words of the other blocks -/

/-- A mailbox data word, low byte first. -/
def Mbx.dataWord (x : Mbx) (o : Nat) : Word := w32 (leAt ((List.range 4).map fun k => sget (fun _ => 0#8) x.data (o + k)) 0 4)

/-- Bytes of the mailbox's data buffer. -/
def State.mbxBytes (s : State) (at_ n : Nat) : List Byte := (List.range n).map fun k => sget (fun _ => 0#8) s.scr.mbx.data (at_ + k)

/-- Registers of the scribe mailbox block (R461). -/
def State.readScr (s : State) (o : Nat) : Word :=
  let x := s.scr.mbx
  match o with
  | 0x4 => w32 (bit x.busy + x.status.toNat * 2 ^ 8 + x.tag.toNat * 2 ^ 16)
  | 0xC4 => let r := s.combinedRate; w32 (r.1 + r.2 * 2 ^ 5 + s.scr.throttle.cause.toNat * 2 ^ 18)
  | 0xC8 => w32 s.scr.logSeq
  | 0xCC => w32 (min s.power100 0xFFFF + (if (s.highest 0 144) = 0x8000#16 then 0x8000 else (s.highest 0 144).toNat) * 2 ^ 16)
  | 0xD0 => w32 (s.vcoreOf 0 + s.vcoreOf 1 * 2 ^ 16)
  | _ =>
    match index o 0x10 4 16, index o 0x50 4 16 with
    | some i, _ => x.args.getD i 0
    | _, some i => x.res.getD i 0
    | _, _ => if 0x1000 ≤ o && o < 0x11000 then x.dataWord (o - 0x1000) else 0

/-- Registers of a nib (R102, R103, R162, R471). -/
def State.readNib (s : State) (n o : Nat) : Word :=
  let q := s.quill (n / 8)
  let p := n % 8
  let g := 2 ^ q.gang.toNat
  let fenced := bit (q.fenced.getLsbD p)
  match o with
  | 0x0 => w32 (1 + fenced * 2 + bit q.active * 4 + p * 2 ^ 3 + n / 8 % 256 * 2 ^ 6 + n / 2048 * 2 ^ 14)
  | 0x100 =>
    w32 (bit ((q.attempt.any fun a => a.tile.gang = p / g) || q.tickets.any (fun k => k.gang = p / g) || (q.convBusy && q.convGang.toNat = p / g)) + fenced * 2 + q.gang.toNat * 2 ^ 2 + p % g * 2 ^ 4 + bit (p % g = 0) * 2 ^ 7)
  | 0x118 => (s.nib n).issue.setWidth 32
  | 0x11C => ((s.nib n).issue >>> 32).setWidth 32
  | 0x300 => w32 ((upSplit 8 (s.nib n).image).length * 2 ^ 2)
  | 0x310 => w32 (crc16 ((s.nib n).image.flatMap fun w => leBytes 4 w.toNat))
  | _ => 0

/-- Registers of a quill (R97, R99, R219). -/
def State.readQuill (s : State) (q o : Nat) : Word :=
  let x := s.quill q
  match o with
  | 0x0 => w32 (x.gang.toNat + x.convGang.toNat * 2 ^ 4 + bit x.convEn * 2 ^ 7 + x.fenced.toNat * 2 ^ 8 + bit x.active * 2 ^ 31)
  | 0x80 => w32 (bit x.convBusy + bit x.hwaitNow * 2 + x.convCounter.toNat * 2 ^ 2 + x.convSeg.toNat * 2 ^ 10)
  | _ => match index o 0x20 4 8 with | some i => sget (fun _ => 0#32) x.gfctx i | none => 0

/-- ROLE and pair index of a link (R315). -/
def State.linkRole (s : State) (l : Nat) : Nat × Nat :=
  match s.linkEntry l with
  | some e => (e.role, ((s.pairLinksTo e.peerRank).findIdx? (· = l)).getD 0)
  | none => (0, 0)

/-- Registers of a link (R335). Credits beyond a field's width read as its highest value. -/
def State.readLink (s : State) (l o : Nat) : Word :=
  let x := s.link l
  match o with
  | 0x0 => let r := s.linkRole l; w32 (linkNum x.st + r.1 % 4 * 2 ^ 3 + r.2 % 8 * 2 ^ 5 + x.laneLock.toNat * 2 ^ 8)
  | 0x20 => w32 (x.peerRank.toNat + bit x.peerValid * 2 ^ 7 + x.peerLink.toNat * 2 ^ 8)
  | 0x24 => w32 (min (x.credit.getD 0 0) 4095 + min (x.credit.getD 1 0) 1023 * 2 ^ 12 + min (x.credit.getD 2 0) 1023 * 2 ^ 22)
  | 0x28 => w32 (min (x.credit.getD 3 0) 127 + min (x.granted.foldl (· + ·) 0) 65535 * 2 ^ 8)
  | _ => 0

/-- Registers of a stack controller (R261). -/
def State.readStack (s : State) (k o : Nat) : Word :=
  let x := s.stack k
  match o with
  | 0x0 => w32 (bit x.trained + bit x.hot * 2 + bit x.wiped * 4)
  | 0x14 => w32 (x.errLine.toNat + x.errPage.toNat * 2 ^ 18)
  | _ => 0

/-- Open contexts of a lead pipe. -/
def State.openCount (s : State) (p : Nat) : Nat :=
  s.ctxs.countP fun x => match x.2 with | some (c : Ctx) => c.isOpen && c.decl.lead ≤ p && p < c.decl.lead + c.decl.gang | none => false

/-- Registers of a VCU pipe (R391, R440). -/
def State.readPipe (s : State) (p o : Nat) : Word :=
  let x := s.pipe p
  match o with
  | 0x0 =>
    w32 (bit (s.pipe x.lead.toNat).frame.isSome + bit (p < 8) * 2 + x.gang.toNat * 2 ^ 2 + x.lead.toNat * 2 ^ 4 + x.ctx.toNat * 2 ^ 8
      + s.openCount p * 2 ^ 13 + bit x.switching * 2 ^ 19)
  | 0x20 => w32 (x.evCtx.toNat + x.evFlag.toNat * 2 ^ 5 + x.evFrame.toNat * 2 ^ 8)
  | _ =>
    if 0x1000 ≤ o && o < 0x1400 then
      match s.ctx p ((o - 0x1000) / 0x20) with
      | some c => match o % 0x20 with
        | 0x0 => c.hostpos
        | 0x4 => c.descrd
        | 0x8 => c.vcupos
        | 0xC => c.descwr
        | _ => 0
      | none => 0
    else 0

/-- Order and mode of a ticket counter (R302). -/
def counterCfgWord (c : Counter) : Word := w32 (c.limit.toNat + bit c.deal * 2 ^ 17 + c.order.toNat * 2 ^ 18 + c.block.toNat * 2 ^ 20)

/-- Registers of a well control block (R128, R220, R262, R302). -/
def State.readWell (s : State) (d o : Nat) : Word :=
  let x := s.well d
  match o with
  | 0x11C => w32 x.addlog.length
  | 0x800 => w32 (x.blotK.toNat + bit x.blotEn * 2 ^ 8 + bit x.blotAct * 2 ^ 9)
  | 0x804 => w32 (x.blotRel.toNat + x.blotAbs.toNat * 2 ^ 8)
  | 0x818 => x.blotctx
  | 0x81C => x.blotstrk
  | _ =>
    match index o 0x1400 4 256, index o 0x2000 4 256, index o 0x3000 8 256, index o 0x3004 8 256 with
    | some n, _, _, _ => sget (fun _ => 0xFFFFFFFF#32) x.fspthr n
    | _, some n, _, _ => (sget (fun _ => 0#16) x.rowrdy n).setWidth 32
    | _, _, some n, _ => (x.counter n).next.setWidth 32
    | _, _, _, some n => counterCfgWord (x.counter n)
    | _, _, _, _ => 0

/-- Registers of a job ring (R438). -/
def State.readRing (s : State) (r o : Nat) : Word :=
  let x := s.ring r
  let runs := match s.strk.run with | some j => j.ring = r | none => false
  let waits := match s.strk.queued with | some j => j.ring = r | none => false
  match o with
  | 0x0 => w32 (bit x.en + x.sz.toNat * 2 ^ 4)
  | 0x4 => w32 (bit (!runs && !waits) + bit waits * 2 + bit runs * 4)
  | 0x18 => x.base.setWidth 32
  | 0x1C => (x.base >>> 32).setWidth 32
  | 0x20 => x.cqbase.setWidth 32
  | 0x24 => (x.cqbase >>> 32).setWidth 32
  | 0x28 => x.tail.setWidth 32
  | 0x2C => x.head.setWidth 32
  | 0x30 => x.cqtail.setWidth 32
  | 0x34 => x.cqhead.setWidth 32
  | 0x38 => x.prog.setWidth 32
  | 0x3C => (x.prog >>> 32).setWidth 32
  | 0x40 => x.feeddone.setWidth 32
  | _ => 0

/-- A 32-bit word of the MSI-X table and of the pending-bit array (R464). -/
def State.readMsix (s : State) (o : Nat) : Word :=
  let e := sget (fun _ => MsixEntry.reset) s.host.msixTable (o / 16)
  match o % 16 / 4 with
  | 0 => e.addr.setWidth 32
  | 1 => (e.addr >>> 32).setWidth 32
  | 2 => e.data
  | _ => e.control

def State.readPba (s : State) (o : Nat) : Word := sumWord (8 * o) 32 fun v => sget (fun _ => false) s.host.msixPba v

/-- What a register other than an RC counter reads, before any latch. -/
def State.readPlain (s : State) (b : Block) : Word :=
  match flagAt b with
  | some f => (s.events f).flags.setWidth 32 + match f with | .fsp d => (s.well d).fspLayer.setWidth 32 <<< 8 | _ => 0
  | none => match b with
    | .glb o => s.readGlb o
    | .scr o => s.readScr o
    | .msix o => s.readMsix o
    | .pba o => s.readPba o
    | .ring r o => s.readRing r o
    | .nib n o => s.readNib n o
    | .quill q o => s.readQuill q o
    | .link l o => s.readLink l o
    | .stack k o => s.readStack k o
    | .pipe p o => s.readPipe p o
    | .well d o => s.readWell d o
    | .hole => 0

/-! ### Pairs and latches (R12, R465) -/

/-- The low word of a 64-bit pair. -/
def lowOfPair (b : Block) : Bool :=
  match b with
  | .glb o => o = 0xB8 || o = 0x100 || o = 0x120
  | .nib _ o => o = 0x118
  | .ring _ o => o = 0x18 || o = 0x20 || o = 0x38
  | _ => false

/-- The high word of a 64-bit pair. -/
def highOfPair (b : Block) : Bool :=
  match b with
  | .glb o => o = 0xBC || o = 0x104 || o = 0x124
  | .nib _ o => o = 0x11C
  | .ring _ o => o = 0x1C || o = 0x24 || o = 0x3C
  | _ => false

/-- A requester's access other than a read of the low word ends its latch on a pair. -/
def State.dropLatch (s : State) (who : Requester) (low : Nat) : State :=
  { s with latches := s.latches.filter fun x => !(x.who = who && x.off = low) }

def State.setRdata (s : State) (w : Word) : State := { s with rdata := w.setWidth 64 }

/-- The line of an uncorrectable read of a stack stands in STK_ERRADDR (R224, R261). -/
def State.noteUe (s : State) (f : FlagReg) (i : Nat) (ue : Nat × Nat) : State :=
  match f with
  | .stack k => if i = 0 then s.modStack k fun x => { x with errPage := BitVec.ofNat 13 ue.1, errLine := BitVec.ofNat 18 ue.2 } else s
  | _ => s

/-- A read of an RC register in whose cycle it advances by `inc` (R16, R466): the counter of a flag counts that event, with the flag's own effects; a spill
counter takes the whole advance, with its threshold's (R120); any other counter holds the whole advance. -/
def readCounter (b : Block) (inc : Nat) (ue : Nat × Nat) (put : Word → State) : State :=
  match countAt b, b with
  | some (f, i), _ => if inc = 0 then put 0 else (((put 0).noteUe f i ue).setEvents f ((((put 0).events f)).raise i)).fire (f.vector i)
  | none, .well d o => match index o 0x1000 4 256 with
    | some n => (put 0).spill d n inc
    | none => put (w32 (min inc 0xFFFFFFFF))
  | none, _ => put (w32 (min inc 0xFFFFFFFF))

/-- A read of a register: an RC counter clears but for an increment of the same cycle; the low word of a pair latches the high word; the high word comes
from the latch. -/
def State.readReg (s : State) (who : Requester) (a inc : Nat) (ue : Nat × Nat := (0, 0)) : State :=
  let b := s.target a
  match s.counterAt b with
  | some (w, put) => (readCounter b inc ue put).setRdata w
  | none =>
    if lowOfPair b then
      let s := s.dropLatch who a
      let x : Latch := { who := who, off := a, word := s.readPlain (s.target (a + 4)) }
      { s with latches := s.latches ++ [x] }.setRdata (s.readPlain b)
    else if highOfPair b then
      match s.latches.find? fun x => x.who = who && x.off = a - 4 with
      | some x => (s.dropLatch who (a - 4)).setRdata x.word
      | none => s.setRdata (s.readPlain b)
    else s.setRdata (s.readPlain b)

/-! ### Writes -/

/-- Limit a value to a range. -/
def limit (lo hi v : Nat) : Nat := max lo (min hi v)

/-- A write of WELL_BLOTCTL (R128): in force from the next stroke boundary (R126). -/
def State.writeBlotctl (s : State) (d : Nat) (v : Word) : State :=
  s.modWell d fun x => { x with blotK := BitVec.ofNat 5 (limit 8 20 (v.toNat % 32)), blotEn := v.getLsbD 8, blotAct := v.getLsbD 9 }

/-- A write of WELL_BLOTTOL (R128). -/
def State.writeBlottol (s : State) (d : Nat) (v : Word) : State :=
  s.modWell d fun x => { x with blotRel := BitVec.ofNat 5 (limit 8 20 (v.toNat % 32)), blotAbs := BitVec.ofNat 8 (min 149 (v.toNat / 256 % 256)) }

/-- A write of a window slot's mapping: an own page, or VALID stays 0 and UNMAPPED is set (R414). -/
def State.writeBar2Map (s : State) (slot : Nat) (v : Word) : State :=
  let idx := v.toNat % 2 ^ 17
  let own := idx < 73728 && (s.page idx).kind.toNat < 2
  let put := fun (s : State) (w : Nat) => { s with host := { s.host with bar2 := sset (fun _ => 0#32) s.host.bar2 slot (w32 w) } }
  if !own then
    let s := put s idx
    { s with host := { s.host with errSlot := BitVec.ofNat 12 slot } }.raiseHost 3
  else put s (idx + bit (v.getLsbD 31) * 2 ^ 31)

/-- A write to the mailbox block: ignored and counted while BUSY; a write of SCR_MBX_CMD starts a command (R458, R461). -/
def State.writeScr (s : State) (o : Nat) (v : Word) : State :=
  let x := s.scr.mbx
  let put := fun (m : Mbx) => { s with scr := { s.scr with mbx := m } }
  let isCmd := o = 0
  let isArg := 0x10 ≤ o && o < 0x50
  let isData := 0x1000 ≤ o && o < 0x11000
  if !(isCmd || isArg || isData) then s
  else if x.busy then put { x with ignored := satAdd x.ignored 1 }
  else if isCmd then
    let r : CmdReq := { ch := .mailbox, op := v.toNat % 2 ^ 16, tag := v.toNat / 2 ^ 16 % 2 ^ 8, args := x.args }
    { s with scr := { s.scr with mbx := { x with busy := true } } }.submit r
  else if isArg then put { x with args := x.args.set ((o - 0x10) / 4) v }
  else put { x with data := (List.range 4).foldl (fun m k => sset (fun _ => 0#8) m (o - 0x1000 + k) (BitVec.ofNat 8 (v.toNat / 2 ^ (8 * k)))) x.data }

/-- A new base of a ring's array: address bits 11 to 0 are 0 (R438). -/
def newBase (old : BitVec 64) (high : Bool) (v : Word) : BitVec 64 :=
  if high then (old &&& 0xFFFFFFFF#64) ||| (v.setWidth 64 <<< 32)
  else (old &&& 0xFFFFFFFF00000000#64) ||| (v &&& 0xFFFFF000#32).setWidth 64

/-- A write to a ring block (R419, R420, R438). -/
def State.writeRing (s : State) (r o : Nat) (v : Word) : State :=
  let x := s.ring r
  match o with
  | 0x0 => s.writeRingCtrl r v
  | 0x18 => if x.en then s else s.setRing r { x with base := newBase x.base false v }
  | 0x1C => if x.en then s else s.setRing r { x with base := newBase x.base true v }
  | 0x20 => if x.en then s else s.setRing r { x with cqbase := newBase x.cqbase false v }
  | 0x24 => if x.en then s else s.setRing r { x with cqbase := newBase x.cqbase true v }
  | 0x28 => s.writeTail r v
  | 0x34 => s.writeCqhead r v
  | 0x40 => s.writeFeeddone r v
  | _ => s

/-- A write of a word of the MSI-X table; a vector unmasked with its pending bit set fires, and is sent now or when its interval ends (R435, R464; log entry 14). -/
def State.writeMsix (s : State) (o : Nat) (v : Word) : State :=
  let n := o / 16
  let e := sget (fun _ => MsixEntry.reset) s.host.msixTable n
  let e := match o % 16 / 4 with
    | 0 => { e with addr := (e.addr &&& 0xFFFFFFFF00000000#64) ||| (v &&& 0xFFFFFFFC#32).setWidth 64 }
    | 1 => { e with addr := (e.addr &&& 0xFFFFFFFF#64) ||| (v.setWidth 64 <<< 32) }
    | 2 => { e with data := v }
    | _ => { e with control := v &&& 1#32 }
  let s := { s with host := { s.host with msixTable := sset (fun _ => MsixEntry.reset) s.host.msixTable n e } }
  if e.control = 0 && sget (fun _ => false) s.host.msixPba n && !s.host.quiesced then
    { s with host := { s.host with msixPba := sset (fun _ => false) s.host.msixPba n false } }.fire n
  else s

/-- A write to a context register (R427, R429, R440). -/
def State.writePipe (s : State) (p o : Nat) (v : Word) : State :=
  if o < 0x1000 || 0x1400 ≤ o then s
  else
    let k := (o - 0x1000) / 0x20
    match s.openCtx p k with
    | none => s
    | some c =>
      match o % 0x20 with
      | 0x0 => if hostposOk c v then s.setCtx p k (some { c with hostpos := v }) else s
      | 0x4 => s.setCtx p k (some { c with descrd := v })
      | _ => s

/-- A write to a well control block (R128). -/
def State.writeWell (s : State) (d o : Nat) (v : Word) : State :=
  match o with
  | 0x800 => s.writeBlotctl d v
  | 0x804 => s.writeBlottol d v
  | _ => match index o 0x1400 4 256 with
    | some n => s.modWell d fun x => { x with fspthr := sset (fun _ => 0xFFFFFFFF#32) x.fspthr n v }
    | none => s

/-- The host acknowledges quiescence (R436, R439). -/
def State.ackQuiesce (s : State) : State :=
  if s.live && s.host.quiesceReq && !s.host.quiesced then { s with host := { s.host with quiesceAck := true } } else s

/-- Clear flags by ones; hardware that sets one in the same cycle wins (R14, R15). -/
def State.clearFlags (s : State) (f : FlagReg) (v : BitVec 8) (hwSets : BitVec 8) : State :=
  let sets := hwSets &&& BitVec.ofNat 8 (2 ^ f.count - 1)
  let s := s.setEvents f (((s.events f).clear v).raiseMask sets)
  (List.range f.count).foldl (fun s i => if sets.getLsbD i then s.fire (f.vector i) else s) s

/-- The high word's latch ends when its requester writes to the pair (R465). -/
def State.touchPair (s : State) (b : Block) (a : Nat) : State :=
  if lowOfPair b then s.dropLatch .pcie a else if highOfPair b then s.dropLatch .pcie (a - 4) else s

/-- An aligned 32-bit write of the host (R14, R463). -/
def State.writeReg (s : State) (a : Nat) (v : Word) : State :=
  let b := s.target a
  let s := s.touchPair b a
  match flagAt b with
  | some f => s.clearFlags f (v.setWidth 8) 0
  | none => match b with
    | .glb o =>
      if o = 0x1500 then (if v.getLsbD 0 then s.ackQuiesce else s)
      else match index o 0x20000 4 4096 with
        | some i => s.writeBar2Map i v
        | none => s
    | .scr o => s.writeScr o v
    | .msix o => s.writeMsix o v
    | .ring r o => s.writeRing r o v
    | .pipe p o => s.writePipe p o v
    | .well d o => s.writeWell d o v
    | _ => s

/-! ### The commands -/

/-- REGISTER_WRITE of `width` bytes: 32-bit aligned anywhere, 64-bit aligned in the MSI-X structures only (R12, R464). -/
def execRegisterWrite (offset width value : Nat) (s : State) : Out State :=
  if width = 4 then .next (if offset % 4 = 0 then s.writeReg offset (w32 value) else s)
  else
    match blockOf offset with
    | .msix _ =>
      if width = 8 && offset % 8 = 0 then .next ((s.writeReg offset (w32 value)).writeReg (offset + 4) (w32 (value / 2 ^ 32))) else .next s
    | _ => .next s

/-- W1C_CLEAR: a write to a flag register, in a cycle in which hardware sets the flags `hwSets`. -/
def execW1cClear (offset : Nat) (value : Word) (hwSets : BitVec 8) (s : State) : Out State :=
  match flagAt (s.target offset) with
  | some f => .next (s.clearFlags f (value.setWidth 8) hwSets)
  | none => .next s

/-- The two words of an aligned 64-bit read of the MSI-X structures (R464). -/
def State.readWide (s : State) (a : Nat) : BitVec 64 :=
  ((s.readPlain (s.target (a + 4))).setWidth 64 <<< 32) ||| (s.readPlain (s.target a)).setWidth 64

/-- The MSI-X table and its pending-bit array. -/
def inMsix (b : Block) : Bool := match b with | .msix _ | .pba _ => true | _ => false

/-- RC_READ: a read by the host in a cycle in which the counter advances by `inc`. Only aligned 32-bit reads, and aligned 64-bit ones of the
MSI-X structures, reach a register; any other read returns 0 and has no effect (R12, R464). -/
def execRcRead (access : RegRead) (inc : Nat) (s : State) : Out State :=
  if access.width = 4 && access.offset % 4 = 0 then .next (s.readReg .pcie access.offset inc access.ue)
  else if access.width = 8 && access.offset % 8 = 0 && inMsix (blockOf access.offset) then .next { s with rdata := s.readWide access.offset }
  else .next (s.setRdata 0)

/-- LOW_WORD_READ; where no pair answers it returns 0 (R3, R12, R463). -/
def execLowWordRead (requester : Requester) (offset : Nat) (s : State) : Out State :=
  if lowOfPair (s.target offset) then .next (s.readReg requester offset 0) else .next (s.setRdata 0)

/-- HIGH_WORD_READ; where no pair answers it returns 0 (R3, R12, R463). -/
def execHighWordRead (requester : Requester) (offset : Nat) (s : State) : Out State :=
  if highOfPair (s.target offset) then .next (s.readReg requester offset 0) else .next (s.setRdata 0)

/-- WELL_BLOTCTL_WRITE. -/
def execWellBlotctlWrite (die : Nat) (value : Word) (s : State) : Out State :=
  if s.live && s.ready && die < 2 then .next (s.writeBlotctl die value) else .next s

/-- WELL_BLOTTOL_WRITE. -/
def execWellBlottolWrite (die : Nat) (value : Word) (s : State) : Out State :=
  if s.live && s.ready && die < 2 then .next (s.writeBlottol die value) else .next s

/-- GLB_BAR2_MAP_WRITE. -/
def execGlbBar2MapWrite (slot : Nat) (value : Word) (s : State) : Out State :=
  if s.power.vio && slot < 4096 then .next (s.writeBar2Map slot value) else .next s

/-- MSIX_INTERVAL_END: 2 µs after a vector's message, merged firings make one more message, or set the pending bit (R435). -/
def execMsixIntervalEnd (vector : Nat) (s : State) : Out State :=
  if !s.power.vio || !s.host.msixOpen.contains vector then .next s
  else if s.host.msixMerged.contains vector && !s.host.quiesced && !s.msixMasked vector then
    .next ({ s with host := { s.host with msixMerged := s.host.msixMerged.erase vector } }.deliver vector)
  else
    let t := { s with host := { s.host with msixOpen := s.host.msixOpen.erase vector, msixMerged := s.host.msixMerged.erase vector } }
    .next (if s.host.msixMerged.contains vector && !s.host.quiesced then t.deliver vector else t)

end Sys2Proof.Machine
end

