-- ==== Sys2Proof/Machine/Bar2.lean ====
section
/-! DEFINITION. The BAR2 window (R414 to R417, R436), and the stack controllers' patrol scrub and refresh (R223 to R226). -/
namespace Sys2Proof.Machine

def slotBytes : Nat := 2 ^ 24

/-- The page that a window slot maps, none while VALID is 0. -/
def State.slotPage (s : State) (slot : Nat) : Option Nat :=
  let w := sget (fun _ => 0#32) s.host.bar2 slot
  if w.getLsbD 31 then some (w.toNat % 2 ^ 17) else none

/-- Bytes of a page that the window reaches: a line page ends before its trailer (R415). -/
def State.windowBytes (s : State) (page : Nat) : Nat := if (s.page page).kind = 0 then 72 * pageLines else slotBytes

/-- Every line that `n` bytes from byte `b` touch is dirty (R343). -/
def State.dirtyBytes (s : State) (page b n : Nat) : State :=
  if (s.page page).kind ≠ 0 || n = 0 then s
  else (List.range ((b + n - 1) / 72 + 1 - b / 72)).foldl (fun s i => s.markDirty page (b / 72 + i)) s

/-- The read of a read-modify-write: a line that is written only in part and has an error is stored as its read delivers it (R223, R224, R416). -/
def State.readForWrite (s : State) (page b n : Nat) : State :=
  (s.upset.filter fun e => e.1 < t2At page (b + n) && t2At page b < e.1 + 72 && !(t2At page b ≤ e.1 && e.1 + 72 ≤ t2At page (b + n))).foldl (fun s e =>
    let r := s.readPage page ((e.1 - t2At page 0) / 72)
    r.1.writeBytes e.1 r.2) s

/-- A write within one slot: bytes replace those of the lines they touch, whose check codes stay (R51, R416). -/
def State.writeSlot (s : State) (slot b : Nat) (bs : List Byte) : State :=
  match s.slotPage slot with
  | none => { s with host := { s.host with errSlot := BitVec.ofNat 12 slot } }.raiseHost 3
  | some p =>
    if (s.page p).pinned then s.roWrite p .host
    else
      let bs := bs.take (s.windowBytes p - b)
      ((s.readForWrite p b bs.length).writeBytes (t2At p b) bs).dirtyBytes p b bs.length

/-- A read within one slot: each line as it stands, but for what error correction makes of it (R223, R224, R416). -/
def State.readSlot (s : State) (slot b n : Nat) : State × List Byte :=
  match s.slotPage slot with
  | none => (s, List.replicate n 0#8)
  | some p =>
    let k := min n (s.windowBytes p - b)
    (s.eccRaw p (t2At p b) k, fitBytes n (s.rawBytesAt (t2At p b) k))

/-- The window answers a ready module's host. -/
def State.windowOpen (s : State) (offset n : Nat) : Bool := s.live && s.ready && offset + n ≤ 2 ^ 36

/-- BAR2_WRITE; a write across a slot boundary is one write in each slot. -/
def execBar2Write (offset : Nat) (bytes : List Byte) (s : State) : Out State :=
  if !s.windowOpen offset bytes.length || bytes.isEmpty then .next s
  else
    let room := slotBytes - offset % slotBytes
    let s := s.writeSlot (offset / slotBytes) (offset % slotBytes) (bytes.take room)
    .next (if bytes.length ≤ room then s else s.writeSlot (offset / slotBytes + 1) 0 (bytes.drop room))

/-- BAR2_READ: zeros once quiesced (R436). -/
def execBar2Read (offset count : Nat) (s : State) : Out State :=
  if !s.windowOpen offset count || s.host.quiesced then .next { s with rbytes := List.replicate count 0#8 }
  else
    let room := slotBytes - offset % slotBytes
    let first := s.readSlot (offset / slotBytes) (offset % slotBytes) (min count room)
    let rest := if count ≤ room then (first.1, []) else first.1.readSlot (offset / slotBytes + 1) 0 (count - room)
    .next { rest.1 with rbytes := first.2 ++ rest.2 }

/-! ### Stack controllers -/

def stackCount : Nat := 12

/-- PATROL_SCRUB of a line of a stack's page: `result` is an error that the line has by now. A corrected read is counted and rewrites the line, which
holds its content already (R223 to R225, R261). -/
def execPatrolScrub (stack page line : Nat) (result : EccResult) (s : State) : Out State :=
  if stackCount ≤ stack then .fault .absentUnit
  else if !s.live || 6144 ≤ page || pageLines ≤ line then .next s
  else
    let a := t2At (6144 * stack + page) (72 * line)
    let s := s.addUpset a result
    let e := s.eccOf a
    let s := s.eccStack (6144 * stack + page) line e
    .next (if e = .corrected then { s with upset := sset (fun _ => .clean) s.upset a .clean } else s)

/-- STACK_REFRESH: read cycles that it delayed, and the doubled rate above 85 °C. -/
def execStackRefresh (stack delayed : Nat) (s : State) : Out State :=
  if stackCount ≤ stack then .fault .absentUnit
  else if !s.live then .next s
  else
    let hot := match s.reading (144 + stack) with | some v => decide (340 < v) | none => (s.stack stack).hot
    .next (s.modStack stack fun x => { x with refwait := satAdd x.refwait delayed, hot := hot })

end Sys2Proof.Machine
end

