-- ==== Sys2Proof/Machine/SfuOps.lean ====
section
/-! DEFINITION. The special-function unit's commands (R138 to R150): every element of a source register through a basic or library function, or of a micro-program of the
nib's table image. -/
namespace Sys2Proof.Machine

/-- Put the results into a register and count overflows and invalid results (R162). -/
def State.putSfu (s : State) (nib dst : Nat) (out : WideFmt) (rs : List SfuOut) : State :=
  (s.putCodes nib dst out (rs.map (·.code))).modNib nib fun x =>
    { x with sfuovf := satAdd x.sfuovf ((rs.filter (·.ovf)).length), vinvalid := satAdd x.vinvalid ((rs.filter (·.invalid)).length) }

/-- The FP32 operands of a source: its words, or its BF16 elements widened exactly (R130, R138). -/
def sfuOperands (form : VForm) (ws : List Word) : List Word :=
  match form with
  | .f32 => ws
  | .bf16 => ws.flatMap fun w => [enc32 (decBf16 (halfOf w 0)), enc32 (decBf16 (halfOf w 1))]

def State.sfu (s : State) (f : SfuFn) (nib dst : Nat) (form : VForm) (src : VSrc) (out : WideFmt) : State :=
  s.putSfu nib dst out ((sfuOperands form (s.vsrc nib src)).map (sfuEval f out))

def execExp (nib dst : Nat) (form : VForm) (src : VSrc) (out : WideFmt) (s : State) : Out State := s.onNib nib fun s => s.sfu .exp nib dst form src out
def execExp2 (nib dst : Nat) (form : VForm) (src : VSrc) (out : WideFmt) (s : State) : Out State := s.onNib nib fun s => s.sfu .exp2 nib dst form src out
def execLog (nib dst : Nat) (form : VForm) (src : VSrc) (out : WideFmt) (s : State) : Out State := s.onNib nib fun s => s.sfu .log nib dst form src out
def execLog2 (nib dst : Nat) (form : VForm) (src : VSrc) (out : WideFmt) (s : State) : Out State := s.onNib nib fun s => s.sfu .log2 nib dst form src out
def execRcp (nib dst : Nat) (form : VForm) (src : VSrc) (out : WideFmt) (s : State) : Out State := s.onNib nib fun s => s.sfu .rcp nib dst form src out
def execRsqrt (nib dst : Nat) (form : VForm) (src : VSrc) (out : WideFmt) (s : State) : Out State := s.onNib nib fun s => s.sfu .rsqrt nib dst form src out
def execGelu (nib dst : Nat) (form : VForm) (src : VSrc) (out : WideFmt) (s : State) : Out State := s.onNib nib fun s => s.sfu .gelu nib dst form src out
def execSilu (nib dst : Nat) (form : VForm) (src : VSrc) (out : WideFmt) (s : State) : Out State := s.onNib nib fun s => s.sfu .silu nib dst form src out
def execTanh (nib dst : Nat) (form : VForm) (src : VSrc) (out : WideFmt) (s : State) : Out State := s.onNib nib fun s => s.sfu .tanh nib dst form src out

/-- A micro-program of the loaded table image; a number that the image does not hold changes nothing (log entry 2). -/
def execMicroProgram (nib prog dst : Nat) (form : VForm) (src : VSrc) (out : WideFmt) (s : State) : Out State :=
  s.onNib nib fun s =>
    match (upSplit 8 (s.nib nib).image)[prog]? with
    | some p => s.putSfu nib dst out ((sfuOperands form (s.vsrc nib src)).map (upEval p out))
    | none => s

end Sys2Proof.Machine
end

