-- ==== Sys2Proof/Machine/Tiles.lean ====
section
/-! DEFINITION. Tiles on a gang: epilogues (R133, R104), closing a tile (R85, R95, R109, R201, R215, R283), the blotter's sample (R121, R122), array faults
(R94, R107 to R111), and row-ready counters (R214). -/
namespace Sys2Proof.Machine

/-! ### Epilogues (R133) -/

/-- A row of an epilogue: its row registers and predicates, with the overflows, invalid results and raised scores that its operations count. -/
structure EpiRow where
  width : Nat
  regs : Sparse (List Word)
  preds : Sparse (List Bool)
  ovf : Nat
  invalid : Nat
  raised : Nat
  deriving DecidableEq, Repr, Inhabited

def EpiRow.reg (r : EpiRow) (k : Nat) : List Word := sget (fun _ => []) r.regs k
def EpiRow.put (r : EpiRow) (k : Nat) (ws : List Word) : EpiRow := { r with regs := sset (fun _ => []) r.regs k ws }
def EpiRow.pred (r : EpiRow) (k : Nat) : List Bool := sget (fun _ => []) r.preds k

/-- A row of results before its epilogue. -/
def EpiRow.start (ys : List Word) : EpiRow := { width := ys.length, regs := sset (fun _ => []) [] 0 ys, preds := [], ovf := 0, invalid := 0, raised := 0 }

/-- A row's line positions of a tensor of T0. -/
def State.epiTensor (s : State) (nib fmt : Nat) (hdr : Option Nat) (line p : Nat) : Nat → State × List Word
  | 0 => (s, [])
  | n + 1 =>
    let h := match hdr with
      | none => (s, none)
      | some a => let r := s.nibLoad nib a; (r.1, some (readHdr r.2))
    let fmt := s.loadFmt nib fmt hdr
    let e := elemsPerLine fmt
    let r := h.1.nibLoad nib (line + p * positionLines fmt)
    let r2 := if fmt = 3 then r.1.nibLoad nib (line + p * 2 + 1) else (r.1, zeroLine)
    let ws := match h.2 with
      | some t => lineWords fmt r.2 r2.2 (t.validK - p * e) (some (dec32 t.scale).toRat) t.bad
      | none => lineWords fmt r.2 r2.2 e none false
    let rest := r2.1.epiTensor nib fmt hdr line (p + 1) n
    (rest.1, ws ++ rest.2)

/-- The words of a row's statistic record (R155). -/
def State.epiStat (s : State) (nib line row : Nat) : State × List Word :=
  let r := s.nibLoad nib (line + row / 4)
  (r.1, (recordWords badStat r.2).getD (row % 4) [])

/-- The words of an operand for row `m` of the tile. -/
def State.epiArg (s : State) (nib m : Nat) (r : EpiRow) : EpiArg → State × List Word
  | .reg k => (s, r.reg k)
  | .lanes c => (s, c)
  | .splat c => (s, List.replicate r.width c)
  | .tensor fmt hdr line stride n => s.epiTensor nib fmt hdr (line + m * stride) 0 n
  | .mean line => let x := s.epiStat nib line m; (x.1, List.replicate r.width (partialMean (x.2.getD 0 0#32) (x.2.getD 1 0#32)))
  | .variance line => let x := s.epiStat nib line m; (x.1, List.replicate r.width (partialVar (x.2.getD 0 0#32) (x.2.getD 2 0#32)))

/-- Operands in order. -/
def State.epiArgs (s : State) (nib m : Nat) (r : EpiRow) : List EpiArg → State × List (List Word)
  | [] => (s, [])
  | a :: rest =>
    let x := s.epiArg nib m r a
    let more := x.1.epiArgs nib m r rest
    (more.1, x.2 :: more.2)

/-- An elementwise operation as far as all operands reach, with its invalid results. -/
def EpiRow.lanewise (r : EpiRow) (dst : Nat) (f : List Word → Word × Nat) (args : List (List Word)) : EpiRow :=
  let n := (args.map List.length).foldl min r.width
  let rs := (List.range n).map fun i => f (args.map fun a => a.getD i 0#32)
  { (r.put dst (rs.map (·.1))) with invalid := r.invalid + sumNat (rs.map (·.2)) }

/-- Results of the SFU in a row register. -/
def EpiRow.putSfu (r : EpiRow) (dst : Nat) (out : WideFmt) (rs : List SfuOut) : EpiRow :=
  { (r.put dst (formWords out (rs.map (·.code)))) with ovf := r.ovf + (rs.filter (·.ovf)).length, invalid := r.invalid + (rs.filter (·.invalid)).length }

/-- The function of a lane. -/
def binLane (op : EpiBin) (form : VForm) : List Word → Word × Nat :=
  match op with
  | .add => laneOp form fun v => (arg v 0).add (arg v 1)
  | .sub => laneOp form fun v => (arg v 0).sub (arg v 1)
  | .mul => laneOp form fun v => (arg v 0).mul (arg v 1)
  | .min => laneOp form fun v => (arg v 0).min (arg v 1)
  | .max => laneOp form fun v => (arg v 0).max (arg v 1)
  | .copysign => signLane form fun _ y => y

/-- Each 64 lanes of a row reduced into their first; the other lanes as VREDSUM, VREDMAX and VREDMIN leave them (R137; log entry 22). -/
def redLanes (op : EpiRed) (ws : List Word) : List Word :=
  (List.range (ceilDiv ws.length 64)).flatMap fun i =>
    let here := (ws.drop (64 * i)).take 64
    match op with
    | .sum => fillLanes [treeOf add32 here]
    | .max => treeOf max32 here :: freeWords 0 (wordNats here) 63
    | .min => treeOf min32 here :: freeWords 0 (wordNats here) 63

/-- One pass over a row: element i updates the partial of lane i mod 64 (R153 step 1), with the invalid results. -/
def lanePass (ys : List Word) : List Partial × Nat :=
  (List.range (ceilDiv ys.length 64)).foldl (fun acc c =>
    let rs := acc.1.mapIdx fun l p => match ys[64 * c + l]? with
      | some x => (welf p x 0#32, if cleanPartial p && !isNan32 x && !cleanPartial (welf p x 0#32) then 1 else 0)
      | none => (p, 0)
    (rs.map (·.1), acc.2 + sumNat (rs.map (·.2)))) (List.replicate 64 { n := 0#32, mu := 0#32, m2 := 0#32 }, 0)

/-- The statistic of a row: the lanes' partials merged by the tree (R153). -/
def rowStat (ys : List Word) : Partial × Nat :=
  let l := lanePass ys
  let r := foldPartials [] l.1
  (r.1, l.2 + r.2)

/-- Put a record into quarter `row mod 4` of the T0 line `row` ÷ 4 lines after `line`. -/
def State.putStat (s : State) (nib line row : Nat) (p : Partial) : State :=
  let a := line + row / 4
  let r := s.nibLoad nib a
  let b := row % 4
  let ws := [p.n, p.mu, p.m2, 0#32]
  r.1.t0Write nib a (mkLine ((r.2.take 64).take (16 * b) ++ ws.flatMap (fun w => leBytes 4 w.toNat) ++ (r.2.take 64).drop (16 * b + 16))
    (((r.2.drop 64).take 4).set b (recordTag false ws)))

/-- One operation of an epilogue on row `m` of a tile, on the lead nib, with its operands in their order. -/
def State.epiRun (s : State) (lead m : Nat) (r : EpiRow) (op : EpiOp) (v : List (List Word)) : State × EpiRow :=
  let x := v.getD 0 []
  match op with
  | .bin op form dst _ _ => (s, r.lanewise dst (binLane op form) v)
  | .fma form dst _ _ _ => (s, r.lanewise dst (laneOp form fun v => ((arg v 0).mul (arg v 1)).add (arg v 2)) v)
  | .dot2 dst _ _ _ => (s, r.lanewise dst dot2 v)
  | .abs form dst _ => (s, r.lanewise dst (signLane form fun _ _ => false) v)
  | .neg form dst _ => (s, r.lanewise dst (signLane form fun a _ => !a) v)
  | .cmp cond p _ _ =>
    (s, { r with preds := sset (fun _ => []) r.preds p (List.zipWith (fun a b => condHolds cond (dec32 a) (dec32 b)) x (v.getD 1 [])) })
  | .preds p bs => (s, { r with preds := sset (fun _ => []) r.preds p bs })
  | .sel dst p _ _ => (s, r.put dst ((List.range x.length).map fun i => if (r.pred p).getD i false then x.getD i 0#32 else (v.getD 1 []).getD i 0#32))
  | .mask form dst p _ =>
    let rs := x.mapIdx fun i w => maskLane form w ((r.pred p).getD i false)
    (s, { (r.put dst (rs.map (·.1))) with raised := r.raised + sumNat (rs.map (·.2)) })
  | .cvt source target dst _ => (s, r.put dst (formWords target ((formValues source x).map (fmtEncode target))))
  | .red op dst _ =>
    let chunks := (List.range (ceilDiv x.length 64)).map fun i => (x.drop (64 * i)).take 64
    (s, { (r.put dst (redLanes op x)) with
      invalid := r.invalid + (if op = .sum then sumNat (chunks.map fun c => redInvalid (treeOf add32 c) c) else 0) })
  | .fn f form out dst _ => (s, r.putSfu dst out ((sfuOperands form x).map (sfuEval f out)))
  | .prog k form out dst _ =>
    match (upSplit 8 (s.nib lead).image)[k]? with
    | some p => (s, r.putSfu dst out ((sfuOperands form x).map (upEval p out)))
    | none => (s, r)
  | .stat line _ =>
    let p := rowStat x
    (s.putStat lead line m p.1, { r with invalid := r.invalid + p.2 })
  | .rowMax maxReg _ => (s.putMax lead maxReg m x, r)

/-- The operands of an operation. -/
def epiArgsOf : EpiOp → List EpiArg
  | .bin _ _ _ a b => [a, b]
  | .fma _ _ a b c => [a, b, c]
  | .dot2 _ acc a b => [acc, a, b]
  | .abs _ _ a => [a]
  | .neg _ _ a => [a]
  | .cmp _ _ a b => [a, b]
  | .preds _ _ => []
  | .sel _ _ a b => [a, b]
  | .mask _ _ _ a => [a]
  | .cvt _ _ _ a => [a]
  | .red _ _ a => [a]
  | .fn _ _ _ _ a => [a]
  | .prog _ _ _ _ a => [a]
  | .stat _ a => [a]
  | .rowMax _ a => [a]

def State.epiStep (s : State) (lead m : Nat) (r : EpiRow) (op : EpiOp) : State × EpiRow :=
  let v := s.epiArgs lead m r (epiArgsOf op)
  v.1.epiRun lead m r op v.2

/-- An epilogue on rows from row `m`, with its counts: what goes on to the output is row register 0. -/
def State.epilogue (s : State) (lead m : Nat) (ops : List EpiOp) : List (List Word) → State × List (List Word)
  | [] => (s, [])
  | ys :: rest =>
    let r := ops.foldl (fun (acc : State × EpiRow) op => acc.1.epiStep lead m acc.2 op) (s, EpiRow.start ys)
    let s := r.1.modNib lead fun x => { x with sfuovf := satAdd x.sfuovf r.2.ovf, vinvalid := satAdd x.vinvalid r.2.invalid,
                                                vmclamp := satAdd x.vmclamp r.2.raised }
    let more := s.epilogue lead (m + 1) ops rest
    (more.1, r.2.reg 0 :: more.2)

/-! ### The accumulator file (R84) -/

/-- Put a row of results into the accumulator file. -/
def putAcc (acc : Sparse Word) (buf row : Nat) (ys : List Word) : Sparse Word :=
  (ys.zipIdx).foldl (fun m y => sset (fun _ => 0#32) m (accKey buf row y.2) y.1) acc

/-- A row or column of an operand holds a poisoned block in some segment. -/
def anyPoison (rows : SegOps → List (List (List Blk))) (ops : List SegOps) (i : Nat) : Bool :=
  ops.any fun o => ((rows o).getD i []).any fun b => b.any Blk.poisoned

/-- The 128 results of a row of a column group. A masked row or column, which is fed as zeros, gives +0, or NaN against a poisoned block of the other operand
(R43, R91). -/
def accRow (ops : List SegOps) (ys : List (List Word)) (cg m : Nat) : List Word :=
  (List.range 128).map fun n =>
    match ys[m]?.bind fun r => r[128 * cg + n]? with
    | some y => y
    | none => if anyPoison SegOps.a ops m || anyPoison SegOps.b ops (128 * cg + n) then 0x7FC00000#32 else 0#32

/-- The last two row groups stand in the accumulator file. DESIGN CHOICE (log entry 87), where R84 is silent: the row groups, counted in the order of the
steps, take its two buffers in turn, and a new chain begins at buffer 0. -/
def State.fillAcc (s : State) (t : TileDesc) (lead : Nat) (ops : List SegOps) (ys : List (List Word)) : State :=
  let groups := (List.range (colGroups t)).flatMap fun c => (List.range (rowGroups t)).map fun r => (c, r)
  let last := groups.drop (groups.length - 2)
  (last.zipIdx).foldl (fun s e =>
    let buf := (groups.length - last.length + e.2) % 2
    (List.range t.g).foldl (fun s r => s.modNib lead fun x => { x with acc := putAcc x.acc buf r (accRow ops ys e.1.1 (e.1.2 * t.g + r)) }) s) s

/-! ### The blotter's sample (R121, R122) -/

/-- A tile is sampled (R121). -/
def State.sampled (s : State) (t : TileDesc) : Bool :=
  let h := tileHash s.launchCount s.strokeNum t.out.stream t.tileIndex
  mix (h ^^^ 0xB10) % 2 ^ (s.well (t.quill / 256)).nowK.toNat = 0

/-- First byte of a half of the capture area of a die (R122). -/
def State.captureAt (s : State) (die half : Nat) : Nat :=
  match s.runSet with
  | some p => wellAt die (if die = 0 then p.capture.1 else p.capture.2) + half * 2 ^ 24
  | none => wellAt die 0 + half * 2 ^ 24

/-- A sampled tile's results go to a free half of the capture area, row after row (log entry 23), or the tile is skipped (R122). -/
def State.capture (s : State) (t : TileDesc) (ys : List (List Word)) : State :=
  let die := t.quill / 256
  let w := s.well die
  if !w.nowEn || !s.sampled t then s
  else
    let c : Capture := { tile := t, results := ys, stroke := s.strokeNum }
    let put := fun (s : State) half => s.writeBytes (s.captureAt die half) ((ys.flatMap id).flatMap fun y => leBytes 4 y.toNat)
    if w.capture0.isNone then put (s.setWell die { w with capture0 := some c }) 0
    else if w.capture1.isNone then put (s.setWell die { w with capture1 := some c }) 1
    else s.setWell die { w with blotskip := satAdd w.blotskip 1 }

/-! ### Whether a tile can run -/

/-- A tile without what differs from one attempt at it to the next. -/
def bareTile (t : TileDesc) : TileDesc :=
  { t with feedWait := [], drainWait := 0, conv := t.conv.map fun c => { c with haloWait := 0, bufEcc := [] } }

/-- The ticket that a gang holds longest from a counter (R280). -/
def Quill.ticketOf (x : Quill) (gang counter : Nat) : Option Ticket := x.tickets.find? fun k => k.gang = gang && k.counter = counter

/-- The tile is the one that its gang's ticket names (R283): its index, its shape, and, where it alone writes its storage tile, the header's TILE_INDEX. -/
def State.ticketFits (s : State) (t : TileDesc) : Bool :=
  match t.ticket with
  | none => true
  | some c =>
    match (s.quill t.quill).ticketOf t.gang c with
    | none => false
    | some k =>
      let n := sget (fun _ => Counter.reset) (s.well (t.quill / 256)).counters c
      k.tile = t.tileIndex && t.mt = n.mt && t.nt = n.nt && (!t.sole || t.out.tileIndex = t.tileIndex)

/-- Output position of a convolution tile, in the order of R201. -/
def convOrder (c : ConvFeed) : Nat := (c.outT * 16384 + c.outH) * 16384 + c.outW

/-- The engine may feed the tile: it feeds this gang (R83), each segment has its line positions (R200), at most 128 of them (R89, R202), the tile is one span inside the
output, and it comes after the tile fed last in the same pass of a layer over the stripe, or is that tile again (R201). -/
def State.convFits (s : State) (t : TileDesc) : Bool :=
  match t.conv with
  | none => true
  | some c =>
    let x := s.quill t.quill
    let d := c.segs.getD 0 default
    x.convEn && x.convGang.toNat = t.gang && c.segs.length = t.segs.length && 0 < d.span
      && (c.segs.zip t.segs).all (fun e => e.2.lines = convPositions e.1 && e.2.lines ≤ 128)
      && c.outT < d.outT && c.outH < d.outH && c.outW < d.outW && c.outW % d.span = 0 && t.mt = d.span
      && (match x.convLast with
          | none => true
          | some u => match u.conv with
            | none => true
            | some v => v.layer ≠ c.layer || v.pass ≠ c.pass || convOrder v < convOrder c || bareTile u = bareTile t)

/-- Nothing but its own recompute may run on a gang that has abandoned a tile (R109). -/
def State.attemptFits (s : State) (t : TileDesc) : Bool :=
  ((s.quill t.quill).attempt.filter fun a => a.tile.gang = t.gang).all fun a => bareTile a.tile = bareTile t

/-- The sweeps of attention are those of the two-sweep path (R177). -/
def roleFits (t : TileDesc) : Bool :=
  match t.role with
  | .plain => true
  | .scores q _ _ _ => q.desc.path = 0
  | .pv q _ _ => q.desc.path = 0

def State.tileFits (s : State) (t : TileDesc) : Bool := roleFits t && s.ticketFits t && s.convFits t && s.attemptFits t

/-- The first wait whose row-ready counter has not reached its value (R215). -/
def State.haloDue (s : State) (t : TileDesc) : Option HaloWait :=
  match t.conv with
  | none => none
  | some c => c.waits.find? fun w => (sget (fun _ => 0#16) (s.well (t.quill / 256)).rowrdy w.counter).toNat < w.value

/-- The engine waits, in the segment that reads the row: it never abandons a wait (R217). -/
def State.waitHalo (s : State) (t : TileDesc) (w : HaloWait) : State :=
  s.modQuill t.quill fun x => { x with halo := some (w.counter, w.value), hwaitNow := true, convBusy := true, convCounter := BitVec.ofNat 8 w.counter,
                                       convSeg := BitVec.ofNat 4 w.seg }

/-! ### Closing a tile -/

/-- A fault context's word (R99). -/
def gfctxWord (tile cause mode nib outcome : Nat) : Word :=
  w32 (tile % 65536 + cause % 16 * 2 ^ 16 + mode % 4 * 2 ^ 20 + nib % 8 * 2 ^ 22 + outcome % 4 * 2 ^ 25)

/-- A recompute that closes cures the first failure: OUTCOME 1, NIB_CSCURE of each nib that detected it (R109). -/
def State.cure (s : State) (t : TileDesc) : State :=
  match (s.quill t.quill).attempt.find? fun a => a.tile.gang = t.gang with
  | none => s
  | some a =>
    let s := s.modQuill t.quill fun x =>
      let c := (sget (fun _ => 0#32) x.gfctx t.gang).toNat
      { x with attempt := x.attempt.filter (fun b => b.tile.gang ≠ t.gang), gfctx := sset (fun _ => 0#32) x.gfctx t.gang (w32 (c % 2 ^ 25 + 2 ^ 25)) }
    a.nibs.foldl (fun s p => s.modNib (8 * t.quill + p) fun x => { x with cscure := satAdd x.cscure 1 }) s

/-- Vector-unit work is attached to the tile's row groups, without which its drain never waits (R104, R166). -/
def hasVector (t : TileDesc) : Bool := !t.epilogue.isEmpty || (match t.role with | .scores _ _ _ _ => true | _ => false)

/-- Wait cycles of an attempt: each nib's feed waits, the lead nib's drain waits (R85, R104), the engine's halo waits (R215). -/
def State.countWaits (s : State) (t : TileDesc) (g : Nat) : State :=
  let s := (List.range g).foldl (fun s j =>
    s.modNib (gangNib t.quill t.gang g j) fun x => { x with feedwait := satAdd x.feedwait (t.feedWait.getD j 0) }) s
  let s := s.modNib (gangNib t.quill t.gang g 0) fun x => { x with drainwait := satAdd x.drainwait (if hasVector t then t.drainWait else 0) }
  match t.conv with
  | none => s
  | some c => s.modQuill t.quill fun x =>
      { x with convHwait := satAdd x.convHwait c.haloWait, halo := none, hwaitNow := false,
               convCounter := match c.waits.getLast? with | some w => BitVec.ofNat 8 w.counter | none => x.convCounter }

/-- The tile is done with: its ticket is used up, and it is the tile that the engine fed last, which it feeds no more. -/
def State.doneTile (s : State) (t : TileDesc) : State :=
  s.modQuill t.quill fun x =>
    { x with
      tickets := match t.ticket with
        | none => x.tickets
        | some c => match x.ticketOf t.gang c with
          | none => x.tickets
          | some k => x.tickets.erase k
      convLast := if t.conv.isSome then some t else x.convLast
      convBusy := x.convBusy && t.conv.isNone }

/-- The score lines of rows from `row` written as poisoned, and the running maxima with them. -/
def State.poisonScores (s : State) (nib : Nat) (d : AttnDesc) (w maxReg row : Nat) : Nat → State
  | 0 => s
  | n + 1 =>
    let bad := List.replicate 256 0x7FC00000#32
    ((s.putScores nib d row w bad).putMax nib maxReg row bad).poisonScores nib d w maxReg (row + 1) n

/-- The tile written as poisoned, on schedule (R95): its output lines, which in sweep one are those of the score area (R166). DESIGN CHOICE (log entry 81): it adds
nothing to NIB_ISSUE, of which R95 says nothing, and it makes the running maxima of sweep one NaN. -/
def State.closePoisoned (s : State) (t : TileDesc) (g : Nat) : State :=
  let lead := gangNib t.quill t.gang g 0
  (match t.role with
   | .scores q w row0 reg => s.poisonScores lead q.desc w reg row0 (outRows t)
   | _ => s.poisonTile lead t.out (!t.free) (outRows t) (outCols t)).doneTile t

/-- What happens to a tile's results: the epilogue and the quantiser (R76, R79, R133), or the steps of sweep one (R166). -/
def State.drainTile (s : State) (t : TileDesc) (role : RoleOps) (lead : Nat) (ys : List (List Word)) : State :=
  match t.role with
  | .scores q w row0 reg => s.sweepOne lead q.desc role.fill w reg row0 ys
  | _ =>
    let e := s.epilogue lead 0 t.epilogue ys
    e.1.writeTile lead t.out (!t.free) (min t.rows t.mt) [] (e.2.map fun r => r.map dec32)

/-- Invalid results of the tail terms that the lead nib's vector unit forms for a PV chain (R162, R182). -/
def tailNans (t : TileDesc) (role : RoleOps) (ops : List SegOps) : Nat :=
  match t.role with
  | .pv _ _ _ => sumNat ((ops.zipIdx).map fun o =>
    let b := role.blocks.getD o.2 default
    if b.tail.isNone then 0
    else sumNat ((List.range (outRows t)).map fun m => sumNat ((List.range (outCols t)).map fun n => tailInvalid b (elemWord o.1 m) n)))
  | _ => 0

/-- A tile or chain closes with every issue cycle checked: results, sample, output lines (R76 to R79, R87, R109, R121). -/
def State.closeNow (s : State) (t : TileDesc) (g : Nat) : State :=
  let lead := gangNib t.quill t.gang g 0
  let role := s.roleOps t lead
  let r := role.1.loadSegs t role.2 g (tileSteps t g) 0 t.segs
  let ys := tileResults t role.2 g r.2
  let s := r.1.modNib lead fun x => { x with vinvalid := satAdd x.vinvalid (tailNans t role.2 r.2) }
  ((((s.countWaits t g).cure t).fillAcc t lead r.2 ys).capture t ys |>.drainTile t role.2 lead ys).doneTile t

/-- TILE_CLOSE: poisoned on a fenced gang, a wait where a halo row is not ready, otherwise the tile closes. A tile that its gang cannot run now changes
nothing (log entry 2). -/
def State.closeTile (s : State) (t : TileDesc) : State :=
  let g := s.gangSize t.quill
  if !s.tileFits t then s
  else if s.gangFenced t.quill t.gang then s.closePoisoned t g
  else match s.haloDue t with
    | some w => s.waitHalo t w
    | none => s.closeNow t g

/-- A command of a gang. -/
def State.onGang (s : State) (t : TileDesc) (f : State → State) : Out State :=
  if !s.live then .next s
  else if !s.quillPresent t.quill || 8 < (t.gang + 1) * s.gangSize t.quill then .fault .absentUnit
  else .next (f s)

def execTileClose (tile : TileDesc) (s : State) : Out State := s.onGang tile fun s => s.closeTile tile

/-! ### Array faults (R94, R107 to R111) -/

/-- Physical site of a logical quill by the map image (R33). -/
def State.siteOf (s : State) (q : Nat) : Nat :=
  ((if q < 256 then s.units.map0 else s.units.map1).takeWhile fun e => e.toNat ≠ q % 256).length

/-- Issue cycles that the checksum DPU of a nib finds wrong in an attempt, each on its own (R107). -/
def mismatches (t : TileDesc) (g done : Nat) (ops : List SegOps) (f : NibFault) : Nat :=
  (((f.faults.flatMap (cyclesOf t)).eraseDups).filter (cycleFails t g (f.nib % g) done ops f.faults)).length

/-- Causes of the array fault table that a nib detects: 0x1 by its checksum DPU; 0x2 and 0x3 at its registers, 0x4 at the lead nib alone, 0x5 where a tree link
joins nibs. -/
def faultCauses (t : TileDesc) (g done : Nat) (ops : List SegOps) (f : NibFault) : List Nat :=
  (if mismatches t g done ops f = 0 then [] else [1])
    ++ f.parity.filter fun c => c = 2 || c = 3 || (c = 4 && f.nib % g = 0) || (c = 5 && g ≠ 1)

/-- One array fault: its context, flag and count (R98 to R100). -/
def State.noteFault (s : State) (t : TileDesc) (outcome : Nat) (f : Nat × Nat) : State :=
  (s.modQuill t.quill fun x =>
    { x with gfctx := sset (fun _ => 0#32) x.gfctx t.gang (gfctxWord t.tileIndex f.2 x.gang.toNat f.1 outcome) }).raiseGfault t.quill t.gang

/-- What a fence of one nib leaves: the log entry, the event, the job's end by steps 2 and 3 of R111. -/
def State.fenceNib (s : State) (t : TileDesc) (pos : Nat) : State :=
  let nib := 8 * t.quill + pos
  let s := s.logEvent 0x0010 2 [w32 nib, w32 (t.quill / 256), w32 (s.siteOf t.quill), sget (fun _ => 0#32) (s.quill t.quill).gfctx t.gang]
  let s := s.raiseHost 0
  let s := match s.stageOf t.quill with
    | some k => s.modRun fun j => { j with fence := true, poisoned := k :: j.poisoned }
    | none => s.modRun fun j => { j with fence := true }
  s.failJob 0x15 nib

/-- The recompute failed: the detecting nibs are fenced and the tile is written poisoned (R95, R111). -/
def State.fenceGang (s : State) (t : TileDesc) (g : Nat) (nibs : List Nat) : State :=
  let s := s.modQuill t.quill fun x =>
    { x with fenced := nibs.foldl (fun m p => m ||| BitVec.ofNat 8 (2 ^ p)) x.fenced, attempt := x.attempt.filter fun b => b.tile.gang ≠ t.gang }
  nibs.foldl (fun s p => s.fenceNib t p) (s.closePoisoned t g)

/-- ARRAY_FAULT: an attempt at a tile ends after `done` steps with array faults, each nib's checksum DPU having checked every issue cycle. What the attempt issued,
loaded and waited is counted; the tile is recomputed once, or the detecting nibs are fenced. DESIGN CHOICE (log entry 88): each cause at each nib is one array fault
of the attempt; row groups that drained before it was abandoned write nothing, which the recompute would overwrite (R109), and add to no counter of the quantiser,
the spills or the epilogue. -/
def State.arrayFault (s : State) (t : TileDesc) (faults : List NibFault) (done : Nat) : State :=
  let g := s.gangSize t.quill
  let lead := gangNib t.quill t.gang g 0
  let role := s.roleOps t lead
  let r := role.1.loadSegs t role.2 g done 0 t.segs
  let fs := faults.filter fun f => f.nib / g = t.gang
  let found := fs.flatMap fun f => (faultCauses t g done r.2 f).map fun c => (f.nib, c)
  if !s.tileFits t || s.gangFenced t.quill t.gang || (s.haloDue t).isSome || tileSteps t g < done || done = 0 || found.isEmpty then s
  else
    let second := (s.quill t.quill).attempt.any fun a => a.tile.gang = t.gang
    let s := r.1.countWaits t g
    let s := fs.foldl (fun s f => s.modNib (8 * t.quill + f.nib) fun x => { x with csmism := satAdd x.csmism (mismatches t g done r.2 f) }) s
    let s := found.foldl (fun s f => s.noteFault t (if second then 2 else 0) f) s
    let nibs := (found.map (·.1)).eraseDups
    if second then s.fenceGang t g nibs
    else s.modQuill t.quill fun x =>
      { x with
        attempt := x.attempt ++ [{ tile := t, nibs := nibs }]
        convLast := if t.conv.isSome then some t else x.convLast
        convBusy := x.convBusy || t.conv.isSome }

/-- The faults of an attempt, nib by nib: the causes that its parity checks and the faults that its checksum DPU meet. -/
def nibFaults (nibs : List Nat) (parity : List (List Nat)) (faults : List (List IssueFault)) : List NibFault :=
  nibs.mapIdx fun i n => { nib := n, parity := parity.getD i [], faults := faults.getD i [] }

def execArrayFault (tile : TileDesc) (nibs : List Nat) (parity : List (List Nat)) (cycles : List (List IssueFault)) (steps : Nat) (s : State) :
    Out State :=
  s.onGang tile fun s => s.arrayFault tile (nibFaults nibs parity cycles) steps

/-! ### Row-ready counters (R214, R215) -/

/-- A producing quill has written a row: its counter grows by one, and engines of the die whose wait it ends go on. -/
def State.rowReady (s : State) (die counter : Nat) : State :=
  let s := s.modWell die fun w => { w with rowrdy := sset (fun _ => 0#16) w.rowrdy counter (sget (fun _ => 0#16) w.rowrdy counter + 1) }
  let n := (sget (fun _ => 0#16) (s.well die).rowrdy counter).toNat
  s.mapQuills fun q x => if q / 256 = die && x.halo.any (fun w => w.1 = counter && w.2 ≤ n) then { x with halo := none, hwaitNow := false } else x

def execRowReadyIncrement (die counter : Nat) (s : State) : Out State :=
  if !s.live then .next s
  else if 2 ≤ die || 256 ≤ counter then .fault .absentUnit
  else .next (s.rowReady die counter)

end Sys2Proof.Machine
end

