-- ==== Sys2Proof/Machine/Blotter.lean ====
section
/-! DEFINITION. The blotter's check of a captured tile: the exact recomputation in FP64 and its tolerance (R123, R124), the recomputation of attention rows by
the online form (R178), and what a blot leads to (R124, R125). The blotter's reads meet and count what error correction finds (R223, R224, R261, R262); they count in no
register of a nib or a quill (log entry 89). -/
namespace Sys2Proof.Machine

/-! ### Sums in FP64 (R123) -/

/-- Put index `i` among indices that the blotter adds in its own order (log entry 11). -/
def fp64Insert (check : List Nat) (i : Nat) : List Nat → List Nat
  | [] => [i]
  | j :: rest => if Config.fp64Before check i j then i :: j :: rest else j :: fp64Insert check i rest

/-- Sum of values in FP64, every addition rounded, in the blotter's order. -/
def fp64Sum (check : List Nat) (xs : List FV) : FV :=
  let order := (List.range xs.length).foldl (fun acc i => fp64Insert check i acc) []
  order.foldl (fun acc i => enc64 (acc.add (xs.getD i (.num false 0)))) (.num false 0)

/-- A sum and a product in FP64. -/
def add64 (a b : FV) : FV := enc64 (a.add b)
def mul64 (a b : FV) : FV := enc64 (a.mul b)

/-! ### A tile (R123, R124) -/

/-- Exact block products of an element in a segment. -/
def exactTerms (o : SegOps) (l m n : Nat) : List FV :=
  (List.range l).flatMap fun p => (List.range 4).map fun b =>
    let x := blockAt (o.a.getD m []) p b
    let y := blockAt (o.b.getD n []) p b
    if x.poisoned || y.poisoned then .nan
    else if x.scale = 0 || y.scale = 0 then .num false 0
    else FV.ofRat false (mkRat (blockDot x y) (unitDen o.fa * unitDen o.fb) * ueVal x.scale * ueVal y.scale)

/-- Exact flourish terms of an element in a segment. -/
def exactFlourish (o : SegOps) (m n : Nat) : List FV :=
  match o.fl with
  | none => []
  | some f => if f.bad then [.nan] else laneTerms o f 1 m 0 (o.b.getD n [])

/-- Exact terms p_j × v_j of a tail (R182). -/
def exactTail (b : PvBlock) (prob : Nat → Word) (n : Nat) : List FV :=
  match b.tail with
  | none => []
  | some chans => (List.range (b.fill % 32)).map fun k => (dec32 (prob (b.fill / 32 * 32 + k))).mul (dec32 ((chans.getD n []).getD k 0#32))

/-- The scales of an element's two sums: of z, the products of the tile scales in FP64; of S, the t_ab and t_fb of R76 and R118, rounded to FP32. -/
def exactScales (o : SegOps) : FV × FV :=
  (mul64 (dec32 o.ta) (dec32 o.tb), match o.fl with | some f => mul64 (dec32 f.scale) (dec32 o.tb) | none => .num false 0)
def roundedScales (o : SegOps) : FV × FV :=
  ((dec32 (mul32 o.ta o.tb)).abs, match o.fl with | some f => (dec32 (mul32 f.scale o.tb)).abs | none => .num false 0)

/-- Scaled sums of an element's terms. -/
def scaledSum (check : List Nat) (t : FV × FV) (ps fs : List FV) : FV := add64 (mul64 (fp64Sum check ps) t.1) (mul64 (fp64Sum check fs) t.2)

/-- z and S of one element of a chain (R123, R124). DESIGN CHOICE (log entry 89), where R124 is silent: in a PV product the tail's terms take part in both, and
both are divided by the row sum; in a fully masked row both are 0. -/
def blotRef (t : TileDesc) (role : RoleOps) (check : List Nat) (ops : List SegOps) (m n : Nat) : FV × FV :=
  let parts := ops.mapIdx fun i o =>
    let ps := exactTerms o (t.segs.getD i default).lines m n
    let fs := exactFlourish o m n
    let ts := match t.role with
      | .pv _ _ _ => exactTail (role.blocks.getD i default) (elemWord o m) n
      | _ => []
    (add64 (scaledSum check (exactScales o) ps fs) (fp64Sum check ts),
     add64 (scaledSum check (roundedScales o) (ps.map FV.abs) (fs.map FV.abs)) (fp64Sum check (ts.map FV.abs)))
  let z := fp64Sum check (parts.map (·.1))
  let mag := fp64Sum check (parts.map (·.2))
  match t.role with
  | .pv _ _ _ =>
    let r := role.rows.getD m { full := false, sum := 0x7FC00000#32 }
    if r.full then (.num false 0, .num false 0) else (enc64 (z.div (dec32 r.sum)), enc64 (mag.div (dec32 r.sum)))
  | _ => (z, mag)

/-- The NaN and infinity conditions of R124. -/
def blotSpecial (y z : FV) : Bool :=
  y.isNan != z.isNan || (!y.isNan && !z.isNan && (y.isInf != z.isInf || (y.isInf && z.isInf && y.isNeg != z.isNeg)))

/-- Two values differ by more than a tolerance, or in the conditions of R124. -/
def blotBeyond (y z : FV) (tol : Rat) : Bool :=
  blotSpecial y z || (y.isFinite && z.isFinite && tol < ratAbs (y.toRat - z.toRat))

/-- An element is a blot (R124). -/
def isBlot (rel abs_ : Nat) (y z mag : FV) : Bool := blotBeyond y z (pow2 (-(rel : Int)) * mag.toRat + pow2 (-(abs_ : Int)))

/-! ### Attention rows (R178) -/

/-- The online form of one row in FP32 with FP64 sums: maximum, row sum, outputs, the p_j so far, and the largest value of each channel over unmasked
positions. -/
structure Online where
  m : Word
  l : FV
  acc : List FV
  ps : List FV
  peak : List FV
  deriving DecidableEq, Repr, Inhabited

/-- The dot product of two rows of BF16 pairs, summed in FP64. -/
def onlineDot (check : List Nat) (a b : List Word) : FV :=
  fp64Sum check ((a.zip b).flatMap fun e => (List.range 2).map fun h => (decBf16 (halfOf e.1 h)).mul (decBf16 (halfOf e.2 h)))

/-- One step of 64 keys, as R176 has it. -/
def onlineStep (check : List Nat) (x : Online) (scores : List Word) (vals : List (List Word)) : Online :=
  let mb := treeOf max32 scores
  if mb = maskWord then { x with ps := x.ps ++ List.replicate 64 (.num false 0) }
  else
    let mn := max32 x.m mb
    let c := dec32 (sfu32 .exp (sub32 x.m mn))
    let ps := scores.map fun v => dec32 (sfu32 .exp (sub32 v mn))
    { x with m := mn, l := add64 (mul64 x.l c) (fp64Sum check ps), ps := x.ps.map (fun p => mul64 p c) ++ ps,
             acc := x.acc.mapIdx fun i a => (ps.zip vals).foldl (fun a e => add64 a (e.1.mul (dec32 (e.2.getD i 0#32)))) (mul64 a c) }

/-- The four steps of one block. -/
def onlineBlock (d : AttnDesc) (check : List Nat) (tq tk : Word) (query : List Word) (keys chans : List (List Word)) (masked : List Bool) (x : Online) : Online :=
  let x := { x with peak := x.peak.mapIdx fun i p => ((chans.getD i []).zip masked).foldl (fun p e =>
    if !e.2 && p.lt (dec32 e.1).abs then (dec32 e.1).abs else p) p }
  (List.range 4).foldl (fun x t =>
    let js := (List.range 64).map (64 * t + ·)
    let scores := js.map fun j =>
      (maskLane .f32 (wideScore d tq tk (enc32 (onlineDot check query (keys.getD j [])))).1 (masked.getD j true)).1
    onlineStep check x scores (js.map fun j => chans.map fun c => c.getD j 0#32)) x

/-- The blocks from `w` of the window for one row. -/
def State.onlineBlocks (s : State) (q : QueryBlock) (check : List Nat) (tq : Word) (query : List Word) (row w : Nat) (x : Online) : Nat → State × Online
  | 0 => (s, x)
  | n + 1 =>
    let d := q.desc
    let b := s.pvBlock q w
    let k := b.1.blockTile q b.2.entry false
    let v := k.1.blockTile q b.2.entry true
    v.1.onlineBlocks q check tq query row (w + 1)
      (onlineBlock d check tq k.2.1.scale query (blockKeys d k.2.1 k.2.2) (blockValues d v.2.1 v.2.2 b.2) (maskedKeys d s.chunkSize b.2.fill row w) x) n

/-- The online form of one row of a query block. -/
def State.onlineRow (s : State) (nib : Nat) (q : QueryBlock) (check : List Nat) (row : Nat) : State × Online :=
  let r := s.queryRow nib q row
  let zero := List.replicate q.desc.headDim (FV.num false 0)
  r.1.onlineBlocks q check r.2.1 r.2.2 row 0 { m := maskWord, l := .num false 0, acc := zero, ps := [], peak := zero } q.desc.blocks

/-- z of one output element. -/
def onlineOut (x : Online) (n : Nat) : FV :=
  if x.l.isZero then .num false 0 else dec32 (mul32 (enc32 (x.acc.getD n (.num false 0))) (sfu32 .rcp (enc32 x.l)))

/-- Probability blocks of a row from its stored scores, block by block of the window, as the quantiser forms them (R169). -/
def State.probsOf (s : State) (nib : Nat) (d : AttnDesc) (q : QueryBlock) (row : Nat) : State × List (List QBlk) :=
  let r := s.rowScores nib d row 0 d.blocks
  let sw := sweepOf r.2
  (r.1, (List.range d.blocks).map fun w => let o := probOut q w 0 row; probBlocks o (s.probHash o) sw.full (sw.probs.getD w []))

/-- The operands of a block's segment for one row whose probability blocks are given: the values of each channel up to the block's extent (R172, R189). -/
def State.rowSeg (s : State) (q : QueryBlock) (w : Nat) (ps : List QBlk) : State × PvBlock × SegOps :=
  let b := s.pvBlock q w
  let v := b.1.blockTile q b.2.entry true
  let h := v.2.1
  let k := positionLines h.fmt
  let row := (List.range 2).map fun i => lineBlocks 1 ((packBlocks 1 (((ps.drop (4 * i)).take 4).map (·.blk))).headD poisonedLine) zeroLine 128
  let chan := fun c => (List.range 2).map fun i =>
    if h.bad || 3 < h.fmt then poisonBlks
    else
      let keep := min b.2.extent h.validK - 128 * i
      (lineBlocks h.fmt (v.2.2.getD (c * 2 * k + i * k) zeroLine) (if h.fmt = 3 then v.2.2.getD (c * 2 * k + i * k + 1) zeroLine else zeroLine) keep).mapIdx
        fun j x => if keep ≤ 32 * j then { scale := 0, elems := [] } else x
  (v.1, b.2, { fa := 1, fb := h.fmt, a := [row], b := (List.range q.desc.headDim).map chan, ta := 0x3F800000#32, tb := h.scale, fl := none })

/-- The results of one row for the blocks from `w`, block by block. -/
def State.rowSegs (s : State) (t : TileDesc) (q : QueryBlock) (r : PvRow) (g w : Nat) (probs : List (List QBlk)) : Nat → State × List (List Word)
  | 0 => (s, [])
  | n + 1 =>
    let x := s.rowSeg q w (probs.getD w [])
    let ys := (List.range q.desc.headDim).map fun c => segResult t { fill := 0, blocks := [x.2.1], rows := [r] } x.2.2 g 2 0 0 c
    let rest := x.1.rowSegs t q r g (w + 1) probs n
    (rest.1, ys :: rest.2)

/-- Results of a chain from those of its segments (R77). -/
def chainOf (n : Nat) (segs : List (List Word)) : List Word :=
  (List.range n).map fun c => match segs.map fun y => y.getD c 0#32 with
    | [] => 0#32
    | y :: rest => rest.foldl add32 y

/-- Split blocks into chains of these lengths, the rest into chains of 16. -/
def splitChains : List Nat → List (List Word) → Nat → List (List (List Word))
  | _, _, 0 => []
  | _, [], _ => []
  | [], xs, n + 1 => xs.take 16 :: splitChains [] (xs.drop 16) n
  | k :: ks, xs, n + 1 => xs.take k :: splitChains ks (xs.drop k) n

/-- The output elements of a row of which the sampled chain gives `first`: the results of the chains that follow it, of `chains` blocks each, are formed from the
stored scores and the value tiles, and all are combined as R172 has it (log entry 89). -/
def State.rowOuts (s : State) (t : TileDesc) (q : QueryBlock) (r : PvRow) (g : Nat) (probs : List (List QBlk)) (first : List Word) (chains : List Nat) :
    State × List Word :=
  let x := s.rowSegs t q r g t.segs.length probs (q.desc.blocks - t.segs.length)
  let later := (splitChains chains x.2 x.2.length).map (chainOf q.desc.headDim)
  (x.1, first.mapIdx fun c y => mergeWords add32 (y :: later.map fun l => l.getD c 0#32))

/-- A row of the first PV chain of a query block holds a blot (R178). The decoded probabilities of the chain's own blocks are its operands. -/
def State.rowBlots (s : State) (t : TileDesc) (w : Well) (nib : Nat) (check : List Nat) (g : Nat) (q : QueryBlock) (ops : List SegOps) (r : PvRow) (m row : Nat) (first : List Word)
    (chains : List Nat) : State × Bool :=
  let own := ops.flatMap fun o => (List.range 256).map (elemWord o m)
  let p := if q.desc.blocks ≤ ops.length then (s, []) else s.probsOf nib q.desc q row
  let o := p.1.rowOuts t q r g p.2 first chains
  if r.full then (o.1, o.2.any (· ≠ 0#32))
  else
    let x := o.1.onlineRow nib q check row
    let probs := own ++ (p.2.drop ops.length).flatMap probWords
    let e := fp64Sum check (List.zipWith (fun a b => (enc64 ((dec32 a).sub b)).abs) probs x.2.ps)
    (x.1, (o.2.zipIdx).any fun y =>
      let v := (x.2.peak.getD y.2 (.num false 0)).toRat
      blotBeyond (dec32 y.1) (onlineOut x.2 y.2)
        (2 * v * e.toRat / (dec32 r.sum).toRat + pow2 (-(w.nowRel.toNat : Int)) * v + pow2 (-(w.nowAbs.toNat : Int))))

/-- The attention check of a sampled chain, row by row: only the first chain of a query row block is checked so. -/
def State.attnBlots (s : State) (t : TileDesc) (role : RoleOps) (w : Well) (nib : Nat) (check : List Nat) (g : Nat) (ops : List SegOps) (results : List (List Word))
    (chains : List Nat) : State × Bool :=
  match t.role with
  | .pv q 0 row0 => (role.rows.take (outRows t)).zipIdx.foldl (fun acc r =>
    let x := acc.1.rowBlots t w nib check g q ops r.1 r.2 (row0 + r.2) (results.getD r.2 []) chains
    (x.1, acc.2 || x.2)) (s, false)
  | _ => (s, false)

/-! ### The check (R123 to R125) -/

/-- A blot is recorded, and acted on when ACTION is 1 (R124, R125). -/
def State.recordBlot (s : State) (die : Nat) (t : TileDesc) (stroke : Nat) : State :=
  let q := t.quill % 256
  let ctx := w32 (t.tileIndex % 65536 + q * 2 ^ 16 + t.gang % 8 * 2 ^ 24)
  let s := (s.modWell die fun w => { w with blotctx := ctx, blotstrk := w32 stroke, blotstat := w.blotstat.raise 0 }).fire 140
  let s := s.logEvent 0x0012 2 [w32 die, ctx, w32 stroke]
  if (s.well die).nowAct then s.failJob 0x16 (die * 256 + q) else s

/-- Operands that the blotter reads, each line once. -/
def State.blotSegs (s : State) (t : TileDesc) (role : RoleOps) (g i : Nat) : List Segment → State × List SegOps
  | [] => (s, [])
  | seg :: rest =>
    let r := s.loadSeg t role g i true { a := fun _ _ => 1, b := fun _ _ => 1 } seg
    let more := r.1.blotSegs t role g (i + 1) rest
    (more.1, r.2 :: more.2)

/-- The operands of a captured tile, read again from the addresses that the tile read (R123); the convolution's rows from the well, past its line buffer (R207). -/
def State.blotOps (s : State) (t : TileDesc) (g : Nat) : State × RoleOps × List SegOps :=
  let t := { t with conv := t.conv.map fun c => { c with bufEcc := [] } }
  let role := (s.modQuill t.quill fun x => { x with lineBuf := [] }).roleOps t (gangNib t.quill t.gang g 0)
  let r := role.1.blotSegs t role.2 g 0 t.segs
  (r.1, role.2, r.2)

/-- Of what the blotter's reads change, the tables of nibs, quills and KV blocks keep nothing. -/
def State.blotKeep (s r : State) : State := { r with nibs := s.nibs, quills := s.quills, kvt := s.kvt }

/-- Whether the captured tile holds a blot. -/
def State.tileBlots (s : State) (w : Well) (c : Capture) (check : List Nat) (chains : List Nat) : State × Bool :=
  let g := s.gangSize c.tile.quill
  let r := s.blotOps c.tile g
  let a := r.1.attnBlots c.tile r.2.1 w (gangNib c.tile.quill c.tile.gang g 0) check g r.2.2 c.results chains
  (s.blotKeep a.1, ((c.results.zipIdx).any fun r2 => (r2.1.zipIdx).any fun y =>
    let z := blotRef c.tile r.2.1 check r.2.2 r2.2 y.2
    isBlot w.nowRel.toNat w.nowAbs.toNat (dec32 y.1) z.1 z.2) || a.2)

/-- Check the captured tile of a half and free it. -/
def State.blotCheck (s : State) (die half : Nat) (c : Capture) (chains : List Nat) : State :=
  let r := s.tileBlots (s.well die) c [c.stroke, c.tile.quill, c.tile.gang, c.tile.tileIndex] chains
  let s := r.1.modWell die fun w =>
    { w with blotdone := satAdd w.blotdone 1, capture0 := if half = 0 then none else w.capture0,
             capture1 := if half = 1 then none else w.capture1 }
  if r.2 then s.recordBlot die c.tile c.stroke else s

/-- A check that finishes; nothing where the half holds no tile (log entry 2). `chains` says how many blocks each chain takes that follows the sampled one. -/
def execBlotCheckDone (die half : Nat) (chains : List Nat) (s : State) : Out State :=
  if !s.live then .next s
  else match (if half = 0 then (s.well die).capture0 else if half = 1 then (s.well die).capture1 else none) with
    | some c => .next (s.blotCheck die half c chains)
    | none => .next s

end Sys2Proof.Machine
end

