-- ==== Sys2Proof/Machine/ScribeCmds.lean ====
section
/-! DEFINITION. The commands of the scribe (R400, R406, R408, R409, R456 to R458): the command at the front of the scribe's queue runs when its row is
commanded, and its result goes to the channel it came on. -/
namespace Sys2Proof.Machine

/-! ### Acceptance (R447, R456, R457, R406, R492) -/

/-- Commands that R457 refuses while a job runs, the state is HOLDING or a release runs: RESET, the transitions, PAGE_KIND, CLEAR_FENCES. -/
def needsIdle (op : Nat) : Bool := [0x0014, 0x0020, 0x0021, 0x0022, 0x0023, 0x0024, 0x0025, 0x0026, 0x0034].contains op

/-- What the boot ROM serves after NO_SLOT and after PROV_BAD (R406). -/
def romServes (code op : Nat) : Bool :=
  [0x0001, 0x0002, 0x0003, 0x0004, 0x0014, 0x0040].contains op
    || (code = 0x10 && [0x0010, 0x0011, 0x0012].contains op) || (code = 0x11 && op = 0x0020)

/-- What standby serves (R492), with the RESET of R447 and R491. -/
def State.standbyServes (s : State) (c : CmdReq) : Bool :=
  (c.ch = .uart && [0x0001, 0x0002, 0x0003, 0x0040].contains c.op) || (c.op = 0x0014 && (s.power.tripped || s.power.latchedOpen))

/-- The status with which the scribe refuses a command, none when it runs. -/
def State.cmdRefusal (s : State) (c : CmdReq) : Option Nat :=
  let code := s.boot.code.toNat
  if s.scr.released && ! [0x0001, 0x0002, 0x0003, 0x0004].contains c.op then some 0x04
  else if s.power.standby then (if !s.standbyServes c then some 0x03 else if c.op = 0x0014 && s.power.tripped && !s.cooled then some 0x09 else none)
  else if !(if code = 0x10 || code = 0x11 then romServes code c.op else cmdInLife c.op (lifeNum s.boot.life)) then some 0x03
  else if needsIdle c.op && (s.strk.run.isSome || s.mir.st = .holding || s.mir.releaseStep ≠ 0) then some 0x04
  else none

/-- Argument `i` of a command, 0 where the channel gave none. -/
def CmdReq.arg (c : CmdReq) (i : Nat) : Nat := (c.args.getD i 0#32).toNat

/-- Deliver the result of a command. -/
def State.answerCmd (s : State) (c : CmdReq) (status : Nat) (res : List Word) (data : List Byte) : State :=
  s.deliverCmd { req := c, status := status, res := res, data := data }

/-- Run the command at the front of the queue when it has the row's opcode. -/
def State.runCmd (s : State) (op : Nat) (f : CmdReq → State → State) : Out State :=
  match s.scr.queue with
  | [] => .next s
  | c :: rest =>
    if c.op ≠ op || !s.power.scribe then .next s
    else
      let s := { s with scr := { s.scr with queue := rest } }
      match s.cmdRefusal c with
      | some st => .next (s.answerCmd c st [] [])
      | none => .next (f c s)

/-! ### The mailbox's completion (R458) -/

def putData (m : Sparse Byte) (a : Nat) : List Byte → Sparse Byte
  | [] => m
  | b :: rest => putData (sset (fun _ => 0#8) m a b) (a + 1) rest

/-- RES, the data buffer, STATUS and TAG; BUSY clears; DONE and vector 147. -/
def State.postMailbox (s : State) (d : CmdDone) : State :=
  let x := s.scr.mbx
  let m : Mbx := { x with
    res := d.res ++ x.res.drop d.res.length, data := putData x.data 0 d.data, busy := false, status := BitVec.ofNat 8 d.status,
    tag := BitVec.ofNat 8 d.req.tag, evt := x.evt.raise 0 }
  { s with scr := { s.scr with mbx := m, finish := none } }.fire 147

/-- A mailbox command that waits for another module. -/
def waitsForPeer (c : CmdReq) : Bool := c.ch = .mailbox && (c.op = 0x0031 || c.op = 0x0041)

/-- MAILBOX_COMPLETION: the command that has run is completed; without one, a command whose peer has not answered within 1 s ends with PEER, and a
restore stops (R352, R457). -/
def execMailboxCompletion (s : State) : Out State :=
  if !s.power.scribe then .next s
  else match s.scr.finish with
    | some d => .next (s.postMailbox d)
    | none => match s.scr.wait.find? waitsForPeer with
      | none => .next s
      | some c =>
        let s := { s with scr := { s.scr with wait := s.scr.wait.erase c } }
        let s := if c.op = 0x0041 then { s with mir := { s.mir with restoreEpoch := none, st := s.mir.prior } }.clearReceived else s
        .next (s.postMailbox { req := c, status := 0x07, res := [], data := [] })

/-- A completion that precedes a reset. -/
def State.completeNow (s : State) (c : CmdReq) (status : Nat) (res : List Word) : State :=
  if c.ch = .mailbox then s.postMailbox { req := c, status := status, res := res, data := [] } else s.answerCmd c status res []

/-! ### Reading (R456) -/

/-- IDENTIFY. -/
def State.identity (s : State) : List Word :=
  [s.idWord, s.boot.serial.setWidth 32, (s.boot.serial >>> 32).setWidth 32, s.boot.fwVer, s.lifeWord, s.bootStatWord]

def execIdentify (s : State) : Out State := s.runCmd 0x0001 fun c s => s.answerCmd c 0 s.identity []

/-- A range of `count` items from `first` that lies below `limit`. -/
def rangeOk (first count most limit : Nat) : Bool := 1 ≤ count && count ≤ most && first + count ≤ limit

/-- SENSORS. -/
def execSensors (s : State) : Out State :=
  s.runCmd 0x0002 fun c s =>
    if rangeOk (c.arg 0) (c.arg 1) 184 184 then
      s.answerCmd c 0 [] ((List.range (c.arg 1)).flatMap fun i => leBytes 2 (s.sensorValue (c.arg 0 + i)).toNat)
    else s.answerCmd c 0x02 [] []

/-- LOG_READ. -/
def execLogRead (s : State) : Out State :=
  s.runCmd 0x0003 fun c s =>
    if 1 ≤ c.arg 1 && c.arg 1 ≤ 1024 then
      let all := s.logEntries
      let es := (all.filter fun e => c.arg 0 ≤ e.seq).take (c.arg 1)
      s.answerCmd c 0 [w32 es.length, w32 ((all.head?.map (·.seq)).getD 0)] (es.flatMap entryBytes)
    else s.answerCmd c 0x02 [] []

/-- The telemetry of a channel, and all channels' telemetry with that one read (R455). -/
def Scribe.tele (x : Scribe) (ch : Channel) : Tele :=
  match ch with | .mailbox => x.teleM | .uart => x.teleU | .smbus => x.teleS

def Scribe.teleRead (x : Scribe) (ch : Channel) : Scribe :=
  match ch with
  | .mailbox => { x with teleM := Tele.reset }
  | .uart => { x with teleU := Tele.reset }
  | .smbus => { x with teleS := Tele.reset }

/-- The 64 bytes of a telemetry record. -/
def Scribe.record (x : Scribe) (t : Tele) : List Byte :=
  leBytes 8 (x.energyNj / 10 ^ 9) ++ leBytes 8 (x.uptimeNs / 10 ^ 6) ++ leBytes 2 t.tmaxDie.toNat ++ leBytes 2 t.tmaxStack.toNat
    ++ leBytes 2 t.tmaxOut.toNat ++ leBytes 2 (min t.pmax 0xFFFF) ++ leBytes 4 t.throttleMs ++ leBytes 4 t.steps ++ leBytes 4 t.alerts
    ++ leBytes 2 t.flowMin ++ leBytes 2 x.trips ++ leBytes 4 t.drops ++ List.replicate 20 0#8

/-- TELEMETRY. -/
def execTelemetry (s : State) : Out State :=
  s.runCmd 0x0004 fun c s => { s with scr := s.scr.teleRead c.ch }.answerCmd c 0 [] (s.scr.record (s.scr.tele c.ch))

/-- MAP_IMAGE. -/
def execMapImage (s : State) : Out State :=
  s.runCmd 0x0005 fun c s => s.answerCmd c 0 [] ((s.units.map0 ++ s.units.map1).flatMap fun e => leBytes 2 e.toNat)

/-- The 128 bits of a page-map entry (R230); STATE of an own page reads 0. -/
def pageBits (e : PageEntry) : Nat :=
  e.kind.toNat + 2 ^ 2 * (if e.kind = 2 then e.state.toNat else 0) + 2 ^ 5 * bit e.pinned + 2 ^ 6 * bit e.shadowEn + 2 ^ 7 * bit e.lent
    + 2 ^ 8 * e.shadow.toNat + 2 ^ 25 * e.homeRank.toNat + 2 ^ 32 * e.homePage.toNat + 2 ^ 49 * e.homeTag.toNat + 2 ^ 65 * e.lenderRank.toNat
    + 2 ^ 72 * e.lenderPage.toNat + 2 ^ 89 * e.loanTag.toNat

/-- PMAP_READ. -/
def execPmapRead (s : State) : Out State :=
  s.runCmd 0x0006 fun c s =>
    if rangeOk (c.arg 0) (c.arg 1) 4096 131072 then
      s.answerCmd c 0 [] ((List.range (c.arg 1)).flatMap fun i => leBytes 16 (pageBits (s.page (c.arg 0 + i))))
    else s.answerCmd c 0x02 [] []

/-- A table entry as it reads: the published FILL of the poison block is 256 (R183). -/
def State.kvShown (s : State) (i : Nat) : KvEntry := if i = 0 then { s.kv 0 with fill := 256 } else s.kv i

/-- KVT_READ. -/
def execKvtRead (s : State) : Out State :=
  s.runCmd 0x0007 fun c s =>
    if rangeOk (c.arg 0) (c.arg 1) 4096 kvEntries then
      s.answerCmd c 0 [] ((List.range (c.arg 1)).flatMap fun i => leBytes 16 (kvBits (s.kvShown (c.arg 0 + i))))
    else s.answerCmd c 0x02 [] []

/-! ### Scrolls (R397 to R400, R406) -/

/-- The slot that the boot state record does not name as ACTIVE. -/
def State.idleSlot (s : State) : Bool := !s.bootRec.active

/-- The SCROLL entry of a command (R454; log entry 8). -/
def State.logScroll (s : State) (op : Nat) (slot : Bool) (result : Nat) : State :=
  s.logEvent 0x0004 (if result = 1 then 0 else 2)
    [w32 op, w32 (bit slot), w32 result, w32 (leAt (s.scrollBytes slot 12 4) 0 4), w32 s.fuses.fuseVer]

/-! The steps in which a command changes flash and fuses: its exec takes them all, a supply that ends while it runs only the first of them (R400, R409). -/

def State.onFlash (s : State) (b : Bool) (f : Flash → Flash) : State := s.setFlash b (f (s.flash b))

/-- SCROLL_WRITE: the blocks of 4 KiB that the data touches are erased, then programmed. -/
def State.scrollSteps (s : State) (c : CmdReq) : List (State → State) :=
  let n := c.arg 1
  let slot := s.idleSlot
  let at_ := slotBase + c.arg 0
  let bs := s.mbxBytes 0 n
  (fun s : State => s.onFlash slot fun f => f.erase at_ ((n + 4095) / 4096 * 4096))
    :: (List.range ((n + 4095) / 4096)).map fun k => fun s : State => s.onFlash slot fun f => f.write (at_ + 4096 * k) ((bs.drop (4096 * k)).take 4096)

/-- COMMIT: the boot state record, then the rollback fuses one at a time when ADVANCE is set. -/
def State.commitSteps (s : State) : List (State → State) :=
  let slot := s.boot.booted
  let advance := leAt (s.scrollBytes slot 11 1) 0 1 % 2 = 1
  let blow := fun (s : State) => { s with fuses := { s.fuses with fuseVer := s.fuses.fuseVer + 1 } }
  s.recSteps (fun r => { r with active := slot, trial := none, trialLeft := 0 })
    ++ List.replicate (if advance then min 63 s.boot.secVer - s.fuses.fuseVer else 0) blow

/-- Both record copies are erased and written, one after the other. -/
def recordSteps (r : List Byte) : List (State → State) :=
  [false, true].flatMap fun b => [(·.onFlash b (·.erase 0 recordSize)), (·.onFlash b (·.write 0 r))]

/-- A transition's boot state record. -/
def State.lifeSteps (s : State) (dest : Life) : List (State → State) := s.recSteps fun r => { r with state := dest, rbPending := true }

/-- PROVISION: the record copies, the PROV fuse, the boot state record; the boot ROM after PROV_BAD writes the copies alone (R406, R408, R409). -/
def State.provisionSteps (s : State) : List (State → State) :=
  let copies := recordSteps (s.mbxBytes 0 recordSize)
  if s.boot.code = 0x11 then copies
  else copies ++ [fun s => { s with fuses := { s.fuses with prov := true } }] ++ s.lifeSteps .provisioned

/-- RETIRE: the RET fuse is blown, after which every boot completes what follows; slots and keys are erased, the boot state record (R408, R409). -/
def State.retireSteps (s : State) : List (State → State) :=
  [fun s => { s with fuses := { s.fuses with ret := true } }, (·.eraseSlot false), (·.eraseSlot true)] ++ s.lifeSteps .retired

/-- The data of a SCROLL_WRITE lie in the slot. -/
def scrollRangeOk (c : CmdReq) : Bool := c.arg 0 % 4096 = 0 && 1 ≤ c.arg 1 && c.arg 1 ≤ 65536 && c.arg 0 + c.arg 1 ≤ slotSize

/-- Attempts of a TRIAL: two where the argument is left out (R400). -/
def trialAttempts (c : CmdReq) : Nat := if c.args.isEmpty then 2 else c.arg 0

/-- A trial has succeeded, so that COMMIT runs. -/
def State.commitOk (s : State) : Bool := s.boot.trial && s.ready && !s.boot.noPset

/-- SCROLL_WRITE. -/
def execScrollWrite (s : State) : Out State :=
  s.runCmd 0x0010 fun c s =>
    if !scrollRangeOk c then s.answerCmd c 0x02 [] []
    else if (s.flash s.idleSlot).bad then s.answerCmd c 0x06 [] []
    else (runSteps s (s.scrollSteps c)).answerCmd c 0 [] []

/-- SCROLL_VERIFY. -/
def execScrollVerify (s : State) : Out State :=
  s.runCmd 0x0011 fun c s =>
    let res := s.verifySlot s.idleSlot s.boot.life (s.record.getD [])
    (s.logScroll 0x0011 s.idleSlot res).answerCmd c (if res = 1 then 0 else 0x05) [w32 res] []

/-- TRIAL. -/
def State.trialSteps (s : State) (c : CmdReq) : List (State → State) :=
  let slot := s.idleSlot
  s.recSteps fun r => { r with trial := some slot, trialLeft := trialAttempts c }

def execTrial (s : State) : Out State :=
  s.runCmd 0x0012 fun c s =>
    if !(1 ≤ trialAttempts c && trialAttempts c ≤ 3) then s.answerCmd c 0x02 [] []
    else if s.flashFails then s.answerCmd c 0x06 [] []
    else
      let slot := s.idleSlot
      let s := (runSteps s (s.trialSteps c)).noteBootRec
      (s.logScroll 0x0012 slot 1).answerCmd c 0 [] []

/-- COMMIT after a successful trial; the rollback fuses follow when ADVANCE is set. -/
def execCommit (s : State) : Out State :=
  s.runCmd 0x0013 fun c s =>
    if !s.commitOk then s.answerCmd c 0x05 [w32 s.fuses.fuseVer] []
    else if s.flashFails then s.answerCmd c 0x06 [w32 s.fuses.fuseVer] []
    else
      let slot := s.boot.booted
      let s := (runSteps s s.commitSteps).noteBootRec
      let s := { s with boot := { s.boot with trial := false } }
      (s.logScroll 0x0013 slot 1).answerCmd c 0 [w32 s.fuses.fuseVer] []

/-! ### Reset and the lifecycle (R408, R409, R447) -/

/-- RESET: the completion precedes the reset. -/
def execReset (env : BootEnv) (s : State) : Out State := s.runCmd 0x0014 fun c s => (s.completeNow c 0 []).resetModule env

/-- An accepted transition: its steps with flash and fuses, the boot state record the last of them; the LIFECYCLE entry, the reset. -/
def State.transition (s : State) (c : CmdReq) (dest : Life) (steps : List (State → State)) (env : BootEnv) : State :=
  if s.flashFails then s.answerCmd c 0x06 [] []
  else
    let old := s.boot.life
    let s := (runSteps s steps).logEvent 0x0003 0 [w32 (lifeNum old), w32 (lifeNum dest), w32 c.op]
    (s.completeNow c 0 []).resetModule env

/-- A record that the boot ROM takes after PROV_BAD (R406). -/
def State.romRecordOk (s : State) (r : List Byte) : Bool :=
  s.recordValid r && (!s.fuses.prov || recordKeys r ≠ 0)
    && s.recordCopies.all fun x => !s.recordSigned x || recordSeqOf x ≤ recordSeqOf r

/-- A record that PROVISION takes (R406, R408). -/
def State.provisionOk (s : State) : Bool :=
  let r := s.mbxBytes 0 recordSize
  if s.boot.code = 0x11 then s.romRecordOk r else s.recordValid r && recordKeys r ≠ 0 && s.boot.recordSeq.toNat < recordSeqOf r

/-- PROVISION. -/
def execProvision (env : BootEnv) (s : State) : Out State :=
  s.runCmd 0x0020 fun c s =>
    if !s.provisionOk then s.answerCmd c 0x05 [] []
    else if s.boot.code = 0x11 then
      (if s.flashFails then s.answerCmd c 0x06 [] [] else ((runSteps s s.provisionSteps).completeNow c 0 []).resetModule env)
    else s.transition c .provisioned s.provisionSteps env

/-- A slot verifies under a record key (R408). -/
def State.enableOk (s : State) : Bool :=
  let r := s.record.getD []
  s.verifySlot false s.boot.life r = 1 || s.verifySlot true s.boot.life r = 1

/-- ENABLE. -/
def execEnable (env : BootEnv) (s : State) : Out State :=
  s.runCmd 0x0021 fun c s =>
    if s.enableOk then s.transition c .operational (s.lifeSteps .operational) env
    else s.answerCmd c 0x05 [w32 (s.verifySlot s.boot.booted s.boot.life (s.record.getD []))] []

/-- DIAG_ENTER. -/
def execDiagEnter (env : BootEnv) (s : State) : Out State :=
  s.runCmd 0x0022 fun c s => s.transition c .diagnostic (s.lifeSteps .diagnostic) env
/-- DIAG_EXIT. -/
def execDiagExit (env : BootEnv) (s : State) : Out State :=
  s.runCmd 0x0023 fun c s => s.transition c .operational (s.lifeSteps .operational) env
/-- DECOMMISSION. -/
def execDecommission (env : BootEnv) (s : State) : Out State :=
  s.runCmd 0x0024 fun c s => s.transition c .provisioned (s.lifeSteps .provisioned) env

/-- RETIRE is confirmed by the serial number. -/
def State.retireOk (s : State) (c : CmdReq) : Bool := c.arg 0 = (s.boot.serial.setWidth 32).toNat

/-- RETIRE. -/
def execRetire (env : BootEnv) (s : State) : Out State :=
  s.runCmd 0x0025 fun c s => if s.retireOk c then s.transition c .retired s.retireSteps env else s.answerCmd c 0x05 [] []

/-- The steps with flash and fuses of a command that runs; none of one that the scribe refuses, or whose flash fails. -/
def State.cmdSteps (s : State) (c : CmdReq) : List (State → State) :=
  if (s.cmdRefusal c).isSome || s.flashFails then []
  else match c.op with
    | 0x0010 => if scrollRangeOk c then s.scrollSteps c else []
    | 0x0012 => if 1 ≤ trialAttempts c && trialAttempts c ≤ 3 then s.trialSteps c else []
    | 0x0013 => if s.commitOk then s.commitSteps else []
    | 0x0020 => if s.provisionOk then s.provisionSteps else []
    | 0x0021 => if s.enableOk then s.lifeSteps .operational else []
    | 0x0022 => s.lifeSteps .diagnostic
    | 0x0023 => s.lifeSteps .operational
    | 0x0024 => s.lifeSteps .provisioned
    | 0x0025 => if s.retireOk c then s.retireSteps else []
    | _ => []

/-- The supply ends while the command at the front of the queue runs: how many of its steps it has made is a free value (R400, R409; log entry 118). -/
def State.cutShort (s : State) : State :=
  match s.scr.queue with
  | [] => s
  | c :: _ =>
    let steps := s.cmdSteps c
    runSteps s (steps.take ((Config.freeOf 10 (c.op :: s.bootRec.seq.toNat :: c.args.map (·.toNat)) 0).toNat % (steps.length + 1)))

/-- CLEAR_FENCES: a FENCE_CLEAR entry, and the full self-test at the next reset. -/
def execClearFences (s : State) : Out State :=
  s.runCmd 0x0026 fun c s =>
    let s := s.flushLog
    let last := s.logEntries.foldl (fun m e => if e.type = fenceType then max m e.seq else m) 0
    let s := s.logEvent fenceClearType 0 [w32 last]
    { s with boot := { s.boot with fullSelfTest := true } }.answerCmd c 0 [] []

/-! ### Loans (R244 to R254) -/

/-- Little-endian words of the mailbox's data buffer. -/
def State.mbxWord (s : State) (i : Nat) : Nat := (s.scr.mbx.dataWord (4 * i)).toNat

/-- T3 indices in the data buffer, up to the first word that is 0 (log entry 46). -/
def State.mbxIndices (s : State) : List Nat := ((List.range 16384).map s.mbxWord).takeWhile (· ≠ 0)

/-- LOAN_OFFER. -/
def execLoanOffer (s : State) : Out State :=
  s.runCmd 0x0030 fun c s =>
    if s.others.contains (c.arg 0) && 1 ≤ c.arg 1 && c.arg 1 ≤ s.lendable.length && 2 ≤ c.arg 2 && c.arg 2 ≤ 255 && c.arg 3 ≤ 16 then
      let o : Offer := { rank := c.arg 0, pages := c.arg 1, notice := c.arg 2, share := c.arg 3 }
      let s := { s with loan := { s.loan with offersOut := (s.loan.offersOut.filter fun (q : Offer) => q.rank ≠ o.rank) ++ [o], share := o.share } }
      (s.sendRecord o.rank 0x30 [o.pages, o.notice, o.share] false).answerCmd c 0 [] []
    else s.answerCmd c 0x02 [] []

/-- Page `i` of a LOAN_REQUEST's data: T3 index, home rank, home page, home tag. -/
def State.askedPage (s : State) (i : Nat) : LoanPage :=
  { t3 := s.mbxWord (4 * i), homeRank := s.mbxWord (4 * i + 1), homePage := s.mbxWord (4 * i + 2), homeTag := s.mbxWord (4 * i + 3) }

/-- A T3 index holds no loan, and none is being asked for it. -/
def State.idleT3 (s : State) (t3 : Nat) : Bool :=
  let e := s.pageDue t3
  73728 ≤ t3 && t3 < 131072 && !(s.loan.held.any fun g => g.t3 = t3)
    && !(e.kind = 2 && e.state = 1 && s.scr.wait.any fun c => c.op = 0x0031 && c.arg 0 = e.lenderRank.toNat)

/-- A page that may be asked for: an idle T3 index, and a home page of the group, which this module can pin where it is its own. -/
def State.askable (s : State) (p : LoanPage) : Bool :=
  s.idleT3 p.t3 && s.pinnable p
    && (p.homeRank = s.grp.rank.toNat || s.others.contains p.homeRank) && p.homePage < 73728 && p.homeTag < 65536

/-- The request gives a T3 index that names a home page another one. -/
def State.renamed (s : State) (p : LoanPage) : Bool :=
  let e := s.page p.t3
  e.kind = 2 && !(e.homeRank.toNat = p.homeRank && e.homePage.toNat = p.homePage)

/-- A T3 index of this module names its home page no longer: the home module learns of it (R251). -/
def State.dropName (s : State) (t3 : Nat) : State :=
  let r := (s.page t3).homeRank.toNat
  if r = s.grp.rank.toNat then s.dropPins r [t3] else s.sendUnnamed r [t3]

/-- Home modules of a request other than this module and the lender, each once. -/
def State.thirdHomes (s : State) (lender : Nat) (pages : List LoanPage) : List Nat :=
  (pages.filter fun p => p.homeRank ≠ s.grp.rank.toNat && p.homeRank ≠ lender).foldl (fun l p => insertNat p.homeRank l) []

/-- Such a home module is asked to pin pages by a REQUEST with notice 0, to which it makes no grant (R245; log entry 90). -/
def State.askPins (s : State) (home : Nat) (pages : List LoanPage) : State :=
  s.sendList home 0x31 0 (recordsFor pages.length) (pages.map requestItems)

/-- LOAN_REQUEST: the entries become FILLING, a home page of this module is pinned, and the command waits for GRANT. -/
def execLoanRequest (s : State) : Out State :=
  s.runCmd 0x0031 fun c s =>
    let n := c.arg 1
    let pages := (List.range (min n 4096)).map s.askedPage
    let offered := match s.loan.offersIn.find? fun o => o.rank = c.arg 0 with
      | some o => n ≤ o.pages && o.notice ≤ c.arg 2 && c.arg 2 ≤ 255
      | none => false
    if offered && 1 ≤ n && n ≤ 4096 && pages.all s.askable && decide ((pages.map (·.t3)).Nodup) then
      let s := (pages.filter s.renamed).foldl (fun s p => s.dropName p.t3) s
      let s := pages.foldl (fun s p => (s.changePage p.t3 (.filling (c.arg 0) p.homeRank p.homePage p.homeTag)).pinHome s.grp.rank.toNat p) s
      let s := (s.thirdHomes (c.arg 0) pages).foldl (fun s r => s.askPins r (pages.filter fun p => p.homeRank = r)) s
      let s := s.sendList (c.arg 0) 0x31 (c.arg 2) (recordsFor n) (pages.map requestItems)
      { s with scr := { s.scr with wait := s.scr.wait ++ [c] } }
    else s.answerCmd c 0x02 [] []

/-- LOAN_RECALL. -/
def execLoanRecall (s : State) : Out State :=
  s.runCmd 0x0032 fun c s =>
    let t3 := s.mbxIndices
    if !t3.isEmpty && 2 ≤ c.arg 1 && c.arg 1 ≤ 255 && t3.all fun i => !(s.loansOf (c.arg 0) [i]).isEmpty then
      (s.sendRecall (c.arg 0) (c.arg 1) t3).answerCmd c 0 [] []
    else s.answerCmd c 0x02 [] []

/-- LOAN_RETURN. -/
def execLoanReturn (s : State) : Out State :=
  s.runCmd 0x0033 fun c s =>
    let t3 := s.mbxIndices
    if !t3.isEmpty && t3.all fun i => s.loan.held.any fun g => g.peer = c.arg 0 && g.t3 = i then
      (s.giveBack (c.arg 0) t3).answerCmd c 0 [] []
    else s.answerCmd c 0x02 [] []

/-- PAGE_KIND: pages that are neither pinned, lent nor lendable take the kind and are zeroed. -/
def execPageKind (s : State) : Out State :=
  s.runCmd 0x0034 fun c s =>
    let pages := (List.range (c.arg 1)).map (c.arg 0 + ·)
    if 1 ≤ c.arg 1 && c.arg 0 + c.arg 1 ≤ 73728 && c.arg 2 ≤ 1
        && pages.all fun p => !(s.page p).pinned && !(s.page p).lent && !s.boot.config.lendable.contains p then
      let s := pages.foldl (fun s p => (s.changePage p (.kind (c.arg 2 = 1))).zeroBytes (t2At p 0) (2 ^ 24)) s
      s.answerCmd c 0 [] []
    else s.answerCmd c 0x02 [] []

/-! ### Release, restore, rates, thresholds -/

/-- RELEASE: in RETIRED and in standby REL_RDY_N follows at once; else the sequence begins, and the command completes with it (R355, R502). -/
def execRelease (s : State) : Out State :=
  s.runCmd 0x0040 fun c s =>
    let s := { s with scr := { s.scr with released := true } }
    if s.power.standby || s.boot.life = .retired then (s.completeNow c 0 []).assertReady
    else { s.beginRelease with scr := { s.beginRelease.scr with wait := s.beginRelease.scr.wait ++ [c] } }

/-- RESTORE: the partner is asked for the epoch's image (R352). -/
def execRestore (s : State) : Out State :=
  s.runCmd 0x0041 fun c s =>
    if s.partner.isNone || s.mir.st = .none || 65536 ≤ c.arg 0 then s.answerCmd c 0x02 [] []
    else
      let s := { s with mir := { s.mir with
        prior := if s.mir.st = MirSt.restoring then s.mir.prior else s.mir.st, st := MirSt.restoring,
        restoreEpoch := some (c.arg 0) } }.clearReceived
      let s := s.sendPartner 0x46 [c.arg 0]
      { s with scr := { s.scr with wait := s.scr.wait ++ [c] } }

/-- DISCARD_IMAGE: the partner's image is given up; a module that held it has lost its course (R350). -/
def execDiscardImage (s : State) : Out State :=
  s.runCmd 0x0042 fun c s =>
    { s with mir := { s.mir with
      image := none, pend := none, imageEpoch := 0, st := if s.mir.st = MirSt.holding then MirSt.lost else s.mir.st } }.answerCmd c 0 [] []

/-- RATE: the host's part of the member's rate request (R449). -/
def execRate (s : State) : Out State :=
  s.runCmd 0x0043 fun c s =>
    if 9 ≤ c.arg 0 && c.arg 0 ≤ 18 && 64 ≤ c.arg 1 && c.arg 1 ≤ 4096 then
      let old := s.combinedRate
      let asks := c.arg 0 < 18 || 64 < c.arg 1
      let t := s.scr.throttle
      let s := s.setThrottle { t with hostReq := some (c.arg 0, c.arg 1), cause := (t.cause &&& 0x1F#6) ||| (if asks then 0x20#6 else 0#6) }
      let new := s.combinedRate
      let s := if new = old then s else s.changeRate old t.rung (decide (new.1 < old.1 || old.2 < new.2))
      s.answerCmd c 0 [] []
    else s.answerCmd c 0x02 [] []

/-- THRESHOLD: a row's ALERT and THROTTLE values, never above the table (R445; log entry 45). -/
def execThreshold (s : State) : Out State :=
  s.runCmd 0x0044 fun c s =>
    if c.arg 0 < 8 then
      (s.setThreshold (c.arg 0) (some (c.args.getD 1 0#32).toInt, some (c.args.getD 2 0#32).toInt)).answerCmd c 0 [] []
    else s.answerCmd c 0x02 [] []

end Sys2Proof.Machine
end

