-- ==== Sys2Proof/Machine/Power.lean ====
section
/-! DEFINITION. Supplies and insertion (R482, R486 to R492, R496, R497, R453): the beginning and the end of power-good, the hold-up of the auxiliary
domain, and cables. -/
namespace Sys2Proof.Machine

/-- The hot-swap switch has closed, and no boot has begun since. -/
def State.atPowerGood (s : State) : Bool := s.power.scribe && s.power.aux && s.power.switchClosed && !s.power.vio

/-- POWER_GOOD: the ramp has completed and every condition of R488 holds; the scribe is reset and boot begins (R401, R492). -/
def execPowerGood (env : BootEnv) (s : State) : Out State := if s.atPowerGood then .next (s.restart.bootUp env) else .next s

/-- STANDBY: V3P3_AUX is valid without power-good (R492). A scribe that had no power starts afresh. -/
def execStandby (s : State) : Out State :=
  if s.power.good then .next s
  else
    let s := if s.power.scribe then s else { s with scr := { Scribe.reset with logHead := s.scr.logHead } }
    .next { s with power := { s.power with aux := true, scribe := true, standby := true, holdup := none } }

/-- HOTSWAP_RAMP_START: the switch closes (R489). After an overload or undervoltage, and after REL_RDY_N, it does so only once VIN54 has been absent for
1 s, and never while a trip stands (R447, R491, R502). -/
def execHotswapRampStart (vinWasAbsent : Bool) (s : State) : Out State :=
  if !s.power.scribe || !s.power.aux || s.power.switchClosed || s.power.tripped || ((s.power.latchedOpen || s.pins.relRdy) && !vinWasAbsent) then .next s
  else .next { s with power := { s.power with switchClosed := true, rampDone := false, vin := true, mate := true, latchedOpen := false } }

/-- Main power has been lost: the scribe writes an ALERT entry for sensor 160, with the lower end of the ALERT window of VIN54 (R444, R446, R492). -/
def State.losePower (s : State) : State :=
  if !s.power.switchClosed then s
  else
    let s := if !s.power.good || (s.sensor 160).alerted then s
      else (s.alert 160 ((s.sensor 160).value.setWidth 32) (w32 ((1000 - s.railWindow) * 54)) 5).setSensor 160 { s.sensor 160 with alerted := true }
    s.mainOff

/-- MATE_LOOP_OPEN (R490). -/
def execMateLoopOpen (s : State) : Out State :=
  let s := s.losePower
  .next { s with power := { s.power with mate := false } }

/-- INPUT_PROTECTION (R491): the first two causes keep the switch open. -/
def execInputProtection (cause : ProtectCause) (s : State) : Out State :=
  if !s.power.switchClosed then .next s
  else
    let s := s.losePower
    .next { s with power := { s.power with latchedOpen := s.power.latchedOpen || cause = .overPower || cause = .underVoltage } }

/-- V3P3_AUX leaves its window: main power is lost with it, and the hold-up begins (R453, R487, R488). -/
def State.loseAux (s : State) : State :=
  if !s.power.aux then s
  else
    let s := s.losePower
    { s with power := { s.power with aux := false, standby := false, holdup := if s.power.scribe then some s.scr.logQueue.length else none } }

/-- POWER_GOOD_END (R488, R491). -/
def execPowerGoodEnd (cause : GoodCause) (s : State) : Out State :=
  match cause with
  | .auxWindow => .next s.loseAux
  | .mateLoop => let s := s.losePower; .next { s with power := { s.power with mate := false } }
  | .vin54 => let s := s.losePower; .next { s with power := { s.power with vin := false } }
  | .ref100 => let s := s.losePower; .next { s with power := { s.power with ref100 := false } }
  | .rail => .next s.losePower

/-- AUX_SUPPLY_LOSS. -/
def execAuxSupplyLoss (s : State) : Out State := .next s.loseAux

/-- The entry being written when the hold-up ends: how far its programming has come, into flash 0 and then into flash 1, is a free value (R451, R453; log
entry 118). -/
def State.tearEntry (s : State) (e : LogEntry) : State :=
  let n := s.nextSeq
  let c := LogCell.whole { e with seq := n }
  let k := (Config.freeOf 9 [n, s.scr.logHead] 0).toNat % 5
  let f0 := if k = 0 then s.flash0 else s.flash0.putCell s.scr.logHead (if k = 1 then .torn else c)
  let f1 := if k ≤ 2 then s.flash1 else s.flash1.putCell s.scr.logHead (if k = 3 then .torn else c)
  { s with flash0 := f0, flash1 := f1 }.nextHead

/-- The queue at the end of the hold-up: every entry is written, but for one that came after the supply had failed and is being written last (R453). -/
def State.drainLog (s : State) (atFailure : Nat) : State :=
  let s := if s.scr.gap = 0 then s else s.writeGap
  match s.scr.logQueue.getLast? with
  | none => s
  | some e =>
    let n := s.scr.logQueue.length
    if n ≤ atFailure then s.writeLogs n else (s.writeLogs (n - 1)).tearEntry e

/-- AUX_HOLDUP_END: the log queue is written, a command that still runs is cut short (R400, R453). Then the scribe is without power, and THERMTRIP_N and REL_RDY_N are
released (R497, R502). -/
def execAuxHoldupEnd (s : State) : Out State :=
  match s.power.holdup with
  | none => .next s
  | some n =>
    let s := (s.drainLog n).cutShort
    .next { s with
      scr := { Scribe.reset with logHead := s.scr.logHead },
      power := { s.power with scribe := false, standby := false, holdup := none, tripped := false },
      pins := { s.pins with thermtrip := false, relRdy := false, relReq := false } }

/-- CABLE_PRESENCE_CHANGE: VCBL follows the cable while the rails are on, and the connector's links leave DISABLED or enter it (R312, R482). -/
def execCablePresenceChange (connector : Nat) (present : Bool) (s : State) : Out State :=
  if 12 ≤ connector then .fault .absentUnit
  else
    let b := BitVec.ofNat 12 (2 ^ connector)
    let set := fun (x : BitVec 12) (on : Bool) => if on then x ||| b else x &&& ~~~b
    let s := { s with pins := { s.pins with cblPrsnt := set s.pins.cblPrsnt present, vcbl := set s.pins.vcbl (present && s.live) } }
    let links := (List.range 8).map fun k => 8 * connector + k
    if !s.live then .next s
    else if present then
      .next (if 10 ≤ s.boot.phase.toNat then links.foldl State.trainLink s else s)
    else .next (links.foldl (fun s l => (s.linkDown l).modLink l fun x => if x.st = .miswired then x else { x with st := .disabled, laneLock := 0 }) s)

end Sys2Proof.Machine
end

