-- ==== Sys2Proof/Machine/ScribeChannels.lean ====
section
/-! DEFINITION. The scribe's UART monitor (R460) and SMBus target (R446, R459). What an SMBus read sends stands in `rbytes`: a block with its count, and
the PEC. -/
namespace Sys2Proof.Machine

/-! ### The monitor -/

/-- ASCII bytes of characters. -/
def ascii (cs : List Char) : List Byte := cs.map fun c => BitVec.ofNat 8 c.toNat

/-- The command names of R456 in lower case. -/
def cmdNames : List (List Char × Nat) :=
  [(['i','d','e','n','t','i','f','y'], 0x0001), (['s','e','n','s','o','r','s'], 0x0002), (['l','o','g','_','r','e','a','d'], 0x0003),
   (['t','e','l','e','m','e','t','r','y'], 0x0004), (['m','a','p','_','i','m','a','g','e'], 0x0005), (['p','m','a','p','_','r','e','a','d'], 0x0006),
   (['k','v','t','_','r','e','a','d'], 0x0007), (['s','c','r','o','l','l','_','w','r','i','t','e'], 0x0010),
   (['s','c','r','o','l','l','_','v','e','r','i','f','y'], 0x0011), (['t','r','i','a','l'], 0x0012), (['c','o','m','m','i','t'], 0x0013),
   (['r','e','s','e','t'], 0x0014), (['p','r','o','v','i','s','i','o','n'], 0x0020), (['e','n','a','b','l','e'], 0x0021),
   (['d','i','a','g','_','e','n','t','e','r'], 0x0022), (['d','i','a','g','_','e','x','i','t'], 0x0023),
   (['d','e','c','o','m','m','i','s','s','i','o','n'], 0x0024), (['r','e','t','i','r','e'], 0x0025),
   (['c','l','e','a','r','_','f','e','n','c','e','s'], 0x0026), (['l','o','a','n','_','o','f','f','e','r'], 0x0030),
   (['l','o','a','n','_','r','e','q','u','e','s','t'], 0x0031), (['l','o','a','n','_','r','e','c','a','l','l'], 0x0032),
   (['l','o','a','n','_','r','e','t','u','r','n'], 0x0033), (['p','a','g','e','_','k','i','n','d'], 0x0034), (['r','e','l','e','a','s','e'], 0x0040),
   (['r','e','s','t','o','r','e'], 0x0041), (['d','i','s','c','a','r','d','_','i','m','a','g','e'], 0x0042), (['r','a','t','e'], 0x0043),
   (['t','h','r','e','s','h','o','l','d'], 0x0044)]

/-- Opcode of a name; one that no command uses for an unknown name. -/
def opOfName (n : List Byte) : Nat := ((cmdNames.find? fun c => ascii c.1 = n).map (·.2)).getD 0xFFFF

/-- The words of a line, separated by spaces. -/
def wordsOf : List Byte → List Byte → List (List Byte)
  | acc, [] => if acc.isEmpty then [] else [acc]
  | acc, b :: rest => if b = 0x20#8 then (if acc.isEmpty then wordsOf [] rest else acc :: wordsOf [] rest) else wordsOf (acc ++ [b]) rest

/-- Value of a hexadecimal digit. -/
def digitOf (b : Byte) : Option Nat :=
  let n := b.toNat
  if 48 ≤ n && n ≤ 57 then some (n - 48)
  else if 97 ≤ n && n ≤ 102 then some (n - 87)
  else if 65 ≤ n && n ≤ 70 then some (n - 55)
  else none

/-- A hexadecimal argument of at most 32 bits. -/
def hexArg (w : List Byte) : Option Word :=
  if w.length = 0 || 8 < w.length then none
  else (w.foldl (fun (acc : Option Nat) b => match acc, digitOf b with | some a, some d => some (16 * a + d) | _, _ => none) (some 0)).map w32

def State.printUart (s : State) (bs : List Byte) : State := { s with scr := { s.scr with uart := s.scr.uart ++ bs } }

/-- MONITOR_LINE: a line without its end. It is echoed; an unknown name, and a line of more than 120 characters, receive err 01; an argument that is not
hexadecimal err 02 (log entry 37). -/
def execMonitorLine (text : List Byte) (s : State) : Out State :=
  if !s.power.scribe then .next s
  else
    let s := s.printUart (text ++ [10#8])
    match wordsOf [] text with
    | [] => .next (s.printUart asciiPrompt)
    | name :: rest =>
      let args := rest.filterMap hexArg
      let c : CmdReq := { ch := .uart, op := if 120 < text.length then 0xFFFF else opOfName name, tag := 0, args := args }
      if cmdAccepted c.op .uart && (args.length ≠ rest.length || 16 < args.length) then
        .next (s.deliverCmd { req := c, status := 0x02, res := [], data := [] })
      else .next (s.submit c)

/-! ### SMBus -/

/-- CRC-8 of the PEC (SMBus 3.0; log entry 47). -/
def pecOf (bs : List Byte) : Byte := BitVec.ofNat 8 (crcMsb 8 0x07 0 bs)

def smbWriteAddr : Byte := 0xB4#8
def smbReadAddr : Byte := 0xB5#8

/-- A Read Word of a command code. -/
def State.smbWord (s : State) (code w : Nat) : State :=
  let d := leBytes 2 w
  { s with rbytes := d ++ [pecOf ([smbWriteAddr, BitVec.ofNat 8 code, smbReadAddr] ++ d)], rdata := BitVec.ofNat 64 (w % 2 ^ 16) }

/-- A Block Read of a command code. -/
def State.smbBlock (s : State) (code : Nat) (bs : List Byte) : State :=
  let d := BitVec.ofNat 8 bs.length :: bs
  { s with rbytes := d ++ [pecOf ([smbWriteAddr, BitVec.ofNat 8 code, smbReadAddr] ++ d)] }

/-- SMB_STATUS. -/
def State.smbStatusWord (s : State) : Nat :=
  bit s.ready + lifeNum s.boot.life * 2 + bit s.power.tripped * 2 ^ 4 + bit (s.scr.latch ≠ 0) * 2 ^ 5
    + min 15 (min s.scr.throttle.rung (lowestRung s.topClock)) * 2 ^ 6 + bit (s.pins.relReq || s.scr.released) * 2 ^ 10 + bit s.pins.relRdy * 2 ^ 11

def execSmbStatus (s : State) : Out State := if s.power.scribe then .next (s.smbWord 0x01 s.smbStatusWord) else .next s

/-- The scribe serves every code, not the few of standby (R492). -/
def State.smbFull (s : State) : Bool := s.power.scribe && !s.power.standby

/-- SMB_TEMPERATURES. -/
def execSmbTemperatures (s : State) : Out State :=
  if s.smbFull then
    .next (s.smbBlock 0x02 ([s.highest 0 144, s.highest 144 12, s.highest 128 16, s.sensorValue 156, s.sensorValue 157].flatMap fun v => leBytes 2 v.toNat))
  else .next s

/-- Auxiliary power in units of 10 mW, from the voltage and current of V3P3_AUX (R442). -/
def State.auxPower (s : State) : Nat :=
  if (s.sensor 162).answers && (s.sensor 163).answers then (s.sensor 162).value.toNat * (s.sensor 163).value.toNat / 100 else 0

/-- SMB_POWER. -/
def execSmbPower (s : State) : Out State :=
  if s.power.scribe then .next (s.smbBlock 0x03 ([s.power100, s.power2, s.auxPower].flatMap fun v => leBytes 2 (min v 0xFFFF))) else .next s

/-- SMB_IDENTITY. -/
def execSmbIdentity (s : State) : Out State :=
  if s.power.scribe then .next (s.smbBlock 0x04 (leBytes 4 s.idWord.toNat ++ leBytes 8 s.boot.serial.toNat ++ leBytes 4 s.boot.fwVer.toNat)) else .next s

/-- ALERT_CAUSE: the latch; the read lets causes whose class is quiet clear (R446). -/
def execAlertCause (s : State) : Out State :=
  if s.power.scribe then
    let s := s.smbWord 0x05 s.scr.latch.toNat
    .next { s with scr := { s.scr with latchSeen := s.scr.latchSeen ||| s.scr.latch } }.settleLatch
  else .next s

/-- The 32-bit arguments after the opcode. -/
def smbArgs : Nat → List Byte → List Word
  | 0, _ => []
  | n + 1, bs => if bs.isEmpty then [] else w32 (leAt bs 0 4) :: smbArgs n (bs.drop 4)

/-- SMB_COMMAND_WRITE: a Block Write of 2 to 14 bytes, refused where its PEC is wrong. In standby only a RESET that R447 or R491 lets in is taken. -/
def execSmbCommandWrite (bytes : List Byte) (pec : Option Byte) (s : State) : Out State :=
  let good := match pec with
    | some p => p = pecOf ([smbWriteAddr, 0x10#8, BitVec.ofNat 8 bytes.length] ++ bytes)
    | none => true
  let n := s.scr.smb.tag + 1
  let c : CmdReq := { ch := .smbus, op := leAt bytes 0 2, tag := n, args := smbArgs 3 (bytes.drop 2) }
  if s.power.scribe && good && 2 ≤ bytes.length && bytes.length ≤ 14 && (!s.power.standby || s.standbyServes c) then
    .next ({ s with scr := { s.scr with smb := { status := 0xFF, result := [], pos := 31, tag := n } } }.submit c)
  else .next s

/-- SMB_RESULT_READ. -/
def execSmbResultRead (s : State) : Out State :=
  if s.smbFull then
    let s := s.smbBlock 0x11 (s.scr.smb.status :: s.scr.smb.result.take 31)
    .next { s with scr := { s.scr with smb := { s.scr.smb with pos := 31 } } }
  else .next s

/-- SMB_RESULT_NEXT. -/
def execSmbResultNext (s : State) : Out State :=
  if s.smbFull then
    let bs := (s.scr.smb.result.drop s.scr.smb.pos).take 32
    let s := s.smbBlock 0x12 bs
    .next { s with scr := { s.scr with smb := { s.scr.smb with pos := s.scr.smb.pos + bs.length } } }
  else .next s

/-- ALERT_RESPONSE_ADDRESS: answered while ALERT_N is asserted, with the target's address. -/
def execAlertResponseAddress (s : State) : Out State :=
  if s.power.scribe && s.scr.latch ≠ 0 then .next { s with rbytes := [smbWriteAddr, pecOf [0x19#8, smbWriteAddr]] } else .next s

end Sys2Proof.Machine
end

