-- ==== Sys2Proof/Machine/Time.lean ====
section
/-! DEFINITION. The GTC of a group (R264 to R268, R318, R402): mastership, lock, exchanges with the time master, holdover, and steps. -/
namespace Sys2Proof.Machine

/-! ### Mastership (R265, R402) -/

/-- Master candidates, in link-map order. -/
def State.candidates (s : State) : List Nat := match s.grp.linkMap with | some m => m.masters | none => []

/-- Place of a rank among the candidates; their number for a rank that is none. -/
def State.place (s : State) (rank : Nat) : Nat := (s.candidates.takeWhile (· ≠ rank)).length

def State.isCandidate (s : State) : Bool := s.grp.rankValid && s.candidates.contains s.grp.rank.toNat

/-- This module takes mastership with its GTC unchanged, and is locked (R266). -/
def State.takeMaster (s : State) : State := s.ownMaster

/-- The module waits at step 11 of the boot sequence. -/
def State.awaitsMaster (s : State) : Bool := s.live && s.boot.code == 0 && s.boot.phase == 11

/-- GTC_LOCK: a master is in reach at step 11; the GTC steps to it and locks (R264, R266, R402). -/
def execGtcLock (masterGtc : BitVec 64) (master : Nat) (s : State) : Out State :=
  if !s.awaitsMaster || !s.candidates.contains master || master = s.grp.rank.toNat || (s.upPair master).isEmpty then .next s
  else
    let now := s.gtc.now.toNat
    let s := { s with gtc := { s.gtc with now := masterGtc, locked := true, master := false, masterRank := BitVec.ofNat 7 master, offset := 0 } }
    .next ((s.raiseGtc 2).becomeReady now)

/-- MASTER_TAKEOVER: a candidate has heard no exchange within 1 s of step 10 (R402). -/
def execMasterTakeover (s : State) : Out State :=
  if s.awaitsMaster && s.isCandidate then
    let s := s.passMs 1000
    .next (s.takeMaster.becomeReady s.gtc.now.toNat)
  else .next s

/-- This module becomes master of a group whose master has gone silent (R265, R267). -/
def State.succeed (s : State) : State := s.takeMaster.raiseGtc 1

/-- MASTER_SILENCE_TIMEOUT: no exchange of a candidate listed earlier for 100 µs. -/
def execMasterSilenceTimeout (s : State) : Out State :=
  if s.live && s.ready && s.isCandidate && !s.gtc.master then .next s.succeed else .next s

/-- HOLDOVER_ENTRY: no exchange at all for 100 µs. A candidate becomes master, any other member enters holdover (R265, R267). -/
def execHoldoverEntry (s : State) : Out State :=
  if !s.live || !s.ready || s.gtc.master || s.gtc.holdover then .next s
  else if s.isCandidate then .next s.succeed
  else .next { s with gtc := { s.gtc with holdover := true, exch := none } }

/-! ### Lock (R266, R267) -/

/-- LOCKED clears, and the timing promise of a running job is void (R267, R294, R295). -/
def State.unlock (s : State) : State :=
  if !s.gtc.locked then s
  else
    let s := ({ s with gtc := { s.gtc with locked := false } }).raiseGtc 0
    match s.strk.run with
    | some j => { s with strk := { s.strk with isVoid := true, run := some { j with isVoid := true } } }
    | none => s

/-- HOLDOVER_EXPIRY: holdover lasts longer than 1 ms. -/
def execHoldoverExpiry (s : State) : Out State := if s.live && s.gtc.holdover then .next s.unlock else .next s

/-! ### Exchanges (R318) -/

/-- DISCIPLINE_EXCHANGE: the master sends every member DISC_SYNC; DISC_FOLLOW goes after it with the instant t1 at which it has left. -/
def execDisciplineExchange (s : State) : Out State :=
  if !s.live || !s.ready || !s.gtc.master then .next s
  else
    let n := s.gtc.exchNum
    let s := { s with gtc := { s.gtc with exchNum := n + 1 } }
    .next (s.others.foldl (fun s r => s.sendRecord r 0x11 [n] false) s)

/-- Whether an exchange of `sender` is followed: of an earlier candidate always, of the present master, and of a later one once the earlier ones
are silent. -/
def State.follows (s : State) (sender : Nat) : Bool :=
  let c := s.candidates
  c.contains sender &&
    (if s.gtc.master then s.place sender < s.place s.grp.rank.toNat else s.place sender ≤ s.place s.gtc.masterRank.toNat || s.gtc.holdover)

/-- The member disciplines its GTC to `sender` from now on. A change that follows the silence of the old master sets MASTER_CHANGE (R267). -/
def State.adopt (s : State) (sender : Nat) : State :=
  if !s.gtc.master && s.gtc.masterRank.toNat = sender then s
  else
    let silent := s.gtc.holdover
    let s := { s with gtc := { s.gtc with master := false, masterRank := BitVec.ofNat 7 sender, window := [] } }
    if silent then s.raiseGtc 1 else s

/-- DISC_SYNC received, its arrival captured as t2. -/
def execDiscSync (sender exchange : Nat) (t2 : Int) (s : State) : Out State :=
  match s.takeRecord 0x11 sender [exchange] with
  | none => .next s
  | some s =>
    if !s.ready || !s.follows sender then .next s
    else
      let s := s.adopt sender
      .next { s with gtc := { s.gtc with holdover := false, exch := some { num := exchange, t1 := none, t2 := t2, t3 := none } } }

/-- The exchange under way with the master, when it has the number. -/
def State.exchange (s : State) (sender num : Nat) : Option Exchange :=
  if !s.gtc.master && s.gtc.masterRank.toNat = sender then s.gtc.exch.filter fun x => x.num = num else none

/-- DISC_FOLLOW received with t1: DISC_DREQ is sent at t3. -/
def execDiscFollow (sender exchange : Nat) (t1 t3 : Int) (s : State) : Out State :=
  match s.takeRecord 0x12 sender [exchange, t1.toNat] with
  | none => .next s
  | some s => match s.exchange sender exchange with
    | none => .next s
    | some x =>
      let s := { s with gtc := { s.gtc with exch := some { x with t1 := some t1, t3 := some t3 } } }
      .next (s.sendRecord sender 0x13 [exchange] false)

/-- DISC_DREQ received by the master at t4: DISC_DRESP carries t4 back. -/
def execDiscDreq (sender exchange : Nat) (t4 : Int) (s : State) : Out State :=
  match s.takeRecord 0x13 sender [exchange] with
  | none => .next s
  | some s => if s.gtc.master then .next (s.sendRecord sender 0x14 [exchange, t4.toNat] false) else .next s

/-- Twice the estimated offset in ps: ((t2 − t1) − (t4 − t3)) + ASYM, the times in units of 1/8 ns. -/
def twiceOffset (t1 t2 t3 t4 asym : Int) : Int := 125 * ((t2 - t1) - (t4 - t3)) + asym

/-- GLB_GTC_STAT.OFFSET: units of 1/8 ns, saturating, the fraction cut off downwards (log entry 42). -/
def offsetField (twicePs : Int) : BitVec 16 := BitVec.ofInt 16 (max (-32768) (min 32767 (twicePs / 250)))

/-- Delay asymmetry of the link that exchanges with a rank use. -/
def State.asymOf (s : State) (rank : Nat) : Int :=
  match s.upPair rank with
  | l :: _ => (match s.linkEntry l with | some e => e.asym | none => 0)
  | [] => 0

/-- The offset from the master is above 1 µs: the running job and the queued one end with STROKE_SYNC, and a step is due (R268). -/
def State.offsetFault (s : State) : State :=
  let s := (s.raiseGtc 3).finishJob 0x10 0x7F 1 s.gtc.now.toNat
  let s := match s.strk.queued with
    | some j => { s with strk := { s.strk with queued := none } }.complete (s.refusal j.ring j.desc 0x10 1)
    | none => s
  { s with gtc := { s.gtc with stepDue := true } }

/-- An estimate has been made: lock is updated and the rate steered. How far within ±100 ppm firmware steers is a free value (R264, log entry 41). -/
def State.estimate (s : State) (twicePs : Int) : State :=
  let window := (s.gtc.window ++ [twicePs]).drop (s.gtc.window.length + 1 - 64)
  let d := s.draw
  let s := { d.2 with gtc := { d.2.gtc with
    offset := offsetField twicePs, window := window, exch := none, slewPpm := d.1.toInt % 201 - 100 } }
  let s := if 8000 < twicePs.natAbs then s.unlock else s
  let s := if window.length = 64 && window.all (fun x => x.natAbs ≤ 4000) then { s with gtc := { s.gtc with locked := true } } else s
  if 2000000 < twicePs.natAbs then s.offsetFault else s

/-- DISC_DRESP received with t4. -/
def execDiscDresp (sender exchange : Nat) (t4 : Int) (s : State) : Out State :=
  match s.takeRecord 0x14 sender [exchange, t4.toNat] with
  | none => .next s
  | some s => match s.exchange sender exchange with
    | none => .next s
    | some x => match x.t1, x.t3 with
      | some t1, some t3 => .next (s.estimate (twiceOffset t1 x.t2 t3 t4 (s.asymOf sender)))
      | _, _ => .next s

/-- GTC_STEP: no job is held any longer, and the GTC steps to the master's (R264, R268). -/
def execGtcStep (masterGtc : BitVec 64) (s : State) : Out State :=
  if !s.live || !s.gtc.stepDue || s.strk.run.isSome || s.strk.queued.isSome then .next s
  else .next ({ s with gtc := { s.gtc with now := masterGtc, stepDue := false, offset := 0, window := [], exch := none } }.raiseGtc 2)

end Sys2Proof.Machine
end

