-- ==== Sys2Proof/Machine/Dispatch.lean ====
section
/-! DEFINITION. One arm for each command of the opcode table. -/
namespace Sys2Proof.Machine

/-- The effect of a command on everything but the queue. -/
def exec (i : Instr) (s : State) : Host.Outcome State Fault Refusal :=
  match i with
  | .powerGood env => Sys2Proof.Machine.execPowerGood env s
  | .gtcLock masterGtc master => Sys2Proof.Machine.execGtcLock masterGtc master s
  | .masterTakeover => Sys2Proof.Machine.execMasterTakeover s
  | .standby => Sys2Proof.Machine.execStandby s
  | .hotswapRampStart vinWasAbsent => Sys2Proof.Machine.execHotswapRampStart vinWasAbsent s
  | .mateLoopOpen => Sys2Proof.Machine.execMateLoopOpen s
  | .inputProtection cause => Sys2Proof.Machine.execInputProtection cause s
  | .powerGoodEnd cause => Sys2Proof.Machine.execPowerGoodEnd cause s
  | .auxSupplyLoss => Sys2Proof.Machine.execAuxSupplyLoss s
  | .auxHoldupEnd => Sys2Proof.Machine.execAuxHoldupEnd s
  | .flr => Sys2Proof.Machine.execFlr s
  | .hotReset => Sys2Proof.Machine.execHotReset s
  | .perstNAssert => Sys2Proof.Machine.execPerstNAssert s
  | .d3hot => Sys2Proof.Machine.execD3hot s
  | .pcieLinkLoss => Sys2Proof.Machine.execPcieLinkLoss s
  | .sensorSample id reading => Sys2Proof.Machine.execSensorSample id reading s
  | .flowEstimate => Sys2Proof.Machine.execFlowEstimate s
  | .throttleEvaluation => Sys2Proof.Machine.execThrottleEvaluation s
  | .logEntryWrite => Sys2Proof.Machine.execLogEntryWrite s
  | .patrolScrub stack page line result => Sys2Proof.Machine.execPatrolScrub stack page line result s
  | .stackRefresh stack delayed => Sys2Proof.Machine.execStackRefresh stack delayed s
  | .releaseRequest => Sys2Proof.Machine.execReleaseRequest s
  | .releaseReady => Sys2Proof.Machine.execReleaseReady s
  | .quiesceAck => Sys2Proof.Machine.execQuiesceAck s
  | .quiesceComplete => Sys2Proof.Machine.execQuiesceComplete s
  | .doorbell ring value => Sys2Proof.Machine.execDoorbell ring value s
  | .ringCqheadWrite ring value => Sys2Proof.Machine.execRingCqheadWrite ring value s
  | .ringEnable ring value => Sys2Proof.Machine.execRingEnable ring value s
  | .ringAbort ring => Sys2Proof.Machine.execRingAbort ring s
  | .ringFeeddoneWrite ring value => Sys2Proof.Machine.execRingFeeddoneWrite ring value s
  | .jobFetch descriptor rulingNs => Sys2Proof.Machine.execJobFetch descriptor rulingNs s
  | .jobLaunch => Sys2Proof.Machine.execJobLaunch s
  | .stallPoint busy => Sys2Proof.Machine.execStallPoint busy s
  | .strokeBoundary => Sys2Proof.Machine.execStrokeBoundary s
  | .stall sender n e cause => Sys2Proof.Machine.execStall sender n e cause s
  | .rateMessage sender c clock factor => Sys2Proof.Machine.execRateMessage sender c clock factor s
  | .jobEnd sender c status detail => Sys2Proof.Machine.execJobEnd sender c status detail s
  | .trip sender stroke => Sys2Proof.Machine.execTrip sender stroke s
  | .collAbort sender stroke coll step status origin => Sys2Proof.Machine.execCollAbort sender stroke coll step status origin s
  | .chunkNak sender stroke coll step first => Sys2Proof.Machine.execChunkNak sender stroke coll step first s
  | .peerLost rank => Sys2Proof.Machine.execPeerLost rank s
  | .linkTrained link => Sys2Proof.Machine.execLinkTrained link s
  | .ident link groupTag rank rack slot peerLink lmapTag => Sys2Proof.Machine.execIdent link groupTag rank rack slot peerLink lmapTag s
  | .flitReceive link flit fec => Sys2Proof.Machine.execFlitReceive link flit fec s
  | .flitSend link => Sys2Proof.Machine.execFlitSend link s
  | .ackTimer link => Sys2Proof.Machine.execAckTimer link s
  | .linkRxTimeout link => Sys2Proof.Machine.execLinkRxTimeout link s
  | .laneLockLoss link lane => Sys2Proof.Machine.execLaneLockLoss link lane s
  | .disciplineExchange => Sys2Proof.Machine.execDisciplineExchange s
  | .discSync sender exchange t2 => Sys2Proof.Machine.execDiscSync sender exchange t2 s
  | .discFollow sender exchange t1 t3 => Sys2Proof.Machine.execDiscFollow sender exchange t1 t3 s
  | .discDreq sender exchange t4 => Sys2Proof.Machine.execDiscDreq sender exchange t4 s
  | .discDresp sender exchange t4 => Sys2Proof.Machine.execDiscDresp sender exchange t4 s
  | .holdoverEntry => Sys2Proof.Machine.execHoldoverEntry s
  | .holdoverExpiry => Sys2Proof.Machine.execHoldoverExpiry s
  | .masterSilenceTimeout => Sys2Proof.Machine.execMasterSilenceTimeout s
  | .gtcStep masterGtc => Sys2Proof.Machine.execGtcStep masterGtc s
  | .bundleDownTimeout => Sys2Proof.Machine.execBundleDownTimeout s
  | .mHello bootCount setLines imageLines => Sys2Proof.Machine.execMHello bootCount setLines imageLines s
  | .mirrorPushDone => Sys2Proof.Machine.execMirrorPushDone s
  | .mPrepare epoch chunks lines => Sys2Proof.Machine.execMPrepare epoch chunks lines s
  | .mAccept epoch fail => Sys2Proof.Machine.execMAccept epoch fail s
  | .mReady sender epoch fail => Sys2Proof.Machine.execMReady sender epoch fail s
  | .mCommit epoch => Sys2Proof.Machine.execMCommit epoch s
  | .leaving sender m => Sys2Proof.Machine.execLeaving sender m s
  | .mRestoreReq epoch => Sys2Proof.Machine.execMRestoreReq epoch s
  | .imageReturnDone => Sys2Proof.Machine.execImageReturnDone s
  | .mRestoreDone epoch status => Sys2Proof.Machine.execMRestoreDone epoch status s
  | .offer sender pages notice share => Sys2Proof.Machine.execOffer sender pages notice share s
  | .request sender notice pages => Sys2Proof.Machine.execRequest sender notice pages s
  | .grant sender pages => Sys2Proof.Machine.execGrant sender pages s
  | .loanFillDone borrower => Sys2Proof.Machine.execLoanFillDone borrower s
  | .filled sender t3 => Sys2Proof.Machine.execFilled sender t3 s
  | .recall sender notice t3 => Sys2Proof.Machine.execRecall sender notice t3 s
  | .released sender t3 => Sys2Proof.Machine.execReleased sender t3 s
  | .return sender t3 => Sys2Proof.Machine.execReturn sender t3 s
  | .recallTimeout borrower => Sys2Proof.Machine.execRecallTimeout borrower s
  | .loanRead sender page line count tag home => Sys2Proof.Machine.execLoanRead sender page line count tag home s
  | .notLent sender page line count => Sys2Proof.Machine.execNotLent sender page line count s
  | .loanReadTimeout t3 => Sys2Proof.Machine.execLoanReadTimeout t3 s
  | .ticketTake die counter quill gang loss => Sys2Proof.Machine.execTicketTake die counter quill gang loss s
  | .ticketTimeout die counter quill gang loss => Sys2Proof.Machine.execTicketTimeout die counter quill gang loss s
  | .tileClose tile => Sys2Proof.Machine.execTileClose tile s
  | .arrayFault tile nibs parity cycles steps => Sys2Proof.Machine.execArrayFault tile nibs parity cycles steps s
  | .blotCheckDone die half chains => Sys2Proof.Machine.execBlotCheckDone die half chains s
  | .rowReadyIncrement die counter => Sys2Proof.Machine.execRowReadyIncrement die counter s
  | .atomicAdd nib src dst => Sys2Proof.Machine.execAtomicAdd nib src dst s
  | .nop mover => Sys2Proof.Machine.execNop mover s
  | .copy mover d ecc => Sys2Proof.Machine.execCopy mover d ecc s
  | .zero mover d => Sys2Proof.Machine.execZero mover d s
  | .add mover d => Sys2Proof.Machine.execAdd mover d s
  | .mxImport mover d => Sys2Proof.Machine.execMxImport mover d s
  | .mxExport mover d => Sys2Proof.Machine.execMxExport mover d s
  | .moverDescriptorDone mover => Sys2Proof.Machine.execMoverDescriptorDone mover s
  | .allGather coll d => Sys2Proof.Machine.execAllGather coll d s
  | .reduceScatter coll d => Sys2Proof.Machine.execReduceScatter coll d s
  | .allReduce coll d => Sys2Proof.Machine.execAllReduce coll d s
  | .allToAll coll d => Sys2Proof.Machine.execAllToAll coll d s
  | .transfer coll d => Sys2Proof.Machine.execTransfer coll d s
  | .alloc target pool scales => Sys2Proof.Machine.execAlloc target pool scales s
  | .ref index => Sys2Proof.Machine.execRef index s
  | .deref index => Sys2Proof.Machine.execDeref index s
  | .freeze index => Sys2Proof.Machine.execFreeze index s
  | .lease d prefetch => Sys2Proof.Machine.execLease d prefetch s
  | .cow target scales => Sys2Proof.Machine.execCow target scales s
  | .replace target scales => Sys2Proof.Machine.execReplace target scales s
  | .scatter d => Sys2Proof.Machine.execScatter d s
  | .vadd nib form dst a b => Sys2Proof.Machine.execVadd nib form dst a b s
  | .vsub nib form dst a b => Sys2Proof.Machine.execVsub nib form dst a b s
  | .vmul nib form dst a b => Sys2Proof.Machine.execVmul nib form dst a b s
  | .vfma nib form dst a b c => Sys2Proof.Machine.execVfma nib form dst a b c s
  | .vdot2 nib dst acc a b => Sys2Proof.Machine.execVdot2 nib dst acc a b s
  | .vmin nib form dst a b => Sys2Proof.Machine.execVmin nib form dst a b s
  | .vmax nib form dst a b => Sys2Proof.Machine.execVmax nib form dst a b s
  | .vabs nib form dst a => Sys2Proof.Machine.execVabs nib form dst a s
  | .vneg nib form dst a => Sys2Proof.Machine.execVneg nib form dst a s
  | .vcopysign nib form dst a b => Sys2Proof.Machine.execVcopysign nib form dst a b s
  | .vcmp nib cond pred a b => Sys2Proof.Machine.execVcmp nib cond pred a b s
  | .vsel nib dst pred a b => Sys2Proof.Machine.execVsel nib dst pred a b s
  | .vcvt nib source target dst a => Sys2Proof.Machine.execVcvt nib source target dst a s
  | .vredsum nib dst a => Sys2Proof.Machine.execVredsum nib dst a s
  | .vredmax nib dst a => Sys2Proof.Machine.execVredmax nib dst a s
  | .vredmin nib dst a => Sys2Proof.Machine.execVredmin nib dst a s
  | .vwelf nib n mu m2 x => Sys2Proof.Machine.execVwelf nib n mu m2 x s
  | .vwmerge nib n mu m2 bn bmu bm2 => Sys2Proof.Machine.execVwmerge nib n mu m2 bn bmu bm2 s
  | .vmask nib form dst pred a => Sys2Proof.Machine.execVmask nib form dst pred a s
  | .vectorLoad nib dst line kind hdr col0 quarter ecc => Sys2Proof.Machine.execVectorLoad nib dst line kind hdr col0 quarter ecc s
  | .vectorStore nib rows cols out kind => Sys2Proof.Machine.execVectorStore nib rows cols out kind s
  | .exp nib dst form src out => Sys2Proof.Machine.execExp nib dst form src out s
  | .exp2 nib dst form src out => Sys2Proof.Machine.execExp2 nib dst form src out s
  | .log nib dst form src out => Sys2Proof.Machine.execLog nib dst form src out s
  | .log2 nib dst form src out => Sys2Proof.Machine.execLog2 nib dst form src out s
  | .rcp nib dst form src out => Sys2Proof.Machine.execRcp nib dst form src out s
  | .rsqrt nib dst form src out => Sys2Proof.Machine.execRsqrt nib dst form src out s
  | .gelu nib dst form src out => Sys2Proof.Machine.execGelu nib dst form src out s
  | .silu nib dst form src out => Sys2Proof.Machine.execSilu nib dst form src out s
  | .tanh nib dst form src out => Sys2Proof.Machine.execTanh nib dst form src out s
  | .microProgram nib prog dst form src out => Sys2Proof.Machine.execMicroProgram nib prog dst form src out s
  | .vcuFrameStart pipe => Sys2Proof.Machine.execVcuFrameStart pipe s
  | .superblockDone pipe sb coded outcome => Sys2Proof.Machine.execSuperblockDone pipe sb coded outcome s
  | .unitEmit pipe parts => Sys2Proof.Machine.execUnitEmit pipe parts s
  | .decodeCopyDone pipe ctx d outcome => Sys2Proof.Machine.execDecodeCopyDone pipe ctx d outcome s
  | .vcuCtxHostposWrite pipe ctx value => Sys2Proof.Machine.execVcuCtxHostposWrite pipe ctx value s
  | .vcuCtxDescrdWrite pipe ctx value => Sys2Proof.Machine.execVcuCtxDescrdWrite pipe ctx value s
  | .glbBar2MapWrite slot value => Sys2Proof.Machine.execGlbBar2MapWrite slot value s
  | .bar2Write offset bytes => Sys2Proof.Machine.execBar2Write offset bytes s
  | .bar2Read offset count => Sys2Proof.Machine.execBar2Read offset count s
  | .msixIntervalEnd vector => Sys2Proof.Machine.execMsixIntervalEnd vector s
  | .w1cClear offset value hwSets => Sys2Proof.Machine.execW1cClear offset value hwSets s
  | .rcRead access inc => Sys2Proof.Machine.execRcRead access inc s
  | .lowWordRead requester offset => Sys2Proof.Machine.execLowWordRead requester offset s
  | .highWordRead requester offset => Sys2Proof.Machine.execHighWordRead requester offset s
  | .wellBlotctlWrite die value => Sys2Proof.Machine.execWellBlotctlWrite die value s
  | .wellBlottolWrite die value => Sys2Proof.Machine.execWellBlottolWrite die value s
  | .registerWrite offset width value => Sys2Proof.Machine.execRegisterWrite offset width value s
  | .identify => Sys2Proof.Machine.execIdentify s
  | .sensors => Sys2Proof.Machine.execSensors s
  | .logRead => Sys2Proof.Machine.execLogRead s
  | .telemetry => Sys2Proof.Machine.execTelemetry s
  | .mapImage => Sys2Proof.Machine.execMapImage s
  | .pmapRead => Sys2Proof.Machine.execPmapRead s
  | .kvtRead => Sys2Proof.Machine.execKvtRead s
  | .scrollWrite => Sys2Proof.Machine.execScrollWrite s
  | .scrollVerify => Sys2Proof.Machine.execScrollVerify s
  | .trial => Sys2Proof.Machine.execTrial s
  | .commit => Sys2Proof.Machine.execCommit s
  | .reset env => Sys2Proof.Machine.execReset env s
  | .provision env => Sys2Proof.Machine.execProvision env s
  | .enable env => Sys2Proof.Machine.execEnable env s
  | .diagEnter env => Sys2Proof.Machine.execDiagEnter env s
  | .diagExit env => Sys2Proof.Machine.execDiagExit env s
  | .decommission env => Sys2Proof.Machine.execDecommission env s
  | .retire env => Sys2Proof.Machine.execRetire env s
  | .clearFences => Sys2Proof.Machine.execClearFences s
  | .loanOffer => Sys2Proof.Machine.execLoanOffer s
  | .loanRequest => Sys2Proof.Machine.execLoanRequest s
  | .loanRecall => Sys2Proof.Machine.execLoanRecall s
  | .loanReturn => Sys2Proof.Machine.execLoanReturn s
  | .pageKind => Sys2Proof.Machine.execPageKind s
  | .release => Sys2Proof.Machine.execRelease s
  | .restore => Sys2Proof.Machine.execRestore s
  | .discardImage => Sys2Proof.Machine.execDiscardImage s
  | .rate => Sys2Proof.Machine.execRate s
  | .threshold => Sys2Proof.Machine.execThreshold s
  | .mailboxCompletion => Sys2Proof.Machine.execMailboxCompletion s
  | .monitorLine text => Sys2Proof.Machine.execMonitorLine text s
  | .smbStatus => Sys2Proof.Machine.execSmbStatus s
  | .smbTemperatures => Sys2Proof.Machine.execSmbTemperatures s
  | .smbPower => Sys2Proof.Machine.execSmbPower s
  | .smbIdentity => Sys2Proof.Machine.execSmbIdentity s
  | .alertCause => Sys2Proof.Machine.execAlertCause s
  | .smbCommandWrite bytes pec => Sys2Proof.Machine.execSmbCommandWrite bytes pec s
  | .smbResultRead => Sys2Proof.Machine.execSmbResultRead s
  | .smbResultNext => Sys2Proof.Machine.execSmbResultNext s
  | .alertResponseAddress => Sys2Proof.Machine.execAlertResponseAddress s
  | .wellPortTransfer nib toWell t0 well count => Sys2Proof.Machine.execWellPortTransfer nib toWell t0 well count s
  | .cablePresenceChange connector present => Sys2Proof.Machine.execCablePresenceChange connector present s

end Sys2Proof.Machine
end

