-- ==== Sys2Proof/Machine/Tick.lean ====
section
/-! DEFINITION. The passing of one nanosecond while no command waits: the GTC and the scribe's clock (R264, R455; log entry 1). -/
namespace Sys2Proof.Machine

/-- Counts that the GTC advances in one nanosecond of its clock: one, and now and then two or none as the slewed rate in parts per
million has it, never backwards (R264). -/
def gtcAdvance (g : Gtc) : Gtc :=
  let acc := g.slewAcc + g.slewPpm
  if 1000000 ≤ acc then { g with now := g.now + 2, slewAcc := acc - 1000000 }
  else if acc ≤ -1000000 then { g with slewAcc := acc + 1000000 }
  else { g with now := g.now + 1, slewAcc := acc }

/-- One nanosecond: the GTC counts while the main domain has power, the scribe's time while the scribe has. -/
def State.tick (s : State) : State :=
  let s := if s.power.good && s.power.vio then { s with gtc := gtcAdvance s.gtc } else s
  if s.power.scribe then { s with scr := { s.scr with uptimeNs := s.scr.uptimeNs + 1 } } else s

end Sys2Proof.Machine
end

