-- ==== Sys2Proof/Safety.lean ====
section
/-! DEFINITION. What a safe step is: it answers a next state, and the state's tables keep their canonical form. -/
namespace Sys2Proof.Machine

/-- The step neither faults nor is refused. -/
def State.runs (s : State) : Prop := ∃ t, step s = .next t

/-- The memory of a state is canonical. -/
def State.memOk (s : State) : Prop := Memory.wf s.mem = true

/-- A step is safe: it runs, and memory stays canonical. -/
def State.safe (s : State) : Prop := ∃ t, step s = .next t ∧ t.memOk

end Sys2Proof.Machine
end

