-- ==== Sys2Proof/WellFormed.lean ====
section
/-! DEFINITION. Which commands name units, registers and offsets that exist on a module of the full grade (R2, R3, R19, R24, R130, R233, R278, R414,
R438, R442, R462). `exec` answers ill-formed commands too: this is what a sender is held to. -/
namespace Sys2Proof

def nibOk (n : Nat) : Bool := n < 4096
def dieOk (d : Nat) : Bool := d < 2
def quillOk (q : Nat) : Bool := q < 512
def ringOk (r : Nat) : Bool := r < 64
def linkOk (l : Nat) : Bool := l < 96
def rankOk (r : Nat) : Bool := r < 128
def stackOk (k : Nat) : Bool := k < 12
def pipeOk (p : Nat) : Bool := p < 12
def ctxOk (c : Nat) : Bool := c < 32
def vregOk (r : Nat) : Bool := r < 64
def pregOk (p : Nat) : Bool := p < 8
def bar0Ok (a : Nat) : Bool := a < 0x4000000
def t3Ok (i : Nat) : Bool := 73728 ≤ i && i < 131072
def ownPageOk (p : Nat) : Bool := p < 73728
def kvOk (i : Nat) : Bool := i < 262144

/-- Movers 0 to 63 of each compute die and 0 to 15 of the IO die (R233). -/
def MoverRef.ok (m : MoverRef) : Bool := if m.die < 2 then m.num < 64 else m.die = 2 && m.num < 16

/-- A source operand names a register, or results within a drained row group. -/
def VSrc.ok (v : VSrc) : Bool :=
  match v with
  | .reg n => vregOk n
  | .drain buf row col => buf < 2 && row < 32 && col + 64 ≤ 128
  | .splat n lane => vregOk n && lane < 64
  | .mean n mu => vregOk n && vregOk mu
  | .variance n m2 => vregOk n && vregOk m2

def MergeCount.ok : MergeCount → Bool
  | .each n => n.ok
  | .fold n k => n.ok && 1 ≤ k && k ≤ 64

def LoadKind.ok : LoadKind → Bool
  | .values fmt => 1 ≤ fmt && fmt ≤ 8
  | .statRecords => true
  | .rowRecords => true

/-- Causes of the array fault table that a parity check detects (R94). -/
def parityOk (causes : List Nat) : Bool := causes.all fun c => 2 ≤ c && c ≤ 5

def Place.ok (p : Place) : Bool :=
  match p.space with
  | .t0 n => nibOk n && p.at_ < 3640
  | .well d => dieOk d && p.at_ < 7456512
  | .line => p.at_ < 2 ^ 35
  | .raw => p.at_ < 2 ^ 41

/-- A group, quill and gang of a die's ticket counters (R278). -/
def takeOk (die counter quill gang : Nat) : Bool := dieOk die && counter < 256 && quill < 256 && gang < 8

/-- A command is well formed. -/
def Instr.wellFormed (i : Instr) : Bool :=
  match i with
  | .powerGood _ | .masterTakeover | .standby | .hotswapRampStart _ | .mateLoopOpen | .inputProtection _ | .powerGoodEnd _ | .auxSupplyLoss
  | .auxHoldupEnd | .flr | .hotReset | .perstNAssert | .d3hot | .pcieLinkLoss | .flowEstimate | .throttleEvaluation | .logEntryWrite
  | .releaseRequest | .releaseReady | .quiesceAck | .quiesceComplete | .jobFetch _ _ | .jobLaunch | .strokeBoundary | .disciplineExchange
  | .holdoverEntry | .holdoverExpiry | .masterSilenceTimeout | .gtcStep _ | .bundleDownTimeout | .mHello _ _ _ | .mirrorPushDone
  | .mPrepare _ _ _ | .mAccept _ _ | .mCommit _ | .mRestoreReq _ | .imageReturnDone | .mRestoreDone _ _ => true
  | .gtcLock _ master => rankOk master
  | .sensorSample id _ => id < 184
  | .patrolScrub stack page line _ => stackOk stack && page < 6144 && line < 2 ^ 18
  | .stackRefresh stack _ => stackOk stack
  | .doorbell ring _ | .ringCqheadWrite ring _ | .ringEnable ring _ | .ringAbort ring | .ringFeeddoneWrite ring _ => ringOk ring
  | .stallPoint busy => busy.all fun c => 1 ≤ c && c ≤ 7
  | .stall sender _ e cause => rankOk sender && e < 256 && cause < 16
  | .rateMessage sender _ clock factor => rankOk sender && 9 ≤ clock && clock ≤ 18 && 64 ≤ factor && factor ≤ 4096
  | .jobEnd sender _ status _ => rankOk sender && status < 256
  | .trip sender _ | .leaving sender _ | .mReady sender _ _ => rankOk sender
  | .collAbort sender _ _ step status origin => rankOk sender && step < 2 && status < 256 && rankOk origin
  | .chunkNak sender _ _ step _ => rankOk sender && step < 2
  | .peerLost rank => rankOk rank
  | .linkTrained link | .flitSend link | .ackTimer link | .linkRxTimeout link => linkOk link
  | .ident link _ rank _ _ peerLink _ => linkOk link && rankOk rank && linkOk peerLink
  | .flitReceive link flit _ => linkOk link && flit.length = 592
  | .laneLockLoss link lane => linkOk link && lane < 4
  | .discSync sender _ _ | .discFollow sender _ _ _ | .discDreq sender _ _ | .discDresp sender _ _ => rankOk sender
  | .offer sender _ notice share => rankOk sender && 2 ≤ notice && notice ≤ 255 && share ≤ 16
  | .request sender notice pages => rankOk sender && notice ≤ 255 && pages.all fun p => t3Ok p.t3 && rankOk p.homeRank && ownPageOk p.homePage
  | .grant sender pages => rankOk sender && pages.all fun p => t3Ok p.t3 && ownPageOk p.page
  | .loanFillDone borrower | .recallTimeout borrower => rankOk borrower
  | .filled sender t3 | .recall sender _ t3 | .released sender t3 | .return sender t3 => rankOk sender && t3.all t3Ok
  | .loanRead sender page line count _ _ => rankOk sender && ownPageOk page && 1 ≤ count && count ≤ 4096 && line + count ≤ 233016
  | .notLent sender page _ count => rankOk sender && ownPageOk page && count ≤ 4096
  | .loanReadTimeout t3 => t3Ok t3
  | .ticketTake die counter quill gang _ | .ticketTimeout die counter quill gang _ => takeOk die counter quill gang
  | .tileClose t => quillOk t.quill && t.gang < 8
  | .arrayFault t nibs parity _ _ => quillOk t.quill && t.gang < 8 && nibs.all (· < 8) && parity.all parityOk
  | .blotCheckDone die half _ => dieOk die && half < 2
  | .rowReadyIncrement die counter => dieOk die && counter < 256
  | .atomicAdd nib src dst => nibOk nib && src < 7456512 && dst < 7456512
  | .nop m | .moverDescriptorDone m => m.ok
  | .copy m d _ | .zero m d | .add m d | .mxImport m d | .mxExport m d => m.ok && d.src.ok && d.dst.ok
  | .allGather _ d | .reduceScatter _ d | .allReduce _ d | .allToAll _ d | .transfer _ d => d.src.ok && d.dst.ok
  | .alloc _ pool _ => pool < 16
  | .ref i | .deref i | .freeze i => kvOk i
  | .cow _ _ | .replace _ _ => true
  | .lease d _ => d.mover.ok && d.dst.ok
  | .scatter d => nibOk d.nib && d.keysAt < 7456512 && d.valuesAt < 7456512
  | .vadd nib _ dst a b | .vsub nib _ dst a b | .vmul nib _ dst a b | .vdot2 nib dst _ a b | .vmin nib _ dst a b | .vmax nib _ dst a b
  | .vcopysign nib _ dst a b => nibOk nib && vregOk dst && a.ok && b.ok
  | .vfma nib _ dst a b c => nibOk nib && vregOk dst && a.ok && b.ok && c.ok
  | .vabs nib _ dst a | .vneg nib _ dst a | .vredsum nib dst a | .vredmax nib dst a | .vredmin nib dst a => nibOk nib && vregOk dst && a.ok
  | .vcmp nib _ pred a b => nibOk nib && pregOk pred && a.ok && b.ok
  | .vsel nib dst pred a b => nibOk nib && vregOk dst && pregOk pred && a.ok && b.ok
  | .vcvt nib _ _ dst a => nibOk nib && vregOk dst && a.ok
  | .vwelf nib n mu m2 x => nibOk nib && vregOk n && vregOk mu && vregOk m2 && x.ok
  | .vwmerge nib n mu m2 bn bmu bm2 => nibOk nib && vregOk n && vregOk mu && vregOk m2 && bn.ok && bmu.ok && bm2.ok
  | .vmask nib _ dst pred a => nibOk nib && vregOk dst && pregOk pred && a.ok
  | .vectorLoad nib dst line kind _ _ quarter _ => nibOk nib && vregOk dst && line < 3640 && kind.ok && quarter < 4
  | .vectorStore nib rows _ out _ => nibOk nib && rows.length ≤ 32 && 1 ≤ out.fmt && out.fmt ≤ 8
  | .exp nib dst _ x _ | .exp2 nib dst _ x _ | .log nib dst _ x _ | .log2 nib dst _ x _ | .rcp nib dst _ x _ | .rsqrt nib dst _ x _ | .gelu nib dst _ x _
  | .silu nib dst _ x _ | .tanh nib dst _ x _ => nibOk nib && vregOk dst && x.ok
  | .microProgram nib prog dst _ x _ => nibOk nib && prog < 8 && vregOk dst && x.ok
  | .vcuFrameStart pipe | .superblockDone pipe _ _ _ | .unitEmit pipe _ => pipeOk pipe
  | .decodeCopyDone pipe ctx _ _ | .vcuCtxHostposWrite pipe ctx _ | .vcuCtxDescrdWrite pipe ctx _ => pipeOk pipe && ctxOk ctx
  | .glbBar2MapWrite slot _ => slot < 4096
  | .bar2Write offset bytes => offset + bytes.length ≤ 2 ^ 36
  | .bar2Read offset count => offset + count ≤ 2 ^ 36
  | .msixIntervalEnd vector => vector < 256
  | .rcRead a _ => bar0Ok a.offset && (a.width = 1 || a.width = 2 || a.width = 4 || a.width = 8)
  | .w1cClear offset _ _ | .lowWordRead _ offset | .highWordRead _ offset => bar0Ok offset && offset % 4 = 0
  | .wellBlotctlWrite die _ | .wellBlottolWrite die _ => dieOk die
  | .registerWrite offset width value => bar0Ok offset && value < 2 ^ (8 * width)
  | .identify | .sensors | .logRead | .telemetry | .mapImage | .pmapRead | .kvtRead | .scrollWrite | .scrollVerify | .trial | .commit | .reset _
  | .provision _ | .enable _ | .diagEnter _ | .diagExit _ | .decommission _ | .retire _ | .clearFences | .loanOffer | .loanRequest | .loanRecall
  | .loanReturn | .pageKind | .release | .restore | .discardImage | .rate | .threshold | .mailboxCompletion | .monitorLine _ | .smbStatus
  | .smbTemperatures | .smbPower | .smbIdentity | .alertCause | .smbResultRead | .smbResultNext | .alertResponseAddress => true
  | .smbCommandWrite bytes _ => 2 ≤ bytes.length && bytes.length ≤ 14
  | .wellPortTransfer nib _ t0 well count => nibOk nib && t0 + count ≤ 3640 && well + count ≤ 7456512
  | .cablePresenceChange connector _ => connector < 12

end Sys2Proof
end

