-- ==== Sys2Proof/Certificates/Slice0/Obligations.lean ====
section
/-! DEFINITION. The statements for the provers, one `Obligations.<Name>` each, with the few words they share: what a command may change is said
by an equation between the state after it and the state before it, field by field. -/

open Sys2Proof Sys2Proof.Machine

namespace Sys2Proof.Claims

/-- Only the registers of nib `n` may differ between two states. -/
def onlyNib (s t : State) (n : Nat) : Prop := t = { s with nibs := t.nibs } ∧ ∀ m, m ≠ n → t.nib m = s.nib m

/-- Only vector register `dst` of nib `n` and its NIB_VINVALID may differ. -/
def onlyVreg (s t : State) (n dst : Nat) : Prop :=
  onlyNib s t n ∧ t.nib n = { s.nib n with vregs := (t.nib n).vregs, vinvalid := (t.nib n).vinvalid }
    ∧ ∀ r, r % 64 ≠ dst % 64 → t.vreg n r = s.vreg n r

/-- Lane `i` of a source of the vector unit. -/
def laneOf (s : State) (n : Nat) (x : VSrc) (i : Nat) : Word := (s.vsrc n x).getD i 0#32

/-- Lane `i` of a vector register. -/
def regLane (s : State) (n r i : Nat) : Word := (s.vreg n r).getD i 0#32

/-- Every element of register `dst` after a command is `f` of the elements of its sources before it, rounded once to the form's format. -/
def elementwise (s t : State) (n : Nat) (form : VForm) (dst : Nat) (f : List FV → FV) (srcs : List VSrc) : Prop :=
  ∀ i, i < 64 → match form with
    | .f32 => regLane t n dst i = enc32 (f (srcs.map fun x => dec32 (laneOf s n x i)))
    | .bf16 => ∀ h, h < 2 → halfOf (regLane t n dst i) h = encBf16 (f (srcs.map fun x => decBf16 (halfOf (laneOf s n x i) h)))

/-- A command of a nib's units runs: the main domain has power and the nib is there. -/
def nibRuns (s : State) (n : Nat) : Prop := s.live = true ∧ s.nibPresent n = true

/-- Memory outside the bytes from `a` to `a + k - 1` is as it was. -/
def memOutside (s t : State) (a k : Nat) : Prop := ∀ x, x < a ∨ a + k ≤ x → memGet t.mem x = memGet s.mem x

end Sys2Proof.Claims

open Sys2Proof.Claims

/-! ### Numbers and packed lines -/

/-- R42: bytes of block scales compare as their values do. -/
def Obligations.BlockScaleBytesKeepOrder : Prop :=
  ∀ a b, a ≤ 0xFE → b ≤ 0xFE → (a < b ↔ ueVal a < ueVal b)

/-- R48, R65: blocks packed into a line, or into the two lines of an INT8 pair, read back as the same scale bytes and element integers; the
lines pass their check. -/
def Obligations.PackedBlocksReadBack : Prop :=
  ∀ (fmt : Nat) (bs : List OutBlk), 1 ≤ fmt → fmt ≤ 3 → bs.length = 4
    → (∀ b ∈ bs, b.scale < 256 ∧ b.codes.length = 32 ∧ ∀ c ∈ b.codes, c < (if fmt = 3 then 256 else 16))
    → (packBlocks fmt bs).length = (if fmt = 3 then 2 else 1)
      ∧ (∀ l ∈ packBlocks fmt bs, l.length = 72 ∧ lineOk l = true)
      ∧ lineBlocks fmt ((packBlocks fmt bs).getD 0 zeroLine) ((packBlocks fmt bs).getD 1 zeroLine) 128
          = bs.map fun b => { scale := b.scale, elems := b.codes.map fun c =>
              if fmt = 1 then fp4Half c else if fmt = 2 then int4 c else if c < 128 then (c : Int) else (c : Int) - 256 }

/-! ### Vector unit and SFU -/

/-- R134 to R136: each element of the destination is the sum, difference, product, fused multiply-add, minimum or maximum of the elements of the
sources, rounded once; nothing else changes but NIB_VINVALID. R134, R136: the sign operations change only the sign of each element, and make a NaN the canonical one; no result is counted invalid. -/
def Obligations.VectorArithmeticWritesEveryElement : Prop :=
  (∀ (s : State) (n : Nat) (form : VForm) (dst : Nat) (a b c : VSrc), nibRuns s n →
      (∃ t : State, exec (.vadd n form dst a b) s = .next t ∧ elementwise s t n form dst (fun v => (arg v 0).add (arg v 1)) [a, b] ∧ onlyVreg s t n dst)
      ∧ (∃ t : State, exec (.vsub n form dst a b) s = .next t ∧ elementwise s t n form dst (fun v => (arg v 0).sub (arg v 1)) [a, b] ∧ onlyVreg s t n dst)
      ∧ (∃ t : State, exec (.vmul n form dst a b) s = .next t ∧ elementwise s t n form dst (fun v => (arg v 0).mul (arg v 1)) [a, b] ∧ onlyVreg s t n dst)
      ∧ (∃ t : State, exec (.vfma n form dst a b c) s = .next t
          ∧ elementwise s t n form dst (fun v => ((arg v 0).mul (arg v 1)).add (arg v 2)) [a, b, c] ∧ onlyVreg s t n dst)
      ∧ (∃ t : State, exec (.vmin n form dst a b) s = .next t ∧ elementwise s t n form dst (fun v => (arg v 0).min (arg v 1)) [a, b] ∧ onlyVreg s t n dst)
      ∧ (∃ t : State, exec (.vmax n form dst a b) s = .next t ∧ elementwise s t n form dst (fun v => (arg v 0).max (arg v 1)) [a, b] ∧ onlyVreg s t n dst))
  ∧ (∀ (s : State) (n dst : Nat) (a b : VSrc), nibRuns s n →
      (∃ t : State, exec (.vabs n .f32 dst a) s = .next t ∧ onlyVreg s t n dst ∧ (t.nib n).vinvalid = (s.nib n).vinvalid
        ∧ ∀ i, i < 64 → regLane t n dst i = if isNan32 (laneOf s n a i) then 0x7FC00000#32 else laneOf s n a i &&& 0x7FFFFFFF#32)
      ∧ (∃ t : State, exec (.vneg n .f32 dst a) s = .next t ∧ onlyVreg s t n dst ∧ (t.nib n).vinvalid = (s.nib n).vinvalid
        ∧ ∀ i, i < 64 → regLane t n dst i = if isNan32 (laneOf s n a i) then 0x7FC00000#32 else laneOf s n a i ^^^ 0x80000000#32)
      ∧ (∃ t : State, exec (.vcopysign n .f32 dst a b) s = .next t ∧ onlyVreg s t n dst ∧ (t.nib n).vinvalid = (s.nib n).vinvalid
        ∧ ∀ i, i < 64 → regLane t n dst i = if isNan32 (laneOf s n a i) then 0x7FC00000#32
            else (laneOf s n a i &&& 0x7FFFFFFF#32) ||| (laneOf s n b i &&& 0x80000000#32))
      ∧ (∀ form, (∃ t : State, exec (.vabs n form dst a) s = .next t ∧ onlyVreg s t n dst) ∧ (∃ t : State, exec (.vneg n form dst a) s = .next t ∧ onlyVreg s t n dst)
        ∧ ∃ t : State, exec (.vcopysign n form dst a b) s = .next t ∧ onlyVreg s t n dst))

/-- R134: VCMP sets one predicate bit a lane, false with a NaN except under UNORD; VSEL takes a where the predicate is set and b elsewhere. R134, R68, R160: VDOT2 rounds after each of its two exact products; VCVT between FP32 forms gives each element by R68; VMASK writes the mask
constant where the predicate is set and raises other scores below -2^63, counting each. -/
def Obligations.ElementwiseSelectionsAndConversions : Prop :=
  (∀ (s : State) (n : Nat) (cond : VCond) (dst p : Nat) (a b : VSrc), nibRuns s n →
      (∃ t : State, exec (.vcmp n cond p a b) s = .next t ∧ onlyNib s t n
        ∧ t.nib n = { s.nib n with pregs := (t.nib n).pregs } ∧ (∀ q, q % 8 ≠ p % 8 → t.preg n q = s.preg n q)
        ∧ ∀ i, i < 64 → (t.preg n p).getLsbD i = condHolds cond (dec32 (laneOf s n a i)) (dec32 (laneOf s n b i)))
      ∧ (∃ t : State, exec (.vsel n dst p a b) s = .next t ∧ onlyVreg s t n dst ∧ (t.nib n).vinvalid = (s.nib n).vinvalid
        ∧ ∀ i, i < 64 → regLane t n dst i = if (s.preg n p).getLsbD i then laneOf s n a i else laneOf s n b i)
      ∧ (∀ x y : FV, x.isNan ∨ y.isNan → condHolds .eq x y = false ∧ condHolds .lt x y = false ∧ condHolds .le x y = false
          ∧ condHolds .unord x y = true))
  ∧ (∀ (s : State) (n dst p : Nat) (acc a b : VSrc), nibRuns s n →
      (∃ t : State, exec (.vdot2 n dst acc a b) s = .next t ∧ onlyVreg s t n dst
        ∧ ∀ i, i < 64 → regLane t n dst i =
            let prod := fun h => (decBf16 (halfOf (laneOf s n a i) h)).mul (decBf16 (halfOf (laneOf s n b i) h))
            enc32 ((dec32 (enc32 ((dec32 (laneOf s n acc i)).add (prod 0)))).add (prod 1)))
      ∧ (∀ target : WideFmt, target ≠ .bf16 → ∃ t : State, exec (.vcvt n .f32 target dst a) s = .next t ∧ onlyVreg s t n dst
        ∧ ∀ i, i < 64 → regLane t n dst i = w32 (fmtEncode target (dec32 (laneOf s n a i))))
      ∧ (∀ source target : WideFmt, ∃ t : State, exec (.vcvt n source target dst a) s = .next t ∧ onlyNib s t n
        ∧ ∀ r, r % 64 ≠ dst % 64 → r % 64 ≠ (dst + 1) % 64 → t.vreg n r = s.vreg n r)
      ∧ (∃ t : State, exec (.vmask n .f32 dst p a) s = .next t ∧ onlyNib s t n
        ∧ (∀ r, r % 64 ≠ dst % 64 → t.vreg n r = s.vreg n r)
        ∧ t.nib n = { s.nib n with vregs := (t.nib n).vregs, vmclamp := (t.nib n).vmclamp }
        ∧ (t.nib n).vmclamp = satAdd (s.nib n).vmclamp (((List.range 64).filter fun i =>
            !(s.preg n p).getLsbD i && !isNan32 (laneOf s n a i) && (dec32 (laneOf s n a i)).lt (.num true (pow2 63))).length)
        ∧ ∀ i, i < 64 → regLane t n dst i =
            if (s.preg n p).getLsbD i then 0xDF800000#32
            else if !isNan32 (laneOf s n a i) && (dec32 (laneOf s n a i)).lt (.num true (pow2 63)) then 0xDF000000#32
            else laneOf s n a i))

/-- R136, R137: VREDSUM puts the pairwise sum of the lanes in lane 0 and +0 in the others; VREDMAX and VREDMIN put the tree's maximum and minimum
in lane 0. What the other lanes of these two hold is free (log entry 22). -/
def Obligations.ReductionsFillLaneZero : Prop :=
  ∀ (s : State) (n dst : Nat) (a : VSrc), nibRuns s n →
    (∃ t : State, exec (.vredsum n dst a) s = .next t ∧ onlyVreg s t n dst
      ∧ regLane t n dst 0 = treeOf add32 (s.vsrc n a) ∧ ∀ i, 1 ≤ i → i < 64 → regLane t n dst i = 0#32)
    ∧ (∃ t : State, exec (.vredmax n dst a) s = .next t ∧ onlyVreg s t n dst ∧ regLane t n dst 0 = treeOf max32 (s.vsrc n a))
    ∧ (∃ t : State, exec (.vredmin n dst a) s = .next t ∧ onlyVreg s t n dst ∧ regLane t n dst 0 = treeOf min32 (s.vsrc n a))

/-- R151 to R153: VWELF and VWMERGE run whatever their registers, and change the three registers of the partial lane by lane, as `welf` and `wmerge`
have it, where these differ; a VWMERGE that folds puts the partials of the second operand's lowest lanes, merged by R153, into lane 0. -/
def Obligations.RowStatisticsFollowTheirSteps : Prop :=
  ∀ (s : State) (n rn rmu rm2 : Nat) (x bn bmu bm2 : VSrc) (k : Nat), nibRuns s n →
    let p := fun (u : State) i => (Partial.mk (regLane u n rn i) (regLane u n rmu i) (regLane u n rm2 i))
    let apart := rn % 64 ≠ rmu % 64 ∧ rn % 64 ≠ rm2 % 64 ∧ rmu % 64 ≠ rm2 % 64
    let rest := fun (t : State) => onlyNib s t n
      ∧ ∀ r, r % 64 ≠ rn % 64 → r % 64 ≠ rmu % 64 → r % 64 ≠ rm2 % 64 → t.vreg n r = s.vreg n r
    (∃ t : State, exec (.vwelf n rn rmu rm2 x) s = .next t ∧ rest t
      ∧ (apart → ∀ i, i < 64 → ∃ fr, p t i = welf (p s i) (laneOf s n x i) fr))
    ∧ (∃ t : State, exec (.vwmerge n rn rmu rm2 (.each bn) bmu bm2) s = .next t ∧ rest t
      ∧ (apart → ∀ i, i < 64 → ∃ fr, p t i = wmerge (p s i) (Partial.mk (laneOf s n bn i) (laneOf s n bmu i) (laneOf s n bm2 i)) fr))
    ∧ (∃ t : State, exec (.vwmerge n rn rmu rm2 (.fold bn k) bmu bm2) s = .next t ∧ rest t
      ∧ (apart → ∃ fr, p t 0 = (foldPartials fr ((partialsOf (s.vsrc n bn) (s.vsrc n bmu) (s.vsrc n bm2)).take k)).1))

/-- R138, R141, R147: a basic or library function or a micro-program writes one code an element into the destination; overflows and results that
became NaN are counted. In every form and format nothing but the destination, its successor and the two counters changes. R141, R149, R144: the special results of the functions, in every output format, and the NaN of a micro-program whose input is NaN. -/
def Obligations.SfuWritesItsFunctionOfEachElement : Prop :=
  (∀ (s : State) (n dst : Nat) (src : VSrc) (out : WideFmt), nibRuns s n → out ≠ .bf16 →
      let done := fun (t : State) (f : Word → SfuOut) =>
        onlyNib s t n ∧ (∀ r, r % 64 ≠ dst % 64 → t.vreg n r = s.vreg n r)
        ∧ (∀ i, i < 64 → regLane t n dst i = w32 (f (laneOf s n src i)).code)
        ∧ t.nib n = { s.nib n with
            vregs := (t.nib n).vregs,
            sfuovf := satAdd (s.nib n).sfuovf (((s.vsrc n src).filter fun w => (f w).ovf).length),
            vinvalid := satAdd (s.nib n).vinvalid (((s.vsrc n src).filter fun w => (f w).invalid).length) }
      (∃ t : State, exec (.exp n dst .f32 src out) s = .next t ∧ done t (sfuEval .exp out))
      ∧ (∃ t : State, exec (.exp2 n dst .f32 src out) s = .next t ∧ done t (sfuEval .exp2 out))
      ∧ (∃ t : State, exec (.log n dst .f32 src out) s = .next t ∧ done t (sfuEval .log out))
      ∧ (∃ t : State, exec (.log2 n dst .f32 src out) s = .next t ∧ done t (sfuEval .log2 out))
      ∧ (∃ t : State, exec (.rcp n dst .f32 src out) s = .next t ∧ done t (sfuEval .rcp out))
      ∧ (∃ t : State, exec (.rsqrt n dst .f32 src out) s = .next t ∧ done t (sfuEval .rsqrt out))
      ∧ (∃ t : State, exec (.gelu n dst .f32 src out) s = .next t ∧ done t (sfuEval .gelu out))
      ∧ (∃ t : State, exec (.silu n dst .f32 src out) s = .next t ∧ done t (sfuEval .silu out))
      ∧ (∃ t : State, exec (.tanh n dst .f32 src out) s = .next t ∧ done t (sfuEval .tanh out))
      ∧ ∀ prog p, (upSplit 8 (s.nib n).image)[prog]? = some p →
          (∃ t : State, exec (.microProgram n prog dst .f32 src out) s = .next t ∧ done t (upEval p out))
            ∧ ∀ (form : VForm) (o : WideFmt) (cmd : Instr),
                cmd ∈ ([.exp n dst form src o, .exp2 n dst form src o, .log n dst form src o, .log2 n dst form src o, .rcp n dst form src o, .rsqrt n dst form src o,
                        .gelu n dst form src o, .silu n dst form src o, .tanh n dst form src o, .microProgram n prog dst form src o] : List Instr) →
                ∃ u : State, exec cmd s = .next u ∧ onlyNib s u n ∧ ∀ r, r % 64 ≠ dst % 64 → r % 64 ≠ (dst + 1) % 64 → u.vreg n r = s.vreg n r)
  ∧ (∀ (out : WideFmt),
      (∀ f w, isNan32 w = true → (sfuEval f out w).code = fmtEncode out .nan)
      ∧ (∀ f, f = .exp ∨ f = .exp2 → (sfuEval f out 0xFF800000#32).code = fmtEncode out (.num false 0)
          ∧ (sfuEval f out 0x7F800000#32).code = fmtEncode out (.inf false)
          ∧ (sfuEval f out 0#32).code = fmtEncode out (.num false 1) ∧ (sfuEval f out 0x80000000#32).code = fmtEncode out (.num false 1))
      ∧ (∀ f, f = .log ∨ f = .log2 → (sfuEval f out 0xFF800000#32).code = fmtEncode out .nan
          ∧ (sfuEval f out 0#32).code = fmtEncode out (.inf true) ∧ (sfuEval f out 0x80000000#32).code = fmtEncode out (.inf true)
          ∧ (sfuEval f out 0x7F800000#32).code = fmtEncode out (.inf false)
          ∧ ∀ w, (dec32 w).isNeg = true → (dec32 w).isFinite = true → (dec32 w).isZero = false → (sfuEval f out w).code = fmtEncode out .nan)
      ∧ (sfuEval .rcp out 0xFF800000#32).code = fmtEncode out (.num true 0) ∧ (sfuEval .rcp out 0x7F800000#32).code = fmtEncode out (.num false 0)
      ∧ (sfuEval .rcp out 0#32).code = fmtEncode out (.inf false) ∧ (sfuEval .rcp out 0x80000000#32).code = fmtEncode out (.inf true)
      ∧ (sfuEval .rsqrt out 0#32).code = fmtEncode out (.inf false) ∧ (sfuEval .rsqrt out 0x80000000#32).code = fmtEncode out (.inf true)
      ∧ (sfuEval .rsqrt out 0x7F800000#32).code = fmtEncode out (.num false 0) ∧ (sfuEval .rsqrt out 0xFF800000#32).code = fmtEncode out .nan
      ∧ (∀ w, (dec32 w).isNeg = true → (dec32 w).isFinite = true → (dec32 w).isZero = false → (sfuEval .rsqrt out w).code = fmtEncode out .nan)
      ∧ (∀ f w, f = .exp ∧ condHolds .le (dec32 w) (.num true 104) = true ∨ f = .exp2 ∧ condHolds .le (dec32 w) (.num true 150) = true →
          (sfuEval f out w).code = fmtEncode out (.num false 0))
      ∧ (∀ prog w, isNan32 w = true → (upEval prog out w).code = fmtEncode out .nan))

/-- R52, R131, R175: a load of an FP32 line of T0 puts sixteen words into a quarter of the register, a poisoned or failing line as NaN, and counts a
failed check; memory stays as it is. R224: a line that cannot be corrected is a failing one. R155, R171: a load of records fills no other register than the
three or four that it names, a load of values none but its register and the next. R49, R131, R132: a store of an FP32 row of one line writes its words with valid tags into that T0 line, NaN quarters tagged as poisoned, and
nothing else in memory. A load or store of any kind and at any line completes, and a load stores nothing; a store of plain values or of records (R155, R171) changes no vector register. -/
def Obligations.VectorLinesAreLoadedAndStored : Prop :=
  (∀ (s : State) (n dst line quarter : Nat), nibRuns s n → line < t0Lines → quarter < 4 →
      let failed := !lineOk (s.t0Read n line) || decide (s.eccOf (t0At n line) = .uncorrectable)
      (∃ t : State, exec (.vectorLoad n dst line (.values 8) none 0 quarter .clean) s = .next t ∧ t.mem = s.mem
        ∧ (s.eccOf (t0At n line) = .clean → onlyNib s t n)
        ∧ (∀ r, r % 64 ≠ dst % 64 → t.vreg n r = s.vreg n r)
        ∧ (t.nib n).lchkerr = (if failed then satAdd (s.nib n).lchkerr 1 else (s.nib n).lchkerr)
        ∧ ∀ i, i < 16 → regLane t n dst (16 * quarter + i) =
            if failed then 0x7FC00000#32
            else if scaleByte (s.t0Read n line) (i / 4) = 0 then 0#32
            else if scaleByte (s.t0Read n line) (i / 4) = 0x78 then w32 (leAt (s.t0Read n line) (4 * i) 4)
            else 0x7FC00000#32)
      ∧ ∀ kind hdr col0 ecc, ∃ t : State, exec (.vectorLoad n dst line kind hdr col0 quarter ecc) s = .next t ∧ t.mem = s.mem
            ∧ ∀ r, r % 64 ≠ dst % 64 → r % 64 ≠ (dst + 1) % 64 → ((∀ fmt, kind ≠ .values fmt) → r % 64 ≠ (dst + 2) % 64 ∧ r % 64 ≠ (dst + 3) % 64) →
                t.vreg n r = s.vreg n r)
  ∧ (∀ (s : State) (n r : Nat) (o : OutDesc), nibRuns s n → o.fmt = 8 → o.hdr = none → o.flourish = .none → o.row0 = 0 → o.col0 = 0 → o.stride = 1
      → 16 ≤ o.validK → o.line < t0Lines →
      ∃ t : State, exec (.vectorStore n [[r]] 16 o .plain) s = .next t
        ∧ t = { s with mem := t.mem, upset := t.upset } ∧ memOutside s t (t0At n o.line) 72 ∧ lineOk (t.t0Read n o.line) = true
        ∧ (∀ i, i < 16 → leAt (t.t0Read n o.line) (4 * i) 4 =
            (if isNan32 (regLane s n r i) then 0x7FC00000#32 else regLane s n r i).toNat)
        ∧ (∀ b, b < 4 → scaleByte (t.t0Read n o.line) b = if (List.range 4).any (fun i => isNan32 (regLane s n r (4 * b + i))) then 0xFF else 0x78)
      ∧ ∀ rows cols out kind, ∃ u : State, exec (.vectorStore n rows cols out kind) s = .next u
          ∧ (kind = .plain ∨ kind = .statRecords ∨ kind = .rowRecords → ∀ m k, u.vreg m k = s.vreg m k))

/-! ### Arrays and their safeguards -/

namespace Sys2Proof.Claims

/-- A gang can take a tile: power, a quill that is there and a gang of its mode. -/
def gangTakes (s : State) (t : TileDesc) : Prop :=
  s.live = true ∧ s.quillPresent t.quill = true ∧ (t.gang + 1) * s.gangSize t.quill ≤ 8

/-- The lead nib of a tile's gang. -/
def leadOf (s : State) (t : TileDesc) : Nat := gangNib t.quill t.gang (s.gangSize t.quill) 0

/-- A gang takes a tile and runs it: no nib of it is fenced and no halo row is waited for. -/
def gangRuns (s : State) (t : TileDesc) : Prop :=
  gangTakes s t ∧ s.tileFits t = true ∧ s.gangFenced t.quill t.gang = false ∧ s.haloDue t = none

/-- What the first `steps` steps of a tile load: the state after it, and the operands of every segment. -/
def tileLoads (s : State) (t : TileDesc) (steps : Nat) : RoleOps × List SegOps :=
  let role := s.roleOps t (leadOf s t)
  (role.2, (role.1.loadSegs t role.2 (s.gangSize t.quill) steps 0 t.segs).2)

/-- The array faults that an attempt meets, by nib of the quill and cause. -/
def faultsFound (s : State) (t : TileDesc) (faults : List NibFault) (steps : Nat) : List (Nat × Nat) :=
  (faults.filter fun f => f.nib / s.gangSize t.quill = t.gang).flatMap fun f =>
    (faultCauses t (s.gangSize t.quill) steps (tileLoads s t steps).2 f).map fun c => (f.nib, c)

end Sys2Proof.Claims

/-- R75, R76, R77, R84, R109, R122, R133: a tile that closes on a gang which runs it drains its results through its epilogue into an output tile of the lead
nib, or into the steps of its attention role; each nib of the gang counts its issue cycles; before the output is written, memory has changed in the
capture area alone. A tile that its gang cannot run now changes nothing (log entry 2). -/
def Obligations.ClosedTileWritesItsResults : Prop :=
  ∀ (s : State) (t : TileDesc), gangTakes s t →
    (s.tileFits t = false → exec (.tileClose t) s = .next s)
    ∧ (gangRuns s t →
      let g := s.gangSize t.quill
      let x := tileLoads s t (tileSteps t g)
      let ys := tileResults t x.1 g x.2
      ∃ u : State, exec (.tileClose t) s = .next ((u.drainTile t x.1 (leadOf s t) ys).doneTile t)
        ∧ (t.role = .plain →
          let e := u.epilogue (leadOf s t) 0 t.epilogue ys
          u.drainTile t x.1 (leadOf s t) ys
            = e.1.writeTile (leadOf s t) t.out (!t.free) (min t.rows t.mt) [] (e.2.map fun r => r.map dec32)
          ∧ (∀ j, j < g → (u.nib (gangNib t.quill t.gang g j)).issue = (s.nib (gangNib t.quill t.gang g j)).issue
              + BitVec.ofNat 64 (sumNat (List.zipWith (fun (seg : Segment) o => issueCycles t o (segSteps t g seg.lines)) t.segs x.2)))
          ∧ (t.mt ≤ 4096 → t.nt ≤ 1024 → ∀ a, memGet u.mem a ≠ memGet s.mem a →
              s.captureAt (t.quill / 256) 0 ≤ a ∧ a < s.captureAt (t.quill / 256) 0 + 2 ^ 25)
          ∧ u = { s with nibs := u.nibs, quills := u.quills, wells := u.wells, mem := u.mem, upset := u.upset, host := u.host, pcieOut := u.pcieOut,
                         scr := u.scr }))

/-- R91, R95: a gang with a fenced nib writes every line of the tile's rows poisoned, computes nothing, and leaves memory outside those lines as it is. In sweep one
of attention the lines are those of the score area, and the running maxima become NaN (log entry 81). -/
def Obligations.FencedGangWritesPoison : Prop :=
  ∀ (s : State) (t : TileDesc), gangTakes s t → s.tileFits t = true → s.gangFenced t.quill t.gang = true →
    (∀ q w row0 reg, t.role = .scores q w row0 reg → row0 + outRows t ≤ 64 →
      ∃ u : State, exec (.tileClose t) s = .next u ∧ (u.quill t.quill).fenced = (s.quill t.quill).fenced
        ∧ (∀ r, r < outRows t → isNan32 (regLane u (leadOf s t) reg (row0 + r)) = true)
        ∧ (256 * w + 256 ≤ q.desc.wellKeys → q.desc.scoreFmt = 8 → q.desc.wellAt + (row0 + outRows t) * (q.desc.wellKeys / 16) ≤ wellLines →
            ∀ r i b, r < outRows t → i < 16 → b < 4 →
              scaleByte (u.wellRead (t.quill / 256) (q.desc.wellAt + (row0 + r) * (q.desc.wellKeys / 16) + (256 * w + 16 * i) / 16)) b = 0xFF)) ∧
    ((∀ q w row0 reg, t.role ≠ .scores q w row0 reg) → t.out.hdr = none →
    let o := t.out
    let n := ceilDiv (if !t.free then outCols t else min (outCols t) (o.validK - o.col0)) (elemsPerLine o.fmt) * positionLines o.fmt
    let at_ := fun r => o.line + (o.row0 + r) * o.stride + o.col0 / elemsPerLine o.fmt * positionLines o.fmt
    (∀ r i, r < outRows t → i < n → at_ r + i < t0Lines) →
    ∃ u : State, exec (.tileClose t) s = .next u ∧ u = { s with mem := u.mem, upset := u.upset, quills := u.quills }
      ∧ (∀ q, q ≠ t.quill → u.quill q = s.quill q) ∧ (u.quill t.quill).fenced = (s.quill t.quill).fenced
      ∧ (∀ r i b, r < outRows t → i < n → b < 4 → scaleByte (u.t0Read (leadOf s t) (at_ r + i)) b = 0xFF)
      ∧ (∀ r i, r < outRows t → i < n → lineOk (u.t0Read (leadOf s t) (at_ r + i)) = true)
      ∧ ∀ x, (∀ r i, r < outRows t → i < n → x < t0At (leadOf s t) (at_ r + i) ∨ t0At (leadOf s t) (at_ r + i) + 72 ≤ x) →
          memGet u.mem x = memGet s.mem x)

/-- R105 to R107: the checksum DPU's integer equals the column total of the block integers, and a cycle whose block integers deviate fails exactly when the sum
of the deviations is no multiple of 2^16. R94, R98 to R100, R107, R109: array faults of a gang are recorded in its context, flag and counters, and first ones leave
the tile to be recomputed; memory and the job are as they were. R94, R95, R111: when the recompute fails too, the detecting nibs are fenced, the context says so, the fence event is raised, and the running job ends
with status 0x15 unless it had failed before. -/
def Obligations.ArrayFaultsAreRecordedThenFenced : Prop :=
  ((∀ row slots d, checkC row slots = columnTotal row slots ∧ mismatch (checkC row slots) (columnTotal row slots + d) = decide (d % 65536 ≠ 0))
    ∧ ∀ (s : State) (t : TileDesc) (nibs : List Nat) (parity : List (List Nat)) (cycles : List (List IssueFault)) (steps : Nat), gangRuns s t → 0 < steps →
      steps ≤ tileSteps t (s.gangSize t.quill) →
      let faults := nibFaults nibs parity cycles
      let found := faultsFound s t faults steps
      let x := (s.quill t.quill)
      found ≠ [] → x.attempt.any (fun a => a.tile.gang = t.gang) = false →
      ∃ u : State, exec (.arrayFault t nibs parity cycles steps) s = .next u
        ∧ (t.role = .plain →
          (∀ f, found.getLast? = some f → sget (fun _ => 0#32) (u.quill t.quill).gfctx t.gang = gfctxWord t.tileIndex f.2 x.gang.toNat f.1 0)
          ∧ (u.quill t.quill).gfault = found.foldl (fun e _ => e.raise t.gang) x.gfault
          ∧ (u.quill t.quill).attempt = x.attempt ++ [{ tile := t, nibs := (found.map (·.1)).eraseDups }]
          ∧ (u.quill t.quill).fenced = x.fenced
          ∧ (∀ f, faults = [f] → (u.nib (8 * t.quill + f.nib)).csmism = satAdd (s.nib (8 * t.quill + f.nib)).csmism
              (mismatches t (s.gangSize t.quill) steps (tileLoads s t steps).2 f))
          ∧ (∀ q, q ≠ t.quill → u.quill q = s.quill q)
          ∧ u = { s with nibs := u.nibs, quills := u.quills, wells := u.wells, host := u.host, pcieOut := u.pcieOut, scr := u.scr }))
  ∧ (∀ (s : State) (t : TileDesc) (nibs : List Nat) (parity : List (List Nat)) (cycles : List (List IssueFault)) (steps : Nat), gangRuns s t → 0 < steps →
      steps ≤ tileSteps t (s.gangSize t.quill) →
      let faults := nibFaults nibs parity cycles
      let found := faultsFound s t faults steps
      let x := (s.quill t.quill)
      let fenced := (found.map (·.1)).eraseDups
      found ≠ [] → x.attempt.any (fun a => a.tile.gang = t.gang) = true →
      ∃ u : State, exec (.arrayFault t nibs parity cycles steps) s = .next u
        ∧ (t.role = .plain →
          (u.quill t.quill).fenced = fenced.foldl (fun m p => m ||| BitVec.ofNat 8 (2 ^ p)) x.fenced
          ∧ (∀ f, found.getLast? = some f → sget (fun _ => 0#32) (u.quill t.quill).gfctx t.gang = gfctxWord t.tileIndex f.2 x.gang.toNat f.1 2)
          ∧ (u.quill t.quill).gfault = found.foldl (fun e _ => e.raise t.gang) x.gfault
          ∧ (∀ q, q ≠ t.quill → u.quill q = s.quill q)
          ∧ u.host.evt = fenced.foldl (fun e _ => e.raise 0) s.host.evt
          ∧ ∀ j, s.strk.run = some j → ∃ k, u.strk.run = some k ∧ k.noCommit = true ∧ k.fence = true
            ∧ k.failure = (match j.failure with | some f => some f | none => some (0x15, 8 * t.quill + fenced.headD 0))))

/-- R122, R124, R125, R214: a check that finishes frees its half and counts; one without a blot changes nothing else but what its reads of the wells and of T2 count
and ask for (R223, R246). A row-ready counter grows by one, modulo 2^16. R215, R217: a tile whose halo row is not ready leaves its engine waiting for that counter and value, and
the increment that reaches the value ends the wait. -/
def Obligations.BlotterAndRowCountersAdvance : Prop :=
  (∀ (s : State) (d half : Nat) (c : Capture) (chains : List Nat), s.live = true → half < 2 →
      (if half = 0 then (s.well d).capture0 else (s.well d).capture1) = some c →
      ∃ u : State, exec (.blotCheckDone d half chains) s = .next u ∧ u.mem = s.mem ∧ u.nibs = s.nibs ∧ u.quills = s.quills
        ∧ (u.well d).blotdone = satAdd (s.well d).blotdone 1
        ∧ (if half = 0 then (u.well d).capture0 else (u.well d).capture1) = none
        ∧ ((u = { s with wells := u.wells, loan := u.loan, links := u.links, stackRegs := u.stackRegs, host := u.host, pcieOut := u.pcieOut, scr := u.scr } ∧ (u.well d).blotstat = (s.well d).blotstat)
          ∨ ((u.well d).blotstat = (s.well d).blotstat.raise 0 ∧ (u.well d).blotstrk = w32 c.stroke
            ∧ (u.well d).blotctx = w32 (c.tile.tileIndex % 65536 + c.tile.quill % 256 * 2 ^ 16 + c.tile.gang % 8 * 2 ^ 24))))
  ∧ (∀ (s : State) (t : TileDesc) (w : HaloWait), gangTakes s t → s.tileFits t = true → s.gangFenced t.quill t.gang = false → s.haloDue t = some w →
      ∃ u : State, exec (.tileClose t) s = .next u ∧ u = { s with quills := u.quills } ∧ (∀ q, q ≠ t.quill → u.quill q = s.quill q)
        ∧ u.quill t.quill = { s.quill t.quill with halo := some (w.counter, w.value), hwaitNow := true, convBusy := true, convCounter := BitVec.ofNat 8 w.counter, convSeg := BitVec.ofNat 4 w.seg })
  ∧ (∀ (s : State) (d k : Nat), s.live = true → d < 2 → k < 256 →
      let n := sget (fun _ => 0#16) (s.well d).rowrdy k + 1
      ∃ u : State, exec (.rowReadyIncrement d k) s = .next u ∧ u = { s with wells := u.wells, quills := u.quills } ∧ (∀ e, e ≠ d → u.well e = s.well e)
        ∧ u.well d = { s.well d with rowrdy := (u.well d).rowrdy }
        ∧ sget (fun _ => 0#16) (u.well d).rowrdy k = n
        ∧ (∀ i, i ≠ k → sget (fun _ => 0#16) (u.well d).rowrdy i = sget (fun _ => 0#16) (s.well d).rowrdy i)
        ∧ ∀ q, u.quill q = if q / 256 = d ∧ (s.quill q).halo.any (fun w => w.1 = k && w.2 ≤ n.toNat) = true
            then { s.quill q with halo := none, hwaitNow := false } else s.quill q)

/-! ### KV blocks -/

namespace Sys2Proof.Claims

/-- A job's stage program runs: the main domain has power and a job is in its strokes. -/
def jobRuns (s : State) : Prop := s.live = true ∧ s.strk.run.isSome = true

/-- Only KV block table entry `i` may differ, and nothing outside the table. -/
def onlyKv (s t : State) (i : Nat) : Prop := t = { s with kvt := { s.kvt with table := t.kvt.table } } ∧ ∀ k, k ≠ i → t.kv k = s.kv k

end Sys2Proof.Claims

/-- R186, R190: REF and DEREF move REFCNT by one, a block whose count reaches 0 becomes PENDING, and the two saturating cases set their flags and change
no entry. R183, R185 to R187: a mover's read through a block-list slot leases the block it names up to its own stroke, or the next one for a prefetch, and never
earlier; a stale generation or a free entry sets BAD_INDEX, leases nothing, and is served poisoned lines, as entry 0 is, which sets no flag. -/
def Obligations.ReferencesAndLeasesAreCounted : Prop :=
  (∀ (s : State) (i : Nat), s.live = true → 0 < i → i < 262144 →
      ((s.kv i).state = 1 ∨ (s.kv i).state = 2 → (s.kv i).refcnt ≠ 0xFFFF →
        ∃ t : State, exec (.ref i) s = .next t ∧ onlyKv s t i ∧ t.kv i = { s.kv i with refcnt := (s.kv i).refcnt + 1 })
      ∧ ((s.kv i).state = 1 ∨ (s.kv i).state = 2 → (s.kv i).refcnt = 0xFFFF →
        ∃ t : State, exec (.ref i) s = .next t ∧ t.kvt.table = s.kvt.table ∧ t.kvt.err = s.kvt.err.raise 1
          ∧ t.kvt.errIndex = BitVec.ofNat 18 i ∧ i ∈ t.kvt.stuck)
      ∧ ((s.kv i).state = 0 ∨ (s.kv i).state = 3 →
        ∃ t : State, exec (.ref i) s = .next t ∧ t.kvt.table = s.kvt.table ∧ t.kvt.err = s.kvt.err.raise 3)
      ∧ ((s.kv i).refcnt ≠ 0 →
        ∃ t : State, exec (.deref i) s = .next t ∧ onlyKv s t i
          ∧ t.kv i = { s.kv i with refcnt := (s.kv i).refcnt - 1, state := if (s.kv i).refcnt = 1 then 3 else (s.kv i).state })
      ∧ ((s.kv i).refcnt = 0 →
        ∃ t : State, exec (.deref i) s = .next t ∧ t.kvt.table = s.kvt.table ∧ t.kvt.err = s.kvt.err.raise 2 ∧ t.kvt.errIndex = BitVec.ofNat 18 i))
  ∧ (∀ (s : State) (d : LeaseDesc) (prefetch : Bool) (w : Nat), jobRuns s → moverPresent d.mover = true →
      placeOfField (fieldOfPlace d.dst) = some d.dst → s.moverBusy d.mover = false → s.listWord d.target = (s, some w) →
      let i := w % 2 ^ 18
      ∃ t : State, exec (.lease d prefetch) s = .next t ∧ t.moverBusy d.mover = true
        ∧ (i ≠ 0 → (s.kv i).state ≠ 0 → (s.kv i).gen.toNat = w / 2 ^ 18 % 256 →
            t.kvt = { s.kvt with table := t.kvt.table } ∧ (∀ k, k ≠ i → t.kv k = s.kv k)
            ∧ t.kv i = { s.kv i with leased := true, leaseEnd := (t.kv i).leaseEnd }
            ∧ ((s.kv i).leased = true → (s.kv i).leaseEnd = BitVec.ofNat 16 (s.strokeNum + 1) → (t.kv i).leaseEnd = BitVec.ofNat 16 (s.strokeNum + 1))
            ∧ (¬((s.kv i).leased = true ∧ (s.kv i).leaseEnd = BitVec.ofNat 16 (s.strokeNum + 1)) →
                (t.kv i).leaseEnd = BitVec.ofNat 16 (if prefetch then s.strokeNum + 1 else s.strokeNum)))
        ∧ (i ≠ 0 → (s.kv i).state = 0 ∨ (s.kv i).gen.toNat ≠ w / 2 ^ 18 % 256 →
            t.kvt.table = s.kvt.table ∧ t.kvt.err = s.kvt.err.raise 3 ∧ t.kvt.errIndex = BitVec.ofNat 18 i)
        ∧ (i = 0 → t.kvt = s.kvt)
        ∧ (i = 0 ∨ (s.kv i).state = 0 ∨ (s.kv i).gen.toNat ≠ w / 2 ^ 18 % 256 → ∀ c k, d.dst = { space := .well c, at_ := k } → k + d.count ≤ wellLines →
            ∀ j, j < d.count → t.wellRead c (k + j) = poisonedLine))

/-- R186, R189, R190: FREEZE waits for the stroke's end. ALLOC takes a free entry with REFCNT 1 and retargets the slot at the stroke's end; without a free
entry or slot it sets ALLOC_FAIL and retargets the slot to entry 0. -/
def Obligations.AllocAndFreezeWaitForTheBoundary : Prop :=
  (∀ (s : State) (i : Nat), jobRuns s → i < 262144 → (s.kv i).state = 1 → s.kvt.pending.contains (.freeze i) = false →
      ∃ t : State, exec (.freeze i) s = .next t
        ∧ t = { s with kvt := { s.kvt with pending := s.kvt.pending ++ [.freeze i], counted := s.kvt.counted + 1 } })
  ∧ (∀ (s : State) (target : ListSlot) (k : Nat) (p : KvPool) (sc : KvScales) (i pg ln : Nat), jobRuns s → s.kvPool k = some p → k < 16
      → s.freeEntry = some i → s.freeSlot k p = some (pg, ln) → pg < 2 ^ 17 → ln < 2 ^ 18 →
      ∃ t : State, exec (.alloc target k sc) s = .next t ∧ (∀ j, j ≠ i → t.kv j = s.kv j)
        ∧ t.kv i = { KvEntry.reset with page := BitVec.ofNat 17 pg, line := BitVec.ofNat 18 ln, pool := BitVec.ofNat 4 k, state := 1, refcnt := 1,
                                        gen := (s.kv i).gen + 1 }
        ∧ t.kvt.allocs = satAdd s.kvt.allocs 1 ∧ t.kvt.counted = s.kvt.counted + 1
        ∧ t.kvt.pending = s.kvt.pending ++ [.retarget target (i + ((s.kv i).gen + 1).toNat * 2 ^ 18)])
  ∧ (∀ (s : State) (target : ListSlot) (k : Nat) (p : KvPool) (sc : KvScales), jobRuns s → s.kvPool k = some p
      → s.freeEntry = none ∨ s.freeSlot k p = none →
      ∃ t : State, exec (.alloc target k sc) s = .next t ∧ t.kvt.table = s.kvt.table ∧ t.kvt.err = s.kvt.err.raise 0
        ∧ t.kvt.pending = s.kvt.pending ++ [.retarget target 0] ∧ t.mem = s.mem)

/-- R186, R188, R190: REPLACE and COW complete whatever the slot names, and without a block that can be read they retarget nothing. Of the
block that a slot names they take a new block of the same pool, take one reference from the old one and retarget the slot; COW counts itself and publishes the old FILL for the new block. -/
def Obligations.CopiesTakeANewBlock : Prop :=
  (∀ (s : State) (target : ListSlot) (sc : KvScales),
      (∃ t : State, exec (.replace target sc) s = .next t
        ∧ (s.strk.run.isSome = false ∨ (s.slotEntry target).2 = none → t.kvt.table = s.kvt.table ∧ t.kvt.pending = s.kvt.pending ∧ t.mem = s.mem))
      ∧ (∃ t : State, exec (.cow target sc) s = .next t
        ∧ (s.strk.run.isSome = false ∨ (s.slotEntry target).2 = none → t.kvt.table = s.kvt.table ∧ t.kvt.pending = s.kvt.pending ∧ t.mem = s.mem)))
  ∧ ∀ (s : State) (target : ListSlot) (sc : KvScales) (w i j pg ln : Nat) (p : KvPool), jobRuns s →
    s.listWord target = (s, some w) → w % 2 ^ 18 = i → i ≠ 0 → (s.kv i).state = 1 ∨ (s.kv i).state = 2 → (s.kv i).gen.toNat = w / 2 ^ 18 % 256
    → (s.kv i).refcnt ≠ 0 → s.kvPool (s.kv i).pool.toNat = some p → s.freeEntry = some j → s.freeSlot (s.kv i).pool.toNat p = some (pg, ln) →
    let old := { s.kv i with refcnt := (s.kv i).refcnt - 1, state := if (s.kv i).refcnt = 1 then 3 else (s.kv i).state }
    let word := j + ((s.kv j).gen + 1).toNat * 2 ^ 18
    (∃ t : State, exec (.replace target sc) s = .next t ∧ t.kv i = old ∧ (t.kv j).state = 1 ∧ (t.kv j).refcnt = 1 ∧ (t.kv j).fill = 0
      ∧ (t.kv j).gen = (s.kv j).gen + 1 ∧ (∀ k, k ≠ i → k ≠ j → t.kv k = s.kv k)
      ∧ t.kvt.allocs = satAdd s.kvt.allocs 1 ∧ t.kvt.pending = s.kvt.pending ++ [.retarget target word])
    ∧ ((s.kv i).tail = 0xFFF →
      ∃ t : State, exec (.cow target sc) s = .next t ∧ t.kv i = old ∧ (t.kv j).state = 1 ∧ (t.kv j).refcnt = 1 ∧ (t.kv j).fill = 0
      ∧ (t.kv j).gen = (s.kv j).gen + 1 ∧ (∀ k, k ≠ i → k ≠ j → t.kv k = s.kv k)
      ∧ t.kvt.allocs = satAdd s.kvt.allocs 1 ∧ t.kvt.cows = satAdd s.kvt.cows 1
      ∧ t.kvt.pending = s.kvt.pending ++ [.fill j (s.kv i).fill.toNat, .retarget target word])

/-- R188, R189, R191: a scatter of whole groups at or above the published FILL of an OPEN block with one reference writes in place: it publishes the new FILL
at the stroke's end, takes no entry, and changes no byte of memory outside the block's slot. -/
def Obligations.ScatterInPlaceStaysInItsSlot : Prop :=
  ∀ (s : State) (d : ScatterDesc) (w i : Nat) (p : KvPool), jobRuns s → s.nibPresent d.nib = true → 1 ≤ d.count → d.first + d.count ≤ 256 →
    (d.first + d.count) % 32 = 0 → d.first % 32 = 0 → s.retargeted d.target = none → s.listWord d.target = (s, some w) → w % 2 ^ 18 = i → i ≠ 0
    → (s.kv i).state = 1 → (s.kv i).gen.toNat = w / 2 ^ 18 % 256 → (s.kv i).refcnt = 1 → (s.kv i).fill.toNat ≤ d.first → d.replace = false
    → s.kvPool (s.kv i).pool.toNat = some p → p.form ≤ 3 → p.headDim = 128 ∨ p.headDim = 256 → (s.kv i).line.toNat + slotLines p ≤ pageLines →
    ∃ t : State, exec (.scatter d) s = .next t
      ∧ t.kvt = { s.kvt with pending := s.kvt.pending ++ [.fill i (d.first + d.count)], counted := s.kvt.counted + 2 }
      ∧ ∀ x, memGet t.mem x ≠ memGet s.mem x →
          t2At (s.kv i).page.toNat (72 * (s.kv i).line.toNat) ≤ x
            ∧ x < t2At (s.kv i).page.toNat (72 * ((s.kv i).line.toNat + slotLines p))

/-! ### Movers, ports, the window and the stacks -/

namespace Sys2Proof.Claims

/-- A place whose line this module holds itself: a well line, or a line of an own line page that no shadow stands for. -/
def plain (s : State) (p : Place) : Prop :=
  match p.space with
  | .well d => d < 2 ∧ p.at_ < wellLines
  | .line => p.at_ < 2 ^ 35 ∧ lineIdx p.at_ < 73728 ∧ lineFld p.at_ < pageLines ∧ (s.page (lineIdx p.at_)).kind = 0
      ∧ (s.page (lineIdx p.at_)).shadowEn = false
  | _ => False

/-- The same, of a page that is not pinned. -/
def writable (s : State) (p : Place) : Prop := plain s p ∧ (p.space = .line → (s.page (lineIdx p.at_)).pinned = false)

/-- First byte of the line at a place. -/
def addrOf (p : Place) : Nat :=
  match p.space with
  | .t0 n => t0At n p.at_
  | .well d => wellAt d p.at_
  | .line => t2At (lineIdx p.at_) (72 * lineFld p.at_)
  | .raw => p.at_

/-- The line stored at a place. -/
def lineAt (s : State) (p : Place) : Line := s.readBytes (addrOf p) 72

/-- The places of line `i` of row `r` of a descriptor. -/
def srcAt (d : MoverDesc) (r i : Nat) : Place := placeStep d.src (r * d.srcStride + i)
def dstAt (d : MoverDesc) (r i : Nat) : Place := placeStep d.dst (r * d.dstStride + i)

/-- Row and line are of the descriptor. -/
def inDesc (d : MoverDesc) (r i : Nat) : Prop := r < d.rows ∧ i < d.lines

/-- No two lines of the destination are one. -/
def apart (d : MoverDesc) : Prop :=
  ∀ r i q j, inDesc d r i → inDesc d q j → addrOf (dstAt d r i) = addrOf (dstAt d q j) → r = q ∧ i = j

/-- No line of the destination is one of the source. -/
def fromElsewhere (d : MoverDesc) : Prop := ∀ r i q j, inDesc d r i → inDesc d q j → addrOf (dstAt d r i) ≠ addrOf (srcAt d q j)

/-- Memory changed in the destination's lines alone. -/
def onlyDst (s t : State) (d : MoverDesc) : Prop :=
  ∀ x, (∀ r i, inDesc d r i → x < addrOf (dstAt d r i) ∨ addrOf (dstAt d r i) + 72 ≤ x) → memGet t.mem x = memGet s.mem x

/-- A mover may start a descriptor. -/
def moverStarts (s : State) (m : MoverRef) : Prop := s.live = true ∧ moverPresent m = true ∧ s.moverBusy m = false

/-- What the storage's own code finds at a descriptor's line, by the command's operand. -/
def eccAt (ecc : List (Nat × EccResult)) (k : Nat) : EccResult := ((ecc.find? fun e => e.1 = k).map (·.2)).getD .clean

/-- The stored line from byte address `a`, as a read delivers it: poisoned where its error cannot be corrected. -/
def readAs (s : State) (a : Nat) : Line := eccLine (s.eccOf a) (s.readBytes a 72)

/-- The source line of a descriptor's line cannot be corrected: it was so before, or the operand says so at this line or at an earlier one that
reads the same place. -/
def lostLine (s : State) (d : MoverDesc) (ecc : List (Nat × EccResult)) (r i : Nat) : Prop :=
  s.eccOf (addrOf (srcAt d r i)) = .uncorrectable
    ∨ ∃ q j, inDesc d q j ∧ q * d.lines + j ≤ r * d.lines + i ∧ addrOf (srcAt d q j) = addrOf (srcAt d r i) ∧ eccAt ecc (q * d.lines + j) = .uncorrectable

/-- No stored line of a page has an error. -/
def soundPage (s : State) (p : Nat) : Prop := ∀ e ∈ s.upset, e.1 + 72 ≤ t2At p 0 ∨ t2At p 0 + 2 ^ 24 ≤ e.1

end Sys2Proof.Claims

/-- R234, R235, R237: NOP does nothing, ZERO writes all-zero lines, COPY writes each line of the source, poisoned where its check or the storage's
code failed, and nothing else in memory changes; each holds its queue until MOVER_DESCRIPTOR_DONE, which waits while lines of other modules are awaited (R246).
Each runs for every descriptor that 64 bytes spell in range. -/
def Obligations.MoversMoveWholeLines : Prop :=
  ∀ (s : State) (m : MoverRef), moverStarts s m →
    (exec (.nop m) s = .next (s.setMover m 1) ∧ (s.setMover m 1).moverBusy m = true)
    ∧ (s.isParked (moverKey m) = true → exec (.moverDescriptorDone m) s = .next s)
    ∧ (s.isParked (moverKey m) = false →
        exec (.moverDescriptorDone m) s = .next (s.setMover m 0) ∧ exec (.moverDescriptorDone m) (s.setMover m 1) = .next ((s.setMover m 1).setMover m 0)
          ∧ ((s.setMover m 1).setMover m 0).moverBusy m = false)
    ∧ (∀ d : MoverDesc, moveFields d = true → spelled .zero d = true → (∀ r i, inDesc d r i → writable s (dstAt d r i)) →
        ∃ t : State, exec (.zero m d) s = .next t ∧ t.moverBusy m = true ∧ onlyDst s t d
          ∧ ∀ r i, inDesc d r i → lineAt t (dstAt d r i) = zeroLine)
    ∧ (∀ (d : MoverDesc) (ecc : List (Nat × EccResult)), moveFields d = true → spelled .copy d = true → apart d → fromElsewhere d
        → (∀ r i, inDesc d r i → writable s (dstAt d r i) ∧ plain s (srcAt d r i)) →
        ∃ t : State, exec (.copy m d ecc) s = .next t ∧ t.moverBusy m = true ∧ onlyDst s t d
          ∧ ∀ r i, inDesc d r i →
              (lostLine s d ecc r i → lineAt t (dstAt d r i) = poisonLine (lineAt s (srcAt d r i)))
              ∧ (¬ lostLine s d ecc r i → lineAt t (dstAt d r i) = checkedLine (lineAt s (srcAt d r i))))
    ∧ (∀ (d : MoverDesc) (ecc : List (Nat × EccResult)), moveFields d = true →
        (spelled .zero d = true → ∃ t : State, exec (.zero m d) s = .next t ∧ t.moverBusy m = true)
        ∧ (spelled .copy d = true → ∃ t : State, exec (.copy m d ecc) s = .next t ∧ t.moverBusy m = true))

/-- R255 to R258: in fast mode an atomic add, of a nib or of a mover, leaves the sum in its target line and touches no other; in ordered mode the issuing
die only records it. -/
def Obligations.AtomicAddsLandOrAreLogged : Prop :=
  (∀ (s : State) (nib a b : Nat), nibRuns s nib → a < wellLines → b < wellLines →
      let die := nib / 2048
      let x := readAs s (wellAt die a)
      let y := readAs s (wellAt die b)
      (s.ordered = false →
        ∃ t : State, exec (.atomicAdd nib a b) s = .next t ∧ t.wellRead die b = addLines x y
          ∧ memOutside s t (wellAt die b) 72 ∧ (t.well die).atomadds = satAdd (s.well die).atomadds 1
          ∧ (s.eccOf (wellAt die a) ≠ .uncorrectable → s.eccOf (wellAt die b) ≠ .uncorrectable →
              (t.well die).memerr = if lineOk x && lineOk y then (s.well die).memerr else (s.well die).memerr.raise 1))
      ∧ (s.ordered = true →
        let r : AddRec := { mover := false, unit := nib / 8, sub := nib % 8 / 2 ^ (s.quill (nib / 8)).gang.toNat, dst := { space := .well die, at_ := b },
                            src := x }
        ∃ t : State, exec (.atomicAdd nib a b) s = .next t ∧ t.mem = s.mem ∧ (t.well die).addlog = (s.well die).addlog ++ [r]
          ∧ (s.eccOf (wellAt die a) = .clean → t = { s with wells := t.wells } ∧ t.well die = { s.well die with addlog := (s.well die).addlog ++ [r] })))
  ∧ (∀ (s : State) (m : MoverRef) (d : MoverDesc), moverStarts s m → moveFields d = true → spelled .add d = true → addReach m d = true →
      (∃ t : State, exec (.add m d) s = .next t ∧ t.moverBusy m = true)
      ∧ (apart d → fromElsewhere d → (∀ r i, inDesc d r i → writable s (dstAt d r i) ∧ plain s (srcAt d r i)) →
        (s.ordered = false → ∃ t : State, exec (.add m d) s = .next t ∧ onlyDst s t d
          ∧ ∀ r i, inDesc d r i → lineAt t (dstAt d r i) = addLines (checkedLine (readAs s (addrOf (srcAt d r i)))) (readAs s (addrOf (dstAt d r i))))
        ∧ (s.ordered = true → ∃ t : State, exec (.add m d) s = .next t ∧ t.mem = s.mem
          ∧ (t.well m.die).addlog.length = (s.well m.die).addlog.length + d.rows * d.lines)))

/-- R70, R71, R236: MX_IMPORT leaves a header line whose fields are those of the rule, MX_EXPORT writes no byte outside its element rows and scale array; both
complete wherever their tile lies. -/
def Obligations.MxConversionKeepsItsLayout : Prop :=
  ∀ (s : State) (m : MoverRef) (d : MoverDesc), moverStarts s m → 1 ≤ d.rows → d.rows ≤ 4096 → 1 ≤ d.k → d.k ≤ 16384 → d.k % 32 = 0 →
    let per := (d.k + 127) / 128 * (if d.mxint8 then 2 else 1)
    (d.src.space = .raw → d.dst.space ≠ .raw → spelled .mxImport d = true →
      ∃ t : State, exec (.mxImport m d) s = .next t ∧ t.moverBusy m = true
        ∧ ((∃ w, d.dst.space = .well w) → d.dst.at_ + (1 + d.rows * per) ≤ wellLines →
          (∃ scale, lineAt t d.dst = writeHdr { scale := scale, fmt := if d.mxint8 then 3 else 1, flags := 0, linesPerRow := per, rows := d.rows,
                                                stream := 0, tileIndex := 0, validK := d.k, bad := false })
          ∧ ∀ x, x < addrOf d.dst ∨ addrOf d.dst + 72 * (1 + d.rows * per) ≤ x → memGet t.mem x = memGet s.mem x))
    ∧ (d.dst.space = .raw → d.src.space ≠ .raw → spelled .mxExport d = true →
      ∃ t : State, exec (.mxExport m d) s = .next t ∧ t.moverBusy m = true
        ∧ ((∃ w, d.src.space = .well w) → ∀ x, memGet t.mem x ≠ memGet s.mem x → ∃ r, r < d.rows ∧
            ((d.dst.at_ + r * d.dstStride ≤ x ∧ x < d.dst.at_ + r * d.dstStride + mxBytes d.mxint8 d.k)
              ∨ (d.mxscale + r * (d.k / 32) ≤ x ∧ x < d.mxscale + (r + 1) * (d.k / 32)))))

/-- R221: the well port moves lines bit for bit between T0 and the well of the nib's die, apart from what cannot be corrected, and
changes no other byte. -/
def Obligations.WellPortMovesLinesBitForBit : Prop :=
  ∀ (s : State) (n t0 w c : Nat), nibRuns s n → t0 + c ≤ t0Lines → w + c ≤ wellLines →
    (∃ t : State, exec (.wellPortTransfer n true t0 w c) s = .next t ∧ memOutside s t (wellAt (n / 2048) w) (72 * c)
      ∧ ∀ i, i < c → t.wellRead (n / 2048) (w + i) = readAs s (t0At n (t0 + i)))
    ∧ (∃ t : State, exec (.wellPortTransfer n false t0 w c) s = .next t ∧ memOutside s t (t0At n t0) (72 * c)
      ∧ ∀ i, i < c → t.t0Read n (t0 + i) = readAs s (wellAt (n / 2048) (w + i)))

/-- R223 to R226, R261: a scrub's corrected read is counted and rewrites its line, an uncorrectable one sets UE and records its line; refresh counts the
reads it delays and is doubled above 85 °C; neither changes a stored line. -/
def Obligations.StackControllersReport : Prop :=
  ∀ (s : State) (k p l : Nat), s.live = true → k < 12 → p < 6144 → l < pageLines →
    (∀ x : EccResult, let a := t2At (6144 * k + p) (72 * l)
      let e := worseEcc (s.eccOf a) x
      ∃ t : State, exec (.patrolScrub k p l x) s = .next t ∧ t.mem = s.mem ∧ (∀ b, b ≠ a → t.eccOf b = s.eccOf b)
        ∧ (x = .clean → e = .clean → t = s)
        ∧ t.eccOf a = (if e = .corrected then .clean else e)
        ∧ t.stack k = match e with
          | .clean => s.stack k
          | .corrected => { s.stack k with ce := satAdd (s.stack k).ce 1 }
          | .uncorrectable => { s.stack k with err := (s.stack k).err.raise 0, errPage := BitVec.ofNat 13 p, errLine := BitVec.ofNat 18 l })
    ∧ (∀ l' x, pageLines ≤ l' → exec (.patrolScrub k p l' x) s = .next s)
    ∧ (∀ (n : Nat) (v : Int), s.reading (144 + k) = some v →
        ∃ t : State, exec (.stackRefresh k n) s = .next t ∧ t = { s with stackRegs := t.stackRegs }
          ∧ t.stack k = { s.stack k with refwait := satAdd (s.stack k).refwait n, hot := decide (340 < v) })

/-- R414 to R417, R436: a slot's register maps a page; a write through the window lands in the page's bytes and marks no others, a read returns them;
an unmapped slot reads zeros and sets BAR2_UNMAPPED, a pinned page is not written, and a quiesced module reads zeros. -/
def Obligations.WindowReachesTheMappedPage : Prop :=
  ∀ (s : State) (slot b : Nat), s.live = true → s.ready = true → slot < 4096 → b < 2 ^ 24 →
    (∀ v : Word, v.toNat % 2 ^ 17 < 73728 → (s.page (v.toNat % 2 ^ 17)).kind.toNat < 2 →
        ∃ t : State, exec (.glbBar2MapWrite slot v) s = .next t ∧ t.mem = s.mem
          ∧ t.slotPage slot = if v.getLsbD 31 then some (v.toNat % 2 ^ 17) else none)
    ∧ (∀ v : Word, 73728 ≤ v.toNat % 2 ^ 17 → ∃ t : State, exec (.glbBar2MapWrite slot v) s = .next t ∧ t.mem = s.mem
        ∧ t.slotPage slot = none ∧ t.host.evt = s.host.evt.raise 3)
    ∧ (∀ (p : Nat) (bytes : List Byte), s.slotPage slot = some p → (s.page p).pinned = false → bytes ≠ [] → b + bytes.length ≤ s.windowBytes p →
        ∃ t : State, exec (.bar2Write (slot * 2 ^ 24 + b) bytes) s = .next t ∧ memRead t.mem (t2At p b) bytes.length = bytes
          ∧ (soundPage s p → memOutside s t (t2At p b) bytes.length ∧ t.host = s.host ∧ t.loan = s.loan))
    ∧ (∀ (p : Nat) (bytes : List Byte), s.slotPage slot = some p → (s.page p).pinned = true → bytes ≠ [] → b + bytes.length ≤ 2 ^ 24 →
        ∃ t : State, exec (.bar2Write (slot * 2 ^ 24 + b) bytes) s = .next t ∧ t.mem = s.mem ∧ t.loan.err = s.loan.err.raise 4
          ∧ t.loan.errIndex = BitVec.ofNat 17 p)
    ∧ (∀ (bytes : List Byte), s.slotPage slot = none → bytes ≠ [] → b + bytes.length ≤ 2 ^ 24 →
        ∃ t : State, exec (.bar2Write (slot * 2 ^ 24 + b) bytes) s = .next t ∧ t.mem = s.mem ∧ t.host.evt = s.host.evt.raise 3
          ∧ t.host.errSlot = BitVec.ofNat 12 slot)
    ∧ (∀ n : Nat, b + n ≤ 2 ^ 24 → ∃ t : State, exec (.bar2Read (slot * 2 ^ 24 + b) n) s = .next t ∧ t.mem = s.mem ∧ t.rbytes.length = n
        ∧ (s.host.quiesced = true ∨ s.slotPage slot = none → t = { s with rbytes := List.replicate n 0#8 })
        ∧ ∀ p, s.slotPage slot = some p → s.host.quiesced = false → b + n ≤ s.windowBytes p → soundPage s p →
            t = { s with rbytes := memRead s.mem (t2At p b) n })

/-! ### Loans -/

namespace Sys2Proof.Claims

/-- A loan of the lender to `peer`, as it is granted for requested page `p` on its own page with a tag. -/
def grantedAs (peer : Nat) (p : LoanPage) (page tag : Nat) (g : Granted) : Prop :=
  g.peer = peer ∧ g.t3 = p.t3 ∧ g.page = page ∧ g.tag = tag ∧ g.filled = false ∧ g.recalled = false

/-- A T3 entry that this module borrows from `lender`. -/
def borrows (s : State) (lender i : Nat) : Prop := s.loan.held.any (fun g => g.peer = lender && g.t3 = i) = true

/-- The pages of some loans read zero, and no other byte of memory has changed. -/
def wipedPages (s t : State) (gs : List Granted) : Prop :=
  (∀ g ∈ gs, ∀ b, b < 72 * pageLines → memGet t.mem (t2At g.page b) = 0#8)
    ∧ ∀ x, (∀ g ∈ gs, x < t2At g.page 0 ∨ t2At g.page 0 + 72 * pageLines ≤ x) → memGet t.mem x = memGet s.mem x

/-- A lent page has been taken back: the loan is gone and LENT reads 0. -/
def takenBack (t : State) (gs : List Granted) : Prop := ∀ g ∈ gs, g ∉ t.loan.granted ∧ (t.page g.page).lent = false

end Sys2Proof.Claims

/-- R242, R244, R245, R407: an OFFER is kept; a REQUEST within an offer is granted on lendable pages, whose entries carry LENT and the loan's tag, and one
outside any offer gets nothing, but pins a home page of this module; a GRANT fills in the lender's page and tag; FILLED makes the entries LOANED and shadows
the borrower's own home pages. R237, R245: a loan fill from a home page of the lender itself copies every line, a line that fails its check or cannot be corrected as a poisoned one, and
the loan counts as filled. -/
def Obligations.LoansAreGrantedAndFilled : Prop :=
  (∀ (s u : State) (peer : Nat), s.strk.run = none → s.pmapPending = [] →
      (∀ pages notice share, s.takeRecord 0x30 peer [pages, notice, share] = some u →
        ∃ t : State, exec (.offer peer pages notice share) s = .next t ∧ t = { u with loan := { u.loan with offersIn := t.loan.offersIn } }
          ∧ t.loan.offersIn.find? (fun o => o.rank = peer) = some { rank := peer, pages := pages, notice := notice, share := share })
      ∧ (∀ (notice : Nat) (pages : List LoanPage) (o : Offer), s.takeList 0x31 peer notice (recordsFor pages.length) (pages.map requestItems) = some u →
          s.loan.offersOut.find? (fun o => o.rank = peer) = some o → o.notice ≤ notice → notice ≠ 0 → s.boot.config.lendable.Nodup
          → (∀ p ∈ pages, p.homeRank ≠ s.grp.rank.toNat) →
          ∃ t : State, exec (.request peer notice pages) s = .next t ∧ t.mem = s.mem
            ∧ (∀ (k : Nat) (p : LoanPage) (pg : Nat), ((pages.take o.pages).zip u.lendable)[k]? = some (p, pg) →
                (∃ g ∈ t.loan.granted, grantedAs peer p pg ((s.loan.tagSeq + k) % 65536) g)
                  ∧ (t.page pg).lent = true ∧ (t.page pg).loanTag = BitVec.ofNat 16 (s.loan.tagSeq + k))
            ∧ ∀ i, i ∉ u.lendable → t.page i = s.page i)
      ∧ (∀ (notice : Nat) (pages : List LoanPage), s.takeList 0x31 peer notice (recordsFor pages.length) (pages.map requestItems) = some u →
          s.loan.offersOut.find? (fun o => o.rank = peer) = none →
          ∃ t : State, exec (.request peer notice pages) s = .next t ∧ t.mem = s.mem ∧ t.loan.granted = s.loan.granted
            ∧ ((∀ p ∈ pages, p.homeRank ≠ s.grp.rank.toNat) → t.pmap = s.pmap ∧ t.loan = s.loan)
            ∧ ∀ p, pages = [p] → p.homeRank = s.grp.rank.toNat → s.boot.life = .operational → s.canPin p.homePage = true → (s.page p.homePage).pinned = false →
                t.page p.homePage = { s.page p.homePage with pinned := true, homeTag := BitVec.ofNat 16 p.homeTag } ∧ (p.homePage, peer, p.t3) ∈ t.loan.pins)
      ∧ (∀ pages : List LoanGrant, s.takeList 0x32 peer 0 (recordsFor pages.length) (pages.map grantItems) = some u → (pages.map (·.t3)).Nodup →
          ∃ t : State, exec (.grant peer pages) s = .next t ∧ t.mem = s.mem ∧ ∀ g ∈ pages, 73728 ≤ g.t3 → g.t3 < 131072 → (s.page g.t3).kind = 2
            → (s.page g.t3).state = 1 → (s.page g.t3).lenderRank.toNat = peer →
              t.page g.t3 = { s.page g.t3 with lenderPage := BitVec.ofNat 17 g.page, loanTag := BitVec.ofNat 16 g.tag } ∧ borrows t peer g.t3)
      ∧ (∀ t3 : List Nat, s.takeList 0x33 peer 0 (recordsFor t3.length) (t3.map fun i => [i]) = some u →
          ∃ t : State, exec (.filled peer t3) s = .next t ∧ t.mem = s.mem ∧ ∀ i ∈ t3, borrows s peer i → (s.page i).state = 1 →
            (t.page i).state = 2 ∧ (73728 ≤ i → (s.page i).kind = 2 → (s.page i).homeRank = s.grp.rank → s.grp.rankValid = true →
              (t.page (s.page i).homePage.toNat).shadowEn = true)))
  ∧ (∀ (s : State) (peer : Nat) (g : Granted), s.live = true → (s.loan.granted.filter fun g => g.peer = peer && !g.filled && s.fillReady g) = [g]
      → g.homeRank = s.grp.rank.toNat → g.page < 73728 → g.homePage < 73728 → g.page ≠ g.homePage → (s.page g.page).kind = 0
      → (s.page g.page).pinned = false → (s.page g.homePage).kind = 0 → (s.page g.homePage).homeTag.toNat = g.homeTag →
      ∃ t : State, exec (.loanFillDone peer) s = .next t ∧ { g with filled := true } ∈ t.loan.granted
        ∧ (∀ l, l < pageLines → t.t2Line g.page l = checkedLine (readAs s (t2At g.homePage (72 * l))))
        ∧ ∀ x, x < t2At g.page 0 ∨ t2At g.page 0 + 72 * pageLines ≤ x → memGet t.mem x = memGet s.mem x)

/-- R249 to R253: a RECALL sets its flag and makes the entries RECALLING, due after its notice, or switches them to HOME at once while no job runs; an entry that is
LOST stays so. RELEASED, once the reads before it are answered, RETURN and a recall's time limit give the lender's pages back, not lent and all zero; a
RETURN of names unpins the home pages that no T3 index names any longer. -/
def Obligations.LoansEndWithZeroedPages : Prop :=
  ∀ (s u : State) (peer : Nat),
    let items := fun (t3 : List Nat) => t3.map fun i => [i]
    (∀ (notice : Nat) (t3 : List Nat), s.takeList 0x34 peer notice (recordsFor t3.length) (items t3) = some u → s.strk.run.isSome = true →
      ∃ t : State, exec (.recall peer notice t3) s = .next t ∧ t.mem = s.mem ∧ t.loan.err = s.loan.err.raise 0
        ∧ t.loan.recalls = s.loan.recalls ++ [{ lender := peer, t3 := t3.filter fun i => s.loan.held.any fun g => g.peer = peer && g.t3 = i,
                                                wait := max 1 notice, unasked := false }]
        ∧ ∀ i ∈ t3, borrows s peer i → (s.page i).state = 1 ∨ (s.page i).state = 2 → (t.page i).state = 3)
    ∧ (∀ (notice : Nat) (t3 : List Nat), s.takeList 0x34 peer notice (recordsFor t3.length) (items t3) = some u → s.strk.run = none → s.loan.recalls = []
        → s.pmapPending = [] →
      ∃ t : State, exec (.recall peer notice t3) s = .next t ∧ t.mem = s.mem ∧ t.loan.err = s.loan.err.raise 0
        ∧ ∀ i ∈ t3, borrows s peer i → (t.page i).state = (if (s.page i).state = 4 then 4 else 0) ∧ ¬ borrows t peer i)
    ∧ (∀ t3 : List Nat, s.strk.run = none → s.mir.releaseStep ≠ 4 →
        (s.readFirst peer t3 = false → s.takeList 0x35 peer 0 (recordsFor t3.length) (items t3) = some u →
          ∃ t : State, exec (.released peer t3) s = .next t ∧ wipedPages s t (s.loansOf peer t3) ∧ takenBack t (s.loansOf peer t3))
        ∧ (s.takeList 0x36 peer 0 (recordsFor t3.length) (items t3) = some u →
          ∃ t : State, exec (.return peer t3) s = .next t ∧ wipedPages s t (s.loansOf peer t3) ∧ takenBack t (s.loansOf peer t3))
        ∧ (s.takeList 0x36 peer 0 (recordsFor t3.length) (items t3) = none → s.takeList 0x36 peer 1 (recordsFor t3.length) (items t3) = some u →
          ∃ t : State, exec (.return peer t3) s = .next t ∧ t.mem = s.mem ∧ (∀ p ∈ t.loan.pins, p ∈ s.loan.pins ∧ ¬(p.2.1 = peer ∧ p.2.2 ∈ t3))
            ∧ ∀ p ∈ s.loan.pins, p.2.1 = peer → p.2.2 ∈ t3 → (∀ q ∈ t.loan.pins, q.1 ≠ p.1) → (t.page p.1).pinned = false))
    ∧ (s.live = true → s.strk.run = none → s.mir.releaseStep ≠ 4 →
        let gs := s.loan.granted.filter fun g => g.peer = peer && g.recalled
        ∃ t : State, exec (.recallTimeout peer) s = .next t ∧ wipedPages s t gs ∧ takenBack t gs)

/-- R246 to R248, R263: a lender answers a loaned read under the page's tag with the stored lines, checked, and any other with NOT_LENT; a home module answers a
read under the pin's tag with its lines and any other with poisoned ones; a loaned read that fails or times out makes its entry LOST and goes to the home
copy: a fill's lines are written, those of a reader that went on are counted alone. Each command completes whatever the state. -/
def Obligations.LoanedReadsAreServedOrFallBack : Prop :=
  ∀ (s u : State) (peer page line count tag l : Nat) (rest : List Nat),
    (∀ home t3, (∃ t : State, exec (.loanRead peer page line count tag home) s = .next t ∧ t.mem = s.mem ∧ t.pmap = s.pmap)
      ∧ (∃ t : State, exec (.notLent peer page line count) s = .next t) ∧ ∃ t : State, exec (.loanReadTimeout t3) s = .next t)
    ∧ (∀ home : Bool, s.takeRecord 0x37 peer [page, line, count, tag, if home then 1 else 0] = some u → u.routePair peer = l :: rest →
      let stored := fun k => checkedLine (readAs s (t2At page (72 * (line + k))))
      (home = false → page < 73728 → (s.page page).lent = true → (s.page page).loanTag.toNat = tag →
        ∃ (t : State) (x : Slots), exec (.loanRead peer page line count tag home) s = .next t ∧ (t.link l).vc2 = (u.link l).vc2 ++ [x]
          ∧ t.loan.lentserved = satAdd s.loan.lentserved count ∧ x.slots.length = count + 2
          ∧ ((s.page page).kind = 0 → ∀ k, k < count → line + k < pageLines → x.slots.getD (k + 1) [] = stored k))
      ∧ (home = false → 73728 ≤ page ∨ (s.page page).lent = false ∨ (s.page page).loanTag.toNat ≠ tag →
        ∃ t : State, exec (.loanRead peer page line count tag home) s = .next t ∧ t.loan = s.loan
          ∧ (t.link l).vc2 = (u.link l).vc2 ++ [{ msg := true, slots := [s.recordSlot peer 0x38 [page, line, count]], chunk := none, sent := 0 }])
      ∧ (home = true → s.pinWaits page = false →
        ∃ (t : State) (x : Slots), exec (.loanRead peer page line count tag home) s = .next t ∧ (t.link l).vc2 = (u.link l).vc2 ++ [x]
          ∧ x.slots.length = count + 2 ∧ ((s.page page).kind = 0 → ∀ k, k < count → line + k < pageLines → x.slots.getD (k + 1) [] =
              if page < 73728 ∧ (s.page page).pinned = true ∧ (s.page page).homeTag.toNat = tag then stored k
              else poisonLine (s.t2Line page (line + k)))))
    ∧ (∀ (w : ReadWait) (cmd : Instr) (v : State) (flag : Nat),
        (cmd = .notLent peer page line count ∧ flag = 2 ∧ s.takeRecord 0x38 peer [page, line, count] = some v
          ∧ s.loan.reads.find? (fun w => w.rank = peer && !w.home && w.first = line && w.count = count && (s.page w.t3).lenderPage.toNat = page) = some w)
        ∨ (cmd = .loanReadTimeout w.t3 ∧ flag = 1 ∧ v = s ∧ s.live = true ∧ s.loan.reads.find? (fun r => r.t3 = w.t3 && !r.home) = some w) →
        let hp := (s.page w.t3).homePage.toNat
        ((s.page w.t3).homeRank = s.grp.rank → s.grp.rankValid = true → w.hold = false → w.mover = discardKey → w.t3 ≠ hp → (s.page hp).kind = 0
          → (s.page hp).pinned = true → (s.page hp).homeTag = (s.page w.t3).homeTag →
          ∃ t : State, exec cmd s = .next t ∧ (t.page w.t3).state = 4 ∧ t.loan.err = s.loan.err.raise flag
            ∧ t.loan.homereads = satAdd s.loan.homereads w.count ∧ t.mem = s.mem ∧ t.loan.reads = s.loan.reads.erase w)
        ∧ ((s.page w.t3).homeRank = s.grp.rank → s.grp.rankValid = true → w.hold = false → w.mover = fillKey → w.t3 ≠ hp → (s.page hp).kind = 0
          → (s.page hp).pinned = true → (s.page hp).homeTag = (s.page w.t3).homeTag
          → w.count = 1 → (∃ d, w.dst.space = .well d ∧ d < 2) → w.dst.at_ < wellLines →
          ∃ t : State, exec cmd s = .next t ∧ (t.page w.t3).state = 4 ∧ t.loan.err = s.loan.err.raise flag
            ∧ t.loan.homereads = satAdd s.loan.homereads 1 ∧ lineAt t w.dst = checkedLine (readAs s (t2At hp (72 * w.first)))
            ∧ memOutside s t (addrOf w.dst) 72)
        ∧ ((s.page w.t3).homeRank ≠ s.grp.rank →
          ∃ t : State, exec cmd s = .next t ∧ (t.page w.t3).state = 4 ∧ t.loan.err = s.loan.err.raise flag ∧ t.mem = s.mem
            ∧ t.loan.reads = s.loan.reads.erase w ++ [{ w with rank := (s.page w.t3).homeRank.toNat, home := true }]))

/-! ### Tickets, strokes, jobs and time -/

namespace Sys2Proof.Claims

/-- The completion queue of a ring takes records, and the endpoint may write them. -/
def ringTakes (s : State) (r : Nat) : Prop := (s.ring r).cleared = false ∧ s.host.quiesced = false

/-- A completion record of a ring with a status has gone out to the queue's next place. -/
def recordOut (s t : State) (r status : Nat) : Prop :=
  ∃ (c : CplRec) (phase : Bool), c.ring = r ∧ c.status = status
    ∧ PcieOut.dma ((s.ring r).cqbase.toNat + 64 * (s.ring r).cqtail.toNat) (recordBytes c phase false) ∈ t.pcieOut

/-- A record for a member waits on a link. -/
def told (t : State) (l dest kind : Nat) (items : List Nat) : Prop :=
  ({ msg := true, slots := [t.recordSlot dest kind items], chunk := none, sent := 0 } : Slots) ∈ (t.link l).queue (recordVc kind)

/-- Every other member that a pair link which routes may use reaches is sent a record. -/
def toldAll (s t : State) (kind : Nat) (items : List Nat) : Prop :=
  ∀ (r l : Nat) (rest : List Nat), r ∈ s.others → s.routePair r = l :: rest → told t l r kind items

/-- A job runs and its strokes go on. -/
def running (s : State) (j : Job) : Prop := s.live = true ∧ s.strk.run = some j ∧ j.stopped = false

/-- The reply that a counter's home keeps for a taker. -/
def replyOf (s : State) (die q g : Nat) : Option TakerRec := sget (fun _ => none) (s.well die).takers (8 * q + g)

/-- The stroke's flags when it ends: a stretched one has set OVERRUN (R288). -/
def stretchedEvt (s : State) (j : Job) : Events := if j.ext = 0 then s.strk.evt else s.strk.evt.raise 0

/-- The stalls known for the current stroke and extension. -/
def stallsNow (j : Job) : List StallMsg := j.stalls.filter fun x => x.stroke = j.stroke && x.ext = j.ext

end Sys2Proof.Claims

/-- R279 to R281, R283: a gang's take carries its next tag and stays outstanding until a reply comes; the home gives a repeated tag the ticket already given and
counts a retry, and a new take the next ticket in TAKE mode and ticket r + j × Q in DEAL mode, or EMPTY at the limit; a take that is sent again is served
alike. A gang with a take outstanding takes nothing. -/
def Obligations.TakesFollowTheCounterMode : Prop :=
  ∀ (s : State) (die n q g : Nat) (loss : TakeLoss) (a : Asked) (cmd : Instr), s.live = true → s.takerOk die n q g = true →
    let w := s.well die
    let c := w.counter n
    let x := s.quill (256 * die + q)
    (x.askedOf g ≠ none → exec (.ticketTake die n q g loss) s = .next s)
    ∧ (x.askedOf g = none → exec (.ticketTimeout die n q g loss) s = .next s)
    ∧ ((cmd = .ticketTake die n q g loss ∧ x.askedOf g = none ∧ mayTake w n q g = true ∧ a = { gang := g, counter := n, tag := sget (fun _ => 0#8) x.tags g })
        ∨ (cmd = .ticketTimeout die n q g loss ∧ x.askedOf g = some a ∧ a.counter = n) →
      let tag := a.tag
      ∃ t : State, exec cmd s = .next t ∧ t = { s with wells := t.wells, quills := t.quills } ∧ (∀ k, k ≠ 256 * die + q → t.quill k = s.quill k)
        ∧ (∀ d, d ≠ die → t.well d = s.well d)
        ∧ (t.quill (256 * die + q)).askedOf g = (if loss = .none then none else some a)
        ∧ (cmd = .ticketTake die n q g loss → sget (fun _ => 0#8) (t.quill (256 * die + q)).tags g = tag + 1)
        ∧ (loss = .request → t.wells = s.wells)
        ∧ (loss = .none → ∀ r, replyOf t die q g = some r → (t.quill (256 * die + q)).tickets = x.tickets ++
            (r.reply.bind (ticketOfReply ((t.well die).counter r.counter) g r.counter)).toList)
        ∧ (loss ≠ .request →
          (∀ r, replyOf s die q g = some r → r.tag = tag → t.well die = { w with tktretry := satAdd w.tktretry 1 })
          ∧ ((∀ r, replyOf s die q g = some r → r.tag ≠ tag) →
            (c.deal = false → c.next.toNat < c.limit.toNat →
              (t.well die).counter n = { c with next := c.next + 1 } ∧ (∀ m, m ≠ n → (t.well die).counter m = w.counter m)
                ∧ (t.well die).tktempty = w.tktempty
                ∧ replyOf t die q g = some { counter := n, tag := tag, reply := some c.next.toNat, tile := tileOfTicket c c.next.toNat })
            ∧ (c.deal = false → c.limit.toNat ≤ c.next.toNat →
              (t.well die).counters = w.counters ∧ (t.well die).tktempty = satAdd w.tktempty 1
                ∧ replyOf t die q g = some { counter := n, tag := tag, reply := none, tile := none })
            ∧ (c.deal = true → c.limit ≠ 0 →
              let j := sget (fun _ => 0) w.dealt (2048 * n + 8 * q + g)
              let k := (c.takers.takeWhile (· ≠ (q, g))).length + j * c.takers.length
              sget (fun _ => 0) (t.well die).dealt (2048 * n + 8 * q + g) = j + 1
                ∧ replyOf t die q g = some (if k < c.limit.toNat then { counter := n, tag := tag, reply := some k, tile := tileOfTicket c k }
                    else { counter := n, tag := tag, reply := none, tile := none })))))

/-- R283, R284: in every order and block side the tickets of a grid name each of its cells exactly once; with BLOCK 0 they run in row-major order; a
Hilbert block steps from cell to adjacent cell. -/
def Obligations.EveryCellHasOneTicket : Prop :=
  ∀ order block tr tc, order ≤ 2 → block ≤ 8 →
    (gridCells order block tr tc).Nodup ∧ (∀ i j, (i, j) ∈ gridCells order block tr tc ↔ i < tr ∧ j < tc)
      ∧ (block = 0 → ∀ t, t < tr * tc → (gridCells order block tr tc)[t]? = some (t / tc, t % tc))
      ∧ (order = 2 → ∀ d, d + 1 < 4 ^ block →
          let p := blockCell order block d
          let q := blockCell order block (d + 1)
          ((p.1 : Int) - q.1).natAbs + ((p.2 : Int) - q.2).natAbs = 1)

/-- R272, R286 to R291, R430: the stall point comes 1,500 ns before the stroke's end, 2,500 ns where some member is reached by relay only; an unfinished member says so to every member with its lowest cause; a known STALL extends the stroke by one guard unit, or
ends the job with STRETCH_LIMIT at STALL_MAX; a STALL, RATE or JOB_END in time is kept, a late one ends the job with STROKE_SYNC. -/
def Obligations.StallsStretchEveryMember : Prop :=
  ∀ (s : State) (j : Job), running s j →
    (∀ (busy : List Nat) (c : Nat), s.coll.steps = [] → ((busy.filter fun c => 1 ≤ c && c ≤ 7) ++ s.openWork j).min? = some c →
      j.stalls.any (fun x => x.own && x.stroke = j.stroke && x.ext = j.ext) = false →
      ∃ (t : State) (k : Job), exec (.stallPoint busy) s = .next t ∧ t.mem = s.mem ∧ t.strk.run = some k
        ∧ k = { j with lead := k.lead, stalls := j.stalls ++ [{ stroke := j.stroke, rank := s.grp.rank.toNat, ext := j.ext, cause := c, own := true }] }
        ∧ toldAll s t 0x20 [j.stroke, j.ext, c])
    ∧ (∀ busy : List Nat, s.coll.steps = [] → ((busy.filter fun c => 1 ≤ c && c ≤ 7) ++ s.openWork j).min? = none →
      strokeEnd j < 2 ^ 64 → (∀ x, j.lead = some x → x = 1500 ∨ x = 2500) →
      ∃ lead, (lead = 1500 ∨ lead = 2500) ∧ (∀ x, j.lead = some x → lead = x) ∧ (j.lead = none → (∀ r ∈ s.others, s.upPair r ≠ []) → lead = 1500)
        ∧ exec (.stallPoint busy) s = .next { s.reach (strokeEnd j - lead) with strk := { s.strk with run := some { j with lead := some lead } } })
    ∧ (stallsNow j ≠ [] → j.ext ≠ j.desc.stallMax →
      ∃ t : State, exec .strokeBoundary s = .next t ∧ t.strk.run = some { j with ext := j.ext + 1, lead := none, isVoid := true }
        ∧ t = { s.reach (strokeEnd j) with strk := { s.strk with run := t.strk.run, isVoid := true } })
    ∧ (stallsNow j ≠ [] → j.ext = j.desc.stallMax → ringTakes s j.ring →
      ∃ t : State, exec .strokeBoundary s = .next t ∧ t.strk.run = none ∧ t.strk.evt = (stretchedEvt s j).raise 1 ∧ recordOut s t j.ring 0x11)
    ∧ (∀ (u : State) (peer n e cause : Nat), s.takeRecord 0x20 peer [n, e, cause] = some u →
      let late := n < j.stroke ∨ (n = j.stroke ∧ j.start + j.period + e * guardOf j.period j.desc.guard < s.gtc.now.toNat)
      (¬ late → exec (.stall peer n e cause) s =
        .next (u.modRun fun j => { j with stalls := j.stalls ++ [{ stroke := n, rank := peer, ext := e, cause := cause % 16, own := false }] }))
      ∧ (late → ringTakes s j.ring →
        ∃ t : State, exec (.stall peer n e cause) s = .next t ∧ t.strk.run = none ∧ t.strk.evt = (stretchedEvt s j).raise 2 ∧ recordOut s t j.ring 0x10))
    ∧ (∀ (u : State) (peer c clock factor : Nat), s.takeRecord 0x21 peer [c, clock, factor] = some u →
      (j.stroke < c → exec (.rateMessage peer c clock factor) s =
        .next (u.modRun fun j => { j with rates := addRate j.rates { rank := peer, stroke := c, clock := clock, factor := factor } }))
      ∧ (c ≤ j.stroke → ringTakes s j.ring →
        ∃ t : State, exec (.rateMessage peer c clock factor) s = .next t ∧ t.strk.run = none ∧ t.strk.evt = (stretchedEvt s j).raise 2 ∧ recordOut s t j.ring 0x10))
    ∧ (∀ (u : State) (peer c status detail : Nat), s.takeRecord 0x25 peer [c, status, detail] = some u →
      (j.stroke < c → exec (.jobEnd peer c status detail) s =
        .next (u.modRun fun j => { j with ends := j.ends ++ [{ rank := peer, own := false, stroke := c, status := status, detail := detail }] }))
      ∧ (c ≤ j.stroke → ringTakes s j.ring →
        ∃ t : State, exec (.jobEnd peer c status detail) s = .next t ∧ t.strk.run = none ∧ t.strk.evt = (stretchedEvt s j).raise 2 ∧ recordOut s t j.ring 0x10))

/-- R271, R273, R279, R216, R292, R426: a boundary that nothing holds back begins the next stroke at B_n + P + X × U with the period of R292, the counters'
takers and row-ready counters emptied and RING_PROG advanced; after the last stroke, in which nothing that a publication writes is refused, the job ends
with DONE. -/
def Obligations.BoundariesBeginTheNextStroke : Prop :=
  ∀ (s : State) (j : Job), running s j → stallsNow j = [] → s.openWork j = [] → j.ends = [] → j.failure = none → j.collAbort = none → j.commit = none
    → s.mir.leaving = none → s.pointDue j.stroke = false → s.coll.early = [] →
    (∀ (p : ProgramSet) (e : StrokeEntry), j.stroke + 1 < j.desc.strokes → s.runSet = some p → entryAt p j.desc.params (j.stroke + 1) = some e →
      let r := rateAt j (s.grp.rank.toNat :: s.others) (j.stroke + 1)
      ∃ (t : State) (k : Job), exec .strokeBoundary s = .next t ∧ t.strk.run = some k ∧ k.stroke = j.stroke + 1 ∧ k.start = strokeEnd j ∧ k.ext = 0
        ∧ k.clock = r.1 ∧ k.factor = r.2 ∧ k.period = periodOf j.desc.basePeriod e.factor j.desc.baseClock r.1 r.2
        ∧ (t.ring j.ring).prog = (s.ring j.ring).prog + 1
        ∧ ∀ d, d < 2 → (t.well d).takers = [] ∧ (t.well d).rowrdy = [])
    ∧ (j.desc.strokes ≤ j.stroke + 1 → ringTakes s j.ring → j.poisoned = [] → s.kvt.pending = [] → (∀ d, d < 2 → (s.well d).addlog = []) →
      ∃ t : State, exec .strokeBoundary s = .next t ∧ t.strk.run = none ∧ t.strk.lastEnd = strokeEnd j ∧ recordOut s t j.ring 0)

/-- R270, R420, R421, R423: the next ring's descriptor is refused with the status of the first case that holds, or queued; an error completion disables the
ring. R269, R271, R423, R427: the queued job begins its first stroke at LAUNCH, with RING_PROG 0; when another job still runs, or its last stroke ends later,
it ends with OVERLAP instead. -/
def Obligations.JobsAreFetchedThenLaunched : Prop :=
  (∀ (s : State) (r : Nat), s.live = true → s.ready = true → s.host.quiesceReq = false → s.strk.queued = none → s.nextRing = some r →
      (∀ ns : Nat, ∃ t : State, exec (.jobFetch none ns) s = .next t ∧ t.strk = s.strk ∧ t.ring r = { s.ring r with en := false, evt := (s.ring r).evt.raise 1 })
      ∧ (∀ (b : List Byte) (ns : Nat), b.length = 256 → s.gtc.now.toNat + ns < 2 ^ 64 →
        let d := readDesc b
        let u := { s with host := { s.host with lastRing := r } }.setRing r
          { s.ring r with head := BitVec.ofNat 12 (((s.ring r).head.toNat + 1) % ringSize (s.ring r)) }
        let status := if badByte b ≠ none then 0x01 else if d.groupTag ≠ s.groupTag then 0x07 else if s.lifeAllows (s.effective d) = false then 0x06
          else if (u.launchRuling d).isSome then 0x02 else if s.gtc.locked = false then 0x03
          else if d.launch < s.gtc.now.toNat + ns + 100000 then 0x04 else 0
        (status = 0 → ∃ t : State, exec (.jobFetch (some b) ns) s = .next t ∧ t.strk = { s.strk with queued := some (newJob r (s.effective d)) }
          ∧ t.ring r = u.ring r)
        ∧ (status ≠ 0 → ringTakes s r → ∃ t : State, exec (.jobFetch (some b) ns) s = .next t ∧ t.strk = s.strk ∧ recordOut s t r status)))
  ∧ (∀ (s : State) (j : Job), s.live = true → s.mir.releaseStep < 4 → s.strk.queued = some j →
      (∀ (x : Machine.PSet) (e : StrokeEntry), s.strk.run = none → s.strk.lastEnd ≤ j.desc.launch → s.psets.getD j.desc.pset none = some x
        → entryAt x.set j.desc.params (s.firstStroke j.desc) = some e → s.coll.early = []
        → s.holding = false ∨ s.resumesImage j.desc = true →
        ∃ (t : State) (k : Job), exec .jobLaunch s = .next t ∧ t.strk.run = some k ∧ t.strk.queued = none ∧ k.desc = j.desc ∧ k.stroke = s.firstStroke j.desc
          ∧ k.start = j.desc.launch ∧ (t.ring j.ring).prog = 0 ∧ t.strk.ordered = j.desc.ordered ∧ t.strk.guard = BitVec.ofNat 5 j.desc.guard)
      ∧ (s.strk.run.isSome = true ∨ j.desc.launch < s.strk.lastEnd → ringTakes s j.ring →
        ∃ t : State, exec .jobLaunch s = .next t ∧ t.strk = { s.strk with queued := none } ∧ recordOut s t j.ring 0x05))

/-- R264 to R268, R402: the GTC steps to the master's and locks at boot; a candidate that hears no master becomes one, locked, its GTC going on; any other
member enters holdover, and loses its lock when that lasts; a due step sets the GTC. -/
def Obligations.MastershipAndHoldover : Prop :=
  ∀ (s : State), s.live = true →
    (∀ (g : BitVec 64) (m l : Nat) (rest : List Nat), s.awaitsMaster = true → s.candidates.contains m = true → m ≠ s.grp.rank.toNat → s.upPair m = l :: rest →
      ∃ t : State, exec (.gtcLock g m) s = .next t ∧ t.gtc = { s.gtc with now := g, locked := true, master := false, masterRank := BitVec.ofNat 7 m,
                                                                          offset := 0, evt := s.gtc.evt.raise 2 } ∧ t.ready = true)
    ∧ (s.awaitsMaster = true → s.isCandidate = true →
      ∃ t : State, exec .masterTakeover s = .next t ∧ t.ready = true ∧ t.gtc.master = true ∧ t.gtc.locked = true ∧ t.gtc.offset = 0
        ∧ t.gtc.masterRank = s.grp.rank)
    ∧ (∀ cmd : Instr, cmd = .masterSilenceTimeout ∨ (cmd = .holdoverEntry ∧ s.gtc.holdover = false) → s.ready = true → s.isCandidate = true
      → s.gtc.master = false →
      ∃ t : State, exec cmd s = .next t ∧ t.gtc.master = true ∧ t.gtc.locked = true ∧ t.gtc.offset = 0 ∧ t.gtc.masterRank = s.grp.rank
        ∧ t.gtc.now = s.gtc.now ∧ t.gtc.evt = s.gtc.evt.raise 1)
    ∧ (s.ready = true → s.gtc.master = false → s.gtc.holdover = false → s.isCandidate = false →
      exec .holdoverEntry s = .next { s with gtc := { s.gtc with holdover := true, exch := none } })
    ∧ (s.gtc.holdover = true → s.gtc.locked = true →
      ∃ t : State, exec .holdoverExpiry s = .next t ∧ t.gtc = { s.gtc with locked := false, evt := s.gtc.evt.raise 0 }
        ∧ (s.strk.run.isSome = true → t.strk.isVoid = true))
    ∧ (∀ g : BitVec 64, s.gtc.stepDue = true → s.strk.run = none → s.strk.queued = none →
      ∃ t : State, exec (.gtcStep g) s = .next t ∧ t.gtc = { s.gtc with now := g, stepDue := false, offset := 0, window := [], exch := none,
                                                                        evt := s.gtc.evt.raise 2 } ∧ t.mem = s.mem)

/-- R266 to R268, R318: the master sends each member DISC_SYNC and, as that leaves, DISC_FOLLOW with the instant of its departure; a member answers with DISC_DREQ and, from the four times, estimates its offset,
gains lock after 64 estimates within 2 ns, loses it beyond 4 ns, and beyond 1 µs ends its job with STROKE_SYNC and steps later. -/
def Obligations.ExchangesDisciplineTheClock : Prop :=
  ∀ (s : State), s.live = true → s.ready = true →
    (s.gtc.master = true → ∃ t : State, exec .disciplineExchange s = .next t ∧ t.gtc = { s.gtc with exchNum := s.gtc.exchNum + 1 }
        ∧ toldAll s t 0x11 [s.gtc.exchNum])
    ∧ (∀ l peer n : Nat, l < 96 → peer < 128 → n < 2 ^ 32 → (s.link l).st = .up → (s.link l).resend = [] → (s.link l).replay.length < 256 → s.coll.unrouted = []
      → 0 < (s.link l).credit.getD 3 0 → (s.link l).vc3 = [{ msg := true, slots := [s.recordSlot peer 0x11 [n]], chunk := none, sent := 0 }] →
      ∃ (t : State) (d : Nat), exec (.flitSend l) s = .next t ∧ d < 8 ∧ told t l peer 0x12 [n, 8 * s.gtc.now.toNat + d])
    ∧ (∀ (u : State) (peer n : Nat) (t2 : Int), s.takeRecord 0x11 peer [n] = some u → s.follows peer = true → s.gtc.master = false → s.gtc.masterRank.toNat = peer →
      exec (.discSync peer n t2) s = .next { u with gtc := { s.gtc with holdover := false, exch := some { num := n, t1 := none, t2 := t2, t3 := none } } })
    ∧ (∀ (u : State) (peer n l : Nat) (rest : List Nat) (x : Exchange) (t1 t3 : Int), s.takeRecord 0x12 peer [n, t1.toNat] = some u → s.gtc.master = false
      → s.gtc.masterRank.toNat = peer → s.gtc.exch = some x → x.num = n → s.routePair peer = l :: rest →
      ∃ t : State, exec (.discFollow peer n t1 t3) s = .next t ∧ t.gtc = { s.gtc with exch := some { x with t1 := some t1, t3 := some t3 } }
        ∧ told t l peer 0x13 [n])
    ∧ (∀ (u : State) (peer n l : Nat) (rest : List Nat) (t4 : Int), s.takeRecord 0x13 peer [n] = some u → s.gtc.master = true → s.routePair peer = l :: rest →
      ∃ t : State, exec (.discDreq peer n t4) s = .next t ∧ t.gtc = s.gtc ∧ told t l peer 0x14 [n, t4.toNat])
    ∧ (∀ (u : State) (peer : Nat) (x : Exchange) (t1 t3 t4 : Int), s.takeRecord 0x14 peer [x.num, t4.toNat] = some u → s.gtc.master = false → s.gtc.masterRank.toNat = peer
      → s.gtc.exch = some x → x.t1 = some t1 → x.t3 = some t3 →
      let o := twiceOffset t1 x.t2 t3 t4 (s.asymOf peer)
      let last := (s.gtc.window ++ [o]).drop (s.gtc.window.length + 1 - 64)
      ∃ t : State, exec (.discDresp peer x.num t4) s = .next t ∧ t.gtc.offset = offsetField o ∧ t.gtc.window = last ∧ t.gtc.now = s.gtc.now
        ∧ (last.length = 64 → (∀ y ∈ last, y.natAbs ≤ 4000) → t.gtc.locked = true)
        ∧ (8000 < o.natAbs → t.gtc.locked = false)
        ∧ (o.natAbs ≤ 8000 → ¬ (last.length = 64 ∧ ∀ y ∈ last, y.natAbs ≤ 4000) → t.gtc.locked = s.gtc.locked)
        ∧ (2000000 < o.natAbs → t.gtc.stepDue = true ∧ t.strk.run = none ∧ t.strk.queued = none
            ∧ ∀ j, s.strk.run = some j → ringTakes s j.ring → recordOut s t j.ring 0x10)
        ∧ (o.natAbs ≤ 2000000 → t.gtc.stepDue = s.gtc.stepDue ∧ t.strk.run.isSome = s.strk.run.isSome))

/-! ### Links and collectives -/

namespace Sys2Proof.Claims

/-- The step of a collective that its command issues: step 0, of this descriptor, not issued and not ended. -/
def stepWaits (s : State) (coll : Nat) (d : CollDesc) : Prop :=
  ∃ x : CollStep, s.findStep coll 0 = some x ∧ x.desc = d ∧ x.issued = false ∧ x.status = none

/-- What this member sends to the member at position `i`, from its source lines (R322). -/
def sendsTo (d : CollDesc) (src : List Line) (i : Nat) : List Line :=
  match d.op with
  | .allGather => src
  | .transfer => src
  | .allToAll => (src.drop (i * d.lines)).take d.lines
  | _ => convertLines d.inFmt (wireOf d) ((src.drop (share d (ranksOf d).length i).1).take (share d (ranksOf d).length i).2)

def opCode (d : CollDesc) : Nat :=
  match d.op with | .allGather => 1 | .reduceScatter => 2 | .allReduce => 3 | .allToAll => 4 | .transfer => 5

/-- Header of the chunk of `n` lines from line `first` to member `r` in step 0 of a collective (R323, R325). -/
def hdrTo (s : State) (coll : Nat) (d : CollDesc) (r first n : Nat) : ChunkHdr :=
  { op := opCode d, src := s.grp.rank.toNat, dst := r, stroke := s.strokeNum % 2 ^ 32, coll := coll, step := 0, relayed := false, resend := false,
    dhash := dhash d, lines := n, first := first }

/-- Lines for member `r` are on their way in chunks of at most 4,096: waiting to be routed in fast mode, on their fixed links in ordered mode. -/
def onTheWay (s t : State) (coll : Nat) (d : CollDesc) (r : Nat) (data : List Line) : Prop :=
  ∀ k, 4096 * k < data.length →
    let part := (data.drop (4096 * k)).take 4096
    (s.strk.ordered = false → chunkEntry (hdrTo s coll d r (4096 * k) part.length) part false ∈ t.coll.unrouted)
    ∧ ∀ hop, s.strk.ordered = true → s.nextHop true r k = some hop →
        chunkEntry (hdrTo s coll d r (4096 * k) part.length) part hop.2 ∈ (t.link hop.1).vc0

/-- Every chunk to every other member finds a route. -/
def allRouted (s : State) (d : CollDesc) : Prop :=
  ∀ r ∈ ranksOf d, r ≠ s.grp.rank.toNat → ∀ k, (s.nextHop s.strk.ordered r k).isSome = true

/-- A link's counters of flits and its own header fields lie in their ranges. -/
def linkInRange (x : LinkState) : Prop :=
  x.txSeq < 4096 ∧ x.rxSeq < 4096 ∧ ∀ f ∈ x.resend, f.seq < 4096 ∧ f.vc < 4 ∧ f.slots.length ≤ 8

/-- The flit that leaves on a link: whole, with a good CRC, the acknowledgement due, and the next SEQ unless it is IDLE or a replay. -/
def flitLeft (s t : State) (l : Nat) (f : List Byte) : Prop :=
  t.linkOut = s.linkOut ++ [{ link := l, bytes := f }] ∧ flitOk f = true ∧ (readFlitHdr f).ackValid = true ∧ (readFlitHdr f).ack = (s.link l).rxSeq
    ∧ (t.link l).sinceAck = 0 ∧ (s.coll.steps = [] → t.mem = s.mem)
    ∧ ((s.link l).resend = [] → (readFlitHdr f).type ≠ 0 → (readFlitHdr f).seq = (s.link l).txSeq ∧ (t.link l).txSeq = ((s.link l).txSeq + 1) % 4096
        ∧ (t.link l).replay.length = (s.link l).replay.length + 1)
    ∧ ((s.link l).resend = [] → (readFlitHdr f).type = 0 → (t.link l).txSeq = (s.link l).txSeq)
    ∧ ∀ r rest, (s.link l).resend = r :: rest → (readFlitHdr f).seq = r.seq ∧ (t.link l).resend = rest

/-- The only open step of the stroke, in a running job. -/
def onlyStep (s : State) (x : CollStep) (j : Job) : Prop :=
  s.live = true ∧ s.strk.run = some j ∧ s.coll.steps = [x] ∧ x.status = none ∧ (∃ w, x.desc.dst.space = .well w ∧ w < 2)
    ∧ x.desc.dst.at_ + (ownDest x.desc x.step (ranksOf x.desc).length (posOf (ranksOf x.desc) s.grp.rank.toNat)).1
        + (ownDest x.desc x.step (ranksOf x.desc).length (posOf (ranksOf x.desc) s.grp.rank.toNat)).2 ≤ wellLines

/-- A step has ended with a status: recorded with its context and flag, unfinished destination lines poisoned, finished ones as they were, and COLL_ABORT sent
unless the status is ABORTED (R332). -/
def stepEnded (s t : State) (x : CollStep) (status origin rank flag : Nat) : Prop :=
  t.coll.stat = BitVec.ofNat 8 status ∧ t.coll.origin = BitVec.ofNat 8 origin ∧ t.coll.ctxRank = BitVec.ofNat 7 rank ∧ t.coll.ctxColl = BitVec.ofNat 16 x.coll
    ∧ t.coll.evt = s.coll.evt.raise flag ∧ t.coll.strk = w32 s.strokeNum
    ∧ (let od := ownDest x.desc x.step (ranksOf x.desc).length (posOf (ranksOf x.desc) s.grp.rank.toNat)
       hasDest x.desc s.grp.rank.toNat = true → ∀ k, od.1 ≤ k → k < od.1 + od.2 →
        lineAt t (placeStep x.desc.dst k) = if s.destDone x k then lineAt s (placeStep x.desc.dst k) else poisonedLine)
    ∧ (status ≠ 7 → ∀ r l rest, r ∈ ranksOf x.desc → r ≠ s.grp.rank.toNat → s.routePair r = l :: rest →
        told t l r 0x23 [s.strokeNum, x.coll, x.step, status, s.grp.rank.toNat])

end Sys2Proof.Claims

/-- R319 to R323, R325: a collective's command sends every other member its part, in chunks of at most 4,096 lines under the descriptor's DHASH, and an
ALL_GATHER or ALL_TO_ALL copies the member's own part to its place at DST; where source lines lie with another module (R246) the command waits
until they have come. -/
def Obligations.CollectivesSendEachPart : Prop :=
  ∀ (s : State) (coll : Nat) (d : CollDesc) (cmd : Instr), s.live = true → stepWaits s coll d → allRouted s d → s.grp.rank.toNat ∈ ranksOf d →
    s.isParked (collKey coll) = false →
    (cmd = .allGather coll d ∧ d.op = .allGather) ∨ (cmd = .reduceScatter coll d ∧ d.op = .reduceScatter) ∨ (cmd = .allReduce coll d ∧ d.op = .allReduce)
      ∨ (cmd = .allToAll coll d ∧ d.op = .allToAll) ∨ (cmd = .transfer coll d ∧ d.op = .transfer) →
    let g := (ranksOf d).length
    let own := s.grp.rank.toNat
    let src := (s.sourceLines d.src 0 (sourceCount d g)).2
    ∃ t : State, exec cmd s = .next t
      ∧ ((∃ p ∈ s.stepSources d, s.isRemote p = true) → (collKey coll, cmd) ∈ t.loan.parked ∧ t.coll = s.coll ∧ t.mem = s.mem)
      ∧ ((∀ p ∈ s.stepSources d, s.isRemote p = false) →
      (∃ y ∈ t.coll.steps, y.coll = coll ∧ y.step = 0 ∧ y.issued = true)
      ∧ (d.op ≠ .transfer ∨ d.sender = own → ∀ r ∈ ranksOf d, r ≠ own → onTheWay s t coll d r (sendsTo d src (posOf (ranksOf d) r)))
      ∧ ((d.op = .allGather ∨ d.op = .allToAll) → (∀ y ∈ s.coll.steps, y.desc.op ≠ .allReduce) → (∃ w, d.dst.space = .well w ∧ w < 2)
          → d.dst.at_ + g * d.lines ≤ wellLines → ∀ i, i < d.lines →
          lineAt t (placeStep d.dst (posOf (ranksOf d) own * d.lines + i))
            = src.getD (if d.op = .allToAll then posOf (ranksOf d) own * d.lines + i else i) []))

/-- R332, R333, R336, with R329 and R331: PEER_LOST, TRIP and COLL_ABORT end the open step with their status; the job fails at the end of the stroke with
COLL_FAIL, or with COLL_MISMATCH when the abort carries MISMATCH; CHUNK_NAK resends the chunk once with RESEND set. -/
def Obligations.FailedStepsPoisonAndReport : Prop :=
  (∀ (s : State) (x : CollStep) (j : Job) (rank : Nat), onlyStep s x j → x.desc.members.getLsbD rank = true → rank < 128 →
    (s.others.contains rank = true → s.routed rank = false →
      ∃ (t : State) (k : Job), exec (.peerLost rank) s = .next t ∧ stepEnded s t x 3 0 rank 2 ∧ t.strk.run = some k ∧ k.noCommit = true
        ∧ k.failure = some (j.failure.getD (0x18, 3)))
    ∧ (∀ (u : State) (n : Nat), s.takeRecord 0x22 rank [n] = some u → s.partner ≠ some rank →
      ∃ (t : State) (k : Job), exec (.trip rank n) s = .next t ∧ stepEnded s t x 4 0 rank 2 ∧ t.strk.run = some k ∧ k.noCommit = true
        ∧ k.failure = some (j.failure.getD (0x18, 4))))
  ∧ (∀ (s u : State) (x : CollStep) (j : Job) (sender status origin : Nat), onlyStep s x j → s.takeRecord 0x23 sender [s.strokeNum, x.coll, x.step, status, origin] = some u →
      ∃ (t : State) (k : Job), exec (.collAbort sender s.strokeNum x.coll x.step status origin) s = .next t ∧ stepEnded s t x 7 status origin 5
        ∧ t.strk.run = some k ∧ k.noCommit = true
        ∧ (status = 1 → k.collAbort = some (j.collAbort.getD (0x12, x.coll, origin)) ∧ k.failure = j.failure)
        ∧ (status ≠ 1 → k.collAbort = j.collAbort ∧ k.failure = some (j.failure.getD (0x18, 7))))
  ∧ (∀ (s u : State) (x : CollStep) (sender first : Nat), s.takeRecord 0x24 sender [s.strokeNum % 2 ^ 32, x.coll, x.step, first] = some u → s.strk.ordered = false
      → s.nakStep sender (s.strokeNum % 2 ^ 32) x.coll x.step first = some x → (s.nextHop false sender 0).isSome = true
      → (∀ p ∈ placesFrom (s.resendSources x).1 (s.resendSources x).2, s.isRemote p = false) →
      ∃ (t : State) (e : Slots) (h : ChunkHdr), exec (.chunkNak sender (s.strokeNum % 2 ^ 32) x.coll x.step first) s = .next t
        ∧ t.coll.resends = satAdd s.coll.resends 1 ∧ e ∈ t.coll.unrouted ∧ e.chunk = some h ∧ h.resend = true ∧ h.dst = sender ∧ h.first = first
        ∧ h.coll = x.coll ∧ h.step = x.step)

/-- R305 to R309, R311: every flit that leaves is whole, carries a good CRC and the acknowledgement due; a flit whose CRC fails, or whose SEQ is not the one
expected, is discarded whole and answered with one NAK; a good one delivers its records and credits. -/
def Obligations.FlitsCarryWhatTheyMust : Prop :=
  (∀ (s : State) (l : Nat) (cmd : Instr), s.live = true → l < 96 → linkRuns (s.link l).st = true → linkInRange (s.link l) →
    cmd = .flitSend l ∨ (cmd = .ackTimer l ∧ (s.link l).sinceAck ≠ 0) → ∃ (t : State) (f : List Byte), exec cmd s = .next t ∧ flitLeft s t l f)
  ∧ (∀ (s : State) (l : Nat) (f : List Byte) (fec : FecCounts), s.live = true → l < 96 → linkRuns (s.link l).st = true → fec.uncorrectable = 0
      → (s.link l).uncorrMs ≤ 16 →
    (flitOk f = false ∨ ((readFlitHdr f).type ≠ 0 ∧ (readFlitHdr f).seq ≠ (s.link l).rxSeq) →
      ∃ t : State, exec (.flitReceive l f fec) s = .next t ∧ t = { s with links := t.links } ∧ (t.link l).rxSeq = (s.link l).rxSeq
        ∧ (t.link l).credit = (s.link l).credit ∧ (t.link l).replay = (s.link l).replay
        ∧ (t.link l).nakSent = true ∧ ((s.link l).nakSent = false ∨ flitOk f = false → (t.link l).nakDue = true)
        ∧ (t.link l).crcerr = (if flitOk f then (s.link l).crcerr else satAdd (s.link l).crcerr 1)
        ∧ (t.link l).fecCw = satAdd (s.link l).fecCw fec.words)
    ∧ (∀ (rs : List Line), s.coll.steps = [] → s.coll.doubles = [] → fec.pool = [] → (∀ r ∈ rs, s.secondCopy l r = false) → flitOk f = true → (readFlitHdr f).type = 2 → (readFlitHdr f).vc = 3
        → (readFlitHdr f).seq = (s.link l).rxSeq → (readFlitHdr f).nak = false → flitSlots f (readFlitHdr f).valid = rs
        → (∀ r ∈ rs, byteAt r 2 = s.grp.rank.toNat) →
      ∃ t : State, exec (.flitReceive l f fec) s = .next t ∧ t.mem = s.mem
        ∧ t.inbox = s.inbox ++ rs.map (fun r => { link := l, kind := byteAt r 0, sender := byteAt r 1, addressee := byteAt r 2, body := r.drop 4 })
        ∧ (t.link l).rxSeq = ((s.link l).rxSeq + 1) % 4096 ∧ (t.link l).nakSent = false
        ∧ (t.link l).credit = (s.link l).credit.set (readFlitHdr f).crVc ((s.link l).credit.getD (readFlitHdr f).crVc 0 + (readFlitHdr f).credit)))

/-- R312, R313, R315, R335: a trained link starts from its guaranteed credits and sends IDENT; IDENT that agrees with the link map makes it UP, any other
MISWIRED; silence or a lost lane makes an UP link DOWN with DOWN set, unless a release waits only for its links to be empty and so disables them (R356 step 5). -/
def Obligations.LinksComeUpAndGoDown : Prop :=
  ∀ (s : State) (l : Nat), s.live = true → l < 96 →
    (∀ e : LinkEntry, s.linkEntry l = some e → (s.link l).st = .training ∨ (s.link l).st = .down →
      ∃ t : State, exec (.linkTrained l) s = .next t ∧ t = { s with links := t.links } ∧ (t.link l).st = .ident ∧ (t.link l).laneLock = 0xF
        ∧ (t.link l).credit = [2048, 512, 1016, 64] ∧ (t.link l).txSeq = 0 ∧ (t.link l).rxSeq = 0 ∧ (t.link l).replay = []
        ∧ (t.link l).vc3 = [{ msg := true, slots := [s.recordSlot e.peerRank 0x10 [s.groupTag, s.grp.rank.toNat, s.grp.rackId.toNat,
            s.grp.slotId.toNat, l, s.grp.lmapTag.toNat]], chunk := none, sent := 0 }])
    ∧ (∀ (tag ltag : Word) (rank rack slot peer : Nat), (s.link l).st = .ident
      → (s.inbox.find? fun r => r.link = l && r.kind = 0x10 && r.sender = rank
          && r.body = recordBody 0x10 [tag.toNat, rank, rack, slot, peer, ltag.toNat]).isSome = true →
      (s.identOk l tag rank rack slot peer ltag = true → ∃ t : State, exec (.ident l tag rank rack slot peer ltag) s = .next t ∧ (t.link l).st = .up
          ∧ (t.link l).peerRank = BitVec.ofNat 7 rank ∧ (t.link l).peerValid = true ∧ (t.link l).peerLink = BitVec.ofNat 7 peer ∧ t.mem = s.mem)
      ∧ (s.identOk l tag rank rack slot peer ltag = false → ∃ t : State, exec (.ident l tag rank rack slot peer ltag) s = .next t
          ∧ (t.link l).st = .miswired ∧ (t.link l).err = (s.link l).err.raise 1 ∧ t.mem = s.mem))
    ∧ ((s.link l).st = .up → s.mir.releaseStep ≠ 4 → ∀ (cmd : Instr) (lane : Nat), cmd = .linkRxTimeout l ∨ (cmd = .laneLockLoss l lane ∧ lane < 4) →
      ∃ t : State, exec cmd s = .next t ∧ (t.link l).st = .down ∧ (t.link l).err = (s.link l).err.raise 0 ∧ (t.link l).vc0 = [] ∧ (t.link l).vc1 = []
        ∧ (t.link l).vc2 = [] ∧ (t.link l).vc3 = [] ∧ l ∈ t.coll.lost
        ∧ (cmd = .laneLockLoss l lane → (t.link l).laneLock.getLsbD lane = false))

/-! ### Mirror partners -/

namespace Sys2Proof.Claims

/-- The partner is `p` and the first UP link of the bundle is `l`. -/
def bundleTo (s : State) (p l : Nat) : Prop := s.partner = some p ∧ ∃ rest, s.upBundle = l :: rest

/-- The course's fields with nothing received of a push or a restore. -/
def nothingReceived (m : Mir) : Mir :=
  { m with recvChunks := 0, recvLines := 0, recvTail := [], recvBad := false, recvNak := [], recvGot := [], recvEpoch := none, recvClosed := none }

end Sys2Proof.Claims

/-- R339, R345 to R350, R407: M_HELLO forms the course in OPERATIONAL only, or loses it on a new boot count; after the last chunk M_PREPARE goes out; a partner whose counts
agree keeps the pending slot and accepts, one whose counts differ answers FAIL, one whose course is lost keeps its image as it is; M_ACCEPT brings M_READY to every member; M_COMMIT commits the slot. -/
def Obligations.MirrorPointsTakeTwoPhases : Prop :=
  ∀ (s u : State) (p l : Nat), s.live = true → bundleTo s p l →
    (∀ (boots : Word) (sl il : Nat), s.takeRecord 0x40 p [boots.toNat, sl, il] = some u → s.boot.life ≠ .operational →
      exec (.mHello boots sl il) s = .next u ∧ u.mir = s.mir)
    ∧ (∀ (boots : Word) (sl il : Nat), s.takeRecord 0x40 p [boots.toNat, sl, il] = some u → s.boot.life = .operational → s.mir.gone = false →
      (s.mir.peerBoots = none ∨ s.mir.peerBoots = some boots → s.mir.st = .none ∨ s.mir.st = .forming →
        ∃ t : State, exec (.mHello boots sl il) s = .next t ∧ t.mir = { nothingReceived s.mir with st := .mirroring, formed := true, peerBoots := some boots, peerLines := sl, peerImage := il })
      ∧ (∀ b, s.mir.peerBoots = some b → b ≠ boots → s.mir.st = .mirroring → s.strk.run = none →
        ∃ t : State, exec (.mHello boots sl il) s = .next t ∧ t.mir.st = .lost ∧ t.mir.gone = true ∧ t.mir.formed = false ∧ t.mir.lostCause = 4
          ∧ t.mir.evt = s.mir.evt.raise 0))
    ∧ (∀ x : Push, s.mir.push = some x → x.prepared = false → s.mirrorSending = false →
      ∃ t : State, exec .mirrorPushDone s = .next t ∧ t.mir = { s.mir with push := some { x with prepared := true } }
        ∧ told t l p 0x41 [x.epoch, x.firsts.length, x.lines])
    ∧ (∀ epoch chunks lines, s.takeRecord 0x41 p [epoch, chunks, lines] = some u → s.mir.recvNak = [] → s.receiving = false →
      exec (.mPrepare epoch chunks lines) s = .next u ∧ u.mir = s.mir)
    ∧ (∀ epoch chunks lines, s.takeRecord 0x41 p [epoch, chunks, lines] = some u → s.mir.recvNak = [] → s.receiving = true →
      let area := match s.mirrorProg with | some m => m.2.image.2 * pageLines | none => 0
      let ok := s.mir.recvBad = false ∧ s.mir.recvEpoch = some (epoch % 65536) ∧ s.mir.recvChunks = chunks ∧ s.mir.recvLines = lines ∧ s.mir.peerLines ≤ area
      (ok → ∃ t : State, exec (.mPrepare epoch chunks lines) s = .next t 
        ∧ t.mir = { nothingReceived s.mir with recvClosed := some (epoch % 65536), pend := some { epoch := epoch, tail := s.mir.recvTail } } ∧ told t l p 0x42 [epoch, 0])
      ∧ (¬ ok → ∃ t : State, exec (.mPrepare epoch chunks lines) s = .next t ∧ t.mir.pend = s.mir.pend ∧ t.mir.evt = s.mir.evt.raise 1
        ∧ told t l p 0x42 [epoch, 1]))
    ∧ (∀ (x : Push) (fail : Bool), s.takeRecord 0x42 p [x.epoch, if fail then 1 else 0] = some u → s.mir.push = some x →
      ∃ t : State, exec (.mAccept x.epoch fail) s = .next t ∧ t.mir.push = none ∧ toldAll s t 0x43 [x.epoch, if fail then 1 else 0])
    ∧ (∀ (peer epoch : Nat) (fail : Bool) (j : Job), s.takeRecord 0x43 peer [epoch, if fail then 1 else 0] = some u → s.strk.run = some j → j.stopped = false →
      ∃ (t : State) (k : Job), exec (.mReady peer epoch fail) s = .next t ∧ t.strk.run = some k
        ∧ (fail = false → (peer, epoch, false) ∈ t.mir.ready ∧ k = j)
        ∧ (fail = true → k.noCommit = true ∧ k.collAbort = some (j.collAbort.getD (0x13, epoch, if peer = s.grp.rank.toNat then 0x7F else peer))))
    ∧ (∀ x : ImageSlot, s.takeRecord 0x44 p [x.epoch] = some u → s.mir.pend = some x →
      ∃ t : State, exec (.mCommit x.epoch) s = .next t
        ∧ t.mir = { s.mir with image := some x, pend := none, imageEpoch := BitVec.ofNat 16 x.epoch })

/-- R339, R350, R352, R356: a lost bundle loses the course, HOLDING in a job; LEAVING sets the last stroke, and holds the partner's image; a restore returns
the epoch's image or says that it is not held, and installs the table snapshot; a failed one leaves the course lost, at the partner too. -/
def Obligations.CoursesAreLostAndRestored : Prop :=
  ∀ (s : State) (p : Nat), s.live = true → s.partner = some p →
    (s.upBundle = [] → s.bundle ≠ [] → s.mir.gone = false → s.mir.st = .mirroring → s.mir.push = none →
      ∃ t : State, exec .bundleDownTimeout s = .next t ∧ t.mir.gone = true ∧ t.mir.lostCause = 1 ∧ t.mir.evt = s.mir.evt.raise 0
        ∧ t.mir.st = (if s.strk.run.isSome then .holding else .lost)
        ∧ (∀ j, s.strk.run = some j → s.others.contains p = false →
            t.strk.run = some { j with courseLost := true, unmirrored := true } ∧ t.host.evt = s.host.evt.raise 1))
    ∧ (∀ (u : State) (peer m : Nat) (j : Job), s.takeRecord 0x45 peer [m] = some u → s.strk.run = some j → s.mir.leaving = none →
      (p ≠ peer → ∃ t : State, exec (.leaving peer m) s = .next t ∧ t.mir = { s.mir with leaving := some m, leaver := peer })
      ∧ (p = peer → s.mir.gone = false → s.mir.st = .mirroring → s.mir.push = none → ∃ t : State, exec (.leaving peer m) s = .next t ∧ t.mir.leaving = some m
          ∧ t.mir.st = .holding ∧ t.mir.lostCause = 3 ∧ t.mir.evt = s.mir.evt.raise 0))
    ∧ (∀ (u : State) (l epoch : Nat) (rest : List Nat), s.takeRecord 0x46 p [epoch] = some u → s.upBundle = l :: rest →
      let held := (∃ x, s.mir.image = some x ∧ x.epoch = epoch) ∨ ∃ x, s.mir.pend = some x ∧ x.epoch = epoch
      (¬ held → ∃ t : State, exec (.mRestoreReq epoch) s = .next t ∧ t.mir = s.mir ∧ told t l p 0x47 [epoch, 1])
      ∧ (held → ∃ t : State, exec (.mRestoreReq epoch) s = .next t ∧ t.mir.serving = some { epoch := epoch, resent := [], sent := false } ∧ t.mem = s.mem))
    ∧ (∀ (v : Serving) (l : Nat) (rest : List Nat), s.mir.serving = some v → v.sent = false → s.mirrorSending = false → s.upBundle = l :: rest →
      ∃ t : State, exec .imageReturnDone s = .next t ∧ t.mir.serving = some { v with sent := true } ∧ t.mir.gone = false ∧ t.mir.formed = true ∧ t.mir.st = .mirroring
        ∧ (∀ x, s.mir.pend = some x → x.epoch = v.epoch → t.mir.image = some x ∧ t.mir.pend = none) ∧ told t l p 0x47 [v.epoch, 0])
    ∧ (∀ (u : State) (e : Nat), s.takeRecord 0x47 p [e, 2] = some u → s.mir.restoreEpoch = none →
      ∃ t : State, exec (.mRestoreDone e 2) s = .next t ∧ t.mir = { s.mir with serving := none, gone := true, formed := false, st := if s.mir.st = .mirroring then .holding else s.mir.st })
    ∧ (∀ (u : State) (e status : Nat), s.takeRecord 0x47 p [e, status] = some u → s.mir.restoreEpoch = some e → s.mir.recvNak = [] →
      (status = 0 → ∃ t : State, exec (.mRestoreDone e status) s = .next t ∧ t.mir.st = .mirroring ∧ t.mir.gone = false ∧ t.mir.formed = true ∧ t.mir.restored = some e
        ∧ t.mir.ownEpoch = BitVec.ofNat 16 e ∧ t.mir.evt = s.mir.evt.raise 3
        ∧ t.kvt.table = tailTable s.mir.recvTail)
      ∧ (status ≠ 0 → ∃ t : State, exec (.mRestoreDone e status) s = .next t ∧ t.mir.restoreEpoch = none ∧ t.mir.st = s.mir.prior
        ∧ t.mir.evt = s.mir.evt ∧ t.mir.gone = s.mir.gone ∧ t.kvt = s.kvt))

/-! ### Video codec unit -/

namespace Sys2Proof.Claims

/-- A gang's lead pipe codes frame `f` of context `c`. -/
def coding (s : State) (pipe lead : Nat) (f : VcuFrame) (c : Ctx) : Prop :=
  s.live = true ∧ pipe < 12 ∧ (s.pipe pipe).lead.toNat = lead ∧ (s.pipe lead).frame = some f ∧ s.ctx lead f.ctx = some c

/-- The places of superblocks' lines in a frame buffer of a context. -/
def sbPlaces (c : Ctx) (buf : Nat) (sbs : List Nat) : List Place :=
  (sbs.flatMap (sbLines c.decl)).map fun e => { space := .line, at_ := picAddr c buf e.1 }

/-- Memory changed in superblocks' lines of a frame buffer alone. -/
def onlySbs (s t : State) (c : Ctx) (buf : Nat) (sbs : List Nat) : Prop :=
  ∀ x, (∀ p ∈ sbPlaces c buf sbs, x < addrOf p ∨ addrOf p + 72 ≤ x) → memGet t.mem x = memGet s.mem x

/-- Superblocks' lines of a frame buffer can be written, and no two of them are one. -/
def sbsWritable (s : State) (c : Ctx) (buf : Nat) (sbs : List Nat) : Prop :=
  (∀ p ∈ sbPlaces c buf sbs, writable s p) ∧ ((sbPlaces c buf sbs).map addrOf).Nodup

/-- The lines of superblocks in a frame buffer hold the given samples. -/
def sbsHold (t : State) (c : Ctx) (buf : Nat) (sbs : List Nat) (lines : List (List Nat)) : Prop :=
  (sbPlaces c buf sbs).map (lineAt t) = lines.map picLine

/-- Lines of 64 bytes that a unit of `n` bytes takes. -/
def unitSpan (n : Nat) : Nat := 64 * ((n + 63) / 64)

end Sys2Proof.Claims

/-- R373, R374, R379, R380: a pipe takes the runnable frame with the earliest due stroke under CBR's budget; every superblock adds its bits, the guard fires
once at the budget before the last superblock, and the overshoot goes to VCU_OVERBITS, VCU_EVT and the carry. With R362, R365, R371, R378: a superblock's
reconstruction goes to its frame's buffer, with the lines that the filters change across a band edge (log entry 43), and nowhere else; one coded with an excluded tool, another
quantiser or a vector that leaves the search window is no superblock of this encoder. R366, R384 to R387: a decoded superblock holds the samples of its bytes (a free function,
log entry 115); an error conceals the rest of its unit, or the whole frame, and raises VCU_EVT; an unsupported sequence is not decoded. -/
def Obligations.FramesKeepTheirBudget : Prop :=
  (∀ (s : State) (pipe due : Nat) (c : Ctx), s.live = true → pipe < 12 → s.strk.run.isSome = true → (s.pipe pipe).frame = none
      → (s.pipe pipe).lead.toNat = pipe → s.pickCtx pipe = some (c, due) →
      (∀ k c', k < 32 → s.ctx pipe k = some c' → ∀ d, runnable c' = some d → due ≤ d)
      ∧ ∃ (t : State) (f : VcuFrame), exec (.vcuFrameStart pipe) s = .next t ∧ t.mem = s.mem ∧ (t.pipe pipe).frame = some f
        ∧ f.ctx = c.decl.ctx ∧ f.frame = c.next ∧ f.sb = 0 ∧ f.bits = 0 ∧ (t.pipe pipe).ctx = BitVec.ofNat 5 c.decl.ctx
        ∧ (c.decl.decode = false → c.decl.rateMode = 0 → f.qp = c.decl.qpFix)
        ∧ (c.decl.decode = false → c.decl.rateMode ≠ 0 → c.decl.qpMin ≤ c.decl.qpMax → c.decl.qpMin ≤ f.qp ∧ f.qp ≤ c.decl.qpMax)
        ∧ (c.decl.decode = false → c.decl.rateMode = 1 → c.decl.fpsNum ≠ 0 →
            let n := c.decl.bitrate * c.decl.fpsDen / c.decl.fpsNum
            let nominal := if f.key then c.decl.keyMult * n else n
            f.nominal = nominal ∧ (f.budget : Int) = max ((nominal : Int) - c.carry) ((n / 4 : Nat) : Int)))
  ∧ (∀ (s : State) (pipe lead sb : Nat) (x : CodedSb) (f : VcuFrame) (c : Ctx) (o : DecodeOutcome), coding s pipe lead f c → c.decl.decode = false
      → f.sb < sbCount c.decl → s.sbTurn c.decl lead pipe sb = true →
      let across := s.doneAcross c.decl lead pipe sb
      (codedOk c.decl f across sb x = false → exec (.superblockDone pipe sb x o) s = .next s)
      ∧ (codedOk c.decl f across sb x = true →
      ∃ (t : State) (g : VcuFrame), exec (.superblockDone pipe sb x o) s = .next t ∧ onlySbs s t c f.buf (sb :: across) ∧ (t.pipe lead).frame = some g
        ∧ (sbsWritable s c f.buf (sb :: across) → sbsHold t c f.buf (sb :: across) (x.recon ++ x.across.flatten))
        ∧ (t.pipe pipe).bandSb = (s.pipe pipe).bandSb + 1
        ∧ g.bits = f.bits + x.bits ∧ g.sb = f.sb + 1 ∧ g.budget = f.budget ∧ g.qp = f.qp
        ∧ g.guardSb = (if f.guardSb = none ∧ c.decl.rateMode ≠ 0 ∧ f.budget ≤ f.bits + x.bits ∧ f.sb + 1 < sbCount c.decl ∧ sb + 1 < sbCount c.decl then some (sb + 1)
            else f.guardSb)
        ∧ (f.sb + 1 = sbCount c.decl → c.decl.rateMode ≠ 0 →
            (∃ c', t.ctx lead f.ctx = some c' ∧ c'.carry = max (c.carry - ((f.nominal : Int) - f.budget)) 0 + ((f.bits + x.bits - f.budget : Nat) : Int)
              ∧ (0 < c.decl.refs → ∃ y ∈ c'.pics.head?, y.buf = f.buf))
            ∧ (t.pipe lead).overbits = satAdd (s.pipe lead).overbits (f.bits + x.bits - f.budget)
            ∧ (f.budget < f.bits + x.bits → (t.pipe lead).evt.has 3 = true))))
  ∧ (∀ (s : State) (pipe lead sb : Nat) (x : CodedSb) (f : VcuFrame) (c : Ctx) (o : DecodeOutcome), coding s pipe lead f c → c.decl.decode = true
      → seqSupported c.decl o.seq = true → s.sbTurn c.decl lead pipe sb = true → o.length ≤ supplied c → errorOk c.decl f sb o.error = true
      → o.buf < c.decl.bufs → (f.sb ≠ 0 → f.buf < c.decl.bufs) → f.sb + 1 < sbCount c.decl →
      let before := if f.sb = 0 then [] else f.lost
      let fresh := o.error ≠ .none ∧ inRuns before sb = false
      let lost := before ++ if fresh then errorRuns c.decl o.error else []
      let across := if inRuns lost sb then [] else (s.doneAcross c.decl lead pipe sb).filter fun k => !inRuns lost k
      ∃ (t : State) (g : VcuFrame) (c' : Ctx), exec (.superblockDone pipe sb x o) s = .next t ∧ (t.pipe lead).frame = some g ∧ g.sb = f.sb + 1
        ∧ (t.pipe pipe).bandSb = (s.pipe pipe).bandSb + 1
        ∧ g.buf = (if f.sb = 0 then o.buf else f.buf) ∧ g.lost = lost ∧ g.concealed = f.concealed + (if inRuns lost sb then 1 else 0)
        ∧ (fresh → (t.pipe lead).evt.has 1 = true)
        ∧ t.ctx lead f.ctx = some c' ∧ c' = { c with ahead := c'.ahead } ∧ o.length ≤ c'.ahead.length ∧ onlySbs s t c g.buf (sb :: across)
        ∧ (inRuns lost sb = false → sbsWritable s c g.buf (sb :: across) →
            sbsHold t c g.buf (sb :: across) (decodedSb c' o 0 sb ++ across.flatMap (decodedSb c' o 1)))
        ∧ (inRuns lost sb = true → c.pics = [] → sbsWritable s c g.buf [sb] →
            sbsHold t c g.buf [sb] ((sbLines c.decl sb).map fun e => List.replicate e.2 (midGrey c.decl.bits))))
  ∧ (∀ (s : State) (pipe lead sb : Nat) (x : CodedSb) (f : VcuFrame) (c : Ctx) (o : DecodeOutcome), coding s pipe lead f c → c.decl.decode = true
      → seqSupported c.decl o.seq = false →
      ∃ (t : State) (g : VcuFrame), exec (.superblockDone pipe sb x o) s = .next t ∧ t.mem = s.mem ∧ (t.pipe lead).frame = some g ∧ g.sb = f.sb
        ∧ g.flags / 2 ^ 5 % 2 = 1 ∧ (f.flags / 2 ^ 5 % 2 = 0 → (t.pipe lead).evt.has 2 = true))
  ∧ (∀ (refs : Nat) (b : InterBlock), interOk refs b = true →
      b.ref < refs ∧ -192 ≤ (b.x : Int) + b.mvx / 4 - 3 ∧ (b.x : Int) + b.w - 1 + b.mvx / 4 + 4 ≤ 64 + 192 - 1
        ∧ -96 ≤ (b.y : Int) + b.mvy / 4 - 3 ∧ (b.y : Int) + b.h - 1 + b.mvy / 4 + 4 ≤ 64 + 96 - 1)

/-- R370, R381, R382, R427 to R429: a unit that fits leaves at the next multiple of 64 bytes with its descriptors, one that does not is dropped and counted
while OFFSET goes on; a decoded frame's copy consumes its bytes and frees the pipe; HOSTPOS of a decode context moves only inside the input area. -/
def Obligations.UnitsAreEmittedOrDropped : Prop :=
  (∀ (s : State) (pipe lead : Nat) (f : VcuFrame) (c : Ctx) (parts : List StreamUnit), coding s pipe lead f c → c.decl.decode = false
      → f.unit < (unitRowsOf c.decl).length → s.unitDone c.decl lead f.unit = true
      → unitPartsOk c.decl.hevc f.key (decide (f.unit = 0)) parts = true →
      let bytes := unitBytes c.decl.hevc (decide (f.unit = 0)) parts
      let last := f.unit + 1 = (unitRowsOf c.decl).length
      let n : Nat := if last then 2 else 1
      let fits := f.dropping = false ∧ spanFits c c.offset bytes.length = true ∧ (n : Int) ≤ descRoom c
      ∃ (t : State) (c' : Ctx), exec (.unitEmit pipe parts) s = .next t ∧ t.ctx lead f.ctx = some c' ∧ c'.offset = c.offset + unitSpan bytes.length
        ∧ (fits → c'.vcupos = w32 (c.offset + unitSpan bytes.length) ∧ c'.descwr = c.descwr + BitVec.ofNat 32 n ∧ c'.drops = c.drops
            ∧ (t.pipe lead).units = satAdd (s.pipe lead).units 1 ∧ (t.pipe lead).bytes = satAdd (s.pipe lead).bytes bytes.length)
        ∧ (¬ fits → t.mem = s.mem ∧ c'.vcupos = c.vcupos ∧ c'.descwr = c.descwr ∧ c'.drops = satAdd c.drops n
            ∧ (t.pipe lead).units = (s.pipe lead).units)
        ∧ (last → (t.pipe lead).frame = none ∧ (t.pipe lead).frames = satAdd (s.pipe lead).frames 1 ∧ c'.next = c.next + 1 ∧ c'.requests = c.requests.drop 1)
        ∧ (¬ last → ∃ g, (t.pipe lead).frame = some g ∧ g.unit = f.unit + 1 ∧ (¬ fits → g.dropping = true)))
  ∧ (∀ (s : State) (pipe lead : Nat) (f : VcuFrame) (c : Ctx) (x : DecodedFrame) (o : DecodeOutcome), coding s pipe lead f c → c.decl.decode = true
      → slotFree c s.strokeNum = true → x.consumed ≤ supplied c → x.inPoint0 = true → x.frame = c.next
      → seqSupported c.decl o.seq = false ∨ (f.sb = 0 ∧ c.pics.any (fun y => y.buf = x.buf) = true) →
      ∃ (t : State) (c' : Ctx), exec (.decodeCopyDone pipe f.ctx x o) s = .next t ∧ t.ctx lead f.ctx = some c' ∧ c'.vcupos = c.vcupos + w32 (x.consumed - c.back)
        ∧ c'.offset = c.offset + (x.consumed - c.back) ∧ c'.back = c.back - x.consumed ∧ c'.next = c.next + 1 ∧ (t.pipe lead).frame = none ∧ (t.pipe lead).frames = satAdd (s.pipe lead).frames 1
        ∧ (1 ≤ descRoom c → c'.descwr = c.descwr + 1 ∧ c'.drops = c.drops) ∧ (descRoom c < 1 → c'.descwr = c.descwr ∧ c'.drops = satAdd c.drops 1))
  ∧ (∀ (s : State) (pipe k : Nat) (c : Ctx) (v : Word), s.openCtx pipe k = some c →
      exec (.vcuCtxDescrdWrite pipe k v) s = .next (s.setCtx pipe k (some { c with descrd := v }))
      ∧ (c.decl.decode = false → exec (.vcuCtxHostposWrite pipe k v) s = .next (s.setCtx pipe k (some { c with hostpos := v })))
      ∧ (c.decl.decode = true → 0 ≤ (v - c.hostpos).toInt → (v - (c.vcupos + w32 (c.decl.outLines * 64))).toInt ≤ 0 →
          exec (.vcuCtxHostposWrite pipe k v) s = .next (s.setCtx pipe k (some { c with hostpos := v })))
      ∧ (c.decl.decode = true → (v - c.hostpos).toInt < 0 ∨ 0 < (v - (c.vcupos + w32 (c.decl.outLines * 64))).toInt →
          exec (.vcuCtxHostposWrite pipe k v) s = .next s))

/-! ### The scribe's commands: boot, updates and the lifecycle -/

namespace Sys2Proof.Claims

/-- The command at the front of the scribe's queue has the opcode of a row, and the scribe does not refuse it. -/
def runs (s : State) (op : Nat) (c : CmdReq) (rest : List CmdReq) : Prop :=
  s.power.scribe = true ∧ s.scr.queue = c :: rest ∧ c.op = op ∧ s.cmdRefusal c = none

/-- The result of a command has reached the channel that it came on; SMBus keeps that of the latest command alone. -/
def replied (s t : State) (c : CmdReq) (status : Nat) (res : List Word) (data : List Byte) : Prop :=
  let d : CmdDone := { req := c, status := status, res := res, data := data }
  match c.ch with
  | .mailbox => t.scr.finish = some d
  | .uart => t.scr.uart = s.scr.uart ++ monitorText d
  | .smbus => t.scr.smb = if c.tag = s.scr.smb.tag then { s.scr.smb with status := BitVec.ofNat 8 status, result := d.bytes, pos := 31 } else s.scr.smb

/-- A command has left the queue, has been answered, and has changed nothing else. -/
def onlyReply (s t : State) (c : CmdReq) (rest : List CmdReq) (status : Nat) (res : List Word) (data : List Byte) : Prop :=
  replied s t c status res data
    ∧ t = { s with scr := { s.scr with queue := rest, finish := t.scr.finish, uart := t.scr.uart, smb := t.scr.smb } }

/-- A command that begins the boot sequence: power-good, or an accepted RESET while main power is on. -/
def startsBoot (s : State) (env : BootEnv) (cmd : Instr) : Prop :=
  (cmd = .powerGood env ∧ s.atPowerGood = true) ∨ ∃ c rest, cmd = .reset env ∧ runs s 0x14 c rest ∧ s.power.switchClosed = true

/-- A valid record copy holds keys, or none needs to (R409). -/
def keyed (s : State) : Prop := s.fuses.prov = true → (s.recordCopies.filter s.recordValid).any (fun r => recordKeys r ≠ 0) = true

/-- Neither flash device fails, and a boot's records do not wrap SEQ. -/
def flashTakes (s : State) : Prop := s.flashFails = false ∧ s.bootRec.seq.toNat + 8 < 2 ^ 32

/-- Memory is wiped and no job or loan is left. -/
def wiped (t : State) : Prop := t.mem = [] ∧ t.kvt.table = [] ∧ t.loan.granted = [] ∧ t.loan.held = [] ∧ t.strk.run = none ∧ t.strk.queued = none

end Sys2Proof.Claims

/-- R259, R392, R395, R399, R401 to R403, R405: power-good and RESET wipe the module and boot it. Boot stops with the code of the first step that fails; the
slot of a trial with attempts left is tried first, else the active one, then the other; a module that is its own time master reports ready, any other waits
at step 11. -/
def Obligations.BootRunsItsSteps : Prop :=
  ∀ (s : State) (env : BootEnv) (cmd : Instr), startsBoot s env cmd →
    let b := s.bootRec
    ∃ t : State, exec cmd s = .next t ∧ wiped t ∧ t.power.good = true ∧ t.power.vio = true
      ∧ (s.fuses.ret = true ∨ b.state = .retired → t.boot.code = 0x40 ∧ t.boot.life = .retired ∧ t.boot.keys = 0)
      ∧ (s.fuses.ret = false → b.state ≠ .retired → t.boot.life = b.state
        ∧ (s.record = none ∨ ¬ keyed s → t.boot.code = 0x11)
        ∧ ∀ r, s.record = some r → keyed s →
          let first := match b.trial with | some x => if b.trialLeft ≠ 0 then x else b.active | none => b.active
          let ok := fun (slot : Bool) => s.verifySlot slot b.state r = 1
          (¬ ok false → ¬ ok true → t.boot.code = 0x10)
          ∧ (ok false ∨ ok true → (env.flashFail = [] → b.seq.toNat + 8 < 2 ^ 32 → t.boot.count = b.bootCount + 1)
            ∧ (ok first → t.boot.booted = first) ∧ (¬ ok first → t.boot.booted = !first)
            ∧ (env.stackFail ≠ [] → t.boot.code = 0x20 ∧ ∀ k, k < 12 → k ∈ env.stackFail → (t.stack k).err.has 1 = true)
            ∧ (env.stackFail = [] → env.fabricFail = true → t.boot.code = 0x21)
            ∧ (env.stackFail = [] → env.fabricFail = false → env.ioFail = true → t.boot.code = 0x22)
            ∧ (env.stackFail = [] → env.fabricFail = false → env.ioFail = false →
              (t.units.quills0 < 128 ∨ t.units.quills1 < 128 → t.boot.code = 0x23)
              ∧ (128 ≤ t.units.quills0 → 128 ≤ t.units.quills1 →
                (b.rbPending = true → env.readBackOk = false → t.boot.code = 0x30 ∧ t.boot.rbPending = true)
                ∧ (b.rbPending = false ∨ env.readBackOk = true → t.wipe.done = true
                  ∧ (b.rbPending = false ∨ (env.flashFail = [] ∧ b.seq.toNat + 8 < 2 ^ 32) → t.boot.rbPending = false)
                  ∧ (b.state = .blank ∨ t.grp.rankValid = false ∨ t.others = [] → t.boot.code = 1 ∧ t.gtc.locked = true ∧ t.gtc.master = true)
                  ∧ (b.state ≠ .blank → t.grp.rankValid = true → t.others ≠ [] → t.boot.code = 0 ∧ t.boot.phase = 11))))))

/-- R397, R398, R400, R456, R457: SCROLL_WRITE programs the inactive slot alone, or answers FLASH, SCROLL_VERIFY answers its result code, TRIAL names it in a new boot state record,
and COMMIT after a successful trial makes the running slot the active one and advances the rollback fuses when ADVANCE is set. -/
def Obligations.ScrollUpdatesGoThroughATrial : Prop :=
  ∀ (s : State) (c : CmdReq) (rest : List CmdReq),
    let idle := !s.bootRec.active
    (runs s 0x10 c rest → (s.flash idle).bad = false → c.arg 0 % 4096 = 0 → 1 ≤ c.arg 1 → c.arg 1 ≤ 65536 → c.arg 0 + c.arg 1 ≤ slotSize →
      ∃ t : State, exec .scrollWrite s = .next t ∧ replied s t c 0 [] [] ∧ t.mem = s.mem ∧ t.flash (!idle) = s.flash (!idle)
        ∧ t.flash idle = { s.flash idle with bytes := (t.flash idle).bytes } ∧ t.scrollBytes idle (c.arg 0) (c.arg 1) = s.mbxBytes 0 (c.arg 1)
        ∧ ∀ a, a < slotBase → sget erasedByte (t.flash idle).bytes a = sget erasedByte (s.flash idle).bytes a)
    ∧ (runs s 0x10 c rest → c.arg 0 % 4096 ≠ 0 ∨ c.arg 1 = 0 ∨ 65536 < c.arg 1 ∨ slotSize < c.arg 0 + c.arg 1 →
      ∃ t : State, exec .scrollWrite s = .next t ∧ onlyReply s t c rest 0x02 [] [])
    ∧ (runs s 0x10 c rest → (s.flash idle).bad = true → scrollRangeOk c = true →
      ∃ t : State, exec .scrollWrite s = .next t ∧ onlyReply s t c rest 0x06 [] [])
    ∧ (runs s 0x11 c rest →
      let r := s.verifySlot idle s.boot.life (s.record.getD [])
      ∃ t : State, exec .scrollVerify s = .next t ∧ replied s t c (if r = 1 then 0 else 0x05) [w32 r] [] ∧ t.mem = s.mem ∧ t.flash0 = s.flash0
        ∧ t.flash1 = s.flash1)
    ∧ (runs s 0x12 c rest → (c.args ≠ [] ∧ (c.arg 0 = 0 ∨ 3 < c.arg 0)) → ∃ t : State, exec .trial s = .next t ∧ onlyReply s t c rest 0x02 [] [])
    ∧ (runs s 0x12 c rest → flashTakes s → c.args = [] ∨ (1 ≤ c.arg 0 ∧ c.arg 0 ≤ 3) →
      ∃ t : State, exec .trial s = .next t ∧ replied s t c 0 [] [] ∧ t.mem = s.mem
        ∧ t.bootRec = { s.bootRec with seq := s.bootRec.seq + 1, trial := some idle, trialLeft := if c.args = [] then 2 else c.arg 0 }
        ∧ t.flash0.bytes = s.flash0.bytes ∧ t.flash1.bytes = s.flash1.bytes)
    ∧ (runs s 0x13 c rest → flashTakes s → s.boot.trial = true → s.ready = true → s.boot.noPset = false →
      let advance := byteAt (s.scrollBytes s.boot.booted 11 1) 0 % 2 = 1
      ∃ t : State, exec .commit s = .next t ∧ replied s t c 0 [w32 t.fuses.fuseVer] [] ∧ t.mem = s.mem ∧ t.boot.trial = false
        ∧ t.bootRec.active = s.boot.booted ∧ t.bootRec.trial = none ∧ t.bootRec.state = s.bootRec.state
        ∧ (advance → t.fuses = { s.fuses with fuseVer := max s.fuses.fuseVer (min 63 s.boot.secVer) }) ∧ (¬ advance → t.fuses = s.fuses))
    ∧ (runs s 0x13 c rest → s.boot.trial = false ∨ s.ready = false ∨ s.boot.noPset = true →
      ∃ t : State, exec .commit s = .next t ∧ onlyReply s t c rest 0x05 [w32 s.fuses.fuseVer] [])

/-- R406, R408, R409, R457: an accepted transition that its flash takes leaves a boot state record with the new STATE and a wiped module; PROVISION writes both record copies and blows
the PROV fuse, RETIRE blows the RET fuse, erases both slots and the keys; a record, slot or serial number that fails its check changes nothing; CLEAR_FENCES
writes a FENCE_CLEAR entry and asks for the full self-test. -/
def Obligations.LifecycleTransitionsResetTheModule : Prop :=
  ∀ (s : State) (env : BootEnv) (c : CmdReq) (rest : List CmdReq), s.fuses.ret = false →
    let r := s.mbxBytes 0 recordSize
    (runs s 0x20 c rest → flashTakes s → s.boot.code ≠ 0x11 → s.recordValid r = true → recordKeys r ≠ 0 → s.boot.recordSeq.toNat < recordSeqOf r →
      ∃ t : State, exec (.provision env) s = .next t ∧ wiped t ∧ t.bootRec.state = .provisioned ∧ t.fuses = { s.fuses with prov := true }
        ∧ t.recordCopies = [r, r])
    ∧ (runs s 0x20 c rest → flashTakes s → s.boot.code = 0x11 → s.romRecordOk r = true → s.bootRec.state ≠ .retired →
      ∃ t : State, exec (.provision env) s = .next t ∧ wiped t ∧ t.bootRec.state = s.bootRec.state ∧ t.fuses = s.fuses ∧ t.recordCopies = [r, r])
    ∧ (runs s 0x20 c rest → s.recordValid r = false → ∃ t : State, exec (.provision env) s = .next t ∧ onlyReply s t c rest 0x05 [] [])
    ∧ (∀ (x : List Byte), runs s 0x21 c rest → flashTakes s → s.record = some x → s.verifySlot false s.boot.life x = 1 ∨ s.verifySlot true s.boot.life x = 1 →
      ∃ t : State, exec (.enable env) s = .next t ∧ wiped t ∧ t.bootRec.state = .operational ∧ t.fuses = s.fuses)
    ∧ (∀ (x : List Byte), runs s 0x21 c rest → s.record = some x → s.verifySlot false s.boot.life x ≠ 1 → s.verifySlot true s.boot.life x ≠ 1 →
      ∃ t : State, exec (.enable env) s = .next t ∧ onlyReply s t c rest 0x05 [w32 (s.verifySlot s.boot.booted s.boot.life x)] [])
    ∧ (runs s 0x22 c rest → s.flashFails = true → ∃ t : State, exec (.diagEnter env) s = .next t ∧ onlyReply s t c rest 0x06 [] [])
    ∧ (runs s 0x22 c rest → flashTakes s → ∃ t : State, exec (.diagEnter env) s = .next t ∧ wiped t ∧ t.bootRec.state = .diagnostic ∧ t.fuses = s.fuses)
    ∧ (runs s 0x23 c rest → flashTakes s → ∃ t : State, exec (.diagExit env) s = .next t ∧ wiped t ∧ t.bootRec.state = .operational ∧ t.fuses = s.fuses)
    ∧ (runs s 0x24 c rest → flashTakes s → ∃ t : State, exec (.decommission env) s = .next t ∧ wiped t ∧ t.bootRec.state = .provisioned ∧ t.fuses = s.fuses)
    ∧ (runs s 0x25 c rest → flashTakes s → c.arg 0 = (s.boot.serial.setWidth 32).toNat →
      ∃ t : State, exec (.retire env) s = .next t ∧ wiped t ∧ t.bootRec.state = .retired ∧ t.fuses = { s.fuses with ret := true }
        ∧ ∀ b, recordKeys ((t.flash b).read 0 recordSize) = 0 ∧ ∀ a, a < slotSize → sget erasedByte (t.flash b).bytes (slotBase + a) = 0xFF#8)
    ∧ (runs s 0x25 c rest → c.arg 0 ≠ (s.boot.serial.setWidth 32).toNat →
      ∃ t : State, exec (.retire env) s = .next t ∧ onlyReply s t c rest 0x05 [] [])
    ∧ (runs s 0x26 c rest → ∃ (t : State) (e : LogEntry) (m : Nat), exec .clearFences s = .next t ∧ replied s t c 0 [] [] ∧ t.boot.fullSelfTest = true
        ∧ t.mem = s.mem ∧ t.scr.logQueue = [e] ∧ e.type = 0x0011 ∧ e.payload = [w32 m] ∧ ∀ x ∈ t.logEntries, x.type = 0x0010 → x.seq ≤ m)

/-! ### Rings, host resets, release and power -/

namespace Sys2Proof.Claims

/-- Only ring `r` may differ among the rings. -/
def otherRings (s t : State) (r : Nat) : Prop := ∀ q, q ≠ r → t.ring q = s.ring q

/-- Every rail is off, the hot-swap switch is open, and power-good has ended. -/
def railsOff (t : State) : Prop :=
  t.power.vio = false ∧ t.power.vlane = false ∧ t.power.vwell = false ∧ t.power.vcore = false ∧ t.power.vstk = false ∧ t.power.vddq = false
    ∧ t.power.switchClosed = false ∧ t.power.good = false

end Sys2Proof.Claims

/-- R419, R420, R425, R430, R438, R413: RING_TAIL and RING_CQHEAD take indexes inside the ring and set ERR on others; RING_FEEDDONE keeps its ones; EN from 0
to 1 restarts the ring with SZ limited to 4 to 12 and writes a held record with HELD; ABORT ends the queued job, sends JOB_END for the running one, and ends one whose
strokes have stopped. -/
def Obligations.RingsFollowTheHost : Prop :=
  ∀ (s : State) (r : Nat), s.ringOpen r = true →
    let x := s.ring r
    (∀ v : Word, v.toNat < 2 ^ x.sz.toNat →
      exec (.doorbell r v) s = .next (s.setRing r { x with tail := v.setWidth 12 })
        ∧ exec (.ringCqheadWrite r v) s = .next (s.setRing r { x with cqhead := v.setWidth 12 }))
    ∧ (∀ (v : Word) (cmd : Instr), 2 ^ x.sz.toNat ≤ v.toNat → cmd = .doorbell r v ∨ cmd = .ringCqheadWrite r v →
      ∃ t : State, exec cmd s = .next t ∧ t = { s with rings := t.rings, host := t.host, pcieOut := t.pcieOut }
        ∧ t.ring r = { x with evt := x.evt.raise 0 } ∧ otherRings s t r ∧ t.host.evt = s.host.evt)
    ∧ (∀ v : Word, exec (.ringFeeddoneWrite r v) s = .next (s.setRing r { x with feeddone := x.feeddone ||| v.setWidth 4 }))
    ∧ (∀ v : Word, v.getLsbD 1 = false → v.getLsbD 0 = true → x.en = false →
      let z := v.toNat / 16 % 16
      let y := { x with en := true, sz := BitVec.ofNat 4 (if 4 ≤ z ∧ z ≤ 12 then z else 4), head := 0, tail := 0, cqtail := 0, cqhead := 0, phase := true,
                        cleared := false }
      ((∀ c ∈ s.host.held, c.ring ≠ r) → exec (.ringEnable r v) s = .next (s.setRing r y))
      ∧ ∀ c, s.host.held = [c] → c.ring = r → s.host.quiesced = false →
        ∃ t : State, exec (.ringEnable r v) s = .next t ∧ t.host.held = [] ∧ t.ring r = { y with cqtail := 1 } ∧ otherRings s t r ∧ t.strk = s.strk
          ∧ t.mem = s.mem ∧ PcieOut.dma x.cqbase.toNat (recordBytes c true true) ∈ t.pcieOut)
    ∧ (∀ v : Word, v.getLsbD 1 = false → x.en = true → exec (.ringEnable r v) s = .next (s.setRing r { x with en := v.getLsbD 0 }))
    ∧ (∀ j : Job, s.strk.queued = some j → j.ring = r → s.strk.run = none → ringTakes s r →
      ∃ t : State, exec (.ringAbort r) s = .next t ∧ t.strk = { s.strk with queued := none } ∧ t.mem = s.mem ∧ recordOut s t r 0x19)
    ∧ (∀ j : Job, s.strk.queued = none → s.strk.run = some j → j.ring = r → j.stopped = false →
      ∃ t : State, exec (.ringAbort r) s = .next t ∧ t.mem = s.mem ∧ toldAll s t 0x25 [j.stroke + 2, 0x19, 0]
        ∧ t.strk.run = some { j with ends := j.ends ++ [{ rank := s.grp.rank.toNat, own := true, stroke := j.stroke + 2, status := 0x19, detail := 0 }] })
    ∧ (∀ j : Job, s.strk.run = some j → j.ring = r → j.stopped = true → ∃ t : State, exec (.ringAbort r) s = .next t ∧ t.strk.run = none)
    ∧ (s.strk.queued = none → (∀ j, s.strk.run = some j → j.ring ≠ r) → exec (.ringAbort r) s = .next s)

/-- R413, R468: FLR, a hot reset, PERST_N, D3hot and the loss of the link return rings, window map and MSI-X state to their reset values; RING_PROG and
RING_FEEDDONE of a ring that holds a job stay, no job stops, held records and memory stay. -/
def Obligations.HostResetsKeepTheJob : Prop :=
  ∀ (s : State) (cmd : Instr), s.power.vio = true → cmd = .flr ∨ cmd = .hotReset ∨ cmd = .perstNAssert ∨ cmd = .d3hot ∨ cmd = .pcieLinkLoss →
    ∃ t : State, exec cmd s = .next t ∧ t = { s with rings := t.rings, host := t.host }
      ∧ t.host = { s.host with quiesceAck := false, evt := Events.none, errSlot := 0, bar2 := [], msixTable := [], msixPba := [], msixOpen := [],
                               msixMerged := [] }
      ∧ (∀ slot, t.slotPage slot = none)
      ∧ ∀ r, r < 64 →
        let holds := (∃ j, s.strk.run = some j ∧ j.ring = r) ∨ ∃ j, s.strk.queued = some j ∧ j.ring = r
        (t.ring r).en = false ∧ (t.ring r).sz = 4 ∧ (t.ring r).base = 0 ∧ (t.ring r).cqbase = 0 ∧ (t.ring r).tail = 0 ∧ (t.ring r).head = 0
          ∧ (t.ring r).cqtail = 0 ∧ (t.ring r).cqhead = 0 ∧ (t.ring r).evt = Events.none ∧ (t.ring r).cleared = true
          ∧ (holds → (t.ring r).prog = (s.ring r).prog ∧ (t.ring r).feeddone = (s.ring r).feeddone)
          ∧ (¬ holds → (t.ring r).prog = 0 ∧ (t.ring r).feeddone = 0)

/-- R355, R356, R436, R495, R502: a release request starts the sequence: LEAVING to every member while a job runs, else quiescence once no loan is left and nothing waits on a link; in
standby and in RETIRED REL_RDY_N follows at once. The acknowledgement and the quiescence are kept, and step 7 asserts REL_RDY_N with every rail off. -/
def Obligations.ReleaseRunsToReady : Prop :=
  ∀ (s : State),
    (s.power.scribe = true → s.pins.relReq = false → s.power.standby = true ∨ s.boot.life = .retired →
      ∃ t : State, exec .releaseRequest s = .next t ∧ t.pins.relReq = true ∧ t.pins.relRdy = true ∧ railsOff t ∧ t.mir = s.mir)
    ∧ (∀ j : Job, s.power.scribe = true → s.pins.relReq = false → s.power.standby = false → s.boot.life ≠ .retired → running s j → s.mir.releaseStep = 0
      → s.mir.leaving = none →
      let m := match s.runSet.bind (·.mirror) with
        | none => j.stroke + 2
        | some _ => (s.runMarks.find? fun c => j.stroke + 2 ≤ c && c < j.desc.strokes - 1).getD (j.desc.strokes - 1)
      ∃ t : State, exec .releaseRequest s = .next t ∧ t.pins.relReq = true ∧ t.mir.st = .leaving ∧ t.mir.releaseStep = 1 ∧ t.mir.leaving = some m
        ∧ t.mir.evt = s.mir.evt.raise 2 ∧ toldAll s t 0x45 [m] ∧ t.strk.run = s.strk.run ∧ t.mem = s.mem)
    ∧ (s.power.scribe = true → s.pins.relReq = false → s.power.standby = false → s.boot.life ≠ .retired → s.live = true → s.strk.run = none
      → s.mir.releaseStep = 0 → s.loan.held = [] → s.loan.granted = [] →
      ∃ t : State, exec .releaseRequest s = .next t ∧ t.mir.st = .leaving ∧ t.mem = s.mem
        ∧ (s.linksEmpty = true → t.mir.releaseStep = 5 ∧ t.host.quiesceReq = true ∧ t.host.evt = s.host.evt.raise 2 ∧ ∀ l, l < 96 → (t.link l).st = .disabled)
        ∧ (s.linksEmpty = false → t.mir.releaseStep = 4 ∧ t.links = s.links))
    ∧ (s.live = true → s.host.quiesceReq = true → s.host.quiesced = false →
      exec .quiesceAck s = .next { s with host := { s.host with quiesceAck := true } }
      ∧ ∃ t : State, exec .quiesceComplete s = .next t ∧ t = { s with host := { s.host with quiesced := true }, mir := t.mir }
          ∧ t.mir = { s.mir with releaseStep := if s.mir.releaseStep = 5 then 6 else s.mir.releaseStep })
    ∧ (s.mir.releaseStep = 6 → s.scr.logQueue = [] → s.power.scribe = true →
      ∃ t : State, exec .releaseReady s = .next t ∧ t.mir = { s.mir with releaseStep := 7, st := .released } ∧ t.pins.relRdy = true ∧ railsOff t
        ∧ t.mem = s.mem ∧ ∀ c : CmdReq, s.scr.wait = [c] → c.op = 0x40 → replied s t c 0 [] [])

/-- R453, R482, R487 to R492, R496, R497: the end of power-good takes every rail and volatile content away and leaves the scribe in standby, with an ALERT for
sensor 160; an overload or undervoltage keeps the switch open until VIN54 has been absent; the hold-up completes the queued entries; links follow their
cables. -/
def Obligations.SuppliesComeAndGo : Prop :=
  ∀ (s : State),
    (s.power.good = false → ∃ t : State, exec .standby s = .next t
        ∧ t.power = { s.power with aux := true, scribe := true, standby := true, holdup := none } ∧ t.mem = s.mem
        ∧ (s.power.scribe = true → t.scr = s.scr))
    ∧ (∀ absent : Bool, s.power.scribe = true → s.power.aux = true → s.power.switchClosed = false → s.power.tripped = false →
      (absent = true ∨ (s.power.latchedOpen = false ∧ s.pins.relRdy = false) → exec (.hotswapRampStart absent) s =
        .next { s with power := { s.power with switchClosed := true, rampDone := false, vin := true, mate := true, latchedOpen := false } })
      ∧ (absent = false → s.power.latchedOpen = true ∨ s.pins.relRdy = true → exec (.hotswapRampStart absent) s = .next s))
    ∧ (∀ cmd : Instr, s.power.switchClosed = true → s.power.good = true → s.power.scribe = true →
      cmd = .mateLoopOpen ∨ (∃ c, cmd = .inputProtection c) ∨ (∃ c, c ≠ .auxWindow ∧ cmd = .powerGoodEnd c) →
      ∃ t : State, exec cmd s = .next t ∧ railsOff t ∧ wiped t ∧ t.power.standby = true ∧ t.power.aux = s.power.aux
        ∧ t.flash0 = s.flash0 ∧ t.flash1 = s.flash1 ∧ t.fuses = s.fuses
        ∧ ((s.sensor 160).alerted = false → t.scr.latch.getLsbD 5 = true ∧ t.scr.alert.has 5 = true)
        ∧ (cmd = .inputProtection .overPower ∨ cmd = .inputProtection .underVoltage → t.power.latchedOpen = true)
        ∧ (cmd = .inputProtection .overVoltage → t.power.latchedOpen = s.power.latchedOpen))
    ∧ (∀ cmd : Instr, s.power.aux = true → s.power.scribe = true → cmd = .auxSupplyLoss ∨ cmd = .powerGoodEnd .auxWindow →
      ∃ t : State, exec cmd s = .next t ∧ t.power.aux = false ∧ t.power.scribe = true ∧ t.power.holdup = some t.scr.logQueue.length
        ∧ (s.power.switchClosed = true → railsOff t ∧ wiped t))
    ∧ (∀ n : Nat, s.power.holdup = some n → s.scr.logQueue.length ≤ 64 → s.scr.gap = 0 → s.flashFails = false →
      ∃ t : State, exec .auxHoldupEnd s = .next t ∧ t.power.scribe = false ∧ t.power.holdup = none ∧ t.pins.thermtrip = false ∧ t.pins.relRdy = false
        ∧ ∀ e ∈ (if s.scr.logQueue.length ≤ n then s.scr.logQueue else s.scr.logQueue.dropLast),
            ∃ q, { e with seq := q } ∈ t.flash0.entries ∧ { e with seq := q } ∈ t.flash1.entries)
    ∧ (∀ c : Nat, c < 12 →
      (∃ t : State, exec (.cablePresenceChange c true) s = .next t ∧ t.pins.cblPrsnt.getLsbD c = true ∧ t.pins.vcbl.getLsbD c = s.live ∧ t.mem = s.mem
        ∧ ∀ k, k < 8 → s.live = true → 10 ≤ s.boot.phase.toNat → s.boot.life ≠ .blank → s.boot.life ≠ .retired
            → (s.linkEntry (8 * c + k)).isSome = true → (s.link (8 * c + k)).st = .disabled → (t.link (8 * c + k)).st = .training)
      ∧ (s.coll.steps = [] → ∃ t : State, exec (.cablePresenceChange c false) s = .next t ∧ t.pins.cblPrsnt.getLsbD c = false
        ∧ t.pins.vcbl.getLsbD c = false ∧ t.mem = s.mem
        ∧ ∀ k, k < 8 → s.live = true → (s.link (8 * c + k)).st ≠ .miswired → (t.link (8 * c + k)).st = .disabled))

/-! ### Scribe: sensors, throttling and log -/

namespace Sys2Proof.Claims

/-- Nothing of the module but the scribe, its pins and power bits, the messages to the host and the clock may differ. -/
def scribeOnly (s t : State) : Prop :=
  t.mem = s.mem ∧ t.pmap = s.pmap ∧ t.kvt = s.kvt ∧ t.loan = s.loan ∧ t.nibs = s.nibs ∧ t.quills = s.quills ∧ t.wells = s.wells ∧ t.rings = s.rings
    ∧ t.gtc = s.gtc ∧ t.mir = s.mir ∧ t.boot = s.boot ∧ t.fuses = s.fuses

/-- A temperature sensor below its TRIP value, or one without a comparator. -/
def belowTrip (id : Nat) (v : Int) : Prop := ∀ t, tripValue id = some t → v < t

end Sys2Proof.Claims

/-- R442 to R449: a sample is stored, a third missed one in a row reads 0x8000 and sets SENSOR; a temperature that comes to meet its ALERT value sets its flag and
latch bit once; one that meets TRIP takes main power away; a flow below 4.0 L/min at more than 1,000 W sets COOLANT; the throttle condition moves the member one
rung down, and 1 s of cool readings one rung up. -/
def Obligations.SensorsAlertThrottleAndTrip : Prop :=
  (∀ (s : State) (id : Nat), s.power.scribe = true → sensorExists id = true →
    (∀ v : BitVec 16, belowTrip id v.toInt ∨ s.power.tripped = true →
      ∃ t : State, exec (.sensorSample id (some v)) s = .next t ∧ (t.sensor id).value = v ∧ (t.sensor id).missed = 0 ∧ scribeOnly s t
        ∧ (∀ k, k ≠ id → t.sensor k = s.sensor k)
        ∧ ∀ x : Int, id < 158 → (s.threshold (thresholdRow id)).1 = some x → x ≤ v.toInt →
            (t.sensor id).alerted = true
              ∧ ((s.sensor id).alerted = false → t.scr.alert.has (if id < 156 then 0 else 3) = true ∧ t.scr.latch.getLsbD (if id < 156 then 0 else 3) = true)
              ∧ ((s.sensor id).alerted = true → t.scr.alert = s.scr.alert))
    ∧ (∀ (v : BitVec 16) (x : Int), tripValue id = some x → x ≤ v.toInt → s.power.tripped = false →
      ∃ t : State, exec (.sensorSample id (some v)) s = .next t ∧ t.pins.thermtrip = true ∧ t.power.tripped = true ∧ railsOff t ∧ wiped t
        ∧ t.scr.trips = s.scr.trips + 1 ∧ t.scr.alert.has 2 = true)
    ∧ (2 ≤ (s.sensor id).missed →
      ∃ t : State, exec (.sensorSample id none) s = .next t ∧ (t.sensor id).value = 0x8000#16 ∧ (t.sensor id).answers = false ∧ scribeOnly s t
        ∧ ((s.sensor id).missed = 2 → t.scr.alert.has 7 = true))
    ∧ ((s.sensor id).missed < 2 → belowTrip id (s.sensor id).value.toInt ∨ s.power.tripped = true →
      ∃ t : State, exec (.sensorSample id none) s = .next t ∧ (t.sensor id).value = (s.sensor id).value
        ∧ (t.sensor id).missed = (s.sensor id).missed + 1 ∧ scribeOnly s t))
  ∧ (∀ (s : State) (i o lim : Int), s.power.scribe = true → s.reading 156 = some i → s.reading 157 = some o → i < o → (s.threshold 7).1 = some lim →
      let n := s.scr.flowCount
      let flow := 24000 * s.scr.flowSum
      let unit := 3978 * 10000 * n * (o - i).toNat
      ∃ t : State, exec .flowEstimate s = .next t ∧ scribeOnly s t ∧ t.scr.flowSum = 0 ∧ t.scr.flowCount = 0
        ∧ (n = 0 → t.scr.teleM = s.scr.teleM ∧ t.scr.alert = s.scr.alert)
        ∧ (n ≠ 0 → t.scr.teleM.flowMin = min s.scr.teleM.flowMin (min (flow / unit) 0xFFFF)
          ∧ (10000000 * n < s.scr.flowSum → flow < lim.toNat * unit → s.scr.flowAlerted = false → t.scr.alert.has 3 = true ∧ t.scr.latch.getLsbD 3 = true)
          ∧ (s.scr.flowSum ≤ 10000000 * n ∨ lim.toNat * unit ≤ flow → t.scr.alert = s.scr.alert)))
  ∧ (∀ s : State, s.live = true → s.power.scribe = true → s.strk.run = none →
      (s.throttleCause ≠ 0 → s.scr.throttle.downPending = none → s.scr.throttle.downMs ≤ 1 → s.scr.throttle.rung < 13 →
        ∃ t : State, exec .throttleEvaluation s = .next t ∧ t.scr.throttle.rung = s.scr.throttle.rung + 1 ∧ t.scr.throttle.downMs = 10
          ∧ t.scr.alert.has 1 = true ∧ t.strk.clock = BitVec.ofNat 5 t.combinedRate.1 ∧ t.mem = s.mem)
      ∧ (s.throttleCause = 0 → s.stepUpOk = true → 1000 ≤ s.scr.throttle.coolMs → 999 ≤ s.scr.throttle.sinceUpMs → 0 < s.scr.throttle.rung
        → s.scr.throttle.rung ≤ 13 →
        ∃ t : State, exec .throttleEvaluation s = .next t ∧ t.scr.throttle.rung = s.scr.throttle.rung - 1 ∧ t.scr.throttle.sinceUpMs = 0
          ∧ t.strk.clock = BitVec.ofNat 5 t.combinedRate.1 ∧ t.mem = s.mem))
  ∧ (∀ (s : State) (j : Job), running s j → s.power.scribe = true → s.throttleCause ≠ 0 → s.scr.throttle.downPending = none → s.scr.throttle.downMs ≤ 1
      → 9 ≤ j.desc.baseClock → s.scr.throttle.rung < lowestRung j.desc.baseClock → s.scr.throttle.hostReq = none →
      let r := rungRate j.desc.baseClock (s.scr.throttle.rung + 1)
      ∃ t : State, exec .throttleEvaluation s = .next t ∧ t.scr.throttle.rung = s.scr.throttle.rung + 1
        ∧ t.scr.throttle.downPending = some (j.stroke + 2) ∧ t.scr.alert.has 1 = true ∧ toldAll s t 0x21 [j.stroke + 2, r.1, r.2] ∧ t.mem = s.mem)

namespace Sys2Proof.Claims

/-- No erase is due before position `head` is written: a hold-up starts none, and otherwise the sector ahead is erased already or not yet near. -/
def roomAt (s : State) (head : Nat) : Prop :=
  s.power.holdup ≠ none ∨ s.sectorHeld (sectorAhead head) = false ∨ 64 < (sectorAhead head + logPositions - head) % logPositions

/-- Both copies of the log hold an entry at the head of the ring, and nothing else in flash has changed. -/
def loggedAtHead (s t : State) (e : LogEntry) : Prop :=
  t.scr.logHead = (s.scr.logHead + 1) % logPositions
    ∧ ∀ b, sget (fun _ => LogCell.erased) (t.flash b).log s.scr.logHead = .whole e ∧ (t.flash b).bytes = (s.flash b).bytes ∧ (t.flash b).boot = (s.flash b).boot
      ∧ ∀ k, k ≠ s.scr.logHead → sget (fun _ => LogCell.erased) (t.flash b).log k = sget (fun _ => LogCell.erased) (s.flash b).log k

end Sys2Proof.Claims

/-- R450 to R454: the front entry of the queue is programmed into both copies at the head of the ring with the next SEQ, or a LOG_GAP entry first after a drop, which the
limit of 16 a second holds back; no sector is erased during the hold-up. When a sector is erased ahead is the model's choice (log entry 117). -/
def Obligations.LogEntriesGoToBothCopies : Prop :=
  ∀ s : State, s.power.scribe = true → s.scr.logHead < logPositions → s.flashFails = false →
    roomAt s s.scr.logHead → roomAt s ((s.scr.logHead + 1) % logPositions) →
    (∀ (e : LogEntry) (rest : List LogEntry), s.scr.gap = 0 → s.scr.logQueue = e :: rest →
      ∃ t : State, exec .logEntryWrite s = .next t ∧ scribeOnly s t ∧ t.scr.logQueue = rest ∧ t.scr.logSeq = s.nextSeq
        ∧ loggedAtHead s t { e with seq := s.nextSeq })
    ∧ (s.scr.gap ≠ 0 → (s.countEntry 0x00FF).2 < 16 →
      ∃ (t : State) (e : LogEntry), exec .logEntryWrite s = .next t ∧ t.scr.gap = 0 ∧ t.scr.gapHeld = 0 ∧ t.scr.logQueue = s.scr.logQueue ∧ e.type = 0x00FF
        ∧ e.payload = [w32 (s.scr.gapHeld + s.scr.gap)] ∧ loggedAtHead s t e)
    ∧ (s.scr.gap ≠ 0 → 16 ≤ (s.countEntry 0x00FF).2 →
      ∃ t : State, exec .logEntryWrite s = .next t ∧ t.scr.gap = 0 ∧ t.scr.gapHeld = s.scr.gapHeld + s.scr.gap ∧ t.scr.logQueue = s.scr.logQueue
        ∧ t.flash0 = s.flash0 ∧ t.flash1 = s.flash1)
    ∧ (∀ e ∈ s.flash0.entries ++ s.flash1.entries, e.seq < 2 ^ 32 - 2 → (∀ f ∈ s.flash0.entries ++ s.flash1.entries, f.seq ≤ e.seq) → s.nextSeq = e.seq + 1)

/-! ### Scribe: commands -/

namespace Sys2Proof.Claims

/-- Opcode of a scribe command's row (R456). -/
def rowOp (i : Instr) : Option Nat :=
  match i with
  | .identify => some 0x01 | .sensors => some 0x02 | .logRead => some 0x03 | .telemetry => some 0x04 | .mapImage => some 0x05 | .pmapRead => some 0x06
  | .kvtRead => some 0x07 | .scrollWrite => some 0x10 | .scrollVerify => some 0x11 | .trial => some 0x12 | .commit => some 0x13 | .reset _ => some 0x14
  | .provision _ => some 0x20 | .enable _ => some 0x21 | .diagEnter _ => some 0x22 | .diagExit _ => some 0x23 | .decommission _ => some 0x24
  | .retire _ => some 0x25 | .clearFences => some 0x26 | .loanOffer => some 0x30 | .loanRequest => some 0x31 | .loanRecall => some 0x32
  | .loanReturn => some 0x33 | .pageKind => some 0x34 | .release => some 0x40 | .restore => some 0x41 | .discardImage => some 0x42 | .rate => some 0x43
  | .threshold => some 0x44 | _ => none

/-- Main power is on, the scribe's firmware serves, and no RELEASE has been accepted. -/
def serves (s : State) : Prop := s.scr.released = false ∧ s.power.standby = false ∧ s.boot.code ≠ 0x10 ∧ s.boot.code ≠ 0x11

end Sys2Proof.Claims

/-- R406, R447, R456, R457: a command that the scribe refuses is answered with its status and has no other effect: JOB after RELEASE, in a job, in HOLDING or in
a release, STATE where the lifecycle state or the boot ROM does not allow it, TRIPPED for RESET until every sensor has cooled. -/
def Obligations.RefusedCommandsHaveNoEffect : Prop :=
  ∀ (s : State) (cmd : Instr) (c : CmdReq) (rest : List CmdReq), rowOp cmd = some c.op → s.power.scribe = true → s.scr.queue = c :: rest →
    (∀ st, s.cmdRefusal c = some st → ∃ t : State, exec cmd s = .next t ∧ onlyReply s t c rest st [] [])
    ∧ (s.scr.released = true → 4 < c.op → s.cmdRefusal c = some 0x04)
    ∧ (serves s → (cmdTable.all fun r => r.1 ≠ c.op || r.2.1 / 2 ^ lifeNum s.boot.life % 2 = 0) = true → s.cmdRefusal c = some 0x03)
    ∧ (serves s → cmdInLife c.op (lifeNum s.boot.life) = true → c.op = 0x14 ∨ (0x20 ≤ c.op ∧ c.op ≤ 0x26) ∨ c.op = 0x34 →
        s.strk.run.isSome = true ∨ s.mir.st = .holding ∨ s.mir.releaseStep ≠ 0 → s.cmdRefusal c = some 0x04)
    ∧ (s.scr.released = false → s.power.standby = false → s.boot.code = 0x10 ∨ s.boot.code = 0x11 → c.op = 0x14 ∨ (c.op = 0x20 ∧ s.boot.code = 0x11) →
        s.strk.run.isSome = true ∨ s.mir.st = .holding ∨ s.mir.releaseStep ≠ 0 → s.cmdRefusal c = some 0x04)
    ∧ (s.scr.released = false → s.power.standby = false → s.boot.code = 0x10 ∨ s.boot.code = 0x11 → c.op ∉ [0x01, 0x02, 0x03, 0x04, 0x14, 0x40]
        → (s.boot.code = 0x10 → c.op < 0x10 ∨ 0x12 < c.op) → (s.boot.code = 0x11 → c.op ≠ 0x20) → s.cmdRefusal c = some 0x03)
    ∧ (s.scr.released = false → s.power.standby = true → s.power.tripped = true → c.op = 0x14 → s.cooled = false → s.cmdRefusal c = some 0x09)

/-- R33, R184, R230, R443, R450, R451, R455, R456: IDENTIFY, SENSORS, LOG_READ, TELEMETRY, MAP_IMAGE, PMAP_READ and KVT_READ answer with what they name and
change nothing, but that TELEMETRY clears its own channel's copy; a range outside the limits is answered BAD_ARG. -/
def Obligations.QuestionsAreAnswered : Prop :=
  ∀ (s : State) (c : CmdReq) (rest : List CmdReq),
    (runs s 0x01 c rest → ∃ t : State, exec .identify s = .next t ∧ onlyReply s t c rest 0
        [s.readGlb 0, s.boot.serial.setWidth 32, (s.boot.serial >>> 32).setWidth 32, s.readGlb 0x140C, s.readGlb 0x1408, s.readGlb 0x1400] [])
    ∧ (runs s 0x02 c rest → 1 ≤ c.arg 1 → c.arg 1 ≤ 184 → c.arg 0 + c.arg 1 ≤ 184 →
        ∃ (t : State) (d : List Byte), exec .sensors s = .next t ∧ onlyReply s t c rest 0 [] d ∧ d.length = 2 * c.arg 1
          ∧ ∀ i, i < c.arg 1 → leAt d (2 * i) 2 = (if c.arg 0 + i = 158 ∨ c.arg 0 + i = 159 then 0x8001 else (s.sensor (c.arg 0 + i)).value.toNat))
    ∧ (runs s 0x03 c rest → 1 ≤ c.arg 1 → c.arg 1 ≤ 1024 →
        let es := (s.logEntries.filter fun e => c.arg 0 ≤ e.seq).take (c.arg 1)
        ∃ t : State, exec .logRead s = .next t
          ∧ onlyReply s t c rest 0 [w32 es.length, w32 ((s.logEntries.head?.map (·.seq)).getD 0)] (es.flatMap entryBytes))
    ∧ (runs s 0x04 c rest → ∃ t : State, exec .telemetry s = .next t ∧ replied s t c 0 [] (s.scr.record (s.scr.tele c.ch)) ∧ scribeOnly s t
          ∧ t.scr.tele c.ch = Tele.reset ∧ ∀ ch, ch ≠ c.ch → t.scr.tele ch = s.scr.tele ch)
    ∧ (runs s 0x05 c rest → ∃ t : State, exec .mapImage s = .next t
          ∧ onlyReply s t c rest 0 [] ((s.units.map0 ++ s.units.map1).flatMap fun e => leBytes 2 e.toNat))
    ∧ (runs s 0x06 c rest → 1 ≤ c.arg 1 → c.arg 1 ≤ 4096 → c.arg 0 + c.arg 1 ≤ 131072 →
        ∃ (t : State) (d : List Byte), exec .pmapRead s = .next t ∧ onlyReply s t c rest 0 [] d ∧ d.length = 16 * c.arg 1
          ∧ ∀ i, i < c.arg 1 → leAt d (16 * i) 16 = pageBits (s.page (c.arg 0 + i)))
    ∧ (runs s 0x07 c rest → 1 ≤ c.arg 1 → c.arg 1 ≤ 4096 → c.arg 0 + c.arg 1 ≤ 262144 →
        ∃ (t : State) (d : List Byte), exec .kvtRead s = .next t ∧ onlyReply s t c rest 0 [] d ∧ d.length = 16 * c.arg 1
          ∧ ∀ i, i < c.arg 1 → leAt d (16 * i) 16 = kvBits (s.kvShown (c.arg 0 + i)))
    ∧ (∀ (cmd : Instr) (most limit : Nat), (cmd, most, limit) ∈ [(.sensors, 184, 184), (.pmapRead, 4096, 131072), (.kvtRead, 4096, 262144)] → runs s c.op c rest
        → rowOp cmd = some c.op → c.arg 1 = 0 ∨ most < c.arg 1 ∨ limit < c.arg 0 + c.arg 1 →
        ∃ t : State, exec cmd s = .next t ∧ onlyReply s t c rest 0x02 [] [])

/-- R242, R244, R245, R248 to R251, R456: LOAN_OFFER, LOAN_REQUEST, LOAN_RECALL and LOAN_RETURN send their record to the peer; a request makes its T3 entries
FILLING and waits, a recall marks the loans, a return switches the entries to HOME; PAGE_KIND sets the kind of pages and zeroes them and nothing else. -/
def Obligations.LoanCommandsMoveTheTables : Prop :=
  ∀ (s : State) (c : CmdReq) (rest : List CmdReq) (l : Nat) (ls : List Nat), s.routePair (c.arg 0) = l :: ls →
    let t3 := s.mbxIndices
    (runs s 0x30 c rest → s.others.contains (c.arg 0) = true → 1 ≤ c.arg 1 → c.arg 1 ≤ s.lendable.length → 2 ≤ c.arg 2 → c.arg 2 ≤ 255 → c.arg 3 ≤ 16 →
      ∃ t : State, exec .loanOffer s = .next t ∧ replied s t c 0 [] [] ∧ t.mem = s.mem ∧ t.pmap = s.pmap ∧ t.loan.share = c.arg 3
        ∧ t.loan.offersOut.find? (fun o => o.rank = c.arg 0) = some { rank := c.arg 0, pages := c.arg 1, notice := c.arg 2, share := c.arg 3 }
        ∧ told t l (c.arg 0) 0x30 [c.arg 1, c.arg 2, c.arg 3])
    ∧ (∀ (o : Offer) (p : LoanPage), runs s 0x31 c rest → s.strk.run = none → c.arg 1 = 1 → p = s.askedPage 0 → s.askable p = true
      → s.loan.offersIn.find? (fun o => o.rank = c.arg 0) = some o → 1 ≤ o.pages → o.notice ≤ c.arg 2 → c.arg 2 ≤ 255 →
      ∃ t : State, exec .loanRequest s = .next t ∧ t.mem = s.mem ∧ t.scr.wait = s.scr.wait ++ [c]
        ∧ ((t.page p.t3).kind = 2 ∧ (t.page p.t3).state = 1 ∧ (t.page p.t3).homeRank = BitVec.ofNat 7 p.homeRank
            ∧ (t.page p.t3).homePage = BitVec.ofNat 17 p.homePage ∧ (t.page p.t3).homeTag = BitVec.ofNat 16 p.homeTag
            ∧ (t.page p.t3).lenderRank = BitVec.ofNat 7 (c.arg 0))
        ∧ ((s.page p.t3).kind ≠ 2 → ∀ i, i ≠ p.t3 → i ≠ p.homePage → t.page i = s.page i)
        ∧ (p.homeRank = s.grp.rank.toNat → (t.page p.homePage).pinned = true)
        ∧ told t l (c.arg 0) 0x31 [c.arg 2, p.t3, p.homeRank, p.homePage, p.homeTag])
    ∧ (runs s 0x31 c rest → s.loan.offersIn.find? (fun o => o.rank = c.arg 0) = none →
      ∃ t : State, exec .loanRequest s = .next t ∧ onlyReply s t c rest 0x02 [] [])
    ∧ (runs s 0x32 c rest → t3 ≠ [] → t3.length ≤ 4 → 2 ≤ c.arg 1 → c.arg 1 ≤ 255 → (∀ i ∈ t3, s.loansOf (c.arg 0) [i] ≠ []) →
      ∃ t : State, exec .loanRecall s = .next t ∧ replied s t c 0 [] [] ∧ t.mem = s.mem ∧ t.pmap = s.pmap ∧ told t l (c.arg 0) 0x34 (listItems (c.arg 1) (t3.map fun i => [i]))
        ∧ ∀ g ∈ s.loan.granted, (g.peer = c.arg 0 → g.t3 ∈ t3 → { g with recalled := true } ∈ t.loan.granted)
            ∧ (g.peer ≠ c.arg 0 ∨ g.t3 ∉ t3 → g ∈ t.loan.granted))
    ∧ (runs s 0x33 c rest → s.strk.run = none → t3 ≠ [] → t3.length ≤ 4 → s.pmapPending = [] → (∀ i ∈ t3, borrows s (c.arg 0) i) →
      ∃ t : State, exec .loanReturn s = .next t ∧ replied s t c 0 [] [] ∧ t.mem = s.mem ∧ told t l (c.arg 0) 0x36 (listItems 0 (t3.map fun i => [i]))
        ∧ ∀ i ∈ t3, (t.page i).state = (if (s.page i).state = 4 then 4 else 0) ∧ ¬ borrows t (c.arg 0) i)
    ∧ (runs s 0x34 c rest → 1 ≤ c.arg 1 → c.arg 0 + c.arg 1 ≤ 73728 → c.arg 2 ≤ 1
      → (∀ p, c.arg 0 ≤ p → p < c.arg 0 + c.arg 1 → (s.page p).pinned = false ∧ (s.page p).lent = false ∧ s.boot.config.lendable.contains p = false) →
      ∃ t : State, exec .pageKind s = .next t ∧ replied s t c 0 [] []
        ∧ (∀ p, c.arg 0 ≤ p → p < c.arg 0 + c.arg 1 → t.page p = { s.page p with kind := BitVec.ofNat 2 (c.arg 2) }
            ∧ ∀ b, b < 2 ^ 24 → memGet t.mem (t2At p b) = 0#8)
        ∧ (∀ p, p < c.arg 0 ∨ c.arg 0 + c.arg 1 ≤ p → t.page p = s.page p)
        ∧ ∀ x, x < t2At (c.arg 0) 0 ∨ t2At (c.arg 0 + c.arg 1) 0 ≤ x → memGet t.mem x = memGet s.mem x)

/-- R350, R352, R355, R445, R449, R456 to R458, R502: RELEASE begins the release and is answered when it ends; RESTORE asks the partner and waits;
DISCARD_IMAGE gives the image up; RATE joins the host's request to the ladder's rung; THRESHOLD lowers a row and never raises it; a completion fills the
mailbox, clears BUSY and sets DONE, with PEER for a peer that does not answer. -/
def Obligations.ServiceCommandsTakeEffect : Prop :=
  ∀ (s : State) (c : CmdReq) (rest : List CmdReq),
    (runs s 0x40 c rest → s.power.standby = true ∨ s.boot.life = .retired →
      ∃ t : State, exec .release s = .next t ∧ t.scr.released = true ∧ t.pins.relRdy = true ∧ railsOff t)
    ∧ (runs s 0x40 c rest → s.power.standby = false → s.boot.life ≠ .retired →
      ∃ t : State, exec .release s = .next t ∧ t.scr.released = true ∧ t.scr.wait = s.scr.wait ++ [c] ∧ t.mir.releaseStep ≠ 0
        ∧ (s.mir.releaseStep = 0 → s.live = true → t.mir.st = .leaving ∧ t.mir.evt = s.mir.evt.raise 2))
    ∧ (∀ (p l : Nat) (ls : List Nat), runs s 0x41 c rest → s.partner = some p → s.mir.st ≠ .none → c.arg 0 < 65536 → s.upBundle = l :: ls →
      ∃ t : State, exec .restore s = .next t ∧ t.mem = s.mem ∧ t.mir.st = .restoring ∧ t.mir.restoreEpoch = some (c.arg 0)
        ∧ (s.mir.st ≠ .restoring → t.mir.prior = s.mir.st) ∧ t.scr.wait = s.scr.wait ++ [c] ∧ told t l p 0x46 [c.arg 0])
    ∧ (runs s 0x42 c rest → ∃ t : State, exec .discardImage s = .next t ∧ replied s t c 0 [] [] ∧ t.mem = s.mem
        ∧ t.mir = { s.mir with image := none, pend := none, imageEpoch := 0, st := if s.mir.st = .holding then .lost else s.mir.st })
    ∧ (runs s 0x43 c rest → 9 ≤ c.arg 0 → c.arg 0 ≤ 18 → 64 ≤ c.arg 1 → c.arg 1 ≤ 4096 →
      ∃ t : State, exec .rate s = .next t ∧ replied s t c 0 [] [] ∧ t.mem = s.mem ∧ t.scr.throttle.hostReq = some (c.arg 0, c.arg 1)
        ∧ t.scr.throttle.rung = s.scr.throttle.rung
        ∧ (s.strk.run = none → t.combinedRate ≠ s.combinedRate → t.strk.clock = BitVec.ofNat 5 t.combinedRate.1)
        ∧ (∀ j, s.strk.run = some j → t.combinedRate ≠ s.combinedRate → toldAll s t 0x21 [j.stroke + 2, t.combinedRate.1, t.combinedRate.2])
        ∧ (t.combinedRate.1 < s.combinedRate.1 ∨ s.combinedRate.2 < t.combinedRate.2 → t.scr.alert.has 1 = true))
    ∧ (runs s 0x44 c rest → 8 ≤ c.arg 0 → ∃ t : State, exec .threshold s = .next t ∧ onlyReply s t c rest 0x02 [] [])
    ∧ (runs s 0x44 c rest → c.arg 0 < 8 →
      ∃ t : State, exec .threshold s = .next t ∧ replied s t c 0 [] [] ∧ scribeOnly s t
        ∧ (∀ x, (tableThreshold (c.arg 0)).1 = some x → (t.threshold (c.arg 0)).1 = some (min x (c.args.getD 1 0).toInt))
        ∧ (∀ x, (tableThreshold (c.arg 0)).2 = some x → (t.threshold (c.arg 0)).2 = some (min x (c.args.getD 2 0).toInt))
        ∧ ∀ k, k ≠ c.arg 0 → t.threshold k = s.threshold k)
    ∧ (∀ d : CmdDone, s.power.scribe = true → s.scr.finish = some d →
      ∃ t : State, exec .mailboxCompletion s = .next t ∧ scribeOnly s t ∧ t.scr.finish = none
        ∧ t.scr.mbx = { s.scr.mbx with res := d.res ++ s.scr.mbx.res.drop d.res.length, data := t.scr.mbx.data, busy := false,
                                        status := BitVec.ofNat 8 d.status, tag := BitVec.ofNat 8 d.req.tag, evt := s.scr.mbx.evt.raise 0 }
        ∧ t.mbxBytes 0 d.data.length = d.data)
    ∧ (s.power.scribe = true → s.scr.finish = none → s.scr.wait = [c] → c.ch = .mailbox → c.op = 0x31 ∨ c.op = 0x41 →
      ∃ t : State, exec .mailboxCompletion s = .next t ∧ t.scr.wait = [] ∧ t.scr.mbx.busy = false ∧ t.scr.mbx.status = 0x07 ∧ t.mem = s.mem
        ∧ (c.op = 0x41 → t.mir.st = s.mir.prior ∧ t.mir.restoreEpoch = none))

namespace Sys2Proof.Claims

/-- An SMBus block: its count, its bytes and one PEC byte. -/
def sentBlock (t : State) (bs : List Byte) : Prop := ∃ pec, t.rbytes = BitVec.ofNat 8 bs.length :: bs ++ [pec]

/-- Only what an SMBus read sends may differ. -/
def readOnly (s t : State) : Prop := t = { s with rbytes := t.rbytes, rdata := t.rdata }

end Sys2Proof.Claims

/-- R446, R459, R460: a monitor line is echoed and its command joins the scribe's queue, an unknown name receives err 01; each SMBus code sends what its row
names; the read of ALERT_CAUSE clears the causes whose class is quiet; a block write with a wrong PEC is refused, an accepted one joins the queue; the result
is read in pieces, in order. -/
def Obligations.ChannelsTakeCommandsAndSendResults : Prop :=
  ∀ s : State, s.power.scribe = true →
    (∀ n op, (n, op) ∈ cmdNames → cmdAccepted op .uart = true →
      ∃ t : State, exec (.monitorLine (ascii n)) s = .next t ∧ scribeOnly s t ∧ t.scr.uart = s.scr.uart ++ ascii n ++ [10#8]
        ∧ t.scr.queue = s.scr.queue ++ [{ ch := .uart, op := op, tag := 0, args := [] }])
    ∧ (∀ (text name : List Byte) (args : List (List Byte)), wordsOf [] text = name :: args → (∀ x ∈ cmdNames, ascii x.1 ≠ name) →
      ∃ t : State, exec (.monitorLine text) s = .next t ∧ scribeOnly s t ∧ t.scr.queue = s.scr.queue
        ∧ t.scr.uart = s.scr.uart ++ text ++ [10#8] ++ ascii ['e', 'r', 'r', ' ', '0', '1'] ++ [10#8] ++ ascii ['o', 'z', '3', '>', ' '])
    ∧ (∃ t : State, exec .smbStatus s = .next t ∧ readOnly s t ∧ t.rdata.getLsbD 0 = s.ready ∧ t.rdata.toNat / 2 % 8 = lifeNum s.boot.life
        ∧ t.rdata.getLsbD 4 = s.power.tripped ∧ t.rdata.getLsbD 5 = decide (s.scr.latch ≠ 0)
        ∧ t.rdata.toNat / 2 ^ 6 % 16 = min 15 (min s.scr.throttle.rung (lowestRung s.topClock))
        ∧ t.rdata.getLsbD 10 = (s.pins.relReq || s.scr.released) ∧ t.rdata.getLsbD 11 = s.pins.relRdy)
    ∧ (s.power.standby = false → ∃ t : State, exec .smbTemperatures s = .next t ∧ readOnly s t ∧ sentBlock t
        ([s.highest 0 144, s.highest 144 12, s.highest 128 16, s.sensorValue 156, s.sensorValue 157].flatMap fun v => leBytes 2 v.toNat))
    ∧ (∃ t : State, exec .smbPower s = .next t ∧ readOnly s t
        ∧ sentBlock t ([s.power100, s.power2, s.auxPower].flatMap fun v => leBytes 2 (min v 0xFFFF)))
    ∧ (∃ t : State, exec .smbIdentity s = .next t ∧ readOnly s t
        ∧ sentBlock t (leBytes 4 (s.readGlb 0).toNat ++ leBytes 8 s.boot.serial.toNat ++ leBytes 4 s.boot.fwVer.toNat))
    ∧ (∃ t : State, exec .alertCause s = .next t ∧ scribeOnly s t ∧ t.rdata = s.scr.latch.setWidth 64 ∧ t.scr.alert = s.scr.alert
        ∧ ∀ i, i < 8 → t.scr.latch.getLsbD i = (s.scr.latch.getLsbD i && !s.quiet i))
    ∧ (∀ (bytes : List Byte) (pec : Byte), s.power.standby = false → 2 ≤ bytes.length → bytes.length ≤ 14 →
      let n := s.scr.smb.tag + 1
      let c : CmdReq := { ch := .smbus, op := leAt bytes 0 2, tag := n, args := smbArgs 3 (bytes.drop 2) }
      let good := pecOf ([0xB4#8, 0x10#8, BitVec.ofNat 8 bytes.length] ++ bytes)
      (pec ≠ good → exec (.smbCommandWrite bytes (some pec)) s = .next s)
      ∧ ∀ p : Option Byte, p = none ∨ p = some good →
        (cmdAccepted c.op .smbus = true → exec (.smbCommandWrite bytes p) s =
          .next { s with scr := { s.scr with smb := { status := 0xFF, result := [], pos := 31, tag := n }, queue := s.scr.queue ++ [c] } })
        ∧ (cmdAccepted c.op .smbus = false → exec (.smbCommandWrite bytes p) s =
          .next { s with scr := { s.scr with smb := { status := 0x01, result := [], pos := 31, tag := n } } }))
    ∧ (s.power.standby = false →
      (∃ t : State, exec .smbResultRead s = .next t ∧ sentBlock t (s.scr.smb.status :: s.scr.smb.result.take 31)
        ∧ t = { s with rbytes := t.rbytes, scr := { s.scr with smb := { s.scr.smb with pos := 31 } } })
      ∧ ∃ t : State, exec .smbResultNext s = .next t ∧ sentBlock t ((s.scr.smb.result.drop s.scr.smb.pos).take 32)
        ∧ t = { s with rbytes := t.rbytes, scr := { s.scr with smb := { s.scr.smb with pos := s.scr.smb.pos + min 32 (s.scr.smb.result.length - s.scr.smb.pos) } } })
    ∧ (s.scr.latch ≠ 0 → ∃ t : State, exec .alertResponseAddress s = .next t ∧ readOnly s t ∧ t.rbytes.head? = some 0xB4#8)

/-! ### Registers -/

namespace Sys2Proof.Claims

/-- A requester's read of a pair's low word, and what the pair's high word holds then. -/
def pairAt (s : State) (o : Nat) : Prop := lowOfPair (s.target o) = true

end Sys2Proof.Claims

/-- R12 to R16, R126, R128, R435, R465 to R467, R472: a write to a flag register clears the flags written as 1 unless hardware sets them in the same cycle, and counts
each set; a read of an RC counter returns it and leaves the same cycle's increment, of a flag's counter one event
with its flag; a read of another width or alignment returns 0; the high word of a pair read after its low word is the one latched then,
whatever has happened since but accesses of that requester to the pair; a vector's interval ends with its merged message, or with its pending bit where it is masked. -/
def Obligations.RegistersReadAndClearAsTyped : Prop :=
  (∀ (s : State) (o : Nat) (v : Word) (hw : BitVec 8) (f : FlagReg), flagAt (s.target o) = some f →
      ∃ t : State, exec (.w1cClear o v hw) s = .next t ∧ t.mem = s.mem
        ∧ ∀ i, i < f.count →
          (t.events f).flags.getLsbD i = (hw.getLsbD i || ((s.events f).flags.getLsbD i && !v.getLsbD i))
          ∧ (t.events f).count i = if hw.getLsbD i then satAdd ((s.events f).count i) 1 else (s.events f).count i)
  ∧ (∀ (s : State) (o inc : Nat) (w : Word) (put : Word → State), s.counterAt (s.target o) = some (w, put) → o % 4 = 0 →
      ∃ (t : State) (q : Word → State), exec (.rcRead { offset := o, width := 4 } inc) s = .next t ∧ t.rdata = w.setWidth 64 ∧ t.mem = s.mem
        ∧ (countAt (s.target o) = none → t.counterAt (t.target o) = some (w32 (min inc 0xFFFFFFFF), q))
        ∧ ∀ f i, countAt (s.target o) = some (f, i) →
            t.counterAt (t.target o) = some (if inc = 0 then 0 else 1, q) ∧ (inc ≠ 0 → i < 8 → (t.events f).has i = true))
  ∧ (∀ (s : State) (o width inc : Nat), (width = 4 ∧ o % 4 ≠ 0) ∨ (width ≠ 4 ∧ (width ≠ 8 ∨ o % 8 ≠ 0 ∨ inMsix (blockOf o) = false)) →
      exec (.rcRead { offset := o, width := width } inc) s = .next { s with rdata := 0 })
  ∧ (∀ (s : State) (who : Requester) (o : Nat), pairAt s o →
      ∃ t : State, exec (.lowWordRead who o) s = .next t ∧ t.rdata = (s.readPlain (s.target o)).setWidth 64
        ∧ t = { s with rdata := t.rdata, latches := t.latches }
        ∧ ∀ u : State, (∀ l, l.who = who → l.off = o → (l ∈ u.latches ↔ l ∈ t.latches)) → highOfPair (u.target (o + 4)) = true →
          ∃ x : State, exec (.highWordRead who (o + 4)) u = .next x ∧ x.rdata = (s.readPlain (s.target (o + 4))).setWidth 64
            ∧ x = { u with rdata := x.rdata, latches := x.latches } ∧ ∀ l ∈ x.latches, ¬ (l.who = who ∧ l.off = o))
  ∧ (∀ (s : State) (who other : Requester) (o : Nat), who ≠ other →
      (pairAt s o → ∃ t : State, exec (.lowWordRead other o) s = .next t ∧ ∀ l, l.who = who → (l ∈ t.latches ↔ l ∈ s.latches))
      ∧ (highOfPair (s.target (o + 4)) = true →
        ∃ t : State, exec (.highWordRead other (o + 4)) s = .next t ∧ ∀ l, l.who = who → (l ∈ t.latches ↔ l ∈ s.latches)))
  ∧ (∀ (u : State) (who : Requester) (o : Nat), highOfPair (u.target (o + 4)) = true → (∀ l ∈ u.latches, ¬ (l.who = who ∧ l.off = o)) →
      ∃ x : State, exec (.highWordRead who (o + 4)) u = .next x ∧ x.rdata = (u.readPlain (u.target (o + 4))).setWidth 64)
  ∧ (∀ (s : State) (v : Nat), s.power.vio = true → s.host.msixOpen.contains v = true →
      let masked := (sget (fun _ => MsixEntry.reset) s.host.msixTable v).control.getLsbD 0
      (s.host.msixMerged.contains v = false ∨ s.host.quiesced = true →
        exec (.msixIntervalEnd v) s = .next { s with host := { s.host with msixOpen := s.host.msixOpen.erase v, msixMerged := s.host.msixMerged.erase v } })
      ∧ (s.host.msixMerged.contains v = true → s.host.quiesced = false → masked = false →
        exec (.msixIntervalEnd v) s = .next { s with host := { s.host with msixMerged := s.host.msixMerged.erase v }, pcieOut := s.pcieOut ++ [.msix v] })
      ∧ (s.host.msixMerged.contains v = true → s.host.quiesced = false → masked = true →
        ∃ t : State, exec (.msixIntervalEnd v) s = .next t ∧ t.host.msixMerged = s.host.msixMerged.erase v ∧ t.host.msixOpen = s.host.msixOpen.erase v
          ∧ t.mem = s.mem ∧ t.pcieOut = s.pcieOut ∧ sget (fun _ => false) t.host.msixPba v = true))

/-- R12, R128, R458, R461 to R464, R469, R470: a 32-bit write reaches the register at its offset (a flag register, a ring, a window slot, a blotter's registers
with their limits, the mailbox with its BUSY rule) and is ignored where none is. -/
def Obligations.RegisterWritesReachTheirRegister : Prop :=
  ∀ (s : State) (v : Nat), v < 2 ^ 32 →
    (∀ o, s.target o = .hole → exec (.registerWrite o 4 v) s = .next s)
    ∧ (∀ o f, flagAt (s.target o) = some f → exec (.registerWrite o 4 v) s = exec (.w1cClear o (w32 v) 0) s)
    ∧ (∀ r, s.ringOpen r = true →
      exec (.registerWrite (0x80000 + 0x100 * r + 0x28) 4 v) s = exec (.doorbell r (w32 v)) s
      ∧ exec (.registerWrite (0x80000 + 0x100 * r + 0x34) 4 v) s = exec (.ringCqheadWrite r (w32 v)) s
      ∧ exec (.registerWrite (0x80000 + 0x100 * r) 4 v) s = exec (.ringEnable r (w32 v)) s
      ∧ exec (.registerWrite (0x80000 + 0x100 * r + 0x40) 4 v) s = exec (.ringFeeddoneWrite r (w32 v)) s)
    ∧ (s.power.vio = true → ∀ slot, slot < 4096 → exec (.registerWrite (0x20000 + 4 * slot) 4 v) s = exec (.glbBar2MapWrite slot (w32 v)) s)
    ∧ (s.live = true → s.ready = true → ∀ d, d < 2 →
      exec (.registerWrite (0x3300000 + 0x10000 * d + 0x800) 4 v) s = exec (.wellBlotctlWrite d (w32 v)) s
      ∧ exec (.registerWrite (0x3300000 + 0x10000 * d + 0x804) 4 v) s = exec (.wellBlottolWrite d (w32 v)) s
      ∧ exec (.wellBlotctlWrite d (w32 v)) s = .next (s.setWell d { s.well d with
          blotK := BitVec.ofNat 5 (max 8 (min 20 (v % 32))), blotEn := v.testBit 8, blotAct := v.testBit 9 })
      ∧ exec (.wellBlottolWrite d (w32 v)) s = .next (s.setWell d { s.well d with
          blotRel := BitVec.ofNat 5 (max 8 (min 20 (v % 32))), blotAbs := BitVec.ofNat 8 (min 149 (v / 256 % 256)) }))
    ∧ (s.power.vio = true → s.scr.mbx.busy = true → ∀ o, o = 0 ∨ (0x10 ≤ o ∧ o < 0x50 ∧ o % 4 = 0) ∨ (0x1000 ≤ o ∧ o < 0x11000 ∧ o % 4 = 0) →
      exec (.registerWrite (0x40000 + o) 4 v) s =
        .next { s with scr := { s.scr with mbx := { s.scr.mbx with ignored := satAdd s.scr.mbx.ignored 1 } } })
    ∧ (s.power.vio = true → s.scr.mbx.busy = false →
      (∀ i, i < 16 → exec (.registerWrite (0x40010 + 4 * i) 4 v) s =
        .next { s with scr := { s.scr with mbx := { s.scr.mbx with args := s.scr.mbx.args.set i (w32 v) } } })
      ∧ (∀ i, i < 16384 → ∃ t : State, exec (.registerWrite (0x41000 + 4 * i) 4 v) s = .next t ∧ (t.scr.mbx.dataWord (4 * i)) = w32 v
          ∧ t = { s with scr := { s.scr with mbx := { s.scr.mbx with data := t.scr.mbx.data } } })
      ∧ (cmdAccepted (v % 65536) .mailbox = true → exec (.registerWrite 0x40000 4 v) s =
        .next { s with scr := { s.scr with
          mbx := { s.scr.mbx with busy := true },
          queue := s.scr.queue ++ [{ ch := .mailbox, op := v % 65536, tag := v / 65536 % 256, args := s.scr.mbx.args }] } })
      ∧ (cmdAccepted (v % 65536) .mailbox = false → ∃ t : State, exec (.registerWrite 0x40000 4 v) s = .next t ∧ t.scr.mbx.busy = true
          ∧ t.scr.queue = s.scr.queue ∧ ∃ d, t.scr.finish = some d ∧ d.status = 0x01 ∧ d.req.tag = v / 65536 % 256))

/-! ### The machine -/

/-- The command at the front of the queue is the one that a step runs, on the state with the rest of the queue; on an empty queue a nanosecond passes (the model's
choice, log entry 1). -/
def Obligations.StepRunsTheFrontCommand : Prop :=
  (∀ (c : Instr) (rest : List Instr) (s : State), step { s with pending := c :: rest } = exec c { s with pending := rest })
  ∧ ∀ s : State, s.pending = [] → ∃ t : State, step s = .next t ∧ t = { s with gtc := t.gtc, scr := { s.scr with uptimeNs := t.scr.uptimeNs } }
      ∧ (s.power.good = true → s.power.vio = true → s.gtc.slewPpm = 0 → s.gtc.slewAcc = 0 → t.gtc.now = s.gtc.now + 1)

/-- A step keeps memory in its canonical form: bytes at rising addresses, none of them the byte that an unlisted address reads as. -/
def Obligations.StepsKeepMemoryCanonical : Prop :=
  ∀ s t : State, Memory.wf s.mem = true → step s = .next t → Memory.wf t.mem = true

/-- R392: a fuse is never unblown, whatever a step does: the PROV and RET fuses and the rollback counter only go up, and the factory's fuses stay. -/
def Obligations.FusesAreNeverUnblown : Prop :=
  ∀ s t : State, step s = .next t →
    (s.fuses.prov = true → t.fuses.prov = true) ∧ (s.fuses.ret = true → t.fuses.ret = true) ∧ s.fuses.fuseVer ≤ t.fuses.fuseVer
      ∧ t.fuses.f512 = s.fuses.f512 ∧ t.fuses.defect = s.fuses.defect ∧ t.fuses.rootHash = s.fuses.rootHash ∧ t.fuses.vcore = s.fuses.vcore

/-- R468, with the Reset columns of R128, R184, R230, R263, R301, R336, R410, R438 and R461: what reset leaves in the registers that hold something else than 0,
that memory is canonical, and that no command waits. -/
def Obligations.ResetLeavesTheRegistersAtTheirValues : Prop :=
  let s := State.reset
  s.pending = [] ∧ Memory.wf s.mem = true ∧ (∀ a, memGet s.mem a = 0#8)
    ∧ s.boot.code = 0 ∧ s.boot.phase = 1 ∧ s.strk.clock = 0x12 ∧ s.strk.guard = 4 ∧ s.grp.mirrorRank = 0x7F
    ∧ s.readGlb 0x1140 = 1#32
    ∧ (∀ r, s.ring r = { en := false, sz := 4, base := 0, cqbase := 0, tail := 0, head := 0, cqtail := 0, cqhead := 0, phase := false, evt := Events.none,
                         prog := 0, feeddone := 0, cleared := false })
    ∧ (∀ d, s.readWell d 0x800 = 0x30C#32 ∧ s.readWell d 0x804 = 0x7E0D#32 ∧ ∀ n, n < 256 → s.readWell d (0x1400 + 4 * n) = 0xFFFFFFFF#32)
    ∧ (∀ i, (s.kv i).state = 0 ∧ (s.kv i).tail = 0xFFF) ∧ (∀ i, (s.page i).kind = if i < 73728 then 0 else 3)
    ∧ s.readScr 0xC4 = 0x812#32 ∧ (∀ p, (s.pipe p).lead = BitVec.ofNat 4 p) ∧ (∀ q, (s.quill q).fenced = 0)
    ∧ ∀ f, s.events f = Events.none
end

