-- ==== Sys2Proof/Laws/Sparse.lean ====
section
/-! SUPPORT. Laws of sparse tables: read after write, for every table, and that a write keeps the canonical form. -/
namespace Sys2Proof.Machine

variable {α : Type} [DecidableEq α] {d : Nat → α}

theorem sget_sput_same {m : Sparse α} (k : Nat) (v : α) : sget d (sput m k v) k = v := by
  induction m with
  | nil => simp [sput, sget]
  | cons e rest ih =>
    obtain ⟨k', v'⟩ := e
    simp only [sput]
    split
    · simp [sget]
    · split
      · simp [sget]
      · rename_i hne
        simp [sget, hne, ih]

theorem sget_sput_other {m : Sparse α} {k j : Nat} (v : α) (hj : j ≠ k) : sget d (sput m k v) j = sget d m j := by
  induction m with
  | nil => simp [sput, sget, hj]
  | cons e rest ih =>
    obtain ⟨k', v'⟩ := e
    simp only [sput]
    split
    · simp [sget, hj]
    · split
      · rename_i heq
        subst heq
        simp [sget, hj]
      · simp only [sget, ih]

theorem sget_filter_same {m : Sparse α} (k : Nat) : sget d (m.filter fun e => e.1 ≠ k) k = d k := by
  induction m with
  | nil => rfl
  | cons e rest ih =>
    obtain ⟨k', v'⟩ := e
    by_cases h : k' = k
    · simp [List.filter_cons, h]; simpa using ih
    · simp [List.filter_cons, h, sget, Ne.symm h]; simpa using ih

theorem sget_filter_other {m : Sparse α} {k j : Nat} (hj : j ≠ k) : sget d (m.filter fun e => e.1 ≠ k) j = sget d m j := by
  induction m with
  | nil => rfl
  | cons e rest ih =>
    obtain ⟨k', v'⟩ := e
    by_cases h : k' = k
    · subst h
      simp [List.filter_cons, sget, hj]; simpa using ih
    · simp [List.filter_cons, h, sget]
      split
      · rfl
      · simpa using ih

/-- Read after write at the same key. -/
@[simp] theorem sget_sset {m : Sparse α} (k : Nat) (v : α) : sget d (sset d m k v) k = v := by
  unfold sset
  split
  · rename_i h
    rw [sget_filter_same, h]
  · exact sget_sput_same k v

/-- Read after write at another key. -/
theorem sget_sset_other {m : Sparse α} {k j : Nat} (v : α) (hj : j ≠ k) : sget d (sset d m k v) j = sget d m j := by
  unfold sset
  split
  · exact sget_filter_other hj
  · exact sget_sput_other v hj

/-- Read after write. -/
theorem sget_sset_if {m : Sparse α} (k j : Nat) (v : α) : sget d (sset d m k v) j = if j = k then v else sget d m j := by
  split
  · rename_i h
    rw [h, sget_sset]
  · rename_i h
    exact sget_sset_other v h

theorem sAbove_mono {m : Sparse α} {lo lo' : Nat} (h : sAbove d lo m = true) (hl : lo' ≤ lo) : sAbove d lo' m = true := by
  cases m with
  | nil => rfl
  | cons e rest =>
    obtain ⟨k', v⟩ := e
    simp only [sAbove, Bool.and_eq_true, decide_eq_true_eq] at h ⊢
    exact ⟨⟨by omega, h.1.2⟩, h.2⟩

theorem sput_above {m : Sparse α} {lo k : Nat} {v : α} (h : sAbove d lo m = true) (hk : lo ≤ k) (hv : v ≠ d k) :
    sAbove d lo (sput m k v) = true := by
  induction m generalizing lo with
  | nil => simp [sput, sAbove, hv, hk]
  | cons e rest ih =>
    obtain ⟨k', v'⟩ := e
    simp only [sAbove, Bool.and_eq_true, decide_eq_true_eq] at h
    simp only [sput]
    split
    · simp only [sAbove, Bool.and_eq_true, decide_eq_true_eq]
      exact ⟨⟨hk, hv⟩, ⟨by omega, h.1.2⟩, h.2⟩
    · split
      · rename_i heq
        subst heq
        simp only [sAbove, Bool.and_eq_true, decide_eq_true_eq]
        exact ⟨⟨hk, hv⟩, h.2⟩
      · simp only [sAbove, Bool.and_eq_true, decide_eq_true_eq]
        exact ⟨h.1, ih h.2 (by omega)⟩

theorem filter_above {m : Sparse α} {lo : Nat} (p : Nat × α → Bool) (h : sAbove d lo m = true) : sAbove d lo (m.filter p) = true := by
  induction m generalizing lo with
  | nil => rfl
  | cons e rest ih =>
    obtain ⟨k', v'⟩ := e
    simp only [sAbove, Bool.and_eq_true, decide_eq_true_eq] at h
    simp only [List.filter_cons]
    split
    · simp only [sAbove, Bool.and_eq_true, decide_eq_true_eq]
      exact ⟨h.1, ih h.2⟩
    · exact sAbove_mono (ih h.2) (by omega)

/-- Removing entries keeps the canonical form. -/
theorem filter_wf {m : Sparse α} (p : Nat × α → Bool) (h : swf d m = true) : swf d (m.filter p) = true := filter_above p h

/-- A write keeps the canonical form. -/
theorem sset_wf {m : Sparse α} (k : Nat) (v : α) (h : swf d m = true) : swf d (sset d m k v) = true := by
  unfold sset
  split
  · exact filter_wf _ h
  · rename_i hv
    exact sput_above h (Nat.zero_le k) hv

end Sys2Proof.Machine
end

