-- ==== Sys2Proof/Laws/State.lean ====
section
/-! SUPPORT. Laws of the state's named updates: an update leaves every other field as it was, and a register array reads back what was written. -/
namespace Sys2Proof.Machine

variable (s : State)

/-! ### `setNib` -/

@[simp] theorem State.setNib_fuses (n : Nat) (x : Nib) : (s.setNib n x).fuses = s.fuses := rfl
@[simp] theorem State.setNib_flash0 (n : Nat) (x : Nib) : (s.setNib n x).flash0 = s.flash0 := rfl
@[simp] theorem State.setNib_flash1 (n : Nat) (x : Nib) : (s.setNib n x).flash1 = s.flash1 := rfl
@[simp] theorem State.setNib_power (n : Nat) (x : Nib) : (s.setNib n x).power = s.power := rfl
@[simp] theorem State.setNib_pins (n : Nat) (x : Nib) : (s.setNib n x).pins = s.pins := rfl
@[simp] theorem State.setNib_boot (n : Nat) (x : Nib) : (s.setNib n x).boot = s.boot := rfl
@[simp] theorem State.setNib_units (n : Nat) (x : Nib) : (s.setNib n x).units = s.units := rfl
@[simp] theorem State.setNib_wipe (n : Nat) (x : Nib) : (s.setNib n x).wipe = s.wipe := rfl
@[simp] theorem State.setNib_mem (n : Nat) (x : Nib) : (s.setNib n x).mem = s.mem := rfl
@[simp] theorem State.setNib_upset (n : Nat) (x : Nib) : (s.setNib n x).upset = s.upset := rfl
@[simp] theorem State.setNib_clamps (n : Nat) (x : Nib) : (s.setNib n x).clamps = s.clamps := rfl
@[simp] theorem State.setNib_pmap (n : Nat) (x : Nib) : (s.setNib n x).pmap = s.pmap := rfl
@[simp] theorem State.setNib_pmapPending (n : Nat) (x : Nib) : (s.setNib n x).pmapPending = s.pmapPending := rfl
@[simp] theorem State.setNib_loan (n : Nat) (x : Nib) : (s.setNib n x).loan = s.loan := rfl
@[simp] theorem State.setNib_stackRegs (n : Nat) (x : Nib) : (s.setNib n x).stackRegs = s.stackRegs := rfl
@[simp] theorem State.setNib_wells (n : Nat) (x : Nib) : (s.setNib n x).wells = s.wells := rfl
@[simp] theorem State.setNib_movers (n : Nat) (x : Nib) : (s.setNib n x).movers = s.movers := rfl
@[simp] theorem State.setNib_quills (n : Nat) (x : Nib) : (s.setNib n x).quills = s.quills := rfl
@[simp] theorem State.setNib_kvt (n : Nat) (x : Nib) : (s.setNib n x).kvt = s.kvt := rfl
@[simp] theorem State.setNib_gtc (n : Nat) (x : Nib) : (s.setNib n x).gtc = s.gtc := rfl
@[simp] theorem State.setNib_strk (n : Nat) (x : Nib) : (s.setNib n x).strk = s.strk := rfl
@[simp] theorem State.setNib_rule (n : Nat) (x : Nib) : (s.setNib n x).rule = s.rule := rfl
@[simp] theorem State.setNib_psets (n : Nat) (x : Nib) : (s.setNib n x).psets = s.psets := rfl
@[simp] theorem State.setNib_grp (n : Nat) (x : Nib) : (s.setNib n x).grp = s.grp := rfl
@[simp] theorem State.setNib_coll (n : Nat) (x : Nib) : (s.setNib n x).coll = s.coll := rfl
@[simp] theorem State.setNib_links (n : Nat) (x : Nib) : (s.setNib n x).links = s.links := rfl
@[simp] theorem State.setNib_inbox (n : Nat) (x : Nib) : (s.setNib n x).inbox = s.inbox := rfl
@[simp] theorem State.setNib_linkOut (n : Nat) (x : Nib) : (s.setNib n x).linkOut = s.linkOut := rfl
@[simp] theorem State.setNib_mir (n : Nat) (x : Nib) : (s.setNib n x).mir = s.mir := rfl
@[simp] theorem State.setNib_pipes (n : Nat) (x : Nib) : (s.setNib n x).pipes = s.pipes := rfl
@[simp] theorem State.setNib_ctxs (n : Nat) (x : Nib) : (s.setNib n x).ctxs = s.ctxs := rfl
@[simp] theorem State.setNib_rings (n : Nat) (x : Nib) : (s.setNib n x).rings = s.rings := rfl
@[simp] theorem State.setNib_host (n : Nat) (x : Nib) : (s.setNib n x).host = s.host := rfl
@[simp] theorem State.setNib_latches (n : Nat) (x : Nib) : (s.setNib n x).latches = s.latches := rfl
@[simp] theorem State.setNib_pcieOut (n : Nat) (x : Nib) : (s.setNib n x).pcieOut = s.pcieOut := rfl
@[simp] theorem State.setNib_rdata (n : Nat) (x : Nib) : (s.setNib n x).rdata = s.rdata := rfl
@[simp] theorem State.setNib_rbytes (n : Nat) (x : Nib) : (s.setNib n x).rbytes = s.rbytes := rfl
@[simp] theorem State.setNib_scr (n : Nat) (x : Nib) : (s.setNib n x).scr = s.scr := rfl
@[simp] theorem State.setNib_free (n : Nat) (x : Nib) : (s.setNib n x).free = s.free := rfl
@[simp] theorem State.setNib_pending (n : Nat) (x : Nib) : (s.setNib n x).pending = s.pending := rfl
@[simp] theorem State.setNib_nib (n : Nat) (x : Nib) : (s.setNib n x).nib n = x := sget_sset _ _
theorem State.setNib_nib_other (n : Nat) (x : Nib) (n' : Nat) (h : n' ≠ n) : (s.setNib n x).nib n' = s.nib n' := sget_sset_other _ h

/-! ### `setQuill` -/

@[simp] theorem State.setQuill_fuses (q : Nat) (x : Quill) : (s.setQuill q x).fuses = s.fuses := rfl
@[simp] theorem State.setQuill_flash0 (q : Nat) (x : Quill) : (s.setQuill q x).flash0 = s.flash0 := rfl
@[simp] theorem State.setQuill_flash1 (q : Nat) (x : Quill) : (s.setQuill q x).flash1 = s.flash1 := rfl
@[simp] theorem State.setQuill_power (q : Nat) (x : Quill) : (s.setQuill q x).power = s.power := rfl
@[simp] theorem State.setQuill_pins (q : Nat) (x : Quill) : (s.setQuill q x).pins = s.pins := rfl
@[simp] theorem State.setQuill_boot (q : Nat) (x : Quill) : (s.setQuill q x).boot = s.boot := rfl
@[simp] theorem State.setQuill_units (q : Nat) (x : Quill) : (s.setQuill q x).units = s.units := rfl
@[simp] theorem State.setQuill_wipe (q : Nat) (x : Quill) : (s.setQuill q x).wipe = s.wipe := rfl
@[simp] theorem State.setQuill_mem (q : Nat) (x : Quill) : (s.setQuill q x).mem = s.mem := rfl
@[simp] theorem State.setQuill_upset (q : Nat) (x : Quill) : (s.setQuill q x).upset = s.upset := rfl
@[simp] theorem State.setQuill_clamps (q : Nat) (x : Quill) : (s.setQuill q x).clamps = s.clamps := rfl
@[simp] theorem State.setQuill_pmap (q : Nat) (x : Quill) : (s.setQuill q x).pmap = s.pmap := rfl
@[simp] theorem State.setQuill_pmapPending (q : Nat) (x : Quill) : (s.setQuill q x).pmapPending = s.pmapPending := rfl
@[simp] theorem State.setQuill_loan (q : Nat) (x : Quill) : (s.setQuill q x).loan = s.loan := rfl
@[simp] theorem State.setQuill_stackRegs (q : Nat) (x : Quill) : (s.setQuill q x).stackRegs = s.stackRegs := rfl
@[simp] theorem State.setQuill_wells (q : Nat) (x : Quill) : (s.setQuill q x).wells = s.wells := rfl
@[simp] theorem State.setQuill_movers (q : Nat) (x : Quill) : (s.setQuill q x).movers = s.movers := rfl
@[simp] theorem State.setQuill_nibs (q : Nat) (x : Quill) : (s.setQuill q x).nibs = s.nibs := rfl
@[simp] theorem State.setQuill_kvt (q : Nat) (x : Quill) : (s.setQuill q x).kvt = s.kvt := rfl
@[simp] theorem State.setQuill_gtc (q : Nat) (x : Quill) : (s.setQuill q x).gtc = s.gtc := rfl
@[simp] theorem State.setQuill_strk (q : Nat) (x : Quill) : (s.setQuill q x).strk = s.strk := rfl
@[simp] theorem State.setQuill_rule (q : Nat) (x : Quill) : (s.setQuill q x).rule = s.rule := rfl
@[simp] theorem State.setQuill_psets (q : Nat) (x : Quill) : (s.setQuill q x).psets = s.psets := rfl
@[simp] theorem State.setQuill_grp (q : Nat) (x : Quill) : (s.setQuill q x).grp = s.grp := rfl
@[simp] theorem State.setQuill_coll (q : Nat) (x : Quill) : (s.setQuill q x).coll = s.coll := rfl
@[simp] theorem State.setQuill_links (q : Nat) (x : Quill) : (s.setQuill q x).links = s.links := rfl
@[simp] theorem State.setQuill_inbox (q : Nat) (x : Quill) : (s.setQuill q x).inbox = s.inbox := rfl
@[simp] theorem State.setQuill_linkOut (q : Nat) (x : Quill) : (s.setQuill q x).linkOut = s.linkOut := rfl
@[simp] theorem State.setQuill_mir (q : Nat) (x : Quill) : (s.setQuill q x).mir = s.mir := rfl
@[simp] theorem State.setQuill_pipes (q : Nat) (x : Quill) : (s.setQuill q x).pipes = s.pipes := rfl
@[simp] theorem State.setQuill_ctxs (q : Nat) (x : Quill) : (s.setQuill q x).ctxs = s.ctxs := rfl
@[simp] theorem State.setQuill_rings (q : Nat) (x : Quill) : (s.setQuill q x).rings = s.rings := rfl
@[simp] theorem State.setQuill_host (q : Nat) (x : Quill) : (s.setQuill q x).host = s.host := rfl
@[simp] theorem State.setQuill_latches (q : Nat) (x : Quill) : (s.setQuill q x).latches = s.latches := rfl
@[simp] theorem State.setQuill_pcieOut (q : Nat) (x : Quill) : (s.setQuill q x).pcieOut = s.pcieOut := rfl
@[simp] theorem State.setQuill_rdata (q : Nat) (x : Quill) : (s.setQuill q x).rdata = s.rdata := rfl
@[simp] theorem State.setQuill_rbytes (q : Nat) (x : Quill) : (s.setQuill q x).rbytes = s.rbytes := rfl
@[simp] theorem State.setQuill_scr (q : Nat) (x : Quill) : (s.setQuill q x).scr = s.scr := rfl
@[simp] theorem State.setQuill_free (q : Nat) (x : Quill) : (s.setQuill q x).free = s.free := rfl
@[simp] theorem State.setQuill_pending (q : Nat) (x : Quill) : (s.setQuill q x).pending = s.pending := rfl
@[simp] theorem State.setQuill_quill (q : Nat) (x : Quill) : (s.setQuill q x).quill q = x := sget_sset _ _
theorem State.setQuill_quill_other (q : Nat) (x : Quill) (q' : Nat) (h : q' ≠ q) : (s.setQuill q x).quill q' = s.quill q' := sget_sset_other _ h

/-! ### `setWell` -/

@[simp] theorem State.setWell_fuses (d : Nat) (x : Well) : (s.setWell d x).fuses = s.fuses := rfl
@[simp] theorem State.setWell_flash0 (d : Nat) (x : Well) : (s.setWell d x).flash0 = s.flash0 := rfl
@[simp] theorem State.setWell_flash1 (d : Nat) (x : Well) : (s.setWell d x).flash1 = s.flash1 := rfl
@[simp] theorem State.setWell_power (d : Nat) (x : Well) : (s.setWell d x).power = s.power := rfl
@[simp] theorem State.setWell_pins (d : Nat) (x : Well) : (s.setWell d x).pins = s.pins := rfl
@[simp] theorem State.setWell_boot (d : Nat) (x : Well) : (s.setWell d x).boot = s.boot := rfl
@[simp] theorem State.setWell_units (d : Nat) (x : Well) : (s.setWell d x).units = s.units := rfl
@[simp] theorem State.setWell_wipe (d : Nat) (x : Well) : (s.setWell d x).wipe = s.wipe := rfl
@[simp] theorem State.setWell_mem (d : Nat) (x : Well) : (s.setWell d x).mem = s.mem := rfl
@[simp] theorem State.setWell_upset (d : Nat) (x : Well) : (s.setWell d x).upset = s.upset := rfl
@[simp] theorem State.setWell_clamps (d : Nat) (x : Well) : (s.setWell d x).clamps = s.clamps := rfl
@[simp] theorem State.setWell_pmap (d : Nat) (x : Well) : (s.setWell d x).pmap = s.pmap := rfl
@[simp] theorem State.setWell_pmapPending (d : Nat) (x : Well) : (s.setWell d x).pmapPending = s.pmapPending := rfl
@[simp] theorem State.setWell_loan (d : Nat) (x : Well) : (s.setWell d x).loan = s.loan := rfl
@[simp] theorem State.setWell_stackRegs (d : Nat) (x : Well) : (s.setWell d x).stackRegs = s.stackRegs := rfl
@[simp] theorem State.setWell_movers (d : Nat) (x : Well) : (s.setWell d x).movers = s.movers := rfl
@[simp] theorem State.setWell_nibs (d : Nat) (x : Well) : (s.setWell d x).nibs = s.nibs := rfl
@[simp] theorem State.setWell_quills (d : Nat) (x : Well) : (s.setWell d x).quills = s.quills := rfl
@[simp] theorem State.setWell_kvt (d : Nat) (x : Well) : (s.setWell d x).kvt = s.kvt := rfl
@[simp] theorem State.setWell_gtc (d : Nat) (x : Well) : (s.setWell d x).gtc = s.gtc := rfl
@[simp] theorem State.setWell_strk (d : Nat) (x : Well) : (s.setWell d x).strk = s.strk := rfl
@[simp] theorem State.setWell_rule (d : Nat) (x : Well) : (s.setWell d x).rule = s.rule := rfl
@[simp] theorem State.setWell_psets (d : Nat) (x : Well) : (s.setWell d x).psets = s.psets := rfl
@[simp] theorem State.setWell_grp (d : Nat) (x : Well) : (s.setWell d x).grp = s.grp := rfl
@[simp] theorem State.setWell_coll (d : Nat) (x : Well) : (s.setWell d x).coll = s.coll := rfl
@[simp] theorem State.setWell_links (d : Nat) (x : Well) : (s.setWell d x).links = s.links := rfl
@[simp] theorem State.setWell_inbox (d : Nat) (x : Well) : (s.setWell d x).inbox = s.inbox := rfl
@[simp] theorem State.setWell_linkOut (d : Nat) (x : Well) : (s.setWell d x).linkOut = s.linkOut := rfl
@[simp] theorem State.setWell_mir (d : Nat) (x : Well) : (s.setWell d x).mir = s.mir := rfl
@[simp] theorem State.setWell_pipes (d : Nat) (x : Well) : (s.setWell d x).pipes = s.pipes := rfl
@[simp] theorem State.setWell_ctxs (d : Nat) (x : Well) : (s.setWell d x).ctxs = s.ctxs := rfl
@[simp] theorem State.setWell_rings (d : Nat) (x : Well) : (s.setWell d x).rings = s.rings := rfl
@[simp] theorem State.setWell_host (d : Nat) (x : Well) : (s.setWell d x).host = s.host := rfl
@[simp] theorem State.setWell_latches (d : Nat) (x : Well) : (s.setWell d x).latches = s.latches := rfl
@[simp] theorem State.setWell_pcieOut (d : Nat) (x : Well) : (s.setWell d x).pcieOut = s.pcieOut := rfl
@[simp] theorem State.setWell_rdata (d : Nat) (x : Well) : (s.setWell d x).rdata = s.rdata := rfl
@[simp] theorem State.setWell_rbytes (d : Nat) (x : Well) : (s.setWell d x).rbytes = s.rbytes := rfl
@[simp] theorem State.setWell_scr (d : Nat) (x : Well) : (s.setWell d x).scr = s.scr := rfl
@[simp] theorem State.setWell_free (d : Nat) (x : Well) : (s.setWell d x).free = s.free := rfl
@[simp] theorem State.setWell_pending (d : Nat) (x : Well) : (s.setWell d x).pending = s.pending := rfl
@[simp] theorem State.setWell_well (d : Nat) (x : Well) : (s.setWell d x).well d = x := sget_sset _ _
theorem State.setWell_well_other (d : Nat) (x : Well) (d' : Nat) (h : d' ≠ d) : (s.setWell d x).well d' = s.well d' := sget_sset_other _ h

/-! ### `setStack` -/

@[simp] theorem State.setStack_fuses (k : Nat) (x : Stack) : (s.setStack k x).fuses = s.fuses := rfl
@[simp] theorem State.setStack_flash0 (k : Nat) (x : Stack) : (s.setStack k x).flash0 = s.flash0 := rfl
@[simp] theorem State.setStack_flash1 (k : Nat) (x : Stack) : (s.setStack k x).flash1 = s.flash1 := rfl
@[simp] theorem State.setStack_power (k : Nat) (x : Stack) : (s.setStack k x).power = s.power := rfl
@[simp] theorem State.setStack_pins (k : Nat) (x : Stack) : (s.setStack k x).pins = s.pins := rfl
@[simp] theorem State.setStack_boot (k : Nat) (x : Stack) : (s.setStack k x).boot = s.boot := rfl
@[simp] theorem State.setStack_units (k : Nat) (x : Stack) : (s.setStack k x).units = s.units := rfl
@[simp] theorem State.setStack_wipe (k : Nat) (x : Stack) : (s.setStack k x).wipe = s.wipe := rfl
@[simp] theorem State.setStack_mem (k : Nat) (x : Stack) : (s.setStack k x).mem = s.mem := rfl
@[simp] theorem State.setStack_upset (k : Nat) (x : Stack) : (s.setStack k x).upset = s.upset := rfl
@[simp] theorem State.setStack_clamps (k : Nat) (x : Stack) : (s.setStack k x).clamps = s.clamps := rfl
@[simp] theorem State.setStack_pmap (k : Nat) (x : Stack) : (s.setStack k x).pmap = s.pmap := rfl
@[simp] theorem State.setStack_pmapPending (k : Nat) (x : Stack) : (s.setStack k x).pmapPending = s.pmapPending := rfl
@[simp] theorem State.setStack_loan (k : Nat) (x : Stack) : (s.setStack k x).loan = s.loan := rfl
@[simp] theorem State.setStack_wells (k : Nat) (x : Stack) : (s.setStack k x).wells = s.wells := rfl
@[simp] theorem State.setStack_movers (k : Nat) (x : Stack) : (s.setStack k x).movers = s.movers := rfl
@[simp] theorem State.setStack_nibs (k : Nat) (x : Stack) : (s.setStack k x).nibs = s.nibs := rfl
@[simp] theorem State.setStack_quills (k : Nat) (x : Stack) : (s.setStack k x).quills = s.quills := rfl
@[simp] theorem State.setStack_kvt (k : Nat) (x : Stack) : (s.setStack k x).kvt = s.kvt := rfl
@[simp] theorem State.setStack_gtc (k : Nat) (x : Stack) : (s.setStack k x).gtc = s.gtc := rfl
@[simp] theorem State.setStack_strk (k : Nat) (x : Stack) : (s.setStack k x).strk = s.strk := rfl
@[simp] theorem State.setStack_rule (k : Nat) (x : Stack) : (s.setStack k x).rule = s.rule := rfl
@[simp] theorem State.setStack_psets (k : Nat) (x : Stack) : (s.setStack k x).psets = s.psets := rfl
@[simp] theorem State.setStack_grp (k : Nat) (x : Stack) : (s.setStack k x).grp = s.grp := rfl
@[simp] theorem State.setStack_coll (k : Nat) (x : Stack) : (s.setStack k x).coll = s.coll := rfl
@[simp] theorem State.setStack_links (k : Nat) (x : Stack) : (s.setStack k x).links = s.links := rfl
@[simp] theorem State.setStack_inbox (k : Nat) (x : Stack) : (s.setStack k x).inbox = s.inbox := rfl
@[simp] theorem State.setStack_linkOut (k : Nat) (x : Stack) : (s.setStack k x).linkOut = s.linkOut := rfl
@[simp] theorem State.setStack_mir (k : Nat) (x : Stack) : (s.setStack k x).mir = s.mir := rfl
@[simp] theorem State.setStack_pipes (k : Nat) (x : Stack) : (s.setStack k x).pipes = s.pipes := rfl
@[simp] theorem State.setStack_ctxs (k : Nat) (x : Stack) : (s.setStack k x).ctxs = s.ctxs := rfl
@[simp] theorem State.setStack_rings (k : Nat) (x : Stack) : (s.setStack k x).rings = s.rings := rfl
@[simp] theorem State.setStack_host (k : Nat) (x : Stack) : (s.setStack k x).host = s.host := rfl
@[simp] theorem State.setStack_latches (k : Nat) (x : Stack) : (s.setStack k x).latches = s.latches := rfl
@[simp] theorem State.setStack_pcieOut (k : Nat) (x : Stack) : (s.setStack k x).pcieOut = s.pcieOut := rfl
@[simp] theorem State.setStack_rdata (k : Nat) (x : Stack) : (s.setStack k x).rdata = s.rdata := rfl
@[simp] theorem State.setStack_rbytes (k : Nat) (x : Stack) : (s.setStack k x).rbytes = s.rbytes := rfl
@[simp] theorem State.setStack_scr (k : Nat) (x : Stack) : (s.setStack k x).scr = s.scr := rfl
@[simp] theorem State.setStack_free (k : Nat) (x : Stack) : (s.setStack k x).free = s.free := rfl
@[simp] theorem State.setStack_pending (k : Nat) (x : Stack) : (s.setStack k x).pending = s.pending := rfl
@[simp] theorem State.setStack_stack (k : Nat) (x : Stack) : (s.setStack k x).stack k = x := sget_sset _ _
theorem State.setStack_stack_other (k : Nat) (x : Stack) (k' : Nat) (h : k' ≠ k) : (s.setStack k x).stack k' = s.stack k' := sget_sset_other _ h

/-! ### `setLink` -/

@[simp] theorem State.setLink_fuses (l : Nat) (x : LinkState) : (s.setLink l x).fuses = s.fuses := rfl
@[simp] theorem State.setLink_flash0 (l : Nat) (x : LinkState) : (s.setLink l x).flash0 = s.flash0 := rfl
@[simp] theorem State.setLink_flash1 (l : Nat) (x : LinkState) : (s.setLink l x).flash1 = s.flash1 := rfl
@[simp] theorem State.setLink_power (l : Nat) (x : LinkState) : (s.setLink l x).power = s.power := rfl
@[simp] theorem State.setLink_pins (l : Nat) (x : LinkState) : (s.setLink l x).pins = s.pins := rfl
@[simp] theorem State.setLink_boot (l : Nat) (x : LinkState) : (s.setLink l x).boot = s.boot := rfl
@[simp] theorem State.setLink_units (l : Nat) (x : LinkState) : (s.setLink l x).units = s.units := rfl
@[simp] theorem State.setLink_wipe (l : Nat) (x : LinkState) : (s.setLink l x).wipe = s.wipe := rfl
@[simp] theorem State.setLink_mem (l : Nat) (x : LinkState) : (s.setLink l x).mem = s.mem := rfl
@[simp] theorem State.setLink_upset (l : Nat) (x : LinkState) : (s.setLink l x).upset = s.upset := rfl
@[simp] theorem State.setLink_clamps (l : Nat) (x : LinkState) : (s.setLink l x).clamps = s.clamps := rfl
@[simp] theorem State.setLink_pmap (l : Nat) (x : LinkState) : (s.setLink l x).pmap = s.pmap := rfl
@[simp] theorem State.setLink_pmapPending (l : Nat) (x : LinkState) : (s.setLink l x).pmapPending = s.pmapPending := rfl
@[simp] theorem State.setLink_loan (l : Nat) (x : LinkState) : (s.setLink l x).loan = s.loan := rfl
@[simp] theorem State.setLink_stackRegs (l : Nat) (x : LinkState) : (s.setLink l x).stackRegs = s.stackRegs := rfl
@[simp] theorem State.setLink_wells (l : Nat) (x : LinkState) : (s.setLink l x).wells = s.wells := rfl
@[simp] theorem State.setLink_movers (l : Nat) (x : LinkState) : (s.setLink l x).movers = s.movers := rfl
@[simp] theorem State.setLink_nibs (l : Nat) (x : LinkState) : (s.setLink l x).nibs = s.nibs := rfl
@[simp] theorem State.setLink_quills (l : Nat) (x : LinkState) : (s.setLink l x).quills = s.quills := rfl
@[simp] theorem State.setLink_kvt (l : Nat) (x : LinkState) : (s.setLink l x).kvt = s.kvt := rfl
@[simp] theorem State.setLink_gtc (l : Nat) (x : LinkState) : (s.setLink l x).gtc = s.gtc := rfl
@[simp] theorem State.setLink_strk (l : Nat) (x : LinkState) : (s.setLink l x).strk = s.strk := rfl
@[simp] theorem State.setLink_rule (l : Nat) (x : LinkState) : (s.setLink l x).rule = s.rule := rfl
@[simp] theorem State.setLink_psets (l : Nat) (x : LinkState) : (s.setLink l x).psets = s.psets := rfl
@[simp] theorem State.setLink_grp (l : Nat) (x : LinkState) : (s.setLink l x).grp = s.grp := rfl
@[simp] theorem State.setLink_coll (l : Nat) (x : LinkState) : (s.setLink l x).coll = s.coll := rfl
@[simp] theorem State.setLink_inbox (l : Nat) (x : LinkState) : (s.setLink l x).inbox = s.inbox := rfl
@[simp] theorem State.setLink_linkOut (l : Nat) (x : LinkState) : (s.setLink l x).linkOut = s.linkOut := rfl
@[simp] theorem State.setLink_mir (l : Nat) (x : LinkState) : (s.setLink l x).mir = s.mir := rfl
@[simp] theorem State.setLink_pipes (l : Nat) (x : LinkState) : (s.setLink l x).pipes = s.pipes := rfl
@[simp] theorem State.setLink_ctxs (l : Nat) (x : LinkState) : (s.setLink l x).ctxs = s.ctxs := rfl
@[simp] theorem State.setLink_rings (l : Nat) (x : LinkState) : (s.setLink l x).rings = s.rings := rfl
@[simp] theorem State.setLink_host (l : Nat) (x : LinkState) : (s.setLink l x).host = s.host := rfl
@[simp] theorem State.setLink_latches (l : Nat) (x : LinkState) : (s.setLink l x).latches = s.latches := rfl
@[simp] theorem State.setLink_pcieOut (l : Nat) (x : LinkState) : (s.setLink l x).pcieOut = s.pcieOut := rfl
@[simp] theorem State.setLink_rdata (l : Nat) (x : LinkState) : (s.setLink l x).rdata = s.rdata := rfl
@[simp] theorem State.setLink_rbytes (l : Nat) (x : LinkState) : (s.setLink l x).rbytes = s.rbytes := rfl
@[simp] theorem State.setLink_scr (l : Nat) (x : LinkState) : (s.setLink l x).scr = s.scr := rfl
@[simp] theorem State.setLink_free (l : Nat) (x : LinkState) : (s.setLink l x).free = s.free := rfl
@[simp] theorem State.setLink_pending (l : Nat) (x : LinkState) : (s.setLink l x).pending = s.pending := rfl
@[simp] theorem State.setLink_link (l : Nat) (x : LinkState) : (s.setLink l x).link l = x := sget_sset _ _
theorem State.setLink_link_other (l : Nat) (x : LinkState) (l' : Nat) (h : l' ≠ l) : (s.setLink l x).link l' = s.link l' := sget_sset_other _ h

/-! ### `setPipe` -/

@[simp] theorem State.setPipe_fuses (p : Nat) (x : Pipe) : (s.setPipe p x).fuses = s.fuses := rfl
@[simp] theorem State.setPipe_flash0 (p : Nat) (x : Pipe) : (s.setPipe p x).flash0 = s.flash0 := rfl
@[simp] theorem State.setPipe_flash1 (p : Nat) (x : Pipe) : (s.setPipe p x).flash1 = s.flash1 := rfl
@[simp] theorem State.setPipe_power (p : Nat) (x : Pipe) : (s.setPipe p x).power = s.power := rfl
@[simp] theorem State.setPipe_pins (p : Nat) (x : Pipe) : (s.setPipe p x).pins = s.pins := rfl
@[simp] theorem State.setPipe_boot (p : Nat) (x : Pipe) : (s.setPipe p x).boot = s.boot := rfl
@[simp] theorem State.setPipe_units (p : Nat) (x : Pipe) : (s.setPipe p x).units = s.units := rfl
@[simp] theorem State.setPipe_wipe (p : Nat) (x : Pipe) : (s.setPipe p x).wipe = s.wipe := rfl
@[simp] theorem State.setPipe_mem (p : Nat) (x : Pipe) : (s.setPipe p x).mem = s.mem := rfl
@[simp] theorem State.setPipe_upset (p : Nat) (x : Pipe) : (s.setPipe p x).upset = s.upset := rfl
@[simp] theorem State.setPipe_clamps (p : Nat) (x : Pipe) : (s.setPipe p x).clamps = s.clamps := rfl
@[simp] theorem State.setPipe_pmap (p : Nat) (x : Pipe) : (s.setPipe p x).pmap = s.pmap := rfl
@[simp] theorem State.setPipe_pmapPending (p : Nat) (x : Pipe) : (s.setPipe p x).pmapPending = s.pmapPending := rfl
@[simp] theorem State.setPipe_loan (p : Nat) (x : Pipe) : (s.setPipe p x).loan = s.loan := rfl
@[simp] theorem State.setPipe_stackRegs (p : Nat) (x : Pipe) : (s.setPipe p x).stackRegs = s.stackRegs := rfl
@[simp] theorem State.setPipe_wells (p : Nat) (x : Pipe) : (s.setPipe p x).wells = s.wells := rfl
@[simp] theorem State.setPipe_movers (p : Nat) (x : Pipe) : (s.setPipe p x).movers = s.movers := rfl
@[simp] theorem State.setPipe_nibs (p : Nat) (x : Pipe) : (s.setPipe p x).nibs = s.nibs := rfl
@[simp] theorem State.setPipe_quills (p : Nat) (x : Pipe) : (s.setPipe p x).quills = s.quills := rfl
@[simp] theorem State.setPipe_kvt (p : Nat) (x : Pipe) : (s.setPipe p x).kvt = s.kvt := rfl
@[simp] theorem State.setPipe_gtc (p : Nat) (x : Pipe) : (s.setPipe p x).gtc = s.gtc := rfl
@[simp] theorem State.setPipe_strk (p : Nat) (x : Pipe) : (s.setPipe p x).strk = s.strk := rfl
@[simp] theorem State.setPipe_rule (p : Nat) (x : Pipe) : (s.setPipe p x).rule = s.rule := rfl
@[simp] theorem State.setPipe_psets (p : Nat) (x : Pipe) : (s.setPipe p x).psets = s.psets := rfl
@[simp] theorem State.setPipe_grp (p : Nat) (x : Pipe) : (s.setPipe p x).grp = s.grp := rfl
@[simp] theorem State.setPipe_coll (p : Nat) (x : Pipe) : (s.setPipe p x).coll = s.coll := rfl
@[simp] theorem State.setPipe_links (p : Nat) (x : Pipe) : (s.setPipe p x).links = s.links := rfl
@[simp] theorem State.setPipe_inbox (p : Nat) (x : Pipe) : (s.setPipe p x).inbox = s.inbox := rfl
@[simp] theorem State.setPipe_linkOut (p : Nat) (x : Pipe) : (s.setPipe p x).linkOut = s.linkOut := rfl
@[simp] theorem State.setPipe_mir (p : Nat) (x : Pipe) : (s.setPipe p x).mir = s.mir := rfl
@[simp] theorem State.setPipe_ctxs (p : Nat) (x : Pipe) : (s.setPipe p x).ctxs = s.ctxs := rfl
@[simp] theorem State.setPipe_rings (p : Nat) (x : Pipe) : (s.setPipe p x).rings = s.rings := rfl
@[simp] theorem State.setPipe_host (p : Nat) (x : Pipe) : (s.setPipe p x).host = s.host := rfl
@[simp] theorem State.setPipe_latches (p : Nat) (x : Pipe) : (s.setPipe p x).latches = s.latches := rfl
@[simp] theorem State.setPipe_pcieOut (p : Nat) (x : Pipe) : (s.setPipe p x).pcieOut = s.pcieOut := rfl
@[simp] theorem State.setPipe_rdata (p : Nat) (x : Pipe) : (s.setPipe p x).rdata = s.rdata := rfl
@[simp] theorem State.setPipe_rbytes (p : Nat) (x : Pipe) : (s.setPipe p x).rbytes = s.rbytes := rfl
@[simp] theorem State.setPipe_scr (p : Nat) (x : Pipe) : (s.setPipe p x).scr = s.scr := rfl
@[simp] theorem State.setPipe_free (p : Nat) (x : Pipe) : (s.setPipe p x).free = s.free := rfl
@[simp] theorem State.setPipe_pending (p : Nat) (x : Pipe) : (s.setPipe p x).pending = s.pending := rfl
@[simp] theorem State.setPipe_pipe (p : Nat) (x : Pipe) : (s.setPipe p x).pipe p = x := sget_sset _ _
theorem State.setPipe_pipe_other (p : Nat) (x : Pipe) (p' : Nat) (h : p' ≠ p) : (s.setPipe p x).pipe p' = s.pipe p' := sget_sset_other _ h

/-! ### `setRing` -/

@[simp] theorem State.setRing_fuses (r : Nat) (x : Ring) : (s.setRing r x).fuses = s.fuses := rfl
@[simp] theorem State.setRing_flash0 (r : Nat) (x : Ring) : (s.setRing r x).flash0 = s.flash0 := rfl
@[simp] theorem State.setRing_flash1 (r : Nat) (x : Ring) : (s.setRing r x).flash1 = s.flash1 := rfl
@[simp] theorem State.setRing_power (r : Nat) (x : Ring) : (s.setRing r x).power = s.power := rfl
@[simp] theorem State.setRing_pins (r : Nat) (x : Ring) : (s.setRing r x).pins = s.pins := rfl
@[simp] theorem State.setRing_boot (r : Nat) (x : Ring) : (s.setRing r x).boot = s.boot := rfl
@[simp] theorem State.setRing_units (r : Nat) (x : Ring) : (s.setRing r x).units = s.units := rfl
@[simp] theorem State.setRing_wipe (r : Nat) (x : Ring) : (s.setRing r x).wipe = s.wipe := rfl
@[simp] theorem State.setRing_mem (r : Nat) (x : Ring) : (s.setRing r x).mem = s.mem := rfl
@[simp] theorem State.setRing_upset (r : Nat) (x : Ring) : (s.setRing r x).upset = s.upset := rfl
@[simp] theorem State.setRing_clamps (r : Nat) (x : Ring) : (s.setRing r x).clamps = s.clamps := rfl
@[simp] theorem State.setRing_pmap (r : Nat) (x : Ring) : (s.setRing r x).pmap = s.pmap := rfl
@[simp] theorem State.setRing_pmapPending (r : Nat) (x : Ring) : (s.setRing r x).pmapPending = s.pmapPending := rfl
@[simp] theorem State.setRing_loan (r : Nat) (x : Ring) : (s.setRing r x).loan = s.loan := rfl
@[simp] theorem State.setRing_stackRegs (r : Nat) (x : Ring) : (s.setRing r x).stackRegs = s.stackRegs := rfl
@[simp] theorem State.setRing_wells (r : Nat) (x : Ring) : (s.setRing r x).wells = s.wells := rfl
@[simp] theorem State.setRing_movers (r : Nat) (x : Ring) : (s.setRing r x).movers = s.movers := rfl
@[simp] theorem State.setRing_nibs (r : Nat) (x : Ring) : (s.setRing r x).nibs = s.nibs := rfl
@[simp] theorem State.setRing_quills (r : Nat) (x : Ring) : (s.setRing r x).quills = s.quills := rfl
@[simp] theorem State.setRing_kvt (r : Nat) (x : Ring) : (s.setRing r x).kvt = s.kvt := rfl
@[simp] theorem State.setRing_gtc (r : Nat) (x : Ring) : (s.setRing r x).gtc = s.gtc := rfl
@[simp] theorem State.setRing_strk (r : Nat) (x : Ring) : (s.setRing r x).strk = s.strk := rfl
@[simp] theorem State.setRing_rule (r : Nat) (x : Ring) : (s.setRing r x).rule = s.rule := rfl
@[simp] theorem State.setRing_psets (r : Nat) (x : Ring) : (s.setRing r x).psets = s.psets := rfl
@[simp] theorem State.setRing_grp (r : Nat) (x : Ring) : (s.setRing r x).grp = s.grp := rfl
@[simp] theorem State.setRing_coll (r : Nat) (x : Ring) : (s.setRing r x).coll = s.coll := rfl
@[simp] theorem State.setRing_links (r : Nat) (x : Ring) : (s.setRing r x).links = s.links := rfl
@[simp] theorem State.setRing_inbox (r : Nat) (x : Ring) : (s.setRing r x).inbox = s.inbox := rfl
@[simp] theorem State.setRing_linkOut (r : Nat) (x : Ring) : (s.setRing r x).linkOut = s.linkOut := rfl
@[simp] theorem State.setRing_mir (r : Nat) (x : Ring) : (s.setRing r x).mir = s.mir := rfl
@[simp] theorem State.setRing_pipes (r : Nat) (x : Ring) : (s.setRing r x).pipes = s.pipes := rfl
@[simp] theorem State.setRing_ctxs (r : Nat) (x : Ring) : (s.setRing r x).ctxs = s.ctxs := rfl
@[simp] theorem State.setRing_host (r : Nat) (x : Ring) : (s.setRing r x).host = s.host := rfl
@[simp] theorem State.setRing_latches (r : Nat) (x : Ring) : (s.setRing r x).latches = s.latches := rfl
@[simp] theorem State.setRing_pcieOut (r : Nat) (x : Ring) : (s.setRing r x).pcieOut = s.pcieOut := rfl
@[simp] theorem State.setRing_rdata (r : Nat) (x : Ring) : (s.setRing r x).rdata = s.rdata := rfl
@[simp] theorem State.setRing_rbytes (r : Nat) (x : Ring) : (s.setRing r x).rbytes = s.rbytes := rfl
@[simp] theorem State.setRing_scr (r : Nat) (x : Ring) : (s.setRing r x).scr = s.scr := rfl
@[simp] theorem State.setRing_free (r : Nat) (x : Ring) : (s.setRing r x).free = s.free := rfl
@[simp] theorem State.setRing_pending (r : Nat) (x : Ring) : (s.setRing r x).pending = s.pending := rfl
@[simp] theorem State.setRing_ring (r : Nat) (x : Ring) : (s.setRing r x).ring r = x := sget_sset _ _
theorem State.setRing_ring_other (r : Nat) (x : Ring) (r' : Nat) (h : r' ≠ r) : (s.setRing r x).ring r' = s.ring r' := sget_sset_other _ h

/-! ### `setPage` -/

@[simp] theorem State.setPage_fuses (i : Nat) (x : PageEntry) : (s.setPage i x).fuses = s.fuses := rfl
@[simp] theorem State.setPage_flash0 (i : Nat) (x : PageEntry) : (s.setPage i x).flash0 = s.flash0 := rfl
@[simp] theorem State.setPage_flash1 (i : Nat) (x : PageEntry) : (s.setPage i x).flash1 = s.flash1 := rfl
@[simp] theorem State.setPage_power (i : Nat) (x : PageEntry) : (s.setPage i x).power = s.power := rfl
@[simp] theorem State.setPage_pins (i : Nat) (x : PageEntry) : (s.setPage i x).pins = s.pins := rfl
@[simp] theorem State.setPage_boot (i : Nat) (x : PageEntry) : (s.setPage i x).boot = s.boot := rfl
@[simp] theorem State.setPage_units (i : Nat) (x : PageEntry) : (s.setPage i x).units = s.units := rfl
@[simp] theorem State.setPage_wipe (i : Nat) (x : PageEntry) : (s.setPage i x).wipe = s.wipe := rfl
@[simp] theorem State.setPage_mem (i : Nat) (x : PageEntry) : (s.setPage i x).mem = s.mem := rfl
@[simp] theorem State.setPage_upset (i : Nat) (x : PageEntry) : (s.setPage i x).upset = s.upset := rfl
@[simp] theorem State.setPage_clamps (i : Nat) (x : PageEntry) : (s.setPage i x).clamps = s.clamps := rfl
@[simp] theorem State.setPage_pmapPending (i : Nat) (x : PageEntry) : (s.setPage i x).pmapPending = s.pmapPending := rfl
@[simp] theorem State.setPage_loan (i : Nat) (x : PageEntry) : (s.setPage i x).loan = s.loan := rfl
@[simp] theorem State.setPage_stackRegs (i : Nat) (x : PageEntry) : (s.setPage i x).stackRegs = s.stackRegs := rfl
@[simp] theorem State.setPage_wells (i : Nat) (x : PageEntry) : (s.setPage i x).wells = s.wells := rfl
@[simp] theorem State.setPage_movers (i : Nat) (x : PageEntry) : (s.setPage i x).movers = s.movers := rfl
@[simp] theorem State.setPage_nibs (i : Nat) (x : PageEntry) : (s.setPage i x).nibs = s.nibs := rfl
@[simp] theorem State.setPage_quills (i : Nat) (x : PageEntry) : (s.setPage i x).quills = s.quills := rfl
@[simp] theorem State.setPage_kvt (i : Nat) (x : PageEntry) : (s.setPage i x).kvt = s.kvt := rfl
@[simp] theorem State.setPage_gtc (i : Nat) (x : PageEntry) : (s.setPage i x).gtc = s.gtc := rfl
@[simp] theorem State.setPage_strk (i : Nat) (x : PageEntry) : (s.setPage i x).strk = s.strk := rfl
@[simp] theorem State.setPage_rule (i : Nat) (x : PageEntry) : (s.setPage i x).rule = s.rule := rfl
@[simp] theorem State.setPage_psets (i : Nat) (x : PageEntry) : (s.setPage i x).psets = s.psets := rfl
@[simp] theorem State.setPage_grp (i : Nat) (x : PageEntry) : (s.setPage i x).grp = s.grp := rfl
@[simp] theorem State.setPage_coll (i : Nat) (x : PageEntry) : (s.setPage i x).coll = s.coll := rfl
@[simp] theorem State.setPage_links (i : Nat) (x : PageEntry) : (s.setPage i x).links = s.links := rfl
@[simp] theorem State.setPage_inbox (i : Nat) (x : PageEntry) : (s.setPage i x).inbox = s.inbox := rfl
@[simp] theorem State.setPage_linkOut (i : Nat) (x : PageEntry) : (s.setPage i x).linkOut = s.linkOut := rfl
@[simp] theorem State.setPage_mir (i : Nat) (x : PageEntry) : (s.setPage i x).mir = s.mir := rfl
@[simp] theorem State.setPage_pipes (i : Nat) (x : PageEntry) : (s.setPage i x).pipes = s.pipes := rfl
@[simp] theorem State.setPage_ctxs (i : Nat) (x : PageEntry) : (s.setPage i x).ctxs = s.ctxs := rfl
@[simp] theorem State.setPage_rings (i : Nat) (x : PageEntry) : (s.setPage i x).rings = s.rings := rfl
@[simp] theorem State.setPage_host (i : Nat) (x : PageEntry) : (s.setPage i x).host = s.host := rfl
@[simp] theorem State.setPage_latches (i : Nat) (x : PageEntry) : (s.setPage i x).latches = s.latches := rfl
@[simp] theorem State.setPage_pcieOut (i : Nat) (x : PageEntry) : (s.setPage i x).pcieOut = s.pcieOut := rfl
@[simp] theorem State.setPage_rdata (i : Nat) (x : PageEntry) : (s.setPage i x).rdata = s.rdata := rfl
@[simp] theorem State.setPage_rbytes (i : Nat) (x : PageEntry) : (s.setPage i x).rbytes = s.rbytes := rfl
@[simp] theorem State.setPage_scr (i : Nat) (x : PageEntry) : (s.setPage i x).scr = s.scr := rfl
@[simp] theorem State.setPage_free (i : Nat) (x : PageEntry) : (s.setPage i x).free = s.free := rfl
@[simp] theorem State.setPage_pending (i : Nat) (x : PageEntry) : (s.setPage i x).pending = s.pending := rfl
@[simp] theorem State.setPage_page (i : Nat) (x : PageEntry) : (s.setPage i x).page i = x := sget_sset _ _
theorem State.setPage_page_other (i : Nat) (x : PageEntry) (i' : Nat) (h : i' ≠ i) : (s.setPage i x).page i' = s.page i' := sget_sset_other _ h

/-! ### `setKv` -/

@[simp] theorem State.setKv_fuses (i : Nat) (x : KvEntry) : (s.setKv i x).fuses = s.fuses := rfl
@[simp] theorem State.setKv_flash0 (i : Nat) (x : KvEntry) : (s.setKv i x).flash0 = s.flash0 := rfl
@[simp] theorem State.setKv_flash1 (i : Nat) (x : KvEntry) : (s.setKv i x).flash1 = s.flash1 := rfl
@[simp] theorem State.setKv_power (i : Nat) (x : KvEntry) : (s.setKv i x).power = s.power := rfl
@[simp] theorem State.setKv_pins (i : Nat) (x : KvEntry) : (s.setKv i x).pins = s.pins := rfl
@[simp] theorem State.setKv_boot (i : Nat) (x : KvEntry) : (s.setKv i x).boot = s.boot := rfl
@[simp] theorem State.setKv_units (i : Nat) (x : KvEntry) : (s.setKv i x).units = s.units := rfl
@[simp] theorem State.setKv_wipe (i : Nat) (x : KvEntry) : (s.setKv i x).wipe = s.wipe := rfl
@[simp] theorem State.setKv_mem (i : Nat) (x : KvEntry) : (s.setKv i x).mem = s.mem := rfl
@[simp] theorem State.setKv_upset (i : Nat) (x : KvEntry) : (s.setKv i x).upset = s.upset := rfl
@[simp] theorem State.setKv_clamps (i : Nat) (x : KvEntry) : (s.setKv i x).clamps = s.clamps := rfl
@[simp] theorem State.setKv_pmap (i : Nat) (x : KvEntry) : (s.setKv i x).pmap = s.pmap := rfl
@[simp] theorem State.setKv_pmapPending (i : Nat) (x : KvEntry) : (s.setKv i x).pmapPending = s.pmapPending := rfl
@[simp] theorem State.setKv_loan (i : Nat) (x : KvEntry) : (s.setKv i x).loan = s.loan := rfl
@[simp] theorem State.setKv_stackRegs (i : Nat) (x : KvEntry) : (s.setKv i x).stackRegs = s.stackRegs := rfl
@[simp] theorem State.setKv_wells (i : Nat) (x : KvEntry) : (s.setKv i x).wells = s.wells := rfl
@[simp] theorem State.setKv_movers (i : Nat) (x : KvEntry) : (s.setKv i x).movers = s.movers := rfl
@[simp] theorem State.setKv_nibs (i : Nat) (x : KvEntry) : (s.setKv i x).nibs = s.nibs := rfl
@[simp] theorem State.setKv_quills (i : Nat) (x : KvEntry) : (s.setKv i x).quills = s.quills := rfl
@[simp] theorem State.setKv_gtc (i : Nat) (x : KvEntry) : (s.setKv i x).gtc = s.gtc := rfl
@[simp] theorem State.setKv_strk (i : Nat) (x : KvEntry) : (s.setKv i x).strk = s.strk := rfl
@[simp] theorem State.setKv_rule (i : Nat) (x : KvEntry) : (s.setKv i x).rule = s.rule := rfl
@[simp] theorem State.setKv_psets (i : Nat) (x : KvEntry) : (s.setKv i x).psets = s.psets := rfl
@[simp] theorem State.setKv_grp (i : Nat) (x : KvEntry) : (s.setKv i x).grp = s.grp := rfl
@[simp] theorem State.setKv_coll (i : Nat) (x : KvEntry) : (s.setKv i x).coll = s.coll := rfl
@[simp] theorem State.setKv_links (i : Nat) (x : KvEntry) : (s.setKv i x).links = s.links := rfl
@[simp] theorem State.setKv_inbox (i : Nat) (x : KvEntry) : (s.setKv i x).inbox = s.inbox := rfl
@[simp] theorem State.setKv_linkOut (i : Nat) (x : KvEntry) : (s.setKv i x).linkOut = s.linkOut := rfl
@[simp] theorem State.setKv_mir (i : Nat) (x : KvEntry) : (s.setKv i x).mir = s.mir := rfl
@[simp] theorem State.setKv_pipes (i : Nat) (x : KvEntry) : (s.setKv i x).pipes = s.pipes := rfl
@[simp] theorem State.setKv_ctxs (i : Nat) (x : KvEntry) : (s.setKv i x).ctxs = s.ctxs := rfl
@[simp] theorem State.setKv_rings (i : Nat) (x : KvEntry) : (s.setKv i x).rings = s.rings := rfl
@[simp] theorem State.setKv_host (i : Nat) (x : KvEntry) : (s.setKv i x).host = s.host := rfl
@[simp] theorem State.setKv_latches (i : Nat) (x : KvEntry) : (s.setKv i x).latches = s.latches := rfl
@[simp] theorem State.setKv_pcieOut (i : Nat) (x : KvEntry) : (s.setKv i x).pcieOut = s.pcieOut := rfl
@[simp] theorem State.setKv_rdata (i : Nat) (x : KvEntry) : (s.setKv i x).rdata = s.rdata := rfl
@[simp] theorem State.setKv_rbytes (i : Nat) (x : KvEntry) : (s.setKv i x).rbytes = s.rbytes := rfl
@[simp] theorem State.setKv_scr (i : Nat) (x : KvEntry) : (s.setKv i x).scr = s.scr := rfl
@[simp] theorem State.setKv_free (i : Nat) (x : KvEntry) : (s.setKv i x).free = s.free := rfl
@[simp] theorem State.setKv_pending (i : Nat) (x : KvEntry) : (s.setKv i x).pending = s.pending := rfl
@[simp] theorem State.setKv_kv (i : Nat) (x : KvEntry) : (s.setKv i x).kv i = x := sget_sset _ _
theorem State.setKv_kv_other (i : Nat) (x : KvEntry) (i' : Nat) (h : i' ≠ i) : (s.setKv i x).kv i' = s.kv i' := sget_sset_other _ h

/-! ### `setSensor` -/

@[simp] theorem State.setSensor_fuses (i : Nat) (x : Sensor) : (s.setSensor i x).fuses = s.fuses := rfl
@[simp] theorem State.setSensor_flash0 (i : Nat) (x : Sensor) : (s.setSensor i x).flash0 = s.flash0 := rfl
@[simp] theorem State.setSensor_flash1 (i : Nat) (x : Sensor) : (s.setSensor i x).flash1 = s.flash1 := rfl
@[simp] theorem State.setSensor_power (i : Nat) (x : Sensor) : (s.setSensor i x).power = s.power := rfl
@[simp] theorem State.setSensor_pins (i : Nat) (x : Sensor) : (s.setSensor i x).pins = s.pins := rfl
@[simp] theorem State.setSensor_boot (i : Nat) (x : Sensor) : (s.setSensor i x).boot = s.boot := rfl
@[simp] theorem State.setSensor_units (i : Nat) (x : Sensor) : (s.setSensor i x).units = s.units := rfl
@[simp] theorem State.setSensor_wipe (i : Nat) (x : Sensor) : (s.setSensor i x).wipe = s.wipe := rfl
@[simp] theorem State.setSensor_mem (i : Nat) (x : Sensor) : (s.setSensor i x).mem = s.mem := rfl
@[simp] theorem State.setSensor_upset (i : Nat) (x : Sensor) : (s.setSensor i x).upset = s.upset := rfl
@[simp] theorem State.setSensor_clamps (i : Nat) (x : Sensor) : (s.setSensor i x).clamps = s.clamps := rfl
@[simp] theorem State.setSensor_pmap (i : Nat) (x : Sensor) : (s.setSensor i x).pmap = s.pmap := rfl
@[simp] theorem State.setSensor_pmapPending (i : Nat) (x : Sensor) : (s.setSensor i x).pmapPending = s.pmapPending := rfl
@[simp] theorem State.setSensor_loan (i : Nat) (x : Sensor) : (s.setSensor i x).loan = s.loan := rfl
@[simp] theorem State.setSensor_stackRegs (i : Nat) (x : Sensor) : (s.setSensor i x).stackRegs = s.stackRegs := rfl
@[simp] theorem State.setSensor_wells (i : Nat) (x : Sensor) : (s.setSensor i x).wells = s.wells := rfl
@[simp] theorem State.setSensor_movers (i : Nat) (x : Sensor) : (s.setSensor i x).movers = s.movers := rfl
@[simp] theorem State.setSensor_nibs (i : Nat) (x : Sensor) : (s.setSensor i x).nibs = s.nibs := rfl
@[simp] theorem State.setSensor_quills (i : Nat) (x : Sensor) : (s.setSensor i x).quills = s.quills := rfl
@[simp] theorem State.setSensor_kvt (i : Nat) (x : Sensor) : (s.setSensor i x).kvt = s.kvt := rfl
@[simp] theorem State.setSensor_gtc (i : Nat) (x : Sensor) : (s.setSensor i x).gtc = s.gtc := rfl
@[simp] theorem State.setSensor_strk (i : Nat) (x : Sensor) : (s.setSensor i x).strk = s.strk := rfl
@[simp] theorem State.setSensor_rule (i : Nat) (x : Sensor) : (s.setSensor i x).rule = s.rule := rfl
@[simp] theorem State.setSensor_psets (i : Nat) (x : Sensor) : (s.setSensor i x).psets = s.psets := rfl
@[simp] theorem State.setSensor_grp (i : Nat) (x : Sensor) : (s.setSensor i x).grp = s.grp := rfl
@[simp] theorem State.setSensor_coll (i : Nat) (x : Sensor) : (s.setSensor i x).coll = s.coll := rfl
@[simp] theorem State.setSensor_links (i : Nat) (x : Sensor) : (s.setSensor i x).links = s.links := rfl
@[simp] theorem State.setSensor_inbox (i : Nat) (x : Sensor) : (s.setSensor i x).inbox = s.inbox := rfl
@[simp] theorem State.setSensor_linkOut (i : Nat) (x : Sensor) : (s.setSensor i x).linkOut = s.linkOut := rfl
@[simp] theorem State.setSensor_mir (i : Nat) (x : Sensor) : (s.setSensor i x).mir = s.mir := rfl
@[simp] theorem State.setSensor_pipes (i : Nat) (x : Sensor) : (s.setSensor i x).pipes = s.pipes := rfl
@[simp] theorem State.setSensor_ctxs (i : Nat) (x : Sensor) : (s.setSensor i x).ctxs = s.ctxs := rfl
@[simp] theorem State.setSensor_rings (i : Nat) (x : Sensor) : (s.setSensor i x).rings = s.rings := rfl
@[simp] theorem State.setSensor_host (i : Nat) (x : Sensor) : (s.setSensor i x).host = s.host := rfl
@[simp] theorem State.setSensor_latches (i : Nat) (x : Sensor) : (s.setSensor i x).latches = s.latches := rfl
@[simp] theorem State.setSensor_pcieOut (i : Nat) (x : Sensor) : (s.setSensor i x).pcieOut = s.pcieOut := rfl
@[simp] theorem State.setSensor_rdata (i : Nat) (x : Sensor) : (s.setSensor i x).rdata = s.rdata := rfl
@[simp] theorem State.setSensor_rbytes (i : Nat) (x : Sensor) : (s.setSensor i x).rbytes = s.rbytes := rfl
@[simp] theorem State.setSensor_free (i : Nat) (x : Sensor) : (s.setSensor i x).free = s.free := rfl
@[simp] theorem State.setSensor_pending (i : Nat) (x : Sensor) : (s.setSensor i x).pending = s.pending := rfl
@[simp] theorem State.setSensor_sensor (i : Nat) (x : Sensor) : (s.setSensor i x).sensor i = x := sget_sset _ _
theorem State.setSensor_sensor_other (i : Nat) (x : Sensor) (i' : Nat) (h : i' ≠ i) : (s.setSensor i x).sensor i' = s.sensor i' := sget_sset_other _ h

/-! ### `setCtx` -/

@[simp] theorem State.setCtx_fuses (p c : Nat) (x : Option Ctx) : (s.setCtx p c x).fuses = s.fuses := rfl
@[simp] theorem State.setCtx_flash0 (p c : Nat) (x : Option Ctx) : (s.setCtx p c x).flash0 = s.flash0 := rfl
@[simp] theorem State.setCtx_flash1 (p c : Nat) (x : Option Ctx) : (s.setCtx p c x).flash1 = s.flash1 := rfl
@[simp] theorem State.setCtx_power (p c : Nat) (x : Option Ctx) : (s.setCtx p c x).power = s.power := rfl
@[simp] theorem State.setCtx_pins (p c : Nat) (x : Option Ctx) : (s.setCtx p c x).pins = s.pins := rfl
@[simp] theorem State.setCtx_boot (p c : Nat) (x : Option Ctx) : (s.setCtx p c x).boot = s.boot := rfl
@[simp] theorem State.setCtx_units (p c : Nat) (x : Option Ctx) : (s.setCtx p c x).units = s.units := rfl
@[simp] theorem State.setCtx_wipe (p c : Nat) (x : Option Ctx) : (s.setCtx p c x).wipe = s.wipe := rfl
@[simp] theorem State.setCtx_mem (p c : Nat) (x : Option Ctx) : (s.setCtx p c x).mem = s.mem := rfl
@[simp] theorem State.setCtx_upset (p c : Nat) (x : Option Ctx) : (s.setCtx p c x).upset = s.upset := rfl
@[simp] theorem State.setCtx_clamps (p c : Nat) (x : Option Ctx) : (s.setCtx p c x).clamps = s.clamps := rfl
@[simp] theorem State.setCtx_pmap (p c : Nat) (x : Option Ctx) : (s.setCtx p c x).pmap = s.pmap := rfl
@[simp] theorem State.setCtx_pmapPending (p c : Nat) (x : Option Ctx) : (s.setCtx p c x).pmapPending = s.pmapPending := rfl
@[simp] theorem State.setCtx_loan (p c : Nat) (x : Option Ctx) : (s.setCtx p c x).loan = s.loan := rfl
@[simp] theorem State.setCtx_stackRegs (p c : Nat) (x : Option Ctx) : (s.setCtx p c x).stackRegs = s.stackRegs := rfl
@[simp] theorem State.setCtx_wells (p c : Nat) (x : Option Ctx) : (s.setCtx p c x).wells = s.wells := rfl
@[simp] theorem State.setCtx_movers (p c : Nat) (x : Option Ctx) : (s.setCtx p c x).movers = s.movers := rfl
@[simp] theorem State.setCtx_nibs (p c : Nat) (x : Option Ctx) : (s.setCtx p c x).nibs = s.nibs := rfl
@[simp] theorem State.setCtx_quills (p c : Nat) (x : Option Ctx) : (s.setCtx p c x).quills = s.quills := rfl
@[simp] theorem State.setCtx_kvt (p c : Nat) (x : Option Ctx) : (s.setCtx p c x).kvt = s.kvt := rfl
@[simp] theorem State.setCtx_gtc (p c : Nat) (x : Option Ctx) : (s.setCtx p c x).gtc = s.gtc := rfl
@[simp] theorem State.setCtx_strk (p c : Nat) (x : Option Ctx) : (s.setCtx p c x).strk = s.strk := rfl
@[simp] theorem State.setCtx_rule (p c : Nat) (x : Option Ctx) : (s.setCtx p c x).rule = s.rule := rfl
@[simp] theorem State.setCtx_psets (p c : Nat) (x : Option Ctx) : (s.setCtx p c x).psets = s.psets := rfl
@[simp] theorem State.setCtx_grp (p c : Nat) (x : Option Ctx) : (s.setCtx p c x).grp = s.grp := rfl
@[simp] theorem State.setCtx_coll (p c : Nat) (x : Option Ctx) : (s.setCtx p c x).coll = s.coll := rfl
@[simp] theorem State.setCtx_links (p c : Nat) (x : Option Ctx) : (s.setCtx p c x).links = s.links := rfl
@[simp] theorem State.setCtx_inbox (p c : Nat) (x : Option Ctx) : (s.setCtx p c x).inbox = s.inbox := rfl
@[simp] theorem State.setCtx_linkOut (p c : Nat) (x : Option Ctx) : (s.setCtx p c x).linkOut = s.linkOut := rfl
@[simp] theorem State.setCtx_mir (p c : Nat) (x : Option Ctx) : (s.setCtx p c x).mir = s.mir := rfl
@[simp] theorem State.setCtx_pipes (p c : Nat) (x : Option Ctx) : (s.setCtx p c x).pipes = s.pipes := rfl
@[simp] theorem State.setCtx_rings (p c : Nat) (x : Option Ctx) : (s.setCtx p c x).rings = s.rings := rfl
@[simp] theorem State.setCtx_host (p c : Nat) (x : Option Ctx) : (s.setCtx p c x).host = s.host := rfl
@[simp] theorem State.setCtx_latches (p c : Nat) (x : Option Ctx) : (s.setCtx p c x).latches = s.latches := rfl
@[simp] theorem State.setCtx_pcieOut (p c : Nat) (x : Option Ctx) : (s.setCtx p c x).pcieOut = s.pcieOut := rfl
@[simp] theorem State.setCtx_rdata (p c : Nat) (x : Option Ctx) : (s.setCtx p c x).rdata = s.rdata := rfl
@[simp] theorem State.setCtx_rbytes (p c : Nat) (x : Option Ctx) : (s.setCtx p c x).rbytes = s.rbytes := rfl
@[simp] theorem State.setCtx_scr (p c : Nat) (x : Option Ctx) : (s.setCtx p c x).scr = s.scr := rfl
@[simp] theorem State.setCtx_free (p c : Nat) (x : Option Ctx) : (s.setCtx p c x).free = s.free := rfl
@[simp] theorem State.setCtx_pending (p c : Nat) (x : Option Ctx) : (s.setCtx p c x).pending = s.pending := rfl
@[simp] theorem State.setCtx_ctx (p c : Nat) (x : Option Ctx) : (s.setCtx p c x).ctx p c = x := sget_sset _ _
theorem State.setCtx_ctx_other (p c : Nat) (x : Option Ctx) (q k : Nat) (h : 32 * q + k ≠ 32 * p + c) : (s.setCtx p c x).ctx q k = s.ctx q k :=
  sget_sset_other _ h

/-! ### `writeBytes` -/

@[simp] theorem State.writeBytes_fuses (a : Nat) (bs : List Byte) : (s.writeBytes a bs).fuses = s.fuses := rfl
@[simp] theorem State.writeBytes_flash0 (a : Nat) (bs : List Byte) : (s.writeBytes a bs).flash0 = s.flash0 := rfl
@[simp] theorem State.writeBytes_flash1 (a : Nat) (bs : List Byte) : (s.writeBytes a bs).flash1 = s.flash1 := rfl
@[simp] theorem State.writeBytes_power (a : Nat) (bs : List Byte) : (s.writeBytes a bs).power = s.power := rfl
@[simp] theorem State.writeBytes_pins (a : Nat) (bs : List Byte) : (s.writeBytes a bs).pins = s.pins := rfl
@[simp] theorem State.writeBytes_boot (a : Nat) (bs : List Byte) : (s.writeBytes a bs).boot = s.boot := rfl
@[simp] theorem State.writeBytes_units (a : Nat) (bs : List Byte) : (s.writeBytes a bs).units = s.units := rfl
@[simp] theorem State.writeBytes_wipe (a : Nat) (bs : List Byte) : (s.writeBytes a bs).wipe = s.wipe := rfl
@[simp] theorem State.writeBytes_clamps (a : Nat) (bs : List Byte) : (s.writeBytes a bs).clamps = s.clamps := rfl
@[simp] theorem State.writeBytes_pmap (a : Nat) (bs : List Byte) : (s.writeBytes a bs).pmap = s.pmap := rfl
@[simp] theorem State.writeBytes_pmapPending (a : Nat) (bs : List Byte) : (s.writeBytes a bs).pmapPending = s.pmapPending := rfl
@[simp] theorem State.writeBytes_loan (a : Nat) (bs : List Byte) : (s.writeBytes a bs).loan = s.loan := rfl
@[simp] theorem State.writeBytes_stackRegs (a : Nat) (bs : List Byte) : (s.writeBytes a bs).stackRegs = s.stackRegs := rfl
@[simp] theorem State.writeBytes_wells (a : Nat) (bs : List Byte) : (s.writeBytes a bs).wells = s.wells := rfl
@[simp] theorem State.writeBytes_movers (a : Nat) (bs : List Byte) : (s.writeBytes a bs).movers = s.movers := rfl
@[simp] theorem State.writeBytes_nibs (a : Nat) (bs : List Byte) : (s.writeBytes a bs).nibs = s.nibs := rfl
@[simp] theorem State.writeBytes_quills (a : Nat) (bs : List Byte) : (s.writeBytes a bs).quills = s.quills := rfl
@[simp] theorem State.writeBytes_kvt (a : Nat) (bs : List Byte) : (s.writeBytes a bs).kvt = s.kvt := rfl
@[simp] theorem State.writeBytes_gtc (a : Nat) (bs : List Byte) : (s.writeBytes a bs).gtc = s.gtc := rfl
@[simp] theorem State.writeBytes_strk (a : Nat) (bs : List Byte) : (s.writeBytes a bs).strk = s.strk := rfl
@[simp] theorem State.writeBytes_rule (a : Nat) (bs : List Byte) : (s.writeBytes a bs).rule = s.rule := rfl
@[simp] theorem State.writeBytes_psets (a : Nat) (bs : List Byte) : (s.writeBytes a bs).psets = s.psets := rfl
@[simp] theorem State.writeBytes_grp (a : Nat) (bs : List Byte) : (s.writeBytes a bs).grp = s.grp := rfl
@[simp] theorem State.writeBytes_coll (a : Nat) (bs : List Byte) : (s.writeBytes a bs).coll = s.coll := rfl
@[simp] theorem State.writeBytes_links (a : Nat) (bs : List Byte) : (s.writeBytes a bs).links = s.links := rfl
@[simp] theorem State.writeBytes_inbox (a : Nat) (bs : List Byte) : (s.writeBytes a bs).inbox = s.inbox := rfl
@[simp] theorem State.writeBytes_linkOut (a : Nat) (bs : List Byte) : (s.writeBytes a bs).linkOut = s.linkOut := rfl
@[simp] theorem State.writeBytes_mir (a : Nat) (bs : List Byte) : (s.writeBytes a bs).mir = s.mir := rfl
@[simp] theorem State.writeBytes_pipes (a : Nat) (bs : List Byte) : (s.writeBytes a bs).pipes = s.pipes := rfl
@[simp] theorem State.writeBytes_ctxs (a : Nat) (bs : List Byte) : (s.writeBytes a bs).ctxs = s.ctxs := rfl
@[simp] theorem State.writeBytes_rings (a : Nat) (bs : List Byte) : (s.writeBytes a bs).rings = s.rings := rfl
@[simp] theorem State.writeBytes_host (a : Nat) (bs : List Byte) : (s.writeBytes a bs).host = s.host := rfl
@[simp] theorem State.writeBytes_latches (a : Nat) (bs : List Byte) : (s.writeBytes a bs).latches = s.latches := rfl
@[simp] theorem State.writeBytes_pcieOut (a : Nat) (bs : List Byte) : (s.writeBytes a bs).pcieOut = s.pcieOut := rfl
@[simp] theorem State.writeBytes_rdata (a : Nat) (bs : List Byte) : (s.writeBytes a bs).rdata = s.rdata := rfl
@[simp] theorem State.writeBytes_rbytes (a : Nat) (bs : List Byte) : (s.writeBytes a bs).rbytes = s.rbytes := rfl
@[simp] theorem State.writeBytes_scr (a : Nat) (bs : List Byte) : (s.writeBytes a bs).scr = s.scr := rfl
@[simp] theorem State.writeBytes_free (a : Nat) (bs : List Byte) : (s.writeBytes a bs).free = s.free := rfl
@[simp] theorem State.writeBytes_pending (a : Nat) (bs : List Byte) : (s.writeBytes a bs).pending = s.pending := rfl

/-! ### `modRun` -/

@[simp] theorem State.modRun_fuses (f : Job → Job) : (s.modRun f).fuses = s.fuses := rfl
@[simp] theorem State.modRun_flash0 (f : Job → Job) : (s.modRun f).flash0 = s.flash0 := rfl
@[simp] theorem State.modRun_flash1 (f : Job → Job) : (s.modRun f).flash1 = s.flash1 := rfl
@[simp] theorem State.modRun_power (f : Job → Job) : (s.modRun f).power = s.power := rfl
@[simp] theorem State.modRun_pins (f : Job → Job) : (s.modRun f).pins = s.pins := rfl
@[simp] theorem State.modRun_boot (f : Job → Job) : (s.modRun f).boot = s.boot := rfl
@[simp] theorem State.modRun_units (f : Job → Job) : (s.modRun f).units = s.units := rfl
@[simp] theorem State.modRun_wipe (f : Job → Job) : (s.modRun f).wipe = s.wipe := rfl
@[simp] theorem State.modRun_mem (f : Job → Job) : (s.modRun f).mem = s.mem := rfl
@[simp] theorem State.modRun_upset (f : Job → Job) : (s.modRun f).upset = s.upset := rfl
@[simp] theorem State.modRun_clamps (f : Job → Job) : (s.modRun f).clamps = s.clamps := rfl
@[simp] theorem State.modRun_pmap (f : Job → Job) : (s.modRun f).pmap = s.pmap := rfl
@[simp] theorem State.modRun_pmapPending (f : Job → Job) : (s.modRun f).pmapPending = s.pmapPending := rfl
@[simp] theorem State.modRun_loan (f : Job → Job) : (s.modRun f).loan = s.loan := rfl
@[simp] theorem State.modRun_stackRegs (f : Job → Job) : (s.modRun f).stackRegs = s.stackRegs := rfl
@[simp] theorem State.modRun_wells (f : Job → Job) : (s.modRun f).wells = s.wells := rfl
@[simp] theorem State.modRun_movers (f : Job → Job) : (s.modRun f).movers = s.movers := rfl
@[simp] theorem State.modRun_nibs (f : Job → Job) : (s.modRun f).nibs = s.nibs := rfl
@[simp] theorem State.modRun_quills (f : Job → Job) : (s.modRun f).quills = s.quills := rfl
@[simp] theorem State.modRun_kvt (f : Job → Job) : (s.modRun f).kvt = s.kvt := rfl
@[simp] theorem State.modRun_gtc (f : Job → Job) : (s.modRun f).gtc = s.gtc := rfl
@[simp] theorem State.modRun_rule (f : Job → Job) : (s.modRun f).rule = s.rule := rfl
@[simp] theorem State.modRun_psets (f : Job → Job) : (s.modRun f).psets = s.psets := rfl
@[simp] theorem State.modRun_grp (f : Job → Job) : (s.modRun f).grp = s.grp := rfl
@[simp] theorem State.modRun_coll (f : Job → Job) : (s.modRun f).coll = s.coll := rfl
@[simp] theorem State.modRun_links (f : Job → Job) : (s.modRun f).links = s.links := rfl
@[simp] theorem State.modRun_inbox (f : Job → Job) : (s.modRun f).inbox = s.inbox := rfl
@[simp] theorem State.modRun_linkOut (f : Job → Job) : (s.modRun f).linkOut = s.linkOut := rfl
@[simp] theorem State.modRun_mir (f : Job → Job) : (s.modRun f).mir = s.mir := rfl
@[simp] theorem State.modRun_pipes (f : Job → Job) : (s.modRun f).pipes = s.pipes := rfl
@[simp] theorem State.modRun_ctxs (f : Job → Job) : (s.modRun f).ctxs = s.ctxs := rfl
@[simp] theorem State.modRun_rings (f : Job → Job) : (s.modRun f).rings = s.rings := rfl
@[simp] theorem State.modRun_host (f : Job → Job) : (s.modRun f).host = s.host := rfl
@[simp] theorem State.modRun_latches (f : Job → Job) : (s.modRun f).latches = s.latches := rfl
@[simp] theorem State.modRun_pcieOut (f : Job → Job) : (s.modRun f).pcieOut = s.pcieOut := rfl
@[simp] theorem State.modRun_rdata (f : Job → Job) : (s.modRun f).rdata = s.rdata := rfl
@[simp] theorem State.modRun_rbytes (f : Job → Job) : (s.modRun f).rbytes = s.rbytes := rfl
@[simp] theorem State.modRun_scr (f : Job → Job) : (s.modRun f).scr = s.scr := rfl
@[simp] theorem State.modRun_free (f : Job → Job) : (s.modRun f).free = s.free := rfl
@[simp] theorem State.modRun_pending (f : Job → Job) : (s.modRun f).pending = s.pending := rfl

@[simp] theorem State.modRun_run (f : Job → Job) : (s.modRun f).strk.run = s.strk.run.map f := rfl

/-! ### The `mod` updates are `set` updates -/

@[simp] theorem State.modNib_eq (k : Nat) (f : Nib → Nib) : s.modNib k f = s.setNib k (f (s.nib k)) := rfl
@[simp] theorem State.modQuill_eq (k : Nat) (f : Quill → Quill) : s.modQuill k f = s.setQuill k (f (s.quill k)) := rfl
@[simp] theorem State.modWell_eq (k : Nat) (f : Well → Well) : s.modWell k f = s.setWell k (f (s.well k)) := rfl
@[simp] theorem State.modStack_eq (k : Nat) (f : Stack → Stack) : s.modStack k f = s.setStack k (f (s.stack k)) := rfl
@[simp] theorem State.modLink_eq (k : Nat) (f : LinkState → LinkState) : s.modLink k f = s.setLink k (f (s.link k)) := rfl
@[simp] theorem State.modPipe_eq (k : Nat) (f : Pipe → Pipe) : s.modPipe k f = s.setPipe k (f (s.pipe k)) := rfl
@[simp] theorem State.modRing_eq (k : Nat) (f : Ring → Ring) : s.modRing k f = s.setRing k (f (s.ring k)) := rfl

end Sys2Proof.Machine
end

