-- ==== Sys2Proof/Laws/Memory.lean ====
section
/-! SUPPORT. Laws of memory: read after write byte by byte, and that every memory operation keeps the canonical form. -/
namespace Sys2Proof.Machine

/-! ### Bytes -/

@[simp] theorem memGet_memSet (m : List Host.Cell) (a : Nat) (b : Byte) : memGet (memSet m a b) a = b := sget_sset _ _

theorem memGet_memSet_other {m : List Host.Cell} {a c : Nat} (b : Byte) (h : c ≠ a) : memGet (memSet m a b) c = memGet m c :=
  sget_sset_other _ h

theorem memSet_wf {m : List Host.Cell} (a : Nat) (b : Byte) (h : Memory.wf m = true) : Memory.wf (memSet m a b) = true := sset_wf _ _ h

@[simp] theorem reset_mem_wf : Memory.wf State.reset.mem = true := rfl

/-! ### Runs of bytes -/

theorem memWrite_wf {m : List Host.Cell} (a : Nat) (bs : List Byte) (h : Memory.wf m = true) : Memory.wf (memWrite m a bs) = true := by
  induction bs generalizing m a with
  | nil => exact h
  | cons b bs ih => exact ih _ (memSet_wf _ _ h)

theorem memGet_memWrite_below (m : List Host.Cell) {a c : Nat} (bs : List Byte) (h : c < a) : memGet (memWrite m a bs) c = memGet m c := by
  induction bs generalizing m a with
  | nil => rfl
  | cons b bs ih =>
    simp only [memWrite]
    rw [ih _ (by omega), memGet_memSet_other _ (by omega)]

theorem memGet_memWrite_above (m : List Host.Cell) {a c : Nat} (bs : List Byte) (h : a + bs.length ≤ c) :
    memGet (memWrite m a bs) c = memGet m c := by
  induction bs generalizing m a with
  | nil => rfl
  | cons b bs ih =>
    simp only [List.length_cons] at h
    simp only [memWrite]
    rw [ih _ (by omega), memGet_memSet_other _ (by omega)]

/-- A byte outside the run is as before. -/
theorem memGet_memWrite_outside (m : List Host.Cell) {a c : Nat} (bs : List Byte) (h : c < a ∨ a + bs.length ≤ c) :
    memGet (memWrite m a bs) c = memGet m c := by
  rcases h with h | h
  · exact memGet_memWrite_below m bs h
  · exact memGet_memWrite_above m bs h

/-- A byte inside the run is the byte written there. -/
theorem memGet_memWrite_inside (m : List Host.Cell) {a i : Nat} (bs : List Byte) (h : i < bs.length) :
    memGet (memWrite m a bs) (a + i) = bs[i] := by
  induction bs generalizing m a i with
  | nil => simp at h
  | cons b bs ih =>
    simp only [memWrite]
    cases i with
    | zero => simp [memGet_memWrite_below]
    | succ i =>
      have := ih (memSet m a b) (a := a + 1) (i := i) (by simpa using h)
      simpa [Nat.add_assoc, Nat.add_comm 1 i] using this

@[simp] theorem memRead_length (m : List Host.Cell) (a n : Nat) : (memRead m a n).length = n := by
  induction n generalizing a with
  | zero => rfl
  | succ n ih => simp [memRead, ih]

theorem memRead_getElem (m : List Host.Cell) (a n i : Nat) (h : i < (memRead m a n).length) : (memRead m a n)[i] = memGet m (a + i) := by
  induction n generalizing a i with
  | zero => simp at h
  | succ n ih =>
    cases i with
    | zero => rfl
    | succ i =>
      have := ih (a + 1) i (by simpa using h)
      simpa [memRead, Nat.add_assoc, Nat.add_comm 1 i] using this

/-- What was written is read back. -/
@[simp] theorem memRead_memWrite (m : List Host.Cell) (a : Nat) (bs : List Byte) : memRead (memWrite m a bs) a bs.length = bs := by
  apply List.ext_getElem
  · simp
  · intro i h₁ h₂
    rw [memRead_getElem, memGet_memWrite_inside m bs h₂]

/-- A run that the write does not meet reads as before. -/
theorem memRead_memWrite_apart (m : List Host.Cell) {a c n : Nat} (bs : List Byte) (h : c + n ≤ a ∨ a + bs.length ≤ c) :
    memRead (memWrite m a bs) c n = memRead m c n := by
  apply List.ext_getElem
  · simp
  · intro i h₁ h₂
    rw [memRead_getElem, memRead_getElem, memGet_memWrite_outside]
    simp at h₁
    omega

/-! ### The tiers -/

@[simp] theorem State.writeBytes_wf (s : State) (a : Nat) (bs : List Byte) (h : Memory.wf s.mem = true) :
    Memory.wf (s.writeBytes a bs).mem = true := memWrite_wf a bs h

@[simp] theorem State.t0Write_wf (s : State) (nib line : Nat) (l : Line) (h : Memory.wf s.mem = true) :
    Memory.wf (s.t0Write nib line l).mem = true := by
  unfold State.t0Write
  split
  · exact memWrite_wf _ _ h
  · exact h

@[simp] theorem State.wellWrite_wf (s : State) (die line : Nat) (l : Line) (h : Memory.wf s.mem = true) :
    Memory.wf (s.wellWrite die line l).mem = true := by
  unfold State.wellWrite
  split
  · exact memWrite_wf _ _ h
  · exact h

/-- A line written to T0 is read back. -/
theorem State.t0Read_t0Write (s : State) (nib line : Nat) (l : Line) (h : l.length = 72) (hl : line < t0Lines) :
    (s.t0Write nib line l).t0Read nib line = l := by
  have ht : l.take 72 = l := List.take_of_length_le (by omega)
  simp only [State.t0Write, State.t0Read, if_pos hl, State.readBytes, State.writeBytes, ht]
  rw [← h]
  exact memRead_memWrite _ _ _

/-- A line written to the well is read back. -/
theorem State.wellRead_wellWrite (s : State) (die line : Nat) (l : Line) (h : l.length = 72) (hl : line < wellLines) :
    (s.wellWrite die line l).wellRead die line = l := by
  have ht : l.take 72 = l := List.take_of_length_le (by omega)
  simp only [State.wellWrite, State.wellRead, if_pos hl, State.readBytes, State.writeBytes, ht]
  rw [← h]
  exact memRead_memWrite _ _ _

end Sys2Proof.Machine
end

