-- ==== Sys2Proof/Laws/Ops.lean ====
section
/-! SUPPORT. One lemma per shared operation that says all that it can change; whoever calls it cites the lemma instead of unfolding it. -/
namespace Sys2Proof.Machine

variable (s : State)

/-- What every step of a fold keeps, the fold keeps. -/
theorem foldl_keeps {α β : Type} (P : β → Prop) (f : β → α → β) (l : List α) (b : β) (h : ∀ b a, P b → P (f b a)) (hb : P b) :
    P (l.foldl f b) := by
  induction l generalizing b with
  | nil => exact hb
  | cons a l ih => exact ih _ (h b a hb)

/-! ### Interrupts, alerts and the log -/

theorem State.deliver_frame (v : Nat) : ∃ h p, s.deliver v = { s with host := h, pcieOut := p } := by
  unfold State.deliver
  dsimp only
  split <;> exact ⟨_, _, rfl⟩

/-- A firing changes the endpoint and what it sends, nothing else. -/
theorem State.fire_frame (v : Nat) : ∃ h p, s.fire v = { s with host := h, pcieOut := p } := by
  unfold State.fire
  split
  · exact ⟨_, _, rfl⟩
  split
  · exact s.deliver_frame v
  · split
    · split <;> exact ⟨_, _, rfl⟩
    · obtain ⟨h, p, e⟩ := s.deliver_frame v
      dsimp only
      rw [e]
      exact ⟨_, _, rfl⟩

theorem State.raiseAlert_frame (i : Nat) : ∃ c h p, s.raiseAlert i = { s with scr := c, host := h, pcieOut := p } := by
  obtain ⟨h, p, e⟩ := State.fire_frame { s with scr := { s.scr with alert := s.scr.alert.raise i } } 147
  exact ⟨_, h, p, e⟩

/-- An entry reaches the scribe's queue; at most the alert's interrupt follows. -/
theorem State.logEvent_frame (type severity : Nat) (payload : List Word) :
    ∃ c h p, s.logEvent type severity payload = { s with scr := c, host := h, pcieOut := p } := by
  unfold State.logEvent
  split
  · exact ⟨_, _, _, rfl⟩
  · unfold State.countEntry
    dsimp only
    generalize (if s.scr.typeSecond = s.scr.uptimeNs / 1000000000 then s.scr.typeCount else []) = counts
    split
    · exact ⟨_, _, _, rfl⟩
    · split
      · exact State.raiseAlert_frame _ 6
      · exact ⟨_, _, _, rfl⟩

/-! ### Flags with their interrupts and log entries -/

theorem State.raiseHost_frame (i : Nat) : ∃ h p, s.raiseHost i = { s with host := h, pcieOut := p } := by
  obtain ⟨h, p, e⟩ := State.fire_frame { s with host := { s.host with evt := s.host.evt.raise i } } (if i = 0 then 140 else if i = 1 then 141 else 146)
  exact ⟨h, p, e⟩

theorem State.raiseStrk_frame (i : Nat) :
    ∃ h p, s.raiseStrk i = { s with strk := { s.strk with evt := s.strk.evt.raise i }, host := h, pcieOut := p } := by
  obtain ⟨h, p, e⟩ := State.fire_frame { s with strk := { s.strk with evt := s.strk.evt.raise i } } 142
  exact ⟨h, p, e⟩

theorem State.raiseGtc_frame (i : Nat) :
    ∃ c h p, s.raiseGtc i = { s with gtc := { s.gtc with evt := s.gtc.evt.raise i }, scr := c, host := h, pcieOut := p } := by
  obtain ⟨h, p, e⟩ := State.fire_frame { s with gtc := { s.gtc with evt := s.gtc.evt.raise i } } 142
  obtain ⟨c, h', p', e'⟩ := State.logEvent_frame ({ s with gtc := { s.gtc with evt := s.gtc.evt.raise i } }.fire 142) 0x0042 1
    [w32 i, s.gtc.offset.setWidth 32]
  refine ⟨c, h', p', ?_⟩
  unfold State.raiseGtc
  rw [e', e]

theorem State.raiseColl_frame (i : Nat) :
    ∃ h p, s.raiseColl i = { s with coll := { s.coll with evt := s.coll.evt.raise i }, host := h, pcieOut := p } := by
  obtain ⟨h, p, e⟩ := State.fire_frame { s with coll := { s.coll with evt := s.coll.evt.raise i } } 143
  exact ⟨h, p, e⟩

theorem State.raiseMir_frame (i epoch : Nat) :
    ∃ c h p, s.raiseMir i epoch = { s with mir := { s.mir with evt := s.mir.evt.raise i }, scr := c, host := h, pcieOut := p } := by
  obtain ⟨h, p, e⟩ := State.fire_frame { s with mir := { s.mir with evt := s.mir.evt.raise i } } 141
  unfold State.raiseMir
  dsimp only
  rw [e]
  split
  · exact ⟨_, h, p, rfl⟩
  · obtain ⟨c, h', p', e'⟩ := State.logEvent_frame { s with mir := { s.mir with evt := s.mir.evt.raise i }, host := h, pcieOut := p } 0x0033 1
      [w32 i, w32 epoch]
    exact ⟨c, h', p', e'⟩

theorem State.raiseLoan_frame (i index : Nat) : ∃ h p, s.raiseLoan i index =
    { s with loan := { s.loan with err := s.loan.err.raise i, errIndex := BitVec.ofNat 17 index, errFlag := BitVec.ofNat 3 i }, host := h, pcieOut := p } := by
  obtain ⟨h, p, e⟩ := State.fire_frame
    { s with loan := { s.loan with err := s.loan.err.raise i, errIndex := BitVec.ofNat 17 index, errFlag := BitVec.ofNat 3 i } } 144
  exact ⟨h, p, e⟩

theorem State.raiseKvt_frame (i index : Nat) : ∃ h p, s.raiseKvt i index =
    { s with kvt := { s.kvt with err := s.kvt.err.raise i, errIndex := BitVec.ofNat 18 index, errFlag := BitVec.ofNat 2 i }, host := h, pcieOut := p } := by
  obtain ⟨h, p, e⟩ := State.fire_frame
    { s with kvt := { s.kvt with err := s.kvt.err.raise i, errIndex := BitVec.ofNat 18 index, errFlag := BitVec.ofNat 2 i } } 144
  exact ⟨h, p, e⟩

theorem State.raiseStack_frame (k i : Nat) : ∃ c h p, s.raiseStack k i =
    { (s.modStack k fun x => { x with err := x.err.raise i }) with scr := c, host := h, pcieOut := p } := by
  obtain ⟨h, p, e⟩ := State.fire_frame (s.modStack k fun x => { x with err := x.err.raise i }) 144
  unfold State.raiseStack
  dsimp only
  rw [e]
  obtain ⟨c, h', p', e'⟩ := State.logEvent_frame { (s.modStack k fun x => { x with err := x.err.raise i }) with host := h, pcieOut := p } 0x0041 2
    [w32 k, w32 ((s.stack k).errPage.toNat * 2 ^ 18 + (s.stack k).errLine.toNat)]
  refine ⟨c, h', p', ?_⟩
  simpa [State.modStack, State.stack, State.setStack] using e'

theorem State.raiseWell_frame (d i : Nat) : ∃ c h p, s.raiseWell d i =
    { (s.modWell d fun x => { x with memerr := x.memerr.raise i }) with scr := c, host := h, pcieOut := p } := by
  obtain ⟨h, p, e⟩ := State.fire_frame (s.modWell d fun x => { x with memerr := x.memerr.raise i }) 144
  unfold State.raiseWell
  rw [e]
  obtain ⟨c, h', p', e'⟩ := State.logEvent_frame { (s.modWell d fun x => { x with memerr := x.memerr.raise i }) with host := h, pcieOut := p } 0x0041 2
    [w32 d, w32 i]
  exact ⟨c, h', p', e'⟩

theorem State.raiseLink_frame (l i : Nat) : ∃ c h p, s.raiseLink l i =
    { (s.modLink l fun x => { x with err := x.err.raise i }) with scr := c, host := h, pcieOut := p } := by
  obtain ⟨h, p, e⟩ := State.fire_frame (s.modLink l fun x => { x with err := x.err.raise i }) 145
  unfold State.raiseLink
  rw [e]
  obtain ⟨c, h', p', e'⟩ := State.logEvent_frame { (s.modLink l fun x => { x with err := x.err.raise i }) with host := h, pcieOut := p } 0x0040 1
    [w32 l, w32 i]
  exact ⟨c, h', p', e'⟩

theorem State.raiseRing_frame (r i : Nat) : ∃ h p, s.raiseRing r i =
    { (s.modRing r fun x => { x with evt := x.evt.raise i }) with host := h, pcieOut := p } := by
  obtain ⟨h, p, e⟩ := State.fire_frame (s.modRing r fun x => { x with evt := x.evt.raise i }) 146
  exact ⟨h, p, e⟩

theorem State.raiseGfault_frame (q g : Nat) : ∃ h p, s.raiseGfault q g =
    { (s.modQuill q fun x => { x with gfault := x.gfault.raise g }) with host := h, pcieOut := p } := by
  obtain ⟨h, p, e⟩ := State.fire_frame (s.modQuill q fun x => { x with gfault := x.gfault.raise g }) 144
  exact ⟨h, p, e⟩

/-- A pipe's flag with its context; what else changes is the endpoint. -/
theorem State.raiseVcu_frame (lead i c frame : Nat) : ∃ x h p, s.raiseVcu lead i c frame = { s with pipes := x, host := h, pcieOut := p } := by
  unfold State.raiseVcu
  obtain ⟨h, p, e⟩ := State.fire_frame (s.modPipe lead fun x =>
    { x with evt := x.evt.raise i, evCtx := BitVec.ofNat 5 c, evFlag := BitVec.ofNat 3 i, evFrame := BitVec.ofNat 24 frame }) (128 + lead)
  exact ⟨_, h, p, e⟩

/-! ### Jobs -/

theorem State.failJob_frame (status detail : Nat) : ∃ k, s.failJob status detail = { s with strk := k } := ⟨_, rfl⟩

/-! ### Memory of the tiers -/

/-- Reads of a line that meet an error count it, or raise the well's flag (R223, R224). -/
theorem State.eccWell_frame (die n : Nat) (e : EccResult) :
    ∃ w h o c, s.eccWell die n e = { s with wells := w, host := h, pcieOut := o, scr := c } := by
  unfold State.eccWell
  split
  · exact ⟨_, _, _, _, rfl⟩
  · exact ⟨_, _, _, _, rfl⟩
  · refine foldl_keeps (fun t => ∃ w h o c, t = { s with wells := w, host := h, pcieOut := o, scr := c }) _ _ s ?_ ⟨_, _, _, _, rfl⟩
    rintro _ _ ⟨w, h, o, c, rfl⟩
    obtain ⟨c', h', o', e'⟩ := State.raiseWell_frame { s with wells := w, host := h, pcieOut := o, scr := c } die 0
    exact ⟨_, h', o', c', e'⟩

/-- The same in the stack of a page. -/
theorem State.eccStack_frame (page line : Nat) (e : EccResult) :
    ∃ k h o c, s.eccStack page line e = { s with stackRegs := k, host := h, pcieOut := o, scr := c } := by
  unfold State.eccStack
  dsimp only
  split
  · exact ⟨_, _, _, _, rfl⟩
  · exact ⟨_, _, _, _, rfl⟩
  · obtain ⟨c, h, o, e'⟩ := (s.modStack (page / 6144) fun x =>
      { x with errPage := BitVec.ofNat 13 (page % 6144), errLine := BitVec.ofNat 18 line }).raiseStack_frame (page / 6144) 0
    exact ⟨_, h, o, c, e'⟩

/-- A nib's load changes at most its counter of failed checks, and its well's account of errors. -/
theorem State.nibLoad_frame (nib line : Nat) :
    ∃ n w h o c, (s.nibLoad nib line).1 = { s with nibs := n, wells := w, host := h, pcieOut := o, scr := c } := by
  unfold State.nibLoad State.countLoads
  dsimp only
  split
  · obtain ⟨w, h, o, c, e⟩ := s.eccWell_frame (nib / 2048) 1 (s.t0Ecc nib line)
    exact ⟨_, w, h, o, c, e⟩
  · obtain ⟨w, h, o, c, e⟩ := (s.modNib nib fun x => { x with lchkerr := satAdd x.lchkerr 1 }).eccWell_frame (nib / 2048) 1 (s.t0Ecc nib line)
    exact ⟨_, w, h, o, c, e⟩

theorem State.markDirty_frame (page line : Nat) : ∃ m, s.markDirty page line = { s with mir := m } := by
  unfold State.markDirty
  split
  · split <;> exact ⟨_, rfl⟩
  · exact ⟨_, rfl⟩

theorem State.roWrite_frame (idx : Nat) (who : Writer) : ∃ a h p k, s.roWrite idx who = { s with loan := a, host := h, pcieOut := p, strk := k } := by
  unfold State.roWrite
  obtain ⟨h, p, e⟩ := s.raiseLoan_frame 4 idx
  dsimp only
  rw [e]
  split <;> exact ⟨_, h, p, _, rfl⟩

/-- A line write is refused with its flag, or stores the line at its page's place and marks its region. -/
theorem State.t2Write_cases (a : Nat) (l : Line) (who : Writer) :
    (∃ n h p k, s.t2Write a l who = { s with loan := n, host := h, pcieOut := p, strk := k })
    ∨ (lineIdx a < 73728 ∧ (s.page (lineIdx a)).kind = 0 ∧ (s.page (lineIdx a)).pinned = false ∧ lineFld a < pageLines
      ∧ ∃ m, s.t2Write a l who = { (s.writeBytes (t2At (lineIdx a) (72 * lineFld a)) (l.take 72)) with mir := m }) := by
  unfold State.t2Write
  dsimp only
  split
  · obtain ⟨h, p, e⟩ := s.raiseLoan_frame 5 (lineIdx a)
    exact .inl ⟨_, h, p, s.strk, e⟩
  · split
    · obtain ⟨n, h, p, k, e⟩ := s.roWrite_frame (lineIdx a) who
      exact .inl ⟨n, h, p, k, e⟩
    · rename_i hc hp
      obtain ⟨m, e⟩ := State.markDirty_frame (s.writeBytes (t2At (lineIdx a) (72 * lineFld a)) (l.take 72)) (lineIdx a) (lineFld a)
      simp only [Bool.or_eq_true, decide_eq_true_eq, bne_iff_ne, not_or, not_le, ne_eq, not_not] at hc
      exact .inr ⟨by omega, hc.1.2, by simpa using hp, hc.2, m, e⟩

/-- A raw write is refused with its flag, or stores its bytes. -/
theorem State.rawWrite_cases (a : Nat) (bs : List Byte) (who : Writer) :
    (∃ n h p k, s.rawWrite a bs who = { s with loan := n, host := h, pcieOut := p, strk := k })
    ∨ (a / 2 ^ 24 < 73728 ∧ (s.page (a / 2 ^ 24)).kind = 1 ∧ (s.page (a / 2 ^ 24)).pinned = false
      ∧ s.rawWrite a bs who = s.writeBytes (t2At (a / 2 ^ 24) (a % 2 ^ 24)) bs) := by
  unfold State.rawWrite
  dsimp only
  split
  · obtain ⟨h, p, e⟩ := s.raiseLoan_frame 5 (a / 2 ^ 24)
    exact .inl ⟨_, h, p, s.strk, e⟩
  · split
    · obtain ⟨n, h, p, k, e⟩ := s.roWrite_frame (a / 2 ^ 24) who
      exact .inl ⟨n, h, p, k, e⟩
    · rename_i hc hp
      simp only [Bool.or_eq_true, decide_eq_true_eq, bne_iff_ne, not_or, not_le, ne_eq, not_not] at hc
      exact .inr ⟨by omega, hc.2, by simpa using hp, rfl⟩

/-- A write to T0 or to the well changes memory with the errors of its lines. -/
theorem State.t0Write_frame (nib line : Nat) (l : Line) : ∃ m u, s.t0Write nib line l = { s with mem := m, upset := u } := by
  unfold State.t0Write
  split
  · exact ⟨_, _, rfl⟩
  · exact ⟨s.mem, s.upset, rfl⟩

theorem State.wellWrite_frame (die line : Nat) (l : Line) : ∃ m u, s.wellWrite die line l = { s with mem := m, upset := u } := by
  unfold State.wellWrite
  split
  · exact ⟨_, _, rfl⟩
  · exact ⟨s.mem, s.upset, rfl⟩

/-- A write at a place changes memory with the errors of its lines, the loan's flags, the dirty regions and the endpoint, and can fail the job. -/
theorem State.placeWrite_frame (p : Place) (l : Line) (who : Writer) :
    ∃ m u n h o k d, s.placeWrite p l who = { s with mem := m, upset := u, loan := n, host := h, pcieOut := o, strk := k, mir := d } := by
  unfold State.placeWrite
  split
  · obtain ⟨m, u, e⟩ := s.t0Write_frame _ p.at_ l
    exact ⟨m, u, s.loan, s.host, s.pcieOut, s.strk, s.mir, e⟩
  · obtain ⟨m, u, e⟩ := s.wellWrite_frame _ p.at_ l
    exact ⟨m, u, s.loan, s.host, s.pcieOut, s.strk, s.mir, e⟩
  · rcases s.t2Write_cases p.at_ l who with ⟨n, h, o, k, e⟩ | ⟨-, -, -, -, d, e⟩
    · exact ⟨s.mem, s.upset, n, h, o, k, s.mir, e⟩
    · exact ⟨_, _, s.loan, s.host, s.pcieOut, s.strk, d, e⟩
  · rcases s.rawWrite_cases p.at_ l who with ⟨n, h, o, k, e⟩ | ⟨-, -, -, e⟩
    · exact ⟨s.mem, s.upset, n, h, o, k, s.mir, e⟩
    · exact ⟨_, _, s.loan, s.host, s.pcieOut, s.strk, s.mir, e⟩

theorem State.placeWrite_wf (p : Place) (l : Line) (who : Writer) (hw : Memory.wf s.mem = true) : Memory.wf (s.placeWrite p l who).mem = true := by
  unfold State.placeWrite
  split
  · exact s.t0Write_wf _ _ _ hw
  · exact s.wellWrite_wf _ _ _ hw
  · rcases s.t2Write_cases p.at_ l who with ⟨n, h, o, k, e⟩ | ⟨-, -, -, -, d, e⟩
    · rw [e]; exact hw
    · rw [e]; exact memWrite_wf _ _ hw
  · rcases s.rawWrite_cases p.at_ l who with ⟨n, h, o, k, e⟩ | ⟨-, -, -, e⟩
    · rw [e]; exact hw
    · rw [e]; exact memWrite_wf _ _ hw

/-- A read of an own page changes at most its stack's account of errors and what is told of it. -/
theorem State.readPage_frame (page line : Nat) :
    ∃ k h o c, (s.readPage page line).1 = { s with stackRegs := k, host := h, pcieOut := o, scr := c } := s.eccStack_frame page line _

/-- A read of a home copy besides at most the loan's flags. -/
theorem State.homeLine_frame (idx page tag line : Nat) :
    ∃ n k h o c, (s.homeLine idx page tag line).1 = { s with loan := n, stackRegs := k, host := h, pcieOut := o, scr := c } := by
  unfold State.homeLine
  split
  · obtain ⟨h, o, e⟩ := s.raiseLoan_frame 5 page
    exact ⟨_, s.stackRegs, h, o, s.scr, e⟩
  · split
    · obtain ⟨k, h, o, c, e⟩ := s.readPage_frame page line
      exact ⟨s.loan, k, h, o, c, e⟩
    · obtain ⟨h, o, e⟩ := s.raiseLoan_frame 3 idx
      exact ⟨_, s.stackRegs, h, o, s.scr, e⟩

/-- A read by line address changes at most the loan's flags and counters, a stack's account of errors and what is told of them. -/
theorem State.t2Read_frame (a : Nat) :
    ∃ n k h o c, (s.t2Read a).1 = { s with loan := n, stackRegs := k, host := h, pcieOut := o, scr := c } := by
  unfold State.t2Read
  dsimp only
  split
  · obtain ⟨h, o, e⟩ := s.raiseLoan_frame 5 (lineIdx a)
    exact ⟨_, s.stackRegs, h, o, s.scr, e⟩
  · split
    · rename_i p _
      obtain ⟨k, h, o, c, e⟩ := s.readPage_frame p (lineFld a)
      exact ⟨s.loan, k, h, o, c, e⟩
    · rename_i p tag _
      obtain ⟨n, k, h, o, c, e⟩ := State.homeLine_frame { s with loan := { s.loan with homereads := satAdd s.loan.homereads 1 } }
        (s.t3Of (lineIdx a)) p tag (lineFld a)
      exact ⟨n, k, h, o, c, e⟩
    · obtain ⟨h, o, e⟩ := s.raiseLoan_frame 5 (lineIdx a)
      exact ⟨_, s.stackRegs, h, o, s.scr, e⟩
    · exact ⟨_, _, _, _, _, rfl⟩
    · exact ⟨_, _, _, _, _, rfl⟩

theorem State.rawRead_frame (a n : Nat) :
    ∃ l k h o c, (s.rawRead a n).1 = { s with loan := l, stackRegs := k, host := h, pcieOut := o, scr := c } := by
  unfold State.rawRead
  dsimp only
  split
  · obtain ⟨h, o, e⟩ := s.raiseLoan_frame 5 (a / 2 ^ 24)
    exact ⟨_, s.stackRegs, h, o, s.scr, e⟩
  · unfold State.eccRaw
    refine foldl_keeps (fun t => ∃ l k h o c, t = { s with loan := l, stackRegs := k, host := h, pcieOut := o, scr := c }) _ _ s ?_
      ⟨_, _, _, _, _, rfl⟩
    rintro _ e ⟨l, k, h, o, c, rfl⟩
    obtain ⟨k', h', o', c', e'⟩ := State.eccStack_frame { s with loan := l, stackRegs := k, host := h, pcieOut := o, scr := c } (a / 2 ^ 24)
      ((e.1 - t2At (a / 2 ^ 24) 0) / 72) e.2
    exact ⟨l, k', h', o', c', e'⟩

/-- A read at a place changes at most the accounts of errors, the loan's flags and counters and what is told of them. -/
theorem State.placeRead_frame (p : Place) :
    ∃ n w k h o c, (s.placeRead p).1 = { s with loan := n, wells := w, stackRegs := k, host := h, pcieOut := o, scr := c } := by
  unfold State.placeRead
  split
  · rename_i n _
    obtain ⟨w, h, o, c, e⟩ := s.eccWell_frame (n / 2048) 1 (s.t0Ecc n p.at_)
    exact ⟨s.loan, w, s.stackRegs, h, o, c, e⟩
  · rename_i d _
    obtain ⟨w, h, o, c, e⟩ := s.eccWell_frame d 1 (s.wellEcc d p.at_)
    exact ⟨s.loan, w, s.stackRegs, h, o, c, e⟩
  · obtain ⟨n, k, h, o, c, e⟩ := s.t2Read_frame p.at_
    exact ⟨n, s.wells, k, h, o, c, e⟩
  · obtain ⟨n, k, h, o, c, e⟩ := s.rawRead_frame p.at_ 72
    exact ⟨n, s.wells, k, h, o, c, e⟩

/-- A mover's read: the flags and counters of a failed check besides. -/
theorem State.moverRead_frame (die : Nat) (p : Place) :
    ∃ n w k h o c, (s.moverRead die p).1 = { s with loan := n, wells := w, stackRegs := k, host := h, pcieOut := o, scr := c } := by
  obtain ⟨n, w, k, h, o, c, e⟩ := s.placeRead_frame p
  unfold State.moverRead
  dsimp only
  split
  · exact ⟨n, w, k, h, o, c, e⟩
  · split
    · exact ⟨n, w, k, h, o, c, e⟩
    · split
      · obtain ⟨c', h', o', e'⟩ := (s.placeRead p).1.raiseWell_frame die 1
        dsimp only
        rw [e', e]
        exact ⟨_, _, _, _, _, _, rfl⟩
      · dsimp only
        rw [e]
        exact ⟨_, _, _, _, _, _, rfl⟩

/-- Zeroed bytes: memory keeps its form, and the bytes read as zero. -/
theorem State.zeroBytes_wf (a n : Nat) (h : Memory.wf s.mem = true) : Memory.wf (s.zeroBytes a n).mem = true := filter_wf _ h

theorem State.noteHdr_frame (nib line : Nat) : ∃ k, s.noteHdr nib line = { s with strk := k } := by
  unfold State.noteHdr
  split <;> exact ⟨_, rfl⟩

theorem State.followHdr_frame (src dst : Place) : ∃ k, s.followHdr src dst = { s with strk := k } := ⟨_, rfl⟩

/-! ### Sending and receiving -/

theorem State.enqueue_frame (l vc : Nat) (e : Slots) : ∃ k, s.enqueue l vc e = { s with links := k } := ⟨_, rfl⟩

theorem State.recordOn_frame (l dest kind : Nat) (items : List Nat) : ∃ k, s.recordOn l dest kind items = { s with links := k } := ⟨_, rfl⟩

/-- A record changes the queues of the links, nothing else. -/
theorem State.sendRecord_frame (dest kind : Nat) (items : List Nat) (relay : Bool) :
    ∃ k, s.sendRecord dest kind items relay = { s with links := k } := by
  unfold State.sendRecord
  split
  · exact ⟨_, rfl⟩
  · split
    · split
      · split <;> exact ⟨_, rfl⟩
      · exact ⟨_, rfl⟩
    · exact ⟨_, rfl⟩

theorem State.sendAll_frame (kind : Nat) (items : List Nat) : ∃ k, s.sendAll kind items = { s with links := k } := by
  unfold State.sendAll
  refine foldl_keeps (fun t => ∃ k, t = { s with links := k }) _ _ s ?_ ⟨_, rfl⟩
  rintro _ r ⟨k, rfl⟩
  obtain ⟨k', e⟩ := State.sendRecord_frame { s with links := k } r kind items true
  exact ⟨k', e⟩

theorem State.sendPartner_frame (kind : Nat) (items : List Nat) : ∃ k, s.sendPartner kind items = { s with links := k } := by
  unfold State.sendPartner
  split <;> exact ⟨_, rfl⟩

theorem State.sendList_frame (dest kind : Nat) (lead n : Nat) (es : List (List Nat)) :
    ∃ k, s.sendList dest kind lead n es = { s with links := k } := by
  induction n generalizing s es with
  | zero => exact ⟨_, rfl⟩
  | succ n ih =>
    obtain ⟨k, e⟩ := s.sendRecord_frame dest kind (listItems lead es) false
    obtain ⟨k', e'⟩ := ih { s with links := k } (es.drop 4)
    exact ⟨k', by rw [State.sendList, e, e']⟩

theorem State.freeSlots_frame (l vc n : Nat) : ∃ k, s.freeSlots l vc n = { s with links := k } := by
  unfold State.freeSlots
  split <;> exact ⟨_, rfl⟩

/-- A record taken: one that says those items was waiting, and it leaves the inbox. -/
theorem State.takeRecord_cases (kind sender : Nat) (items : List Nat) {t : State} (h : s.takeRecord kind sender items = some t) :
    ∃ r k, r ∈ s.inbox ∧ r.kind = kind ∧ r.sender = sender ∧ r.body = recordBody kind items
      ∧ t = { s with inbox := s.inbox.erase r, links := k } := by
  unfold State.takeRecord at h
  split at h
  · cases h
  · rename_i r hr
    have hp := List.find?_some hr
    simp only [Bool.and_eq_true, decide_eq_true_eq] at hp
    obtain ⟨k, e⟩ := State.freeSlots_frame { s with inbox := s.inbox.erase r } r.link (recordVc kind) 1
    exact ⟨r, k, List.mem_of_find?_eq_some hr, hp.1.1, hp.1.2, hp.2, (Option.some.inj h).symm.trans e⟩

/-! ### Pages -/

theorem State.shadowHome_frame (t3 : Nat) : ∃ m, s.shadowHome t3 = { s with pmap := m } := by
  unfold State.shadowHome
  split <;> exact ⟨_, rfl⟩

theorem State.unshadowHome_frame (t3 : Nat) : ∃ m, s.unshadowHome t3 = { s with pmap := m } := by
  unfold State.unshadowHome
  split
  · split <;> exact ⟨_, rfl⟩
  · exact ⟨_, rfl⟩

/-- A change that neither lends a page nor takes one back changes the page map alone. -/
theorem State.makeChange_frame (c : PageChange) (hl : ∀ t, c.op ≠ .lend t) (hu : c.op ≠ .unlend) : ∃ m, s.makeChange c = { s with pmap := m } := by
  unfold State.makeChange
  dsimp only
  split
  · obtain ⟨m, e⟩ := s.unshadowHome_frame c.index
    rw [e]
    exact ⟨_, rfl⟩
  · split
    · obtain ⟨m, e⟩ := (s.setPage c.index ((s.page c.index).apply c.op)).shadowHome_frame c.index
      exact ⟨m, e⟩
    · exact ⟨_, rfl⟩
  · obtain ⟨m, e⟩ := s.unshadowHome_frame c.index
    rw [e]
    exact ⟨_, rfl⟩
  · rename_i h
    exact absurd h hu
  · rename_i t h
    exact absurd h (hl t)
  · exact ⟨_, rfl⟩

/-- Such a change takes effect now or waits for a publication. -/
theorem State.changePage_frame (index : Nat) (op : PageOp) (hl : ∀ t, op ≠ .lend t) (hu : op ≠ .unlend) :
    ∃ m w, s.changePage index op = { s with pmap := m, pmapPending := w } := by
  unfold State.changePage
  split
  · exact ⟨_, _, rfl⟩
  · obtain ⟨m, e⟩ := s.makeChange_frame { index := index, op := op } hl hu
    exact ⟨m, s.pmapPending, e⟩

/-! ### The log in flash -/

theorem State.appendLog_frame (e : LogEntry) : ∃ f g c, s.appendLog e = { s with flash0 := f, flash1 := g, scr := c } := ⟨_, _, _, rfl⟩

theorem State.eraseSector_frame (lo : Nat) : ∃ f g c, s.eraseSector lo = { s with flash0 := f, flash1 := g, scr := c } := by
  unfold State.eraseSector
  dsimp only
  refine foldl_keeps (fun t => ∃ f g c, t = { s with flash0 := f, flash1 := g, scr := c }) _ _ _ ?_ ?_
  swap
  · exact ⟨_, _, _, rfl⟩
  rintro _ x ⟨f, g, c, rfl⟩
  exact ⟨_, _, _, rfl⟩

theorem State.makeRoom_frame : ∃ f g c, s.makeRoom = { s with flash0 := f, flash1 := g, scr := c } := by
  unfold State.makeRoom
  dsimp only
  split
  · exact s.eraseSector_frame _
  · exact ⟨_, _, _, rfl⟩

/-- Writing an entry, with the erase of a sector before or after it, changes both flash devices and the scribe. -/
theorem State.writeEntry_frame (e : LogEntry) : ∃ f g c, s.writeEntry e = { s with flash0 := f, flash1 := g, scr := c } := by
  unfold State.writeEntry
  obtain ⟨f, g, c, h⟩ := s.makeRoom_frame
  obtain ⟨f', g', c', h'⟩ := State.makeRoom_frame (s.makeRoom.appendLog e)
  rw [h', h]
  exact ⟨_, _, _, rfl⟩

theorem State.countEntry_frame (type : Nat) : ∃ c n, s.countEntry type = ({ s with scr := c }, n) := ⟨_, _, rfl⟩

theorem State.writeGap_frame : ∃ f g c, s.writeGap = { s with flash0 := f, flash1 := g, scr := c } := by
  unfold State.writeGap
  obtain ⟨k, n, hk⟩ := s.countEntry_frame 0x00FF
  rw [hk]
  dsimp only
  split
  · exact ⟨_, _, _, rfl⟩
  · obtain ⟨f, g, c, h⟩ := State.writeEntry_frame
      { s with scr := { k with gap := 0, gapHeld := 0, suppressed := sset (fun _ => 0) s.scr.suppressed 0x00FF 0 } }
      { seq := 0, gtc := s.gtc.now.toNat, boot := s.boot.count.toNat, type := 0x00FF, severity := 1,
        flags := (if s.gtc.locked then 0 else 2) + (if sget (fun _ => 0) s.scr.suppressed 0x00FF = 0 then 0 else 4),
        count := 1 + sget (fun _ => 0) s.scr.suppressed 0x00FF, payload := [w32 (s.scr.gapHeld + s.scr.gap)] }
    exact ⟨f, g, c, h⟩

/-- Writing the next entry changes both flash devices, the scribe and the hold-up's budget. -/
theorem State.writeLog_frame : ∃ f g c p, s.writeLog = { s with flash0 := f, flash1 := g, scr := c, power := p } := by
  unfold State.writeLog
  split
  · obtain ⟨f, g, c, h⟩ := s.writeGap_frame
    exact ⟨f, g, c, s.power, h⟩
  · split
    · exact ⟨_, _, _, _, rfl⟩
    · rename_i e rest _
      dsimp only
      obtain ⟨f, g, c, h⟩ := State.writeEntry_frame
        { s with scr := { s.scr with logQueue := rest }, power := { s.power with holdup := s.power.holdup.map fun (n : Nat) => n - 1 } } e
      exact ⟨f, g, c, _, h⟩

theorem State.writeLogs_frame (n : Nat) : ∃ f g c p, s.writeLogs n = { s with flash0 := f, flash1 := g, scr := c, power := p } := by
  induction n generalizing s with
  | zero => exact ⟨_, _, _, _, rfl⟩
  | succ n ih =>
    obtain ⟨f, g, c, p, e⟩ := s.writeLog_frame
    obtain ⟨f', g', c', p', e'⟩ := ih { s with flash0 := f, flash1 := g, scr := c, power := p }
    exact ⟨f', g', c', p', by rw [State.writeLogs, e, e']⟩

/-! ### The scribe's commands -/

theorem State.deliverCmd_frame (d : CmdDone) : ∃ c, s.deliverCmd d = { s with scr := c } := by
  unfold State.deliverCmd
  split
  · exact ⟨_, rfl⟩
  · exact ⟨_, rfl⟩
  · split <;> exact ⟨_, rfl⟩

theorem State.submit_frame (c : CmdReq) : ∃ k, s.submit c = { s with scr := k } := by
  unfold State.submit
  split
  · exact ⟨_, rfl⟩
  · exact s.deliverCmd_frame _

/-- A command row does nothing, or takes the front command, which is refused with its status or run. -/
theorem State.runCmd_cases (op : Nat) (f : CmdReq → State → State) :
    s.runCmd op f = .next s
    ∨ ∃ c rest, s.scr.queue = c :: rest ∧ c.op = op ∧ s.power.scribe = true ∧
      (let t := { s with scr := { s.scr with queue := rest } }
       (∃ st, t.cmdRefusal c = some st ∧ s.runCmd op f = .next (t.answerCmd c st [] []))
       ∨ (t.cmdRefusal c = none ∧ s.runCmd op f = .next (f c t))) := by
  unfold State.runCmd
  split
  · exact .inl rfl
  · rename_i c rest hq
    split
    · exact .inl rfl
    · rename_i hc
      simp only [Bool.or_eq_true, decide_eq_true_eq, Bool.not_eq_true', not_or, ne_eq, not_not, Bool.not_eq_false] at hc
      refine .inr ⟨c, rest, hq, hc.1, hc.2, ?_⟩
      dsimp only
      split
      · rename_i st hst
        exact .inl ⟨st, hst, rfl⟩
      · rename_i hst
        exact .inr ⟨hst, rfl⟩

end Sys2Proof.Machine
end

