-- ==== Sys2Proof/Tests/Slice0.lean ====
section
/-! SUPPORT. Tests of single steps on small states, whose expected results come from the spec; the smoke test of well-formedness; and, for every
statement of Certificates/Slice0/Obligations.lean, states and operands that meet its hypotheses (the theorems named `wit_<statement>`, with a number
where a statement has several clauses). -/
namespace Sys2Proof.Tests

set_option Elab.async false

open Sys2Proof Sys2Proof.Machine Sys2Proof.Claims

/-! ### Small states -/

/-- A powered, booted, operational module without a group and with erased flash devices; 128 quills a die. -/
def on : State :=
  { State.reset with
    fuses := { Fuses.reset with rootHash := [] }
    flash0 := Flash.erased
    flash1 := Flash.erased
    power := { Power.reset with vio := true, vlane := true, vwell := true, vcore := true, vstk := true, vddq := true }
    boot := { Boot.reset with code := 1, phase := 0, life := .operational, rbPending := false }
    units := { UnitMap.reset with quills0 := 128, quills1 := 128 } }

/-- What a command leaves satisfies a test. -/
def after (o : Out State) (p : State → Bool) : Bool := match o with | .next t => p t | _ => false

/-- A state whose nib 0 holds lanes in registers. -/
def withRegs (s : State) (rs : List (Nat × List Word)) : State := s.setNib 0 { Nib.reset with vregs := rs }

/-- Memory that holds lines at rising addresses, in canonical form. -/
def memOf (ls : List (Nat × Line)) : List Host.Cell :=
  ls.flatMap fun l => (l.2.zipIdx).filterMap fun b => if b.1 = 0#8 then none else some (l.1 + b.2, b.1)

/-- 64 equal lanes. -/
def same (w : Word) : List Word := List.replicate 64 w

theorem test_reset_empty : State.reset.pending = [] := by decide

/-- An empty queue lets a nanosecond pass. -/
theorem test_tick : after (step { on with gtc := { on.gtc with now := 7 } }) (fun t => t.gtc.now = 8) = true := by decide +kernel

/-- The front command runs, the rest stays. -/
theorem test_front : after (step { on with pending := [.nop { die := 0, num := 0 }, .flr] }) (fun t => t.pending = [.flr]) = true := by decide +kernel

/-! ### Well-formedness -/

def badPlace : Place := { space := .well 2, at_ := 0 }
def okPlace : Place := { space := .well 1, at_ := 7456511 }
def copyDesc : MoverDesc :=
  { mxint8 := false, rows := 1, lines := 1, src := okPlace, dst := { space := .well 0, at_ := 0 }, srcStride := 1, dstStride := 1, k := 0, mxscale := 0 }
def noEnv : BootEnv :=
  { rackId := 0, slotId := 0, failSites := [], stackFail := [], fabricFail := false, ioFail := false, readBackOk := true, wipeUs := 0, timeMs := 0,
    trained := [], flashFail := [] }
def plainOut (fmt line : Nat) : OutDesc :=
  { fmt := fmt, hdr := none, line := line, stride := 1, tileScale := some 0x3F800000#32, blockScale := none, sr := false, stream := 0, tileIndex := 0,
    rows := 1, validK := 128, row0 := 0, col0 := 0, layer := 0, flourish := .none }
def tinyTile : TileDesc :=
  { quill := 0, gang := 0, ticket := none, tileIndex := 0, sole := true, mt := 1, nt := 1, g := 1, rows := 1, cols := 1, free := true, segs := [], conv := none, epilogue := [],
    role := .plain, out := plainOut 8 100, feedWait := [], drainWait := 0 }
def plainColl : CollDesc :=
  { op := .allGather, members := 3, sender := 0, redMax := false, inFmt := 8, wireFmt := 8, dstFmt := 8, lines := 1, src := { space := .well 0, at_ := 0 },
    dst := { space := .well 0, at_ := 100 }, tmo := 0 }
def oneScatter : ScatterDesc :=
  { target := { list := 0, slot := 0 }, first := 0, count := 32, keysAt := 0, valuesAt := 100,
    replace := false, scales := { keys := [], values := [], stream := 0 }, nib := 0 }


/-- Every check refuses a command that breaks it. -/
theorem test_ill_formed :
    ([.gtcLock 0 128, .sensorSample 184 none, .patrolScrub 12 0 0 .clean, .patrolScrub 0 6144 0 .clean, .patrolScrub 0 0 (2 ^ 18) .clean,
      .stackRefresh 12 0, .doorbell 64 0, .ringCqheadWrite 64 0, .ringEnable 64 0, .ringAbort 64, .ringFeeddoneWrite 64 0, .stallPoint [0], .stallPoint [8],
      .stall 128 0 0 1, .stall 0 0 256 1, .stall 0 0 0 16, .rateMessage 0 0 8 64, .rateMessage 0 0 19 64, .rateMessage 0 0 9 63, .rateMessage 0 0 9 4097,
      .jobEnd 128 0 0 0, .jobEnd 0 0 256 0, .trip 128 0, .leaving 128 0, .mReady 128 0 false, .collAbort 128 0 0 0 0 0, .collAbort 0 0 0 2 0 0,
      .collAbort 0 0 0 0 256 0, .collAbort 0 0 0 0 0 128, .chunkNak 128 0 0 0 0, .chunkNak 0 0 0 2 0, .peerLost 128, .linkTrained 96, .flitSend 96,
      .ackTimer 96, .linkRxTimeout 96, .ident 96 0 0 0 0 0 0, .ident 0 0 128 0 0 0 0, .ident 0 0 0 0 0 96 0,
      .flitReceive 0 [] { words := 0, corrected := 0, symbols := 0, uncorrectable := 0 }, .laneLockLoss 0 4, .discSync 128 0 0, .discFollow 128 0 0 0,
      .discDreq 128 0 0, .discDresp 128 0 0] : List Instr).all (fun i => !i.wellFormed) = true
    ∧ ([.offer 0 1 1 0, .offer 0 1 256 0, .offer 0 1 2 17, .request 0 256 [], .request 0 2 [{ t3 := 0, homeRank := 0, homePage := 0, homeTag := 0 }],
      .request 0 2 [{ t3 := 73728, homeRank := 128, homePage := 0, homeTag := 0 }], .request 0 2 [{ t3 := 73728, homeRank := 0, homePage := 73728, homeTag := 0 }],
      .grant 0 [{ t3 := 131072, page := 0, tag := 0 }], .grant 0 [{ t3 := 73728, page := 73728, tag := 0 }], .loanFillDone 128, .recallTimeout 128, .filled 0 [0],
      .recall 0 2 [0], .released 0 [0], .return 0 [0], .loanRead 0 73728 0 1 0 false, .loanRead 0 0 0 0 0 false, .loanRead 0 0 0 4097 0 false,
      .loanRead 0 0 233016 1 0 false, .notLent 0 73728 0 1, .notLent 0 0 0 4097, .loanReadTimeout 0, .ticketTake 2 0 0 0 .none, .ticketTake 0 256 0 0 .none,
      .ticketTimeout 0 0 256 0 .none, .ticketTimeout 0 256 0 0 .none, .tileClose { tinyTile with quill := 512 }, .tileClose { tinyTile with gang := 8 },
      .arrayFault tinyTile [8] [] [] 1, .arrayFault tinyTile [0] [[1]] [] 1, .arrayFault tinyTile [0] [[6]] [] 1, .blotCheckDone 2 0 [], .blotCheckDone 0 2 [],
      .rowReadyIncrement 0 256, .atomicAdd 4096 0 0, .atomicAdd 0 7456512 0, .atomicAdd 0 0 7456512, .nop { die := 0, num := 64 }, .nop { die := 2, num := 16 },
      .nop { die := 3, num := 0 }, .copy { die := 0, num := 0 } { copyDesc with src := badPlace } [], .zero { die := 0, num := 0 } { copyDesc with dst := badPlace },
      .allGather 0 { plainColl with dst := badPlace }] : List Instr).all (fun i => !i.wellFormed) = true
    ∧ ([.alloc { list := 0, slot := 0 } 16 { keys := [], values := [], stream := 0 }, .ref 262144, .scatter { oneScatter with valuesAt := 7456512 },
      .scatter { oneScatter with nib := 4096 }, .scatter { oneScatter with keysAt := 7456512 }, .vadd 4096 .f32 0 (.reg 0) (.reg 0), .vadd 0 .f32 64 (.reg 0) (.reg 0),
      .vadd 0 .f32 0 (.reg 64) (.reg 0), .vadd 0 .f32 0 (.drain 2 0 0) (.reg 0), .vadd 0 .f32 0 (.drain 0 32 0) (.reg 0), .vadd 0 .f32 0 (.drain 0 0 65) (.reg 0),
      .vcmp 0 .eq 8 (.reg 0) (.reg 0), .vsel 0 0 8 (.reg 0) (.reg 0), .vwelf 0 64 0 0 (.reg 0), .vwmerge 0 0 64 0 (.each (.reg 0)) (.reg 0) (.reg 0), .vadd 0 .f32 0 (.splat 0 64) (.reg 0),
      .vadd 0 .f32 0 (.mean 64 0) (.reg 0), .vadd 0 .f32 0 (.variance 0 64) (.reg 0),
      .vmask 0 .f32 0 8 (.reg 0), .vectorLoad 0 0 3640 (.values 1) none 0 0 .clean, .vectorLoad 0 0 0 (.values 0) none 0 0 .clean, .vectorLoad 0 0 0 (.values 9) none 0 0 .clean,
      .vectorLoad 0 0 0 (.values 1) none 0 4 .clean, .vectorStore 0 (List.replicate 33 []) 1 (plainOut 8 0) .plain, .vectorStore 0 [] 1 (plainOut 9 0) .plain,
      .exp 0 64 .f32 (.reg 0) .f32, .microProgram 0 8 0 .f32 (.reg 0) .f32, .vcuFrameStart 12, .unitEmit 12 [], .vcuCtxHostposWrite 0 32 0,
      .glbBar2MapWrite 4096 0, .bar2Write (2 ^ 36) [0#8], .bar2Read (2 ^ 36) 1, .msixIntervalEnd 256, .w1cClear 2 0 0, .rcRead { offset := 0x4000000, width := 4 } 0, .rcRead { offset := 0, width := 3 } 0,
      .wellBlotctlWrite 2 0, .wellBlottolWrite 2 0, .registerWrite 0 4 (2 ^ 32), .registerWrite 0x4000000 4 0, .smbCommandWrite [0#8] none,
      .smbCommandWrite (List.replicate 15 0#8) none, .wellPortTransfer 0 true 3640 0 1, .wellPortTransfer 0 true 0 7456512 1,
      .cablePresenceChange 12 true] : List Instr).all (fun i => !i.wellFormed) = true := by decide +kernel

/-- Commands that break no check are well formed. -/
theorem test_well_formed :
    ([.tileClose tinyTile, .copy { die := 1, num := 63 } copyDesc [], .allGather 0 plainColl, .scatter oneScatter, .vadd 4095 .bf16 63 (.reg 63) (.drain 1 31 64),
      .bar2Write (2 ^ 36 - 1) [0#8], .registerWrite 0x3FFFFFC 4 0xFFFFFFFF, .powerGood noEnv, .laneLockLoss 95 3, .ref 262143] : List Instr).all (·.wellFormed)
      = true := by decide +kernel

/-! ### Numbers and packed lines -/

/-- R41: 0x78 is 1.0, 0x01 is 2^-17, 0xFE is 114,688. -/
theorem test_block_scale_values : ueVal 0x78 = 1 ∧ ueVal 0x01 = pow2 (-17) ∧ ueVal 0xFE = 114688 := by decide +kernel

theorem wit_BlockScaleBytesKeepOrder : (0xFE : Nat) ≤ 0xFE ∧ (0 : Nat) ≤ 0xFE := by decide

def someBlocks (top : Nat) : List OutBlk := (List.range 4).map fun b => { scale := b + 1, codes := (List.range 32).map fun e => (e + b) % top }

theorem wit_PackedBlocksReadBack :
    (∀ fmt ∈ [1, 2, 3], 1 ≤ fmt ∧ fmt ≤ 3 ∧ (someBlocks (if fmt = 3 then 256 else 16)).length = 4
      ∧ ∀ b ∈ someBlocks (if fmt = 3 then 256 else 16), b.scale < 256 ∧ b.codes.length = 32 ∧ ∀ c ∈ b.codes, c < (if fmt = 3 then 256 else 16)) := by
  decide +kernel

/-! ### Vector unit and SFU -/

/-- Nib 0 holds 1.0 in register 1 and 2.0 in register 2. -/
def vec : State := withRegs on [(1, same 0x3F800000#32), (2, same 0x40000000#32)]

theorem wit_VectorArithmeticWritesEveryElement : nibRuns vec 0 := by unfold nibRuns; decide +kernel
theorem wit_ElementwiseSelectionsAndConversions : nibRuns vec 0 ∧ (FV.nan.isNan = true ∨ (FV.num false 0).isNan = true) ∧ WideFmt.f32 ≠ .bf16 := by
  unfold nibRuns; decide +kernel
theorem wit_ReductionsFillLaneZero : nibRuns vec 0 := by unfold nibRuns; decide +kernel
theorem wit_RowStatisticsFollowTheirSteps : nibRuns vec 0 ∧ (0 : Nat) % 64 ≠ 1 % 64 ∧ (0 : Nat) % 64 ≠ 63 % 64 ∧ (1 : Nat) % 64 ≠ 63 % 64 := by
  unfold nibRuns; decide +kernel

theorem test_vadd : after (exec (.vadd 0 .f32 3 (.reg 1) (.reg 2)) vec) (fun t => t.vreg 0 3 = same 0x40400000#32) = true := by decide +kernel
theorem test_vsub : after (exec (.vsub 0 .f32 1 (.reg 1) (.reg 2)) vec) (fun t => t.vreg 0 1 = same 0xBF800000#32) = true := by decide +kernel
theorem test_vmul_bf16 : after (exec (.vmul 0 .bf16 3 (.reg 1) (.reg 2)) (withRegs on [(1, same 0x40003F80#32), (2, same 0x40404000#32)]))
    (fun t => t.vreg 0 3 = same 0x40C04000#32) = true := by decide +kernel
theorem test_vfma : after (exec (.vfma 0 .f32 3 (.reg 2) (.reg 2) (.reg 1)) vec) (fun t => t.vreg 0 3 = same 0x40A00000#32) = true := by decide +kernel
theorem test_vdot2 : after (exec (.vdot2 0 3 (.reg 1) (.reg 4) (.reg 4)) (withRegs on [(1, same 0x3F800000#32), (4, same 0x40404000#32)]))
    (fun t => t.vreg 0 3 = same 0x41600000#32) = true := by decide +kernel
/-- R136: infinity minus infinity is NaN, and the result is counted. -/
theorem test_vsub_invalid : after (exec (.vsub 0 .f32 3 (.reg 1) (.reg 1)) (withRegs on [(1, same 0x7F800000#32)]))
    (fun t => t.vreg 0 3 = same 0x7FC00000#32 && (t.nib 0).vinvalid = 64) = true := by decide +kernel
theorem test_vmin_nan : after (exec (.vmin 0 .f32 3 (.reg 1) (.reg 2)) (withRegs on [(1, same 0x7F800001#32), (2, same 0x40000000#32)]))
    (fun t => t.vreg 0 3 = same 0x7FC00000#32 && (t.nib 0).vinvalid = 0) = true := by decide +kernel
theorem test_vmax : after (exec (.vmax 0 .f32 3 (.reg 1) (.reg 2)) vec) (fun t => t.vreg 0 3 = same 0x40000000#32) = true := by decide +kernel
theorem test_vabs : after (exec (.vabs 0 .f32 3 (.reg 1)) (withRegs on [(1, same 0xBF800000#32)])) (fun t => t.vreg 0 3 = same 0x3F800000#32) = true := by
  decide +kernel
theorem test_vneg : after (exec (.vneg 0 .f32 3 (.reg 1)) vec) (fun t => t.vreg 0 3 = same 0xBF800000#32) = true := by decide +kernel
theorem test_vcopysign : after (exec (.vcopysign 0 .f32 3 (.reg 1) (.reg 2)) (withRegs on [(1, same 0x3F800000#32), (2, same 0x80000000#32)]))
    (fun t => t.vreg 0 3 = same 0xBF800000#32) = true := by decide +kernel
theorem test_vcmp : after (exec (.vcmp 0 .lt 7 (.reg 1) (.reg 2)) vec) (fun t => t.preg 0 7 = 0xFFFFFFFFFFFFFFFF#64) = true := by decide +kernel
theorem test_vsel : after (exec (.vsel 0 3 0 (.reg 1) (.reg 2)) (vec.setPreg 0 0 1)) (fun t => t.vreg 0 3 = 0x3F800000#32 :: List.replicate 63 0x40000000#32)
    = true := by decide +kernel
/-- BF16 2.5 of FP32 2.5; two codes a lane. -/
theorem test_vcvt : after (exec (.vcvt 0 .f32 .bf16 3 (.reg 1)) (withRegs on [(1, same 0x40200000#32)]))
    (fun t => (t.vreg 0 3).take 33 = List.replicate 32 0x40204020#32 ++ [0#32]) = true := by decide +kernel
/-- R137: the tree adds pairs: 64 ones are 64. -/
theorem test_vredsum : after (exec (.vredsum 0 3 (.reg 1)) vec) (fun t => t.vreg 0 3 = 0x42800000#32 :: List.replicate 63 0#32) = true := by decide +kernel
theorem test_vredmax : after (exec (.vredmax 0 3 (.reg 1)) vec) (fun t => (t.vreg 0 3).headD 0#32 = 0x3F800000#32) = true := by decide +kernel
theorem test_vredmin : after (exec (.vredmin 0 3 (.reg 2)) vec) (fun t => (t.vreg 0 3).headD 0#32 = 0x40000000#32) = true := by decide +kernel
/-- R151: values 1 and 2 give count 2, mean 1.5, M2 0.5. -/
theorem test_vwelf : after (exec (.vwelf 0 5 6 7 (.reg 2)) (withRegs on [(2, same 0x40000000#32), (5, same 1#32), (6, same 0x3F800000#32)]))
    (fun t => t.vreg 0 5 = same 2#32 && t.vreg 0 6 = same 0x3FC00000#32 && t.vreg 0 7 = same 0x3F000000#32) = true := by decide +kernel
/-- R152: partials of 1 and of 2 merge to the same. -/
theorem test_vwmerge : after (exec (.vwmerge 0 5 6 7 (.each (.reg 8)) (.reg 9) (.reg 10))
      (withRegs on [(5, same 1#32), (6, same 0x3F800000#32), (8, same 1#32), (9, same 0x40000000#32)]))
    (fun t => t.vreg 0 5 = same 2#32 && t.vreg 0 6 = same 0x3FC00000#32 && t.vreg 0 7 = same 0x3F000000#32) = true := by decide +kernel
/-- R160: the mask constant is -2^64, and lower scores are raised to -2^63. -/
theorem test_vmask : after (exec (.vmask 0 .f32 3 0 (.reg 1)) ((withRegs on [(1, same 0xFF7FFFFF#32)]).setPreg 0 0 1))
    (fun t => t.vreg 0 3 = 0xDF800000#32 :: List.replicate 63 0xDF000000#32 && (t.nib 0).vmclamp = 63) = true := by decide +kernel

/-- A program of one word: the identity is not needed, only that the image holds one. -/
def withImage : State := vec.modNib 0 fun x => { x with image := [0x00000001#32] }

theorem wit_SfuWritesItsFunctionOfEachElement :
    nibRuns vec 0 ∧ WideFmt.f32 ≠ .bf16 ∧ nibRuns withImage 0 ∧ (upSplit 8 (withImage.nib 0).image)[0]? = some [0x00000001#32]
      ∧ isNan32 0x7FC00000#32 = true ∧ (dec32 0xBF800000#32).isNeg = true ∧ (dec32 0xBF800000#32).isFinite = true ∧ (dec32 0xBF800000#32).isZero = false
      ∧ condHolds .le (dec32 0xC2D00000#32) (.num true 104) = true ∧ condHolds .le (dec32 0xC3160000#32) (.num true 150) = true := by
  unfold nibRuns; decide +kernel

/-- R141: exp of -infinity is 0, exp of 0 is 1. -/
theorem test_exp : after (exec (.exp 0 3 .f32 (.reg 1) .f32) (withRegs on [(1, 0xFF800000#32 :: List.replicate 63 0#32)]))
    (fun t => t.vreg 0 3 = 0#32 :: List.replicate 63 0x3F800000#32) = true := by decide +kernel
/-- R141: the logarithm of 0 is -infinity, of a negative value NaN, which counts as invalid. -/
theorem test_log : after (exec (.log 0 3 .f32 (.reg 1) .f32) (withRegs on [(1, 0#32 :: List.replicate 63 0xBF800000#32)]))
    (fun t => t.vreg 0 3 = 0xFF800000#32 :: List.replicate 63 0x7FC00000#32 && (t.nib 0).vinvalid = 63) = true := by decide +kernel
theorem test_rcp : after (exec (.rcp 0 3 .f32 (.reg 1) .f32) (withRegs on [(1, 0x80000000#32 :: List.replicate 63 0x7F800000#32)]))
    (fun t => t.vreg 0 3 = 0xFF800000#32 :: List.replicate 63 0#32) = true := by decide +kernel
theorem test_rsqrt : after (exec (.rsqrt 0 3 .f32 (.reg 1) .f32) (withRegs on [(1, 0x80000000#32 :: List.replicate 63 0xFF800000#32)]))
    (fun t => t.vreg 0 3 = 0xFF800000#32 :: List.replicate 63 0x7FC00000#32) = true := by decide +kernel

theorem wit_VectorLinesAreLoadedAndStored :
    nibRuns vec 0 ∧ 3638 + 1 < t0Lines ∧ 3 < 4 ∧ (∀ a, some 3639 = some a → a < t0Lines)
      ∧ (let o := { plainOut 8 3639 with validK := 16 }
         o.fmt = 8 ∧ o.hdr = none ∧ o.flourish = .none ∧ o.row0 = 0 ∧ o.col0 = 0 ∧ o.stride = 1 ∧ 16 ≤ o.validK ∧ o.line < t0Lines) := by
  refine ⟨by unfold nibRuns; decide +kernel, by decide, by decide, ?_, by decide⟩
  intro a h; cases h; decide

/-- A stored line reads back into a quarter of a register. -/
theorem test_store_load : after (exec (.vectorStore 0 [[1]] 16 (plainOut 8 3639) .plain) vec) (fun t =>
    after (exec (.vectorLoad 0 9 3639 (.values 8) none 0 3 .clean) t) fun u => u.vreg 0 9 = List.replicate 48 0#32 ++ List.replicate 16 0x3F800000#32) = true := by
  decide +kernel
/-- R52: a line whose check code is wrong loads as NaN and is counted. -/
theorem test_load_bad : after (exec (.vectorLoad 0 9 5 (.values 8) none 0 0 .clean) (on.writeBytes (t0At 0 5) [1#8]))
    (fun t => (t.vreg 0 9).take 17 = List.replicate 16 0x7FC00000#32 ++ [0#32] && (t.nib 0).lchkerr = 1) = true := by decide +kernel

/-! ### Arrays and their safeguards -/

/-- Header of an FP4 tile of one row of one line, tile scale 1.0. -/
def fp4Hdr : Line :=
  writeHdr { scale := 0x3F800000#32, fmt := 1, flags := 0, linesPerRow := 1, rows := 1, stream := 0, tileIndex := 0, validK := 128, bad := false }
/-- A line of 128 FP4 ones (code 0x2), block scales 1.0. -/
def fp4Ones : Line := mkLine (List.replicate 64 0x22#8) (List.replicate 4 0x78#8)

/-- One row by one column of 128 products, written as FP32 at line 100. -/
def oneTile : TileDesc :=
  { tinyTile with
    segs := [{ lines := 1, aHdr := 0, aLine := 1, aStride := 1, bHdr := 2, bLine := 3, bStride := 1, flourish := none }] }
def arr : State := { on with mem := memOf [(t0At 0 0, fp4Hdr), (t0At 0 1, fp4Ones), (t0At 0 2, fp4Hdr), (t0At 0 3, fp4Ones)] }
/-- The same with nib 0 fenced. -/
def fencedArr : State := arr.setQuill 0 { Quill.reset with fenced := 1 }
/-- The same while the tile is being recomputed. -/
def retrying : State := arr.setQuill 0 { Quill.reset with attempt := [{ tile := oneTile, nibs := [0] }] }

/-- On nib 0, at the first cycle of the tile, the integer of slot 5 is larger by `d`. -/
def deviation (d : Int) : List IssueFault := [.dpu 0 0 0 0 0 [(5, d)]]
/-- A halo row of the tile waits until counter 9 of die 0 has reached 3. -/
def haloDesc : ConvDesc := { (default : ConvDesc) with outT := 1, outH := 1, outW := 1, span := 1 }
def haloTile : TileDesc :=
  { oneTile with
    conv := some { layer := 0, pass := 0, segs := [haloDesc], outT := 0, outH := 0, outW := 0, waits := [{ counter := 9, value := 3, seg := 0 }], haloWait := 0, bufEcc := [] }
    segs := [{ lines := convPositions haloDesc, aHdr := 0, aLine := 1, aStride := 1, bHdr := 2, bLine := 3, bStride := 1, flourish := none }] }
def haloArr : State := arr.setQuill 0 { Quill.reset with convEn := true }
/-- A tile that holds a ticket its gang has not been given. -/
def ticketless : TileDesc := { oneTile with ticket := some 0 }

theorem wit_ClosedTileWritesItsResults_1 : gangTakes arr ticketless ∧ arr.tileFits ticketless = false := by unfold gangTakes; decide +kernel
theorem wit_ClosedTileWritesItsResults_2 : gangRuns arr oneTile ∧ oneTile.role = .plain ∧ oneTile.mt ≤ 4096 ∧ oneTile.nt ≤ 1024 := by
  unfold gangRuns gangTakes; decide +kernel
theorem wit_FencedGangWritesPoison :
    gangTakes fencedArr oneTile ∧ fencedArr.tileFits oneTile = true ∧ fencedArr.gangFenced 0 0 = true ∧ oneTile.out.hdr = none := by
  unfold gangTakes; decide +kernel
theorem wit_ArrayFaultsAreRecordedThenFenced_1 :
    gangRuns arr oneTile ∧ (0 : Nat) < 1 ∧ 1 ≤ tileSteps oneTile (arr.gangSize 0) ∧ faultsFound arr oneTile (nibFaults [0] [] [deviation 1]) 1 = [(0, 1)]
      ∧ (arr.quill 0).attempt.any (fun a => a.tile.gang = oneTile.gang) = false ∧ oneTile.role = .plain := by unfold gangRuns gangTakes; decide +kernel
/-- The same for a gang of two and a parity failure, whose cause code exists only there. -/
theorem wit_ArrayFaultsAreRecordedThenFenced_1b :
    let s := arr.setQuill 0 { Quill.reset with gang := 1 }
    gangRuns s oneTile ∧ 1 ≤ tileSteps oneTile (s.gangSize 0) ∧ faultsFound s oneTile (nibFaults [1] [[5]] []) 1 = [(1, 5)] ∧ s.gangSize 0 ≠ 1
      ∧ (s.quill 0).attempt.any (fun a => a.tile.gang = oneTile.gang) = false := by unfold gangRuns gangTakes; decide +kernel
theorem wit_ArrayFaultsAreRecordedThenFenced_2 :
    gangRuns retrying oneTile ∧ 1 ≤ tileSteps oneTile (retrying.gangSize 0) ∧ faultsFound retrying oneTile (nibFaults [0] [] [deviation 1]) 1 ≠ []
      ∧ (retrying.quill 0).attempt.any (fun a => a.tile.gang = oneTile.gang) = true := by unfold gangRuns gangTakes; decide +kernel

/-- R75, R76: 128 products of 1.0 are 128.0; the nib issues 4 cycles. -/
theorem test_tile : after (exec (.tileClose oneTile) arr) (fun t =>
    leAt (t.t0Read 0 100) 0 4 = 0x43000000 && lineOk (t.t0Read 0 100) && (t.nib 0).issue = 4) = true := by decide +kernel
/-- R95: a fenced gang's output is poisoned. -/
theorem test_fenced_tile : after (exec (.tileClose oneTile) fencedArr) (fun t =>
    (t.t0Read 0 100).drop 64 |>.take 4 |>.all (· = 0xFF#8)) = true := by decide +kernel
/-- R98 to R100, R109: a first mismatch leaves the tile to be recomputed; a second fences the nib. -/
theorem test_fault : after (exec (.arrayFault oneTile [0] [] [deviation 1] 1) arr) (fun t =>
    (t.quill 0).attempt = [{ tile := oneTile, nibs := [0] }] && (t.nib 0).csmism = 1 && (t.quill 0).gfault.flags = 1 && (t.quill 0).fenced = 0) = true := by
  decide +kernel
theorem test_fence : after (exec (.arrayFault oneTile [0] [] [deviation 1] 1) retrying) (fun t =>
    (t.quill 0).fenced = 1 && t.host.evt.flags = 1 && sget (fun _ => 0#32) (t.quill 0).gfctx 0 = 0x04010000#32) = true := by decide +kernel
/-- R105, R106: a fault-free cycle passes; of deviations that add up to a multiple of 2^16 the checksum sees nothing. -/
theorem test_checksum : mismatch (checkC [3, -5] [[7, -2], [1, 4]]) (columnTotal [3, -5] [[7, -2], [1, 4]]) = false
    ∧ mismatch (checkC [3, -5] [[7, -2], [1, 4]]) (columnTotal [3, -5] [[7, -2], [1, 4]] + 65535) = true
    ∧ after (exec (.arrayFault oneTile [0] [] [deviation 65536] 1) arr) (fun t => (t.quill 0).gfault.flags = 0 && (t.nib 0).csmism = 0) = true := by decide +kernel

/-- R107: a slot register's fault affects every cycle that reads it, here those of both rows; one from the second row on affects that row alone. -/
def twoRows : TileDesc :=
  { oneTile with mt := 2, g := 2, rows := 2, segs := [{ lines := 1, aHdr := 0, aLine := 10, aStride := 1, bHdr := 2, bLine := 3, bStride := 1, flourish := none }] }
def twoRowArr : State :=
  let hdr := writeHdr { scale := 0x3F800000#32, fmt := 1, flags := 0, linesPerRow := 1, rows := 2, stream := 0, tileIndex := 0, validK := 128, bad := false }
  { on with mem := memOf [(t0At 0 0, hdr), (t0At 0 2, fp4Hdr), (t0At 0 3, fp4Ones), (t0At 0 10, fp4Ones), (t0At 0 11, fp4Ones)] }
theorem test_slot_register_fault :
    after (exec (.arrayFault twoRows [0] [] [[.slot 0 0 0 5 2 3 0 1]] 1) twoRowArr) (fun t => (t.nib 0).csmism = 2) = true
    ∧ after (exec (.arrayFault twoRows [0] [] [[.slot 0 0 1 5 2 3 0 1]] 1) twoRowArr) (fun t => (t.nib 0).csmism = 1) = true := by decide +kernel

/-- A captured tile stands in half 0 of die 0. -/
def captured : State := arr.setWell 0 { Well.reset with capture0 := some { tile := oneTile, results := [[0x43000000#32]], stroke := 9 } }

theorem wit_BlotterAndRowCountersAdvance :
    captured.live = true ∧ (0 : Nat) < 2
      ∧ (if (0 : Nat) = 0 then (captured.well 0).capture0 else (captured.well 0).capture1) = some { tile := oneTile, results := [[0x43000000#32]], stroke := 9 }
      ∧ (gangTakes haloArr haloTile ∧ haloArr.tileFits haloTile = true ∧ haloArr.gangFenced 0 0 = false ∧ haloArr.haloDue haloTile = some { counter := 9, value := 3, seg := 0 })
      ∧ on.live = true ∧ (1 : Nat) < 2 ∧ (255 : Nat) < 256 := by unfold gangTakes; decide +kernel
/-- R214: a row-ready counter wraps modulo 2^16. -/
theorem test_row_ready : after (exec (.rowReadyIncrement 1 255) (on.setWell 1 { Well.reset with rowrdy := [(255, 0xFFFF#16)] }))
    (fun t => (t.well 1).rowrdy = []) = true := by decide +kernel

/-! ### A job in its strokes -/

/-- A program set with one KV pool (FP4, one head of 128 channels, page 5) and one stroke entry. -/
def poolSet : ProgramSet :=
  { (default : ProgramSet) with
    pools := [{ form := 0, heads := 1, headDim := 128, pages := [5], tailPages := [] }]
    entries := [{ (default : StrokeEntry) with factor := 64 }]
    map := [{ first := 0, last := 99, given := [], entry := 0, coords := [], mirror := false }] }
/-- A job of ten strokes of 100 µs in stroke 3, from ring 7. -/
def someJob : Job :=
  { (default : Job) with
    ring := 7
    desc := { (default : JobDesc) with strokes := 10, basePeriod := 100000, baseClock := 18, stallMax := 2, guard := 4, launch := 1000000 }
    stroke := 3
    start := 1300000
    period := 100000
    clock := 18
    factor := 256 }
/-- A module that runs it. -/
def busy : State :=
  { on with
    psets := [some { set := poolSet, code := 0 }]
    strk := { Strk.reset with run := some someJob }
    gtc := { Gtc.reset with now := 1300000, locked := true, master := true } }

/-! ### KV blocks -/

def openEntry : KvEntry := { KvEntry.reset with page := 5, state := 1, refcnt := 1, gen := 2 }
/-- Entry 1 is an open block; slot 0 of the list at line 0 of page 9 names it under its generation. -/
def kvBusy : State :=
  { busy with
    kvt := { Kvt.reset with table := [(1, openEntry)] }
    mem := memOf [(t2At 9 0, mkLine (leBytes 4 (1 + 2 * 2 ^ 18) ++ List.replicate 60 0#8) (0x78#8 :: List.replicate 3 0#8))] }
def listAt9 : ListSlot := { list := lineAddr 9 0, slot := 0 }
def noScales : KvScales := { keys := [0x3F800000#32], values := [0x3F800000#32], stream := 0 }
def mv0 : MoverRef := { die := 0, num := 0 }
def wellPlace : Place := { space := .well 1, at_ := 9 }
/-- A mover's read of the first line of the block that it names. -/
def leaseAt9 : LeaseDesc := { mover := mv0, target := listAt9, first := 0, count := 1, dst := wellPlace }
def kvWith (e : KvEntry) : State := { kvBusy with kvt := { Kvt.reset with table := [(1, e)] } }

theorem wit_ReferencesAndLeasesAreCounted_1 :
    jobRuns kvBusy ∧ 0 < 1 ∧ 1 < 262144 ∧ (kvBusy.kv 1).state = 1 ∧ (kvBusy.kv 1).refcnt ≠ 0xFFFF ∧ (kvBusy.kv 1).refcnt ≠ 0
      ∧ jobRuns (kvWith { openEntry with refcnt := 0xFFFF }) ∧ ((kvWith { openEntry with refcnt := 0xFFFF }).kv 1).state = 1
      ∧ ((kvWith { openEntry with refcnt := 0xFFFF }).kv 1).refcnt = 0xFFFF
      ∧ (kvBusy.kv 262143).state = 0 ∧ (kvBusy.kv 262143).refcnt = 0 := by unfold jobRuns; decide +kernel
theorem wit_ReferencesAndLeasesAreCounted_2 :
    jobRuns kvBusy ∧ moverPresent mv0 = true ∧ placeOfField (fieldOfPlace wellPlace) = some wellPlace ∧ kvBusy.moverBusy mv0 = false
      ∧ kvBusy.listWord listAt9 = (kvBusy, some (1 + 2 * 2 ^ 18)) ∧ (kvBusy.kv 1).state ≠ 0 ∧ (kvBusy.kv 1).gen.toNat = (1 + 2 * 2 ^ 18) / 2 ^ 18 % 256
      ∧ ((kvWith { openEntry with gen := 3 }).kv 1).gen.toNat ≠ (1 + 2 * 2 ^ 18) / 2 ^ 18 % 256 ∧ ((kvWith KvEntry.reset).kv 1).state = 0
      ∧ (let s := { kvBusy with mem := memOf [(t2At 9 0, mkLine (List.replicate 64 0#8) (0x78#8 :: List.replicate 3 0#8))] }
         s.listWord listAt9 = (s, some 0))
      ∧ (let s := kvWith { openEntry with leased := true, leaseEnd := 4 }
         jobRuns s ∧ (s.kv 1).leased = true ∧ (s.kv 1).leaseEnd = BitVec.ofNat 16 (s.strokeNum + 1)) := by unfold jobRuns; decide +kernel

theorem test_ref : after (exec (.ref 1) kvBusy) (fun t => t.kv 1 = { openEntry with refcnt := 2 }) = true := by decide +kernel
theorem test_deref : after (exec (.deref 1) kvBusy) (fun t => t.kv 1 = { openEntry with refcnt := 0, state := 3 }) = true := by decide +kernel
theorem test_lease : after (exec (.lease leaseAt9 true) kvBusy) (fun t =>
    t.kv 1 = { openEntry with leased := true, leaseEnd := 4 } && t.moverBusy mv0) = true := by decide +kernel
/-- R185: an entry of another generation is BAD_INDEX, and the mover is served poisoned lines. -/
theorem test_lease_stale : after (exec (.lease leaseAt9 false) (kvWith { openEntry with gen := 3 })) (fun t =>
    t.kvt.err.flags = 8 && !(t.kv 1).leased && t.wellRead 1 9 = poisonedLine) = true := by decide +kernel

theorem wit_AllocAndFreezeWaitForTheBoundary_1 : jobRuns kvBusy ∧ 1 < 262144 ∧ (kvBusy.kv 1).state = 1 ∧ kvBusy.kvt.pending.contains (.freeze 1) = false := by
  unfold jobRuns; decide +kernel
theorem wit_AllocAndFreezeWaitForTheBoundary_2 :
    jobRuns kvBusy ∧ kvBusy.kvPool 0 = some { form := 0, heads := 1, headDim := 128, pages := [5], tailPages := [] } ∧ 0 < 16
      ∧ kvBusy.freeEntry = some 2 ∧ kvBusy.freeSlot 0 { form := 0, heads := 1, headDim := 128, pages := [5], tailPages := [] } = some (5, 514)
      ∧ 5 < 2 ^ 17 ∧ 514 < 2 ^ 18 := by unfold jobRuns; decide +kernel
/-- A pool without a page has no slot. -/
theorem wit_AllocAndFreezeWaitForTheBoundary_3 :
    let p : KvPool := { form := 0, heads := 1, headDim := 128, pages := [], tailPages := [] }
    let s := { busy with psets := [some { set := { poolSet with pools := [p] }, code := 0 }] }
    jobRuns s ∧ s.kvPool 0 = some p ∧ s.freeSlot 0 p = none := by unfold jobRuns; decide +kernel
theorem wit_CopiesTakeANewBlock :
    on.strk.run.isSome = false ∧ (busy.slotEntry listAt9).2 = none
      ∧ jobRuns kvBusy ∧ kvBusy.listWord listAt9 = (kvBusy, some (1 + 2 * 2 ^ 18)) ∧ (1 + 2 * 2 ^ 18) % 2 ^ 18 = 1 ∧ (kvBusy.kv 1).state = 1
      ∧ (kvBusy.kv 1).gen.toNat = (1 + 2 * 2 ^ 18) / 2 ^ 18 % 256 ∧ (kvBusy.kv 1).refcnt ≠ 0
      ∧ kvBusy.kvPool (kvBusy.kv 1).pool.toNat = some { form := 0, heads := 1, headDim := 128, pages := [5], tailPages := [] }
      ∧ kvBusy.freeEntry = some 2 ∧ kvBusy.freeSlot 0 { form := 0, heads := 1, headDim := 128, pages := [5], tailPages := [] } = some (5, 514)
      ∧ (kvBusy.kv 1).tail = 0xFFF := by unfold jobRuns; decide +kernel
theorem wit_ScatterInPlaceStaysInItsSlot :
    let d := { oneScatter with target := listAt9 }
    jobRuns kvBusy ∧ kvBusy.nibPresent d.nib = true ∧ 1 ≤ d.count ∧ d.first + d.count ≤ 256 ∧ (d.first + d.count) % 32 = 0 ∧ d.first % 32 = 0
      ∧ kvBusy.retargeted d.target = none ∧ kvBusy.listWord d.target = (kvBusy, some (1 + 2 * 2 ^ 18)) ∧ (kvBusy.kv 1).state = 1
      ∧ (kvBusy.kv 1).gen.toNat = (1 + 2 * 2 ^ 18) / 2 ^ 18 % 256 ∧ (kvBusy.kv 1).refcnt = 1 ∧ (kvBusy.kv 1).fill.toNat ≤ d.first ∧ d.replace = false
      ∧ kvBusy.kvPool (kvBusy.kv 1).pool.toNat = some { form := 0, heads := 1, headDim := 128, pages := [5], tailPages := [] }
      ∧ (kvBusy.kv 1).line.toNat + slotLines { form := 0, heads := 1, headDim := 128, pages := [5], tailPages := [] } ≤ pageLines := by
  unfold jobRuns; decide +kernel

theorem test_freeze : after (exec (.freeze 1) kvBusy) (fun t => t.kv 1 = openEntry && t.kvt.pending = [.freeze 1]) = true := by decide +kernel
theorem test_alloc : after (exec (.alloc listAt9 0 noScales) kvBusy) (fun t =>
    t.kv 2 = { openEntry with line := 514, gen := 1 } && t.kvt.pending = [.retarget listAt9 (2 + 2 ^ 18)] && t.kvt.allocs = 1) = true := by decide +kernel
theorem test_replace : after (exec (.replace listAt9 noScales) kvBusy) (fun t =>
    t.kv 1 = { openEntry with refcnt := 0, state := 3 } && t.kvt.pending = [.retarget listAt9 (2 + 2 ^ 18)]) = true := by decide +kernel
theorem test_cow : after (exec (.cow listAt9 noScales) kvBusy) (fun t =>
    t.kv 1 = { openEntry with refcnt := 0, state := 3 } && t.kvt.pending = [.fill 2 0, .retarget listAt9 (2 + 2 ^ 18)] && t.kvt.cows = 1) = true := by
  decide +kernel

/-! ### Movers, ports, the window and the stacks -/

/-- One line from line 5 of well 0 to line 9 of well 1. -/
def moveDesc : MoverDesc := { copyDesc with src := { space := .well 0, at_ := 5 }, dst := { space := .well 1, at_ := 9 } }
/-- FP32 line whose first element is 1.0. -/
def lineOne : Line := mkLine ([0#8, 0#8, 0x80#8, 0x3F#8] ++ List.replicate 60 0#8) (0x78#8 :: List.replicate 3 0#8)
def moving : State := { on with mem := memOf [(wellAt 0 5, lineOne), (wellAt 0 6, lineOne), (wellAt 1 9, lineOne)] }

theorem wit_MoversMoveWholeLines :
    moverStarts moving mv0 ∧ moving.isParked (moverKey mv0) = false ∧ moveFields moveDesc = true ∧ spelled .zero moveDesc = true ∧ spelled .copy moveDesc = true
      ∧ apart moveDesc ∧ fromElsewhere moveDesc
      ∧ ∀ r i, inDesc moveDesc r i → writable moving (dstAt moveDesc r i) ∧ plain moving (srcAt moveDesc r i) := by
  refine ⟨by unfold moverStarts; decide +kernel, by decide, by decide, by decide, by decide, ?_, ?_, ?_⟩
  · rintro r i q j ⟨hr, hi⟩ ⟨hq, hj⟩ -
    simp only [moveDesc, copyDesc] at hr hi hq hj
    omega
  · rintro r i q j ⟨hr, hi⟩ ⟨hq, hj⟩
    simp only [moveDesc, copyDesc] at hr hi hq hj
    obtain rfl : r = 0 := by omega
    obtain rfl : i = 0 := by omega
    obtain rfl : q = 0 := by omega
    obtain rfl : j = 0 := by omega
    decide
  · rintro r i ⟨hr, hi⟩
    simp only [moveDesc, copyDesc] at hr hi
    obtain rfl : r = 0 := by omega
    obtain rfl : i = 0 := by omega
    simp [writable, plain, dstAt, srcAt, placeStep, moveDesc, copyDesc, wellLines]
/-- The places of an own line page count too: line 3 of page 7, not pinned, without a shadow. -/
theorem wit_MoversMoveWholeLines_page : writable on { space := .line, at_ := lineAddr 7 3 } := by
  unfold writable plain
  exact ⟨by decide +kernel, fun _ => by decide +kernel⟩

theorem test_copy : after (exec (.copy mv0 moveDesc []) { moving with mem := memOf [(wellAt 0 5, lineOne)] }) (fun t =>
    t.wellRead 1 9 = lineOne && t.moverBusy mv0) = true := by decide +kernel
/-- R237: a source line whose check fails is delivered poisoned and reported. -/
theorem test_copy_bad : after (exec (.copy mv0 moveDesc []) { on with mem := memOf [(wellAt 0 5, [1#8])] }) (fun t =>
    t.wellRead 1 9 = poisonLine ([1#8] ++ List.replicate 71 0#8) && (t.well 0).memerr.flags = 2) = true := by decide +kernel
theorem test_zero : after (exec (.zero mv0 moveDesc) moving) (fun t => t.wellRead 1 9 = zeroLine) = true := by decide +kernel
theorem test_nop_done : after (exec (.nop mv0) on) (fun t => t.moverBusy mv0 && after (exec (.moverDescriptorDone mv0) t) fun u => !u.moverBusy mv0) = true := by
  decide +kernel

def mv1 : MoverRef := { die := 1, num := 5 }
theorem wit_AtomicAddsLandOrAreLogged :
    nibRuns moving 0 ∧ 5 < wellLines ∧ 6 < wellLines ∧ moving.ordered = false
      ∧ (let s := { moving with strk := { Strk.reset with run := some { (default : Job) with desc := { (default : JobDesc) with ordered := true } } } }
         nibRuns s 0 ∧ s.ordered = true ∧ moverStarts s mv0) ∧ moverStarts moving mv0 ∧ moveFields moveDesc = true ∧ spelled .add moveDesc = true ∧ addReach mv1 moveDesc = true ∧ moverStarts moving mv1 := by
  simp only [nibRuns, moverStarts]; decide +kernel
/-- R255 to R257: 1.0 + 1.0. -/
theorem test_atomic_add : after (exec (.atomicAdd 0 5 6) moving) (fun t => leAt (t.wellRead 0 6) 0 4 = 0x40000000 && (t.well 0).atomadds = 1) = true := by
  decide +kernel
theorem test_mover_add : after (exec (.add mv1 moveDesc) moving) (fun t => leAt (t.wellRead 1 9) 0 4 = 0x40000000) = true := by decide +kernel

/-- One row of 32 elements between page 3 and well 0. -/
def mxIn : MoverDesc :=
  { mxint8 := false, rows := 1, lines := 0, src := { space := .raw, at_ := 3 * 2 ^ 24 }, dst := { space := .well 0, at_ := 0 }, srcStride := 16, dstStride := 16,
    k := 32, mxscale := 3 * 2 ^ 24 + 64 }
def mxOut : MoverDesc := { mxIn with src := { space := .well 0, at_ := 0 }, dst := { space := .raw, at_ := 3 * 2 ^ 24 } }
/-- Page 3 is raw and holds an MXFP4 block of ones with E = 127. -/
def mxState : State :=
  { on.setPage 3 { PageEntry.ownLine with kind := 1 } with mem := memOf [(3 * 2 ^ 24, List.replicate 16 0x22#8), (3 * 2 ^ 24 + 64, [127#8])] }

theorem wit_MxConversionKeepsItsLayout :
    moverStarts mxState mv0 ∧ 1 ≤ mxIn.rows ∧ mxIn.rows ≤ 4096 ∧ 1 ≤ mxIn.k ∧ mxIn.k ≤ 16384 ∧ mxIn.k % 32 = 0
      ∧ mxIn.src.space = .raw ∧ mxIn.dst.space ≠ .raw ∧ mxIn.dst.space = .well 0
      ∧ spelled .mxImport mxIn = true ∧ mxIn.dst.at_ + (1 + mxIn.rows * ((mxIn.k + 127) / 128 * (if mxIn.mxint8 then 2 else 1))) ≤ wellLines
      ∧ mxOut.dst.space = .raw ∧ mxOut.src.space ≠ .raw ∧ mxOut.src.space = .well 0
      ∧ spelled .mxExport mxOut = true := by
  unfold moverStarts; decide +kernel
/-- R70, R71: an MXFP4 block comes in and goes out again as the same bytes. -/
theorem test_mx : after (exec (.mxImport mv0 mxIn) mxState) (fun t =>
    after (exec (.mxExport { die := 1, num := 0 } { mxOut with dst := { space := .raw, at_ := 3 * 2 ^ 24 + 256 }, mxscale := 3 * 2 ^ 24 + 512 }) t) fun u =>
      u.readBytes (3 * 2 ^ 24 + 256) 16 = List.replicate 16 0x22#8 && u.readBytes (3 * 2 ^ 24 + 512) 1 = [127#8]) = true := by decide +kernel

theorem wit_WellPortMovesLinesBitForBit : nibRuns moving 0 ∧ 3639 + 1 ≤ t0Lines ∧ 5 + 1 ≤ wellLines := by unfold nibRuns; decide +kernel
theorem test_port : after (exec (.wellPortTransfer 0 false 3639 5 1) moving) (fun t => t.t0Read 0 3639 = lineOne) = true := by decide +kernel

theorem wit_StackControllersReport :
    on.live = true ∧ 11 < 12 ∧ 6143 < 6144 ∧ 2 ^ 18 - 1 < 2 ^ 18 ∧ (on.setSensor 155 { Sensor.reset with value := 341 }).reading (144 + 11) = some 341 := by
  decide +kernel
theorem test_scrub : after (exec (.patrolScrub 11 6143 7 .uncorrectable) on) (fun t =>
    (t.stack 11).err.flags = 1 && (t.stack 11).errPage = 6143 && (t.stack 11).errLine = 7) = true := by decide +kernel
/-- R226: 85 °C is 340 quarters; above it refresh doubles. -/
theorem test_refresh : after (exec (.stackRefresh 11 9) (on.setSensor 155 { Sensor.reset with value := 341 })) (fun t =>
    (t.stack 11).hot && (t.stack 11).refwait = 9) = true := by decide +kernel

/-- Slot 2 maps page 4, slot 3 the pinned page 6. -/
def windows : State :=
  { on.setPage 6 { PageEntry.ownLine with pinned := true } with host := { HostIf.reset with bar2 := [(2, 0x80000004#32), (3, 0x80000006#32)] } }

theorem wit_WindowReachesTheMappedPage :
    windows.live = true ∧ windows.ready = true ∧ 2 < 4096 ∧ 16 < 2 ^ 24 ∧ (0x80000004#32).toNat % 2 ^ 17 < 73728
      ∧ (windows.page ((0x80000004#32).toNat % 2 ^ 17)).kind.toNat < 2 ∧ 73728 ≤ (0x8001FFFF#32).toNat % 2 ^ 17
      ∧ windows.slotPage 2 = some 4 ∧ (windows.page 4).pinned = false ∧ 16 + [7#8, 8#8].length ≤ windows.windowBytes 4
      ∧ windows.slotPage 3 = some 6 ∧ (windows.page 6).pinned = true ∧ windows.slotPage 0 = none ∧ 16 + [7#8].length ≤ 2 ^ 24
      ∧ windows.host.quiesced = false ∧ 16 + 5 ≤ windows.windowBytes 4 ∧ windows.upset = []
      ∧ { windows.host with quiesced := true }.quiesced = true := by decide +kernel
theorem test_bar2 : after (exec (.bar2Write (2 * 2 ^ 24 + 16) [7#8, 8#8]) windows) (fun t =>
    after (exec (.bar2Read (2 * 2 ^ 24 + 15) 4) t) fun u => u.rbytes = [0#8, 7#8, 8#8, 0#8]) = true := by decide +kernel
theorem test_bar2_pinned : after (exec (.bar2Write (3 * 2 ^ 24) [7#8]) windows) (fun t => t.mem = [] && t.loan.err.flags = 16 && t.loan.errIndex = 6) = true := by
  decide +kernel
theorem test_bar2_map : after (exec (.glbBar2MapWrite 9 0x80000004#32) windows) (fun t => t.slotPage 9 = some 4) = true := by decide +kernel

/-! ### A group -/

/-- Rank 0 of a group of three: links 0 and 1 lead to rank 1 as pair links, link 2 to rank 2, links 8 and 9 are the mirror bundle to rank 1. -/
def groupMap : LinkMap :=
  { groupTag := 0x77#32
    members := [{ rank := 0, rack := 0, slot := 0, mirror := some 1 }, { rank := 1, rack := 0, slot := 1, mirror := some 0 },
                { rank := 2, rack := 0, slot := 2, mirror := none }]
    pairLinks := 2
    masters := [0, 1]
    links := [{ rank := 0, link := 0, role := 1, peerRank := 1, peerLink := 0, delay := 100, asym := 0 },
              { rank := 0, link := 1, role := 1, peerRank := 1, peerLink := 1, delay := 100, asym := 0 },
              { rank := 0, link := 2, role := 1, peerRank := 2, peerLink := 0, delay := 100, asym := 0 },
              { rank := 0, link := 8, role := 2, peerRank := 1, peerLink := 8, delay := 100, asym := 0 },
              { rank := 0, link := 9, role := 2, peerRank := 1, peerLink := 9, delay := 100, asym := 0 }] }
def upLink (peer link : Nat) : LinkState :=
  { LinkState.reset with st := .up, laneLock := 0xF, peerRank := BitVec.ofNat 7 peer, peerValid := true, peerLink := BitVec.ofNat 7 link,
                         credit := [2048, 512, 1016, 64] }
/-- The group with every link UP; this module is its time master. -/
def group : State :=
  { on with
    grp := { Grp.reset with linkMap := some groupMap, rankValid := true, mirrorRank := 1 }
    links := [(0, upLink 1 0), (1, upLink 1 1), (2, upLink 2 0), (8, upLink 1 8), (9, upLink 1 9)]
    gtc := { Gtc.reset with now := 1300000, locked := true, master := true } }
/-- A state into which records have come on link 0. -/
def heard (s : State) (rs : List (Nat × Nat × List Nat)) : State :=
  { s with inbox := rs.map fun r => { link := 0, kind := r.1, sender := r.2.1, addressee := 0, body := recordBody r.1 r.2.2 } }
/-- The same for one list of entries. -/
def heardList (s : State) (kind lead : Nat) (es : List (List Nat)) : State := heard s [(kind, 1, listItems lead es)]

theorem test_group : group.others = [1, 2] ∧ group.upPair 1 = [0, 1] ∧ group.upPair 2 = [2] ∧ group.upBundle = [8, 9] ∧ group.partner = some 1 := by decide +kernel

/-! ### Loans -/

/-- The lender: pages 100 and 101 are lendable and offered to rank 1. -/
def lender : State :=
  { group with
    boot := { group.boot with config := { group.boot.config with lendable := [100, 101] } }
    loan := { Loan.reset with offersOut := [{ rank := 1, pages := 2, notice := 4, share := 4 }] } }
def asked : LoanPage := { t3 := 73730, homeRank := 1, homePage := 9, homeTag := 5 }
/-- T3 entry 73,730 is a copy, LOANED from rank 1, of page 9 of `home` under tag 5; the lender's page is 300 under tag 6. -/
def t3Entry (state home : Nat) : PageEntry :=
  { PageEntry.ownLine with kind := 2, state := BitVec.ofNat 3 state, homeRank := BitVec.ofNat 7 home, homePage := 9, homeTag := 5, lenderRank := 1,
                           lenderPage := 300, loanTag := 6 }
def heldLoan : Granted := { peer := 1, t3 := 73730, page := 300, tag := 6, homeRank := 0, homePage := 9, homeTag := 5, filled := true, recalled := false }
/-- The borrower: page 9 is its own, pinned under tag 5. -/
def borrower (state home : Nat) : State :=
  { group with
    pmap := [(9, { PageEntry.ownLine with pinned := true, homeTag := 5 }), (73730, t3Entry state home)]
    loan := { Loan.reset with held := [heldLoan] } }
/-- The lender with page 100 lent to rank 1 for its entry 73,730. -/
def lent (recalled : Bool) : State :=
  { lender with
    pmap := [(100, { PageEntry.ownLine with lent := true, loanTag := 1 })]
    loan := { Loan.reset with granted := [{ peer := 1, t3 := 73730, page := 100, tag := 1, homeRank := 1, homePage := 9, homeTag := 5, filled := true,
                                            recalled := recalled }] } }

theorem wit_LoansAreGrantedAndFilled_1 :
    (heard lender [(0x30, 1, [3, 4, 5])]).strk.run = none ∧ ((heard lender [(0x30, 1, [3, 4, 5])]).takeRecord 0x30 1 [3, 4, 5]).isSome = true
      ∧ ((heardList lender 0x31 5 [requestItems asked]).takeList 0x31 1 5 (recordsFor 1) [requestItems asked]).isSome = true
      ∧ (heardList lender 0x31 5 [requestItems asked]).loan.offersOut.find? (fun o => o.rank = 1) = some { rank := 1, pages := 2, notice := 4, share := 4 } ∧ 4 ≤ 5
      ∧ (heardList lender 0x31 5 [requestItems asked]).boot.config.lendable.Nodup ∧ (∀ p ∈ [asked], p.homeRank ≠ (heardList lender 0x31 5 [requestItems asked]).grp.rank.toNat)
      ∧ ((heardList group 0x31 5 [requestItems asked]).takeList 0x31 1 5 (recordsFor 1) [requestItems asked]).isSome = true
      ∧ (heardList group 0x31 5 [requestItems asked]).loan.offersOut.find? (fun o => o.rank = 1) = none ∧ (5 : Nat) ≠ 0
      ∧ (heardList lender 0x31 5 [requestItems asked]).pmapPending = []
      ∧ (let p : LoanPage := { asked with homeRank := 0 }
         let s := heardList group 0x31 5 [requestItems p]
         s.strk.run = none ∧ (s.takeList 0x31 1 5 (recordsFor 1) [requestItems p]).isSome = true ∧ p.homeRank = s.grp.rank.toNat
           ∧ s.boot.life = .operational ∧ s.canPin p.homePage = true ∧ (s.page p.homePage).pinned = false) := by decide +kernel
theorem wit_LoansAreGrantedAndFilled_2 :
    let s := heardList (borrower 1 0) 0x32 0 [[73730, 300, 6]]
    s.strk.run = none ∧ (s.takeList 0x32 1 0 (recordsFor 1) [[73730, 300, 6]]).isSome = true ∧ (([{ t3 := 73730, page := 300, tag := 6 }] : List LoanGrant).map (·.t3)).Nodup
      ∧ 73728 ≤ 73730 ∧ 73730 < 131072 ∧ (s.page 73730).kind = 2 ∧ (s.page 73730).state = 1 ∧ (s.page 73730).lenderRank.toNat = 1 := by decide +kernel
theorem wit_LoansAreGrantedAndFilled_3 :
    let s := heardList (borrower 1 0) 0x33 0 [[73730]]
    s.strk.run = none ∧ (s.takeList 0x33 1 0 (recordsFor 1) [[73730]]).isSome = true ∧ borrows s 1 73730 ∧ (s.page 73730).state = 1
      ∧ (s.page 73730).homeRank = s.grp.rank := by unfold borrows; decide +kernel
/-- A lender whose loan is of its own pinned page 9. -/
def ownFill : Granted := { peer := 1, t3 := 73730, page := 100, tag := 1, homeRank := 0, homePage := 9, homeTag := 5, filled := false, recalled := false }
def filling : State :=
  { lender with
    pmap := [(9, { PageEntry.ownLine with pinned := true, homeTag := 5 }), (100, { PageEntry.ownLine with lent := true, loanTag := 1 })]
    loan := { Loan.reset with granted := [ownFill] } }
theorem wit_LoansAreGrantedAndFilled_4 :
    filling.live = true
      ∧ (filling.loan.granted.filter fun g => g.peer = 1 && !g.filled && filling.fillReady g) = [ownFill]
      ∧ ownFill.homeRank = filling.grp.rank.toNat ∧ ownFill.page < 73728 ∧ ownFill.homePage < 73728 ∧ ownFill.page ≠ ownFill.homePage
      ∧ (filling.page ownFill.page).kind = 0 ∧ (filling.page ownFill.page).pinned = false ∧ (filling.page ownFill.homePage).kind = 0
      ∧ (filling.page ownFill.homePage).homeTag.toNat = ownFill.homeTag := by decide +kernel

theorem test_offer : after (exec (.offer 1 3 4 5) (heard group [(0x30, 1, [3, 4, 5])])) (fun t =>
    t.loan.offersIn = [{ rank := 1, pages := 3, notice := 4, share := 5 }] && t.inbox = []) = true := by decide +kernel
/-- R244: a REQUEST within the offer is granted on the first lendable page. -/
theorem test_request : after (exec (.request 1 5 [asked]) (heardList lender 0x31 5 [requestItems asked])) (fun t =>
    (t.page 100).lent && (t.page 100).loanTag = 1 && t.loan.granted.map (·.page) = [100]) = true := by decide +kernel
theorem test_grant : after (exec (.grant 1 [{ t3 := 73730, page := 301, tag := 7 }]) (heardList (borrower 1 0) 0x32 0 [[73730, 301, 7]])) (fun t =>
    (t.page 73730).lenderPage = 301 && (t.page 73730).loanTag = 7) = true := by decide +kernel
theorem test_filled : after (exec (.filled 1 [73730]) (heardList (borrower 1 0) 0x33 0 [[73730]])) (fun t =>
    (t.page 73730).state = 2 && (t.page 9).shadowEn && (t.page 9).shadow.toNat = 73730) = true := by decide +kernel

theorem wit_LoansEndWithZeroedPages_1 :
    let s := { heardList (borrower 2 0) 0x34 4 [[73730]] with strk := { Strk.reset with run := some someJob } }
    (s.takeList 0x34 1 4 (recordsFor 1) [[73730]]).isSome = true ∧ s.strk.run.isSome = true ∧ borrows s 1 73730 ∧ (s.page 73730).state = 2 := by
  unfold borrows; decide +kernel
theorem wit_LoansEndWithZeroedPages_2 :
    let s := heardList (borrower 2 0) 0x34 4 [[73730]]
    (s.takeList 0x34 1 4 (recordsFor 1) [[73730]]).isSome = true ∧ s.strk.run = none ∧ s.loan.recalls = [] ∧ s.pmapPending = [] ∧ borrows s 1 73730 := by
  unfold borrows; decide +kernel
theorem wit_LoansEndWithZeroedPages_3 :
    let s := heard (lent true) [(0x35, 1, listItems 0 [[73730]]), (0x36, 1, listItems 0 [[73730]])]
    s.strk.run = none ∧ s.mir.releaseStep ≠ 4 ∧ (s.takeList 0x35 1 0 (recordsFor 1) [[73730]]).isSome = true ∧ (s.takeList 0x36 1 0 (recordsFor 1) [[73730]]).isSome = true
      ∧ s.readFirst 1 [73730] = false ∧ (s.loansOf 1 [73730]).length = 1 ∧ s.live = true ∧ (s.loan.granted.filter fun g => g.peer = 1 && g.recalled).length = 1 := by decide +kernel

/-- A RETURN of names comes to the home module, which unpins page 9. -/
def named : State :=
  let s := heard group [(0x36, 1, listItems 1 [[73730]])]
  { s with pmap := [(9, { PageEntry.ownLine with pinned := true, homeTag := 5 })], loan := { s.loan with pins := [(9, 1, 73730)] } }
theorem wit_LoansEndWithZeroedPages_4 :
    named.strk.run = none ∧ named.mir.releaseStep ≠ 4 ∧ (named.takeList 0x36 1 0 (recordsFor 1) [[73730]]).isSome = false
      ∧ (named.takeList 0x36 1 1 (recordsFor 1) [[73730]]).isSome = true ∧ (9, 1, 73730) ∈ named.loan.pins := by decide +kernel
theorem test_return_names : after (exec (.return 1 [73730]) named) (fun t => !(t.page 9).pinned && t.loan.pins = []) = true := by decide +kernel

/-- R249: without a job the switch is at once, and the loan is over. -/
theorem test_recall : after (exec (.recall 1 4 [73730]) (heardList (borrower 2 0) 0x34 4 [[73730]])) (fun t =>
    (t.page 73730).state = 0 && t.loan.held = [] && t.loan.err.flags = 1) = true := by decide +kernel
theorem test_released : after (exec (.released 1 [73730]) { heardList (lent true) 0x35 0 [[73730]] with mem := memOf [(t2At 100 7, [9#8])] }) (fun t =>
    t.mem = [] && !(t.page 100).lent && t.loan.granted = []) = true := by decide +kernel
theorem test_return : after (exec (.return 1 [73730]) (heardList (lent false) 0x36 0 [[73730]])) (fun t => !(t.page 100).lent && t.loan.granted = []) = true := by
  decide +kernel
theorem test_recall_timeout : after (exec (.recallTimeout 1) (lent true)) (fun t => !(t.page 100).lent && t.loan.granted = []) = true := by decide +kernel

/-- A loaned read of line 3 that waits, to be put at line 5 of well 0. -/
def waiting : ReadWait := { t3 := 73730, hold := false, first := 3, count := 1, rank := 1, home := false, mover := fillKey, dst := { space := .well 0, at_ := 5 } }
/-- The same for a reader that went on without the lines. -/
def unawaited : ReadWait := { waiting with mover := discardKey }
def readerOf (home : Nat) (w : ReadWait) : State :=
  let s := heard (borrower 2 home) [(0x38, 1, [300, 3, 1])]
  { s with loan := { s.loan with reads := [w] }, mem := memOf [(t2At 9 (72 * 3), lineOne)] }

theorem wit_LoanedReadsAreServedOrFallBack_1 :
    let s := heard (lent false) [(0x37, 1, [100, 0, 1, 1, 0])]
    (1 : Nat) ≠ 0 ∧ (s.takeRecord 0x37 1 [100, 0, 1, 1, 0]).map (·.routePair 1) = some [0, 1] ∧ 100 < 73728 ∧ (s.page 100).lent = true ∧ (s.page 100).loanTag.toNat = 1
      ∧ (s.page 100).loanTag.toNat ≠ 2 ∧ 0 + 3 < pageLines ∧ (s.page 100).kind = 0
      ∧ (let h := heard (borrower 2 0) [(0x37, 1, [9, 0, 1, 5, 1])]
         (h.takeRecord 0x37 1 [9, 0, 1, 5, if true then 1 else 0]).isSome = true ∧ h.pinWaits 9 = false ∧ (h.page 9).pinned = true
           ∧ (h.page 9).homeTag.toNat = 5 ∧ (h.page 9).kind = 0) := by decide +kernel
theorem wit_LoanedReadsAreServedOrFallBack_2 :
    let s := readerOf 0 waiting
    (s.takeRecord 0x38 1 [300, 3, 1]).isSome = true
      ∧ s.loan.reads.find? (fun w => w.rank = 1 && !w.home && w.first = 3 && w.count = 1 && (s.page w.t3).lenderPage.toNat = 300) = some waiting
      ∧ s.live = true ∧ s.loan.reads.find? (fun r => r.t3 = waiting.t3 && !r.home) = some waiting
      ∧ (s.page waiting.t3).homeRank = s.grp.rank ∧ s.grp.rankValid = true ∧ waiting.hold = false ∧ (s.page (s.page waiting.t3).homePage.toNat).kind = 0 ∧ waiting.t3 ≠ (s.page waiting.t3).homePage.toNat
      ∧ (s.page (s.page waiting.t3).homePage.toNat).pinned = true
      ∧ (s.page (s.page waiting.t3).homePage.toNat).homeTag = (s.page waiting.t3).homeTag ∧ waiting.count = 1
      ∧ waiting.mover = fillKey ∧ waiting.dst.space = .well 0 ∧ 0 < 2 ∧ waiting.dst.at_ < wellLines
      ∧ unawaited.mover = discardKey ∧ (readerOf 0 unawaited).loan.reads.find? (fun r => r.t3 = unawaited.t3 && !r.home) = some unawaited := by decide +kernel
theorem wit_LoanedReadsAreServedOrFallBack_3 : ((readerOf 2 waiting).page waiting.t3).homeRank ≠ (readerOf 2 waiting).grp.rank := by decide +kernel

theorem test_loan_read : after (exec (.loanRead 1 100 0 1 1 false) { heard (lent false) [(0x37, 1, [100, 0, 1, 1, 0])] with mem := memOf [(t2At 100 0, lineOne)] }) (fun t =>
    (t.link 0).vc2.map (fun x => x.slots.getD 1 []) = [lineOne] && t.loan.lentserved = 1) = true := by decide +kernel
theorem test_not_lent : after (exec (.notLent 1 300 3 1) (readerOf 0 waiting)) (fun t =>
    (t.page 73730).state = 4 && t.wellRead 0 5 = lineOne && t.loan.err.flags = 4) = true := by decide +kernel
/-- R246: a read whose lines nobody waits for any more is counted and writes nothing. -/
theorem test_read_unawaited : after (exec (.loanReadTimeout 73730) (readerOf 0 unawaited)) (fun t =>
    (t.page 73730).state = 4 && t.loan.err.flags = 2 && t.loan.homereads = 1 && t.mem = (readerOf 0 unawaited).mem) = true := by decide +kernel
theorem test_read_timeout : after (exec (.loanReadTimeout 73730) (readerOf 2 waiting)) (fun t =>
    (t.page 73730).state = 4 && t.loan.err.flags = 2 && t.loan.reads = [{ waiting with rank := 2, home := true }]) = true := by decide +kernel

/-! ### Tickets, strokes, jobs and time -/

/-- Counter 3 of die 0: a grid of 2 by 2 with takers quill 0 gang 0 and quill 1 gang 0; the second gang has taken ticket 0 under tag 9. -/
def counting (deal : Bool) (next : Nat) : State :=
  on.setWell 0 { Well.reset with
    counters := [(3, { Counter.reset with next := BitVec.ofNat 17 next, limit := 4, deal := deal, tidxBase := 50, tr := 2, tc := 2, mt := 32, nt := 128, takers := [(0, 0), (1, 0)] })]
    takers := [(8, some { counter := 3, tag := 9, reply := some 0, tile := some 50 })] }

/-- Its gang has not had the reply. -/
def asking : State := (counting false 1).setQuill 1 { Quill.reset with asked := [{ gang := 0, counter := 3, tag := 9 }] }

theorem wit_TakesFollowTheCounterMode :
    (counting false 1).live = true ∧ (counting false 1).takerOk 0 3 1 0 = true ∧ ((counting false 1).quill 1).askedOf 0 = none
      ∧ mayTake ((counting false 1).well 0) 3 1 0 = true ∧ (asking.quill 1).askedOf 0 = some { gang := 0, counter := 3, tag := 9 }
      ∧ replyOf (counting false 1) 0 1 0 = some { counter := 3, tag := 9, reply := some 0, tile := some 50 }
      ∧ (replyOf (counting false 1) 0 0 0).isNone = true ∧ (((counting false 1).well 0).counter 3).takers.contains (0, 0) = true
      ∧ (((counting false 1).well 0).counter 3).deal = false ∧ (((counting false 1).well 0).counter 3).next.toNat < 4
      ∧ 4 ≤ (((counting false 4).well 0).counter 3).next.toNat ∧ (((counting false 4).well 0).counter 3).limit.toNat = 4
      ∧ (((counting true 0).well 0).counter 3).deal = true ∧ (((counting true 0).well 0).counter 3).limit ≠ 0 := by decide +kernel
theorem test_take : after (exec (.ticketTake 0 3 0 0 .none) (counting false 1)) (fun t =>
    replyOf t 0 0 0 = some { counter := 3, tag := 0, reply := some 1, tile := some 51 } && ((t.well 0).counter 3).next = 2
      && (t.quill 0).tickets = [{ gang := 0, counter := 3, ticket := 1, tile := 51, row := 0, col := 128 }]) = true := by decide +kernel
/-- R281: the second taker of a dealt counter takes tickets 1, 3, ... -/
theorem test_take_dealt : after (exec (.ticketTake 0 3 1 0 .none) (counting true 0)) (fun t =>
    replyOf t 0 1 0 = some { counter := 3, tag := 0, reply := some 1, tile := some 51 }) = true := by decide +kernel
/-- R280: the reply is given again, and no second ticket. -/
theorem test_ticket_retry : after (exec (.ticketTimeout 0 3 1 0 .none) asking) (fun t =>
    (t.well 0).tktretry = 1 && ((t.well 0).counter 3).next = 1 && (t.quill 1).tickets.map (·.ticket) = [0] && (t.quill 1).asked = []) = true := by decide +kernel

theorem wit_EveryCellHasOneTicket : (2 : Nat) ≤ 2 ∧ (8 : Nat) ≤ 8 ∧ 0 + 1 < 4 ^ 8 ∧ (3 : Nat) < 2 * 2 := by decide
/-- R284's table of the Hilbert curve of a block of side 4: x and y of each rank. -/
theorem test_hilbert : (List.range 16).map (blockCell 2 2) = [(0, 0), (1, 0), (1, 1), (0, 1), (0, 2), (0, 3), (1, 3), (1, 2), (2, 2), (2, 3), (3, 3), (3, 2),
    (3, 1), (2, 1), (2, 0), (3, 0)] := by decide +kernel

/-- The group runs a job in stroke 3, every link UP since it began. -/
def groupBusy : State := { group with psets := busy.psets, strk := busy.strk, coll := { group.coll with pinned := [0, 1, 2, 8, 9] } }
/-- The job with STALLs known and an extension number. -/
def stalled (ext : Nat) : Job :=
  { someJob with ext := ext, stalls := [{ stroke := 3, rank := 1, ext := ext, cause := 2, own := false }] }
def withJob (s : State) (j : Job) : State := { s with strk := { s.strk with run := some j } }

theorem wit_StallsStretchEveryMember_1 :
    running groupBusy someJob ∧ groupBusy.coll.steps = [] ∧ (([1].filter fun c => 1 ≤ c && c ≤ 7) ++ groupBusy.openWork someJob).min? = some 1
      ∧ someJob.stalls.any (fun x => x.own && x.stroke = someJob.stroke && x.ext = someJob.ext) = false
      ∧ ((([] : List Nat).filter fun c => 1 ≤ c && c ≤ 7) ++ groupBusy.openWork someJob).min? = none ∧ strokeEnd someJob < 2 ^ 64 ∧ someJob.lead = none
      ∧ groupBusy.routePair 1 = [0, 1] ∧ groupBusy.routePair 2 = [2] := by unfold running; decide +kernel
theorem wit_StallsStretchEveryMember_2 :
    running (withJob groupBusy (stalled 0)) (stalled 0) ∧ stallsNow (stalled 0) ≠ [] ∧ (stalled 0).ext ≠ (stalled 0).desc.stallMax
      ∧ running (withJob groupBusy (stalled 2)) (stalled 2) ∧ stallsNow (stalled 2) ≠ [] ∧ (stalled 2).ext = (stalled 2).desc.stallMax
      ∧ ringTakes (withJob groupBusy (stalled 2)) (stalled 2).ring := by simp only [running, ringTakes]; decide +kernel
theorem wit_StallsStretchEveryMember_3 :
    let s := heard groupBusy [(0x20, 1, [2, 0, 1]), (0x21, 1, [5, 12, 64]), (0x25, 1, [5, 0x19, 0])]
    running s someJob ∧ (s.takeRecord 0x20 1 [2, 0, 1]).isSome = true ∧ (s.takeRecord 0x21 1 [5, 12, 64]).isSome = true ∧ (s.takeRecord 0x25 1 [5, 0x19, 0]).isSome = true
      ∧ 4 > someJob.stroke ∧ 2 < someJob.stroke ∧ ringTakes s someJob.ring := by simp only [running, ringTakes]; decide +kernel

/-- R286, R287: an unfinished tile stalls the stroke; the STALL goes to both members. -/
theorem test_stall_point : after (exec (.stallPoint [1]) groupBusy) (fun t =>
    (t.strk.run.map (·.stalls)) = some [{ stroke := 3, rank := 0, ext := 0, cause := 1, own := true }]
      && (t.link 0).vc3.length = 1 && (t.link 2).vc3.length = 1) = true := by decide +kernel
theorem test_extend : after (exec .strokeBoundary (withJob groupBusy (stalled 0))) (fun t => t.strk.run.map (·.ext) = some 1) = true := by decide +kernel
/-- R288, R291: the stretched stroke that ends so sets OVERRUN too. -/
theorem test_stretch_limit : after (exec .strokeBoundary (withJob groupBusy (stalled 2))) (fun t =>
    t.strk.run.isNone && t.strk.evt.flags = 3 && t.pcieOut.length = 1) = true := by decide +kernel
theorem test_stall_late : after (exec (.stall 1 2 0 1) (heard groupBusy [(0x20, 1, [2, 0, 1])])) (fun t => t.strk.run.isNone && t.strk.evt.flags = 4) = true := by
  decide +kernel
theorem test_rate : after (exec (.rateMessage 1 5 12 64) (heard groupBusy [(0x21, 1, [5, 12, 64])])) (fun t =>
    t.strk.run.map (·.rates) = some [{ rank := 1, stroke := 5, clock := 12, factor := 64 }]) = true := by decide +kernel
theorem test_job_end : after (exec (.jobEnd 1 5 0x19 0) (heard groupBusy [(0x25, 1, [5, 0x19, 0])])) (fun t =>
    t.strk.run.map (·.ends) = some [{ rank := 1, own := false, stroke := 5, status := 0x19, detail := 0 }]) = true := by decide +kernel

/-- The same job in its last stroke. -/
def lastJob : Job := { someJob with stroke := 9 }

theorem wit_BoundariesBeginTheNextStroke :
    (let s := groupBusy
     running s someJob ∧ stallsNow someJob = [] ∧ s.openWork someJob = [] ∧ someJob.ends = [] ∧ someJob.failure = none ∧ someJob.collAbort = none
       ∧ someJob.commit = none ∧ s.mir.leaving = none ∧ s.pointDue someJob.stroke = false ∧ s.coll.early = [] ∧ someJob.stroke + 1 < someJob.desc.strokes
       ∧ s.runSet = some poolSet ∧ entryAt poolSet someJob.desc.params (someJob.stroke + 1) = some { (default : StrokeEntry) with factor := 64 })
    ∧ (let s := withJob groupBusy lastJob
       running s lastJob ∧ stallsNow lastJob = [] ∧ s.openWork lastJob = [] ∧ s.pointDue lastJob.stroke = false ∧ lastJob.desc.strokes ≤ lastJob.stroke + 1
         ∧ ringTakes s lastJob.ring ∧ lastJob.poisoned = [] ∧ s.kvt.pending = [] ∧ (s.well 0).addlog = [] ∧ (s.well 1).addlog = []) := by
  simp only [running, ringTakes]; decide +kernel

/-- R271, R273: stroke 4 begins at the end of stroke 3. -/
theorem test_boundary : after (exec .strokeBoundary groupBusy) (fun t =>
    t.strk.run.map (fun j => (j.stroke, j.start, j.ext)) = some (4, 1400000, 0) && (t.ring 7).prog = 1) = true := by decide +kernel
theorem test_last_boundary : after (exec .strokeBoundary (withJob groupBusy lastJob)) (fun t =>
    t.strk.run.isNone && t.strk.lastEnd = 1400000 && t.pcieOut.length = 1 && (t.ring 7).cqtail = 1) = true := by decide +kernel

/-- A descriptor of the group's job: KIND 1, 1.8 GHz, GUARD 4, STALL_MAX 2, LAUNCH 5 ms, ten strokes of 100 µs. -/
def descBytes (kind : Nat) : List Byte :=
  leBytes 1 kind ++ [0#8, 0#8, 18#8, 4#8, 2#8, 0#8, 0#8] ++ leBytes 8 42 ++ leBytes 8 5000000 ++ leBytes 8 10 ++ leBytes 4 100000 ++ leBytes 4 1
    ++ leBytes 4 0x77 ++ List.replicate 212 0#8
/-- Ring 7 is enabled with one descriptor to fetch. -/
def fetching : State := { group with psets := busy.psets, rings := [(7, { Ring.reset with en := true, tail := 1 })] }

def fetchStatus (s : State) (r : Nat) (b : List Byte) (ns : Nat) : Nat :=
  let d := readDesc b
  let u := { s with host := { s.host with lastRing := r } }.setRing r
    { s.ring r with head := BitVec.ofNat 12 (((s.ring r).head.toNat + 1) % ringSize (s.ring r)) }
  if badByte b ≠ none then 0x01 else if d.groupTag ≠ s.groupTag then 0x07 else if s.lifeAllows (s.effective d) = false then 0x06
    else if (u.launchRuling d).isSome then 0x02 else if s.gtc.locked = false then 0x03
    else if d.launch < s.gtc.now.toNat + ns + 100000 then 0x04 else 0

theorem wit_JobsAreFetchedThenLaunched_1 :
    fetching.live = true ∧ fetching.ready = true ∧ fetching.host.quiesceReq = false ∧ fetching.strk.queued = none ∧ fetching.nextRing = some 7
      ∧ (descBytes 1).length = 256 ∧ fetching.gtc.now.toNat + 10 < 2 ^ 64 ∧ fetchStatus fetching 7 (descBytes 1) 10 = 0
      ∧ fetchStatus fetching 7 (descBytes 0) 10 = 1 ∧ fetchStatus fetching 7 (descBytes 1) 3700000 = 4 ∧ ringTakes fetching 7 := by
  unfold ringTakes; decide +kernel
/-- The job waits for its launch; a second state has another job still running. -/
def waitingJob : State := { group with psets := busy.psets, strk := { Strk.reset with queued := some (newJob 7 (readDesc (descBytes 1))) } }
theorem wit_JobsAreFetchedThenLaunched_2 :
    let d := readDesc (descBytes 1)
    waitingJob.live = true ∧ waitingJob.mir.releaseStep < 4 ∧ waitingJob.strk.run = none ∧ waitingJob.strk.lastEnd ≤ d.launch
      ∧ waitingJob.psets.getD d.pset none = some { set := poolSet, code := 0 }
      ∧ entryAt poolSet d.params (waitingJob.firstStroke d) = some { (default : StrokeEntry) with factor := 64 } ∧ waitingJob.coll.early = [] ∧ waitingJob.holding = false
      ∧ (withJob waitingJob someJob).strk.run.isSome = true ∧ ringTakes (withJob waitingJob someJob) 7 := by unfold ringTakes; decide +kernel

theorem test_fetch : after (exec (.jobFetch (some (descBytes 1)) 10) fetching) (fun t =>
    t.strk.queued.map (fun j => (j.ring, j.desc.launch, j.desc.strokes)) = some (7, 5000000, 10) && (t.ring 7).head = 1) = true := by decide +kernel
theorem test_fetch_bad : after (exec (.jobFetch (some (descBytes 0)) 10) fetching) (fun t => t.strk.queued.isNone && t.pcieOut.length = 1) = true := by
  decide +kernel
theorem test_launch : after (exec .jobLaunch waitingJob) (fun t =>
    t.strk.run.map (fun j => (j.stroke, j.start, j.period)) = some (0, 5000000, 100000) && t.strk.clock = 18 && t.strk.guard = 4) = true := by decide +kernel

/-- Step 11 of the boot sequence: the module waits for a master. -/
def awaiting : State := { group with boot := { group.boot with code := 0, phase := 11 }, gtc := { Gtc.reset with now := 5 } }
/-- A member disciplined by rank 1; as rank 2 it is no candidate. -/
def member (rank : Nat) : State :=
  { group with
    grp := { group.grp with rank := BitVec.ofNat 7 rank }
    gtc := { Gtc.reset with now := 1300000, locked := true, masterRank := 1 } }

theorem wit_MastershipAndHoldover :
    awaiting.live = true ∧ awaiting.awaitsMaster = true ∧ awaiting.candidates.contains 1 = true ∧ 1 ≠ awaiting.grp.rank.toNat ∧ awaiting.upPair 1 = [0, 1]
      ∧ awaiting.isCandidate = true
      ∧ (member 0).live = true ∧ (member 0).ready = true ∧ (member 0).isCandidate = true ∧ (member 0).gtc.master = false ∧ (member 0).gtc.holdover = false
      ∧ (member 2).ready = true ∧ (member 2).isCandidate = false
      ∧ (let s := { member 2 with gtc := { (member 2).gtc with holdover := true, stepDue := true } }
         s.live = true ∧ s.gtc.holdover = true ∧ s.gtc.locked = true ∧ s.gtc.stepDue = true ∧ s.strk.run = none ∧ s.strk.queued = none
           ∧ (withJob s someJob).strk.run.isSome = true) := by decide +kernel
theorem test_gtc_lock : after (exec (.gtcLock 777 1) awaiting) (fun t => t.ready && t.gtc.now = 777 && t.gtc.locked && t.gtc.masterRank = 1 && t.gtc.evt.flags = 4)
    = true := by decide +kernel
theorem test_takeover : after (exec .masterTakeover awaiting) (fun t => t.ready && t.gtc.master && t.gtc.locked) = true := by decide +kernel
theorem test_silence : after (exec .masterSilenceTimeout (member 0)) (fun t => t.gtc.master && t.gtc.now = 1300000 && t.gtc.evt.flags = 2) = true := by
  decide +kernel
theorem test_holdover : after (exec .holdoverEntry (member 2)) (fun t => t.gtc.holdover && after (exec .holdoverExpiry t) fun u => !u.gtc.locked) = true := by
  decide +kernel
theorem test_gtc_step : after (exec (.gtcStep 99) { member 2 with gtc := { (member 2).gtc with stepDue := true } }) (fun t => t.gtc.now = 99 && !t.gtc.stepDue)
    = true := by decide +kernel

/-- A member of rank 0 disciplined by rank 1, in exchange 5 with t1, t2 and t3 known. -/
def exchanging (rs : List (Nat × Nat × List Nat)) : State :=
  let s := heard (member 0) rs
  { s with gtc := { s.gtc with exch := some { num := 5, t1 := some 1000, t2 := 1100, t3 := some 1200 } } }
/-- The SYNC of exchange 6 is the next slot to leave on link 0. -/
def syncing : State := { group with links := [(0, { upLink 1 0 with vc3 := [{ msg := true, slots := [group.recordSlot 1 0x11 [6]], chunk := none, sent := 0 }] })] }
theorem wit_ExchangesDisciplineTheClock :
    group.live = true ∧ group.ready = true ∧ group.gtc.master = true
      ∧ (syncing.link 0).st = .up ∧ (syncing.link 0).resend = [] ∧ (syncing.link 0).replay.length < 256 ∧ syncing.coll.unrouted = []
      ∧ 0 < (syncing.link 0).credit.getD 3 0 ∧ (syncing.link 0).vc3 = [{ msg := true, slots := [syncing.recordSlot 1 0x11 [6]], chunk := none, sent := 0 }]
      ∧ ((heard (member 0) [(0x11, 1, [6])]).takeRecord 0x11 1 [6]).isSome = true ∧ (heard (member 0) [(0x11, 1, [6])]).follows 1 = true
      ∧ (member 0).gtc.master = false ∧ (member 0).gtc.masterRank.toNat = 1
      ∧ ((exchanging [(0x12, 1, [5, 7])]).takeRecord 0x12 1 [5, 7]).map (·.routePair 1) = some [0, 1]
      ∧ (exchanging [(0x12, 1, [5, 7])]).gtc.exch = some { num := 5, t1 := some 1000, t2 := 1100, t3 := some 1200 }
      ∧ ((heard group [(0x13, 1, [5])]).takeRecord 0x13 1 [5]).map (·.routePair 1) = some [0, 1] ∧ ((exchanging [(0x14, 1, [5, 1300])]).takeRecord 0x14 1 [5, 1300]).isSome = true
      ∧ (8000 : Nat) < (twiceOffset 1000 1100 1200 1200 0).natAbs ∧ (2000000 : Nat) < (twiceOffset 1000 20000 1200 1200 0).natAbs
      ∧ (twiceOffset 1000 1100 1200 1300 0).natAbs ≤ 4000 ∧ (List.replicate 63 (0 : Int)).length = 63 := by decide +kernel
/-- R318: the times 1000, 1100, 1200 and 1300 in eighths of a nanosecond give no offset; with t4 = 1200 it is 50 eighths. -/
theorem test_dresp : after (exec (.discDresp 1 5 1300) (exchanging [(0x14, 1, [5, 1300])])) (fun t => t.gtc.offset = 0 && t.gtc.window = [0]) = true
    ∧ after (exec (.discDresp 1 5 1200) (exchanging [(0x14, 1, [5, 1200])])) (fun t => t.gtc.offset = 50 && !t.gtc.locked) = true := by decide +kernel
/-- R318: the SYNC waits on a pair link to each member; its FOLLOW comes with its departure. -/
theorem test_exchange : after (exec .disciplineExchange group) (fun t => (t.link 0).vc3.length = 1 && (t.link 2).vc3.length = 1) = true := by decide +kernel
/-- R318: as the SYNC leaves, the FOLLOW of the same exchange is queued with the instant of its departure. -/
theorem test_sync_leaves : after (exec (.flitSend 0) syncing) (fun t =>
    t.linkOut.map (fun f => (readFlitHdr f.bytes).vc) = [3] && ((t.link 0).vc3.map (fun x => x.slots.map (byteAt · 0))) = [[0x12]]) = true := by decide +kernel
theorem test_sync : after (exec (.discSync 1 6 50) (heard (member 0) [(0x11, 1, [6])])) (fun t =>
    t.gtc.exch = some { num := 6, t1 := none, t2 := 50, t3 := none }) = true := by decide +kernel
theorem test_follow : after (exec (.discFollow 1 5 7 8) (exchanging [(0x12, 1, [5, 7])])) (fun t =>
    t.gtc.exch = some { num := 5, t1 := some 7, t2 := 1100, t3 := some 8 } && (t.link 0).vc3.length = 1) = true := by decide +kernel
theorem test_dreq : after (exec (.discDreq 1 5 9) (heard group [(0x13, 1, [5])])) (fun t => (t.link 0).vc3.length = 1) = true := by decide +kernel

/-! ### Links and collectives -/

/-- The group's job in stroke 3, whose entry has one collective; the links were UP when the stroke began. -/
def gathering (d : CollDesc) (ordered : Bool) : State :=
  { groupBusy with
    strk := { groupBusy.strk with ordered := ordered }
    coll := { Coll.reset with pinned := [0, 1, 2], steps := openSteps [d] }
    mem := memOf [(wellAt 0 0, lineOne)] }
def three (op : CollOp) : CollDesc := { plainColl with op := op, members := 7 }
def wide : Line := mkLine (leBytes 4 0x3F800000 ++ List.replicate 60 0#8) (List.replicate 4 0x78#8)

theorem steps_wait (op : CollOp) (o : Bool) : stepWaits (gathering (three op) o) 0 (three op) :=
  ⟨{ coll := 0, step := 0, desc := three op, issued := false, status := none, got := [], nakked := [], resent := [], parts := [] },
    by cases op <;> cases o <;> decide +kernel, rfl, rfl, rfl⟩

theorem ranks_three (op : CollOp) : ranksOf (three op) = [0, 1, 2] := by cases op <;> decide +kernel

theorem routed_fast (op : CollOp) : allRouted (gathering (three op) false) (three op) := by
  intro r hr hne k
  rw [ranks_three] at hr
  have hk : (gathering (three op) false).nextHop (gathering (three op) false).strk.ordered r k
      = (gathering (three op) false).nextHop false r 0 := rfl
  rw [hk]
  simp only [List.mem_cons, List.not_mem_nil, or_false] at hr
  rcases hr with rfl | rfl | rfl
  · exact absurd rfl hne
  · cases op <;> decide +kernel
  · cases op <;> decide +kernel

theorem routed_ordered (op : CollOp) : allRouted (gathering (three op) true) (three op) := by
  intro r hr hne k
  rw [ranks_three] at hr
  have hl : ∀ r, r = 1 ∨ r = 2 → (((gathering (three op) true).pairLinksTo r).filter (gathering (three op) true).coll.pinned.contains).length ∣ 2 := by
    rintro r (rfl | rfl) <;> cases op <;> decide +kernel
  simp only [List.mem_cons, List.not_mem_nil, or_false] at hr
  have hr' : r = 1 ∨ r = 2 := by
    rcases hr with rfl | h | h
    · exact absurd rfl hne
    · exact .inl h
    · exact .inr h
  have hk : (gathering (three op) true).nextHop (gathering (three op) true).strk.ordered r k
      = (gathering (three op) true).nextHop true r (k % 2) := by
    have hc : (gathering (three op) true).chunkLink true r k = (gathering (three op) true).chunkLink true r (k % 2) := by
      simp only [State.chunkLink, if_true, Nat.mod_mod_of_dvd k (hl r hr')]
    have hu : ((gathering (three op) true).chunkLink true r (k % 2)).isSome = true := by
      have h2 : k % 2 = 0 ∨ k % 2 = 1 := by omega
      rcases h2 with h | h <;> rw [h] <;> rcases hr' with rfl | rfl <;> cases op <;> decide +kernel
    show (gathering (three op) true).nextHop true r k = _
    unfold State.nextHop
    rw [hc]
    obtain ⟨l, hl⟩ := Option.isSome_iff_exists.mp hu
    rw [hl]
  rw [hk]
  have h2 : k % 2 = 0 ∨ k % 2 = 1 := by omega
  rcases h2 with h | h <;> rw [h] <;> rcases hr' with rfl | rfl <;> cases op <;> decide +kernel

theorem wit_CollectivesSendEachPart (op : CollOp) (o : Bool) :
    (gathering (three op) o).live = true ∧ stepWaits (gathering (three op) o) 0 (three op) ∧ allRouted (gathering (three op) o) (three op)
      ∧ (gathering (three op) o).grp.rank.toNat ∈ ranksOf (three op) ∧ (three op).op = op
      ∧ (gathering (three op) o).isParked (collKey 0) = false ∧ ((gathering (three op) o).stepSources (three op)).any (gathering (three op) o).isRemote = false
      ∧ (op ≠ .allReduce → ∀ y ∈ (gathering (three op) o).coll.steps, y.desc.op ≠ .allReduce)
      ∧ (three op).dst.at_ + (ranksOf (three op)).length * (three op).lines ≤ wellLines := by
  refine ⟨by cases op <;> cases o <;> decide +kernel, steps_wait op o, by cases o; exact routed_fast op; exact routed_ordered op,
    by cases op <;> cases o <;> decide +kernel, by cases op <;> rfl, by cases op <;> cases o <;> rfl, by cases op <;> cases o <;> decide +kernel, ?_,
    by cases op <;> decide +kernel⟩
  cases op <;> cases o <;> decide +kernel

/-- Page 9 has a copy that rank 1 lends: its lines come over a link. -/
def farGather : CollDesc := { three .allGather with src := { space := .line, at_ := lineAddr 73730 0 } }
def farState : State := { gathering farGather false with pmap := [(73730, t3Entry 2 2)] }
theorem wit_CollectivesSendEachPart_far : farState.live = true ∧ (farState.stepSources farGather).any farState.isRemote = true
    ∧ farState.isParked (collKey 0) = false := by decide +kernel
/-- R246: the command waits, and a LOAN_READ goes to the lender. -/
theorem test_gather_far : after (exec (.allGather 0 farGather) farState) (fun t =>
    t.loan.parked.map (·.1) = [collKey 0] && t.coll.unrouted = [] && (t.link 0).vc2.length = 1) = true := by decide +kernel

/-- What chunks wait to be routed: destination, offset and payload. -/
def waitingChunks (t : State) : List (Nat × Nat × List Line) :=
  t.coll.unrouted.map fun e => ((e.chunk.map (·.dst)).getD 999, (e.chunk.map (·.first)).getD 999, (e.slots.drop 1).dropLast)

/-- R322: the own line goes to DST 100 + 0 and to the two other members. -/
theorem test_all_gather : after (exec (.allGather 0 (three .allGather)) (gathering (three .allGather) false)) (fun t =>
    waitingChunks t = [(1, 0, [lineOne]), (2, 0, [lineOne])] && t.wellRead 0 100 = lineOne) = true := by decide +kernel
theorem test_all_gather_ordered : after (exec (.allGather 0 (three .allGather)) (gathering (three .allGather) true)) (fun t =>
    (t.link 0).vc0.length = 1 && (t.link 1).vc0 = [] && (t.link 2).vc0.length = 1) = true := by decide +kernel
/-- Lines 0, 1 and 2 of the source go to members 0, 1 and 2. -/
theorem test_all_to_all : after (exec (.allToAll 0 (three .allToAll)) { gathering (three .allToAll) false with mem := memOf [(wellAt 0 1, lineOne)] })
    (fun t => waitingChunks t = [(1, 0, [lineOne]), (2, 0, [zeroLine])]) = true := by decide +kernel
theorem test_transfer : after (exec (.transfer 0 (three .transfer)) (gathering (three .transfer) false)) (fun t =>
    waitingChunks t = [(1, 0, [lineOne]), (2, 0, [lineOne])] && t.wellRead 0 100 = zeroLine) = true := by decide +kernel
/-- One line in three shares: this member's share is the whole line, the others' are empty, and it waits for two contributions. -/
theorem test_reduce_scatter : after (exec (.reduceScatter 0 (three .reduceScatter)) (gathering (three .reduceScatter) false)) (fun t =>
    t.coll.unrouted = [] && t.wellRead 0 100 = zeroLine && (t.coll.steps.map (·.issued)) = [true]) = true := by decide +kernel
theorem test_all_reduce : after (exec (.allReduce 0 (three .allReduce)) (gathering (three .allReduce) false)) (fun t =>
    t.coll.steps.map (fun x => (x.issued, x.status)) = [(true, none), (false, none)]) = true := by decide +kernel
/-- R255, R326: 1.0 and 1.0 in FP32 with tag 0x78 sum to 2.0. -/
theorem test_reduced : reducedLine (three .reduceScatter) false [[(0, wide), (1, wide)]] 0
    = mkLine (leBytes 4 0x40000000 ++ List.replicate 60 0#8) (List.replicate 4 0x78#8) := by decide +kernel

/-! ### A step that fails -/

def openGather : CollStep :=
  { coll := 0, step := 0, desc := plainColl, issued := true, status := none, got := [], nakked := [], resent := [], parts := [] }
/-- The gathering of ranks 0 and 1, issued; no link leads to rank 2, and the partner is rank 1. -/
def failing (rs : List (Nat × Nat × List Nat)) (peerUp : Bool) : State :=
  let s := gathering plainColl false
  { s with
    coll := { s.coll with steps := [openGather] }
    links := if peerUp then [(0, upLink 1 0)] else []
    inbox := rs.map fun r => { link := 0, kind := r.1, sender := r.2.1, addressee := 0, body := recordBody r.1 r.2.2 } }

theorem wit_FailedStepsPoisonAndReport :
    (∀ b rs, onlyStep (failing rs b) openGather someJob) ∧ openGather.desc.members.getLsbD 1 = true
      ∧ (failing [] false).others.contains 1 = true ∧ (failing [] false).routed 1 = false
      ∧ (({ failing [(0x22, 1, [3])] true with grp := { (failing [] true).grp with mirrorRank := 2 } }).takeRecord 0x22 1 [3]).isSome = true
      ∧ ({ failing [(0x22, 1, [3])] true with grp := { (failing [] true).grp with mirrorRank := 2 } }).partner ≠ some 1
      ∧ ((failing [(0x23, 1, [3, 0, 0, 1, 1])] true).takeRecord 0x23 1 [3, 0, 0, 1, 1]).isSome = true ∧ ((failing [(0x24, 1, [3, 0, 0, 0])] true).takeRecord 0x24 1 [3, 0, 0, 0]).isSome = true
      ∧ (failing [(0x24, 1, [3, 0, 0, 0])] true).strk.ordered = false
      ∧ (failing [(0x24, 1, [3, 0, 0, 0])] true).nakStep 1 ((failing [(0x24, 1, [3, 0, 0, 0])] true).strokeNum % 2 ^ 32) 0 0 0 = some openGather
      ∧ ((failing [(0x24, 1, [3, 0, 0, 0])] true).nextHop false 1 0).isSome = true
      ∧ (placesFrom ((failing [(0x24, 1, [3, 0, 0, 0])] true).resendSources openGather).1 ((failing [(0x24, 1, [3, 0, 0, 0])] true).resendSources openGather).2).any
          (failing [(0x24, 1, [3, 0, 0, 0])] true).isRemote = false := by
  refine ⟨?_, by decide +kernel⟩
  intro b rs
  refine ⟨by cases b <;> rfl, rfl, rfl, rfl, ⟨0, rfl, by omega⟩, ?_⟩
  show plainColl.dst.at_ + _ + _ ≤ _
  have h : ownDest openGather.desc openGather.step (ranksOf openGather.desc).length (posOf (ranksOf openGather.desc) 0) = (0, 2) := by decide +kernel
  have h' : (failing rs b).grp.rank.toNat = 0 := rfl
  rw [h', h]; decide +kernel

/-- The record of the partner's death goes to a member that is not the partner. -/
def notPartner (s : State) : State := { s with grp := { s.grp with mirrorRank := 2 } }

/-- R331: PEER_LOST; the line of rank 1 is poisoned, the own line stays. -/
theorem test_peer_lost : after (exec (.peerLost 1) (failing [] false)) (fun t =>
    t.coll.stat = 3 && t.coll.ctxRank = 1 && t.wellRead 0 101 = poisonedLine && t.wellRead 0 100 = zeroLine
      && t.strk.run.map (·.failure) = some (some (0x18, 3)) && t.coll.evt.flags = 4) = true := by decide +kernel
theorem test_trip : after (exec (.trip 1 3) (notPartner (failing [(0x22, 1, [3])] true))) (fun t =>
    t.coll.stat = 4 && t.strk.run.map (·.failure) = some (some (0x18, 4)) && (t.link 0).vc3.length = 1) = true := by decide +kernel
theorem test_coll_abort : after (exec (.collAbort 1 3 0 0 1 1) (failing [(0x23, 1, [3, 0, 0, 1, 1])] true)) (fun t =>
    t.coll.stat = 7 && t.strk.run.map (·.collAbort) = some (some (0x12, 0, 1)) && (t.link 0).vc3 = []) = true := by decide +kernel
theorem test_chunk_nak : after (exec (.chunkNak 1 3 0 0 0) (failing [(0x24, 1, [3, 0, 0, 0])] true)) (fun t =>
    t.coll.resends = 1 && t.coll.unrouted.map (fun e => e.chunk.map (·.resend)) = [some true]) = true := by decide +kernel

/-! ### Flits -/

/-- Link 0 with records to send and the acknowledgement of three flits due. -/
def sending : State := { group with links := [(0, { upLink 1 0 with txSeq := 7, rxSeq := 9, sinceAck := 3, vc3 := [{ msg := true, slots := [lineOne], chunk := none, sent := 0 }] })] }
def record (kind sender dest : Nat) : Line := fitBytes 72 [BitVec.ofNat 8 kind, BitVec.ofNat 8 sender, BitVec.ofNat 8 dest]
def flitHdr (seq : Nat) : FlitHdr := { type := 2, vc := 3, seq := seq, ack := 0, ackValid := false, nak := false, crVc := 1, credit := 5, valid := 1 }
def goodFlit : List Byte := flitBytes (flitHdr 9) [record 0x11 1 0]
def clean : FecCounts := { words := 10, corrected := 0, symbols := 0, uncorrectable := 0 }

theorem wit_FlitsCarryWhatTheyMust_1 :
    sending.live = true ∧ linkRuns (sending.link 0).st = true ∧ linkInRange (sending.link 0) ∧ (sending.link 0).sinceAck ≠ 0
      ∧ (sending.link 0).resend = [] := by unfold linkInRange; decide +kernel
theorem wit_FlitsCarryWhatTheyMust_2 :
    sending.live = true ∧ linkRuns (sending.link 0).st = true ∧ clean.uncorrectable = 0 ∧ (sending.link 0).uncorrMs ≤ 16
      ∧ flitOk (List.replicate 592 0#8) = false ∧ flitOk (flitBytes (flitHdr 8) []) = true ∧ (readFlitHdr (flitBytes (flitHdr 8) [])).type ≠ 0
      ∧ (readFlitHdr (flitBytes (flitHdr 8) [])).seq ≠ (sending.link 0).rxSeq := by decide +kernel
theorem wit_FlitsCarryWhatTheyMust_3 :
    sending.coll.steps = [] ∧ sending.coll.doubles = [] ∧ flitOk goodFlit = true ∧ readFlitHdr goodFlit = flitHdr 9 ∧ flitSlots goodFlit 1 = [record 0x11 1 0]
      ∧ byteAt (record 0x11 1 0) 2 = sending.grp.rank.toNat := by decide +kernel

theorem test_flit_send : after (exec (.flitSend 0) sending) (fun t =>
    t.linkOut.map (fun f => (flitOk f.bytes, readFlitHdr f.bytes)) = [(true, { type := 2, vc := 3, seq := 7, ack := 9, ackValid := true, nak := false, crVc := 0, credit := 0, valid := 1 })]
      && (t.link 0).txSeq = 8 && (t.link 0).credit = [2048, 512, 1016, 63]) = true := by decide +kernel
theorem test_ack_timer : after (exec (.ackTimer 0) { sending with links := [(0, { sending.link 0 with vc3 := [] })] }) (fun t =>
    t.linkOut.map (fun f => (readFlitHdr f.bytes).type) = [0] && (t.link 0).sinceAck = 0) = true := by decide +kernel
theorem test_flit_receive : after (exec (.flitReceive 0 goodFlit clean) sending) (fun t =>
    t.inbox.map (fun r => (r.kind, r.sender)) = [(0x11, 1)] && (t.link 0).rxSeq = 10 && (t.link 0).credit = [2048, 517, 1016, 64]) = true := by decide +kernel
theorem test_flit_bad : after (exec (.flitReceive 0 (0xFF#8 :: goodFlit.drop 1) clean) sending) (fun t =>
    (t.link 0).crcerr = 1 && (t.link 0).nakDue && t.inbox = []) = true := by decide +kernel

/-! ### Links up and down -/

def training : State := { group with links := [(0, { LinkState.reset with st := .training })] }
/-- Link 0 waits for IDENT from rank 1, which has come. -/
def identing : State :=
  { group with
    links := [(0, { upLink 1 0 with st := .ident, peerValid := false })]
    inbox := [[0x77, 1, 0, 1, 0, 0], [0x77, 1, 0, 2, 0, 0]].map fun (x : List Nat) =>
      { link := 0, kind := 0x10, sender := 1, addressee := 0, body := recordBody 0x10 x } }
theorem wit_LinksComeUpAndGoDown :
    training.live = true ∧ training.mir.releaseStep ≠ 4 ∧ identing.mir.releaseStep ≠ 4 ∧ (training.linkEntry 0).isSome = true ∧ (training.link 0).st = .training ∧ (identing.link 0).st = .ident
      ∧ (identing.inbox.find? fun r => r.link = 0 && r.kind = 0x10 && r.sender = 1 && r.body = recordBody 0x10 [0x77, 1, 0, 1, 0, 0]).isSome = true
      ∧ (identing.inbox.find? fun r => r.link = 0 && r.kind = 0x10 && r.sender = 1 && r.body = recordBody 0x10 [0x77, 1, 0, 2, 0, 0]).isSome = true
      ∧ identing.identOk 0 0x77#32 1 0 1 0 0#32 = true ∧ identing.identOk 0 0x77#32 1 0 2 0 0#32 = false ∧ (group.link 0).st = .up := by decide +kernel
theorem test_link_trained : after (exec (.linkTrained 0) training) (fun t => (t.link 0).st = .ident && (t.link 0).vc3.length = 1) = true := by decide +kernel
theorem test_ident : after (exec (.ident 0 0x77#32 1 0 1 0 0#32) identing) (fun t => (t.link 0).st = .up && (t.link 0).peerRank = 1) = true := by decide +kernel
theorem test_miswired : after (exec (.ident 0 0x77#32 1 0 2 0 0#32) identing) (fun t => (t.link 0).st = .miswired && (t.link 0).err.flags = 2) = true := by
  decide +kernel
theorem test_link_timeout : after (exec (.linkRxTimeout 0) group) (fun t => (t.link 0).st = .down && (t.link 0).err.flags = 1) = true := by decide +kernel
theorem test_lane_loss : after (exec (.laneLockLoss 0 2) group) (fun t => (t.link 0).st = .down && (t.link 0).laneLock = 0xB) = true := by decide +kernel

/-! ### Mirror partners -/

/-- Records from the partner, rank 1, have come. -/
def mirrored (st : MirSt) (rs : List (Nat × Nat × List Nat)) : State :=
  let s := heard group rs
  { s with mir := { s.mir with st := st, peerBoots := some 5 } }
def aPush (prepared : Bool) : Push := { epoch := 3, firsts := [0, 4096], lines := 5000, start := 1000000, prepared := prepared, resent := [] }
def slot3 : ImageSlot := { epoch := 3, tail := [] }
def withPush (s : State) (p : Bool) : State := { s with mir := { s.mir with push := some (aPush p) } }
/-- The course has formed, and a push of epoch 3 has begun to come. -/
def formed (s : State) : State := { s with mir := { s.mir with formed := true, recvEpoch := some 3 } }
def withPend (s : State) : State := { s with mir := { s.mir with pend := some slot3 } }

theorem wit_MirrorPointsTakeTwoPhases_1 :
    (∀ st rs, bundleTo (mirrored st rs) 1 8) ∧ (mirrored .forming [(0x40, 1, [5, 10, 20])]).live = true
      ∧ ((mirrored .forming [(0x40, 1, [5, 10, 20])]).takeRecord 0x40 1 [5, 10, 20]).isSome = true ∧ (mirrored .forming [(0x40, 1, [5, 10, 20])]).mir.gone = false
      ∧ (mirrored .forming []).boot.life = .operational ∧ (mirrored .forming []).mir.peerBoots = some 5#32 ∧ (mirrored .mirroring []).mir.st = .mirroring ∧ (mirrored .mirroring []).strk.run = none := by
  refine ⟨fun st rs => ⟨by cases st <;> rfl, [9], by cases st <;> rfl⟩, by decide +kernel⟩
/-- In DIAGNOSTIC there is no course. -/
def diagnostic (s : State) : State := { s with boot := { s.boot with life := .diagnostic } }
theorem wit_MirrorPointsTakeTwoPhases_0 :
    let s := diagnostic (mirrored .none [(0x40, 1, [5, 10, 20])])
    s.live = true ∧ bundleTo s 1 8 ∧ (s.takeRecord 0x40 1 [5, 10, 20]).isSome = true ∧ s.boot.life ≠ .operational := by
  refine ⟨rfl, ⟨rfl, [9], rfl⟩, by decide +kernel⟩
theorem wit_MirrorPointsTakeTwoPhases_2 :
    (withPush (mirrored .mirroring []) false).mir.push = some (aPush false) ∧ (aPush false).prepared = false
      ∧ (withPush (mirrored .mirroring []) false).mirrorSending = false
      ∧ ((mirrored .mirroring [(0x41, 1, [3, 0, 0])]).takeRecord 0x41 1 [3, 0, 0]).isSome = true ∧ (mirrored .mirroring [(0x41, 1, [3, 0, 0])]).mir.recvNak = []
      ∧ (mirrored .mirroring []).receiving = false ∧ (formed (mirrored .mirroring [])).receiving = true
      ∧ (formed (mirrored .mirroring [])).mir.recvBad = false ∧ (formed (mirrored .mirroring [])).mir.recvEpoch = some (3 % 65536)
      ∧ (formed (mirrored .mirroring [])).mir.recvChunks = 0 ∧ (formed (mirrored .mirroring [])).mir.recvLines = 0
      ∧ (formed (mirrored .mirroring [])).mir.peerLines ≤ 0
      ∧ ((withPush (mirrored .mirroring [(0x42, 1, [3, 0])]) true).takeRecord 0x42 1 [3, 0]).isSome = true
      ∧ ((withPend (mirrored .mirroring [(0x44, 1, [3])])).takeRecord 0x44 1 [3]).isSome = true ∧ (withPend (mirrored .mirroring [])).mir.pend = some slot3 := by
  decide +kernel
theorem wit_MirrorPointsTakeTwoPhases_3 :
    let s := heard groupBusy [(0x43, 1, [3, 1])]
    bundleTo s 1 8 ∧ (s.takeRecord 0x43 1 [3, 1]).isSome = true ∧ s.strk.run = some someJob ∧ someJob.stopped = false := by
  refine ⟨⟨rfl, [9], rfl⟩, by decide +kernel⟩

/-- R346, R407: the first M_HELLO forms the course, in OPERATIONAL only. -/
theorem test_hello : after (exec (.mHello 5 10 20) (mirrored .forming [(0x40, 1, [5, 10, 20])])) (fun t => t.mir.st = .mirroring && t.mir.peerLines = 10) = true
    ∧ after (exec (.mHello 5 10 20) (diagnostic (mirrored .none [(0x40, 1, [5, 10, 20])]))) (fun t => t.mir.st = .none && t.mir.peerLines = 0) = true := by
  decide +kernel
theorem test_hello_new : after (exec (.mHello 6 10 20) (mirrored .mirroring [(0x40, 1, [6, 10, 20])])) (fun t => t.mir.st = .lost && t.mir.lostCause = 4) = true := by
  decide +kernel
theorem test_push_done : after (exec .mirrorPushDone (withPush (mirrored .mirroring []) false)) (fun t =>
    t.mir.push.map (·.prepared) = some true && (t.link 8).vc3.length = 1) = true := by decide +kernel
theorem test_prepare : after (exec (.mPrepare 3 0 0) (formed (mirrored .mirroring [(0x41, 1, [3, 0, 0])]))) (fun t => t.mir.pend = some slot3 && t.mir.evt.flags = 0) = true := by
  decide +kernel
theorem test_prepare_fails : after (exec (.mPrepare 3 1 0) (formed (mirrored .mirroring [(0x41, 1, [3, 1, 0])]))) (fun t => t.mir.pend.isNone && t.mir.evt.flags = 2) = true := by
  decide +kernel
theorem test_accept : after (exec (.mAccept 3 false) (withPush (mirrored .mirroring [(0x42, 1, [3, 0])]) true)) (fun t =>
    t.mir.push.isNone && t.mir.pushtime = 300 && (t.link 0).vc3.length = 1 && (t.link 2).vc3.length = 1) = true := by decide +kernel
theorem test_ready : after (exec (.mReady 1 3 true) (heard groupBusy [(0x43, 1, [3, 1])])) (fun t =>
    t.strk.run.map (fun j => (j.noCommit, j.collAbort)) = some (true, some (0x13, 3, 1))) = true := by decide +kernel
theorem test_commit : after (exec (.mCommit 3) (withPend (mirrored .mirroring [(0x44, 1, [3])]))) (fun t => t.mir.image = some slot3 && t.mir.imageEpoch = 3) = true := by
  decide +kernel

def noBundle (s : State) : State := { s with links := [(0, upLink 1 0), (2, upLink 2 0)] }
/-- A group of rank 0 and 2 whose partner, rank 1, is outside it. -/
def outside (s : State) : State :=
  { s with grp := { s.grp with linkMap := some { groupMap with members := groupMap.members.filter fun m => m.rank ≠ 1 } } }
def restoring (rs : List (Nat × Nat × List Nat)) : State :=
  let s := mirrored .restoring rs
  { s with mir := { s.mir with restoreEpoch := some 3, prior := .lost } }
def servingImage : State := let s := withPend (mirrored .mirroring []); { s with mir := { s.mir with serving := some { epoch := 3, resent := [], sent := false } } }

theorem wit_CoursesAreLostAndRestored_1 :
    (let s := noBundle (mirrored .mirroring [])
     s.live = true ∧ s.partner = some 1 ∧ s.upBundle = [] ∧ s.bundle ≠ [] ∧ s.mir.gone = false ∧ s.mir.st = .mirroring ∧ s.mir.push = none)
    ∧ (let s := outside (noBundle { mirrored .mirroring [] with strk := groupBusy.strk })
       s.partner = some 1 ∧ s.upBundle = [] ∧ s.bundle ≠ [] ∧ s.strk.run = some someJob ∧ s.others.contains 1 = false)
    ∧ (let s := { mirrored .mirroring [(0x45, 1, [9]), (0x45, 2, [9])] with strk := groupBusy.strk }
       (s.takeRecord 0x45 1 [9]).isSome = true ∧ (s.takeRecord 0x45 2 [9]).isSome = true ∧ s.mir.leaving = none ∧ s.mir.push = none ∧ s.mir.st = .mirroring
         ∧ s.mir.gone = false) := by decide +kernel
theorem wit_CoursesAreLostAndRestored_2 :
    (let s := mirrored .mirroring [(0x46, 1, [4])]
     (s.takeRecord 0x46 1 [4]).isSome = true ∧ s.upBundle = [8, 9] ∧ s.mir.image = none ∧ s.mir.pend = none)
    ∧ (let s := withPend (mirrored .mirroring [(0x46, 1, [3])])
       (s.takeRecord 0x46 1 [3]).isSome = true ∧ s.mir.pend = some slot3)
    ∧ (servingImage.mir.serving = some { epoch := 3, resent := [], sent := false } ∧ servingImage.mirrorSending = false ∧ servingImage.upBundle = [8, 9])
    ∧ (let s := mirrored .mirroring [(0x47, 1, [3, 2])]
       (s.takeRecord 0x47 1 [3, 2]).isSome = true ∧ s.mir.restoreEpoch = none)
    ∧ ((restoring [(0x47, 1, [3, 1])]).takeRecord 0x47 1 [3, 1]).isSome = true ∧ (restoring [(0x47, 1, [3, 1])]).mir.restoreEpoch = some 3 ∧ (restoring []).mir.recvNak = [] := by
  decide +kernel

theorem test_bundle_down : after (exec .bundleDownTimeout (noBundle (mirrored .mirroring []))) (fun t =>
    t.mir.st = .lost && t.mir.lostCause = 1 && t.mir.evt.flags = 1) = true := by decide +kernel
theorem test_leaving : after (exec (.leaving 1 9) { mirrored .mirroring [(0x45, 1, [9])] with strk := groupBusy.strk }) (fun t =>
    t.mir.leaving = some 9 && t.mir.st = .holding && t.mir.lostCause = 3) = true := by decide +kernel
theorem test_restore_none : after (exec (.mRestoreReq 4) (withPend (mirrored .mirroring [(0x46, 1, [4])]))) (fun t =>
    t.mir.serving.isNone && (t.link 8).vc3.length = 1) = true := by decide +kernel
theorem test_image_returned : after (exec .imageReturnDone servingImage) (fun t => t.mir.serving = some { epoch := 3, resent := [], sent := true } && t.mir.image = some slot3 && t.mir.formed) = true := by decide +kernel
theorem test_restore_fails : after (exec (.mRestoreDone 3 1) (restoring [(0x47, 1, [3, 1])])) (fun t => t.mir.st = .lost && t.mir.restoreEpoch.isNone) = true := by
  decide +kernel

/-- R352: the restored module could not install what came: at the partner the course is lost again. -/
theorem test_restore_refused : after (exec (.mRestoreDone 3 2) (mirrored .mirroring [(0x47, 1, [3, 2])])) (fun t => t.mir.gone && t.mir.st = .holding) = true := by
  decide +kernel

/-! ### Video codec unit -/

/-- An encode context of 64 by 64 pixels under CBR: N = 3,000,000 · 1 / 30 = 100,000 bits. -/
def camera : StreamCtx :=
  { (default : StreamCtx) with
    bits := 8, width := 64, height := 64, lead := 4, gang := 1, ctx := 2, rateMode := 1, bitrate := 3000000, fpsNum := 30, fpsDen := 1, qpMin := 10,
    qpMax := 40, qpFix := 22, keyInt := 60, keyMult := 4, unitRows := 1, ringPage := 20, depth := 2, outArea := lineAddr 30 0, outLines := 8,
    descArea := lineAddr 31 0, descLines := 4 }
def ctxOf (d : StreamCtx) : Ctx :=
  { (default : Ctx) with decl := d, isOpen := true, carry := 30000, requests := [{ slot := 1, release := 7, stroke := 3 }] }
def idleVcu (d : StreamCtx) : State := { busy with ctxs := [(32 * 4 + 2, some (ctxOf d))] }
/-- The frame under way, with a budget of 70,000 bits. -/
def aFrame : VcuFrame := { (default : VcuFrame) with ctx := 2, nominal := 100000, budget := 70000, qp := 30, slot := 1 }
def frameOn (d : StreamCtx) (f : VcuFrame) : State := { idleVcu d with pipes := [(4, { Pipe.reset 4 with frame := some f })] }
def player : StreamCtx := { camera with decode := true, ready := [1, 2], freeAt := [2, 3], bufs := 2 }
/-- Pictures of two rows. -/
def strip : StreamCtx := { camera with height := 2 }
def stripPlayer : StreamCtx := { player with height := 2 }
def oneRow : StreamCtx := { camera with width := 128, height := 2 }

/-- A superblock of `bits` bits with one 64 by 64 block of an 8-bit picture, every sample 100. -/
def codedFor (d : StreamCtx) (sb bits : Nat) : CodedSb :=
  { bits := bits, qp := 30, tools := [.block 64 64], blocks := [], recon := (sbLines d sb).map fun e => List.replicate e.2 100 }
/-- One with a tool that R365 rules out. -/
def withPalette : CodedSb := { codedFor camera 0 9 with tools := [.palette] }
def goodSeq : SeqInfo :=
  { profile := 0, bits := 8, chroma := 1, level := 52, largeScaleTile := false, extension := false, width := 64, height := 64, buffers := 2 }
def decodedOk : DecodeOutcome := { (default : DecodeOutcome) with seq := goodSeq, buf := 1 }
/-- The rest of its only tile group cannot be decoded. -/
def brokenUnit : DecodeOutcome := { decodedOk with error := .unit [(0, 2)] }
def movie : StreamCtx := { player with width := 128 }
/-- A temporal delimiter, a frame header of 10 bytes and a tile group of `n` bytes: 16 + n bytes with `n` at most 127, one more above. -/
def unitOf (n : Nat) : List StreamUnit :=
  [{ type := 2, payload := [] }, { type := 3, payload := List.replicate 10 1#8 }, { type := 4, payload := List.replicate n 7#8 }]

theorem wit_FramesKeepTheirBudget_1 :
    (idleVcu camera).live = true ∧ (idleVcu camera).strk.run.isSome = true ∧ ((idleVcu camera).pipe 4).frame = none
      ∧ ((idleVcu camera).pipe 4).lead.toNat = 4 ∧ (idleVcu camera).pickCtx 4 = some (ctxOf camera, 7) ∧ camera.decode = false ∧ camera.rateMode = 1
      ∧ camera.fpsNum ≠ 0 ∧ camera.qpMin ≤ camera.qpMax ∧ ({ camera with rateMode := 0 } : StreamCtx).rateMode = 0 := by decide +kernel
theorem wit_FramesKeepTheirBudget_2 :
    (let s := frameOn camera aFrame
     coding s 4 4 aFrame (ctxOf camera) ∧ aFrame.sb < sbCount camera ∧ s.sbTurn camera 4 4 0 = true ∧ s.doneAcross camera 4 4 0 = [] ∧ codedOk camera aFrame [] 0 withPalette = false
       ∧ codedOk camera aFrame [] 0 { codedFor camera 0 9 with qp := 31 } = false ∧ codedOk camera aFrame [] 0 (codedFor camera 0 70001) = true ∧ aFrame.sb + 1 = sbCount camera ∧ aFrame.sb + 1 < sbCount oneRow
       ∧ aFrame.budget < aFrame.bits + 70001 ∧ 0 < ({ camera with refs := 1 } : StreamCtx).refs)
    ∧ (let s := frameOn movie aFrame
       coding s 4 4 aFrame (ctxOf movie) ∧ movie.decode = true ∧ seqSupported movie decodedOk.seq = true ∧ s.sbTurn movie 4 4 0 = true
         ∧ decodedOk.length ≤ supplied (ctxOf movie) ∧ errorOk movie aFrame 0 decodedOk.error = true ∧ errorOk movie aFrame 0 brokenUnit.error = true
         ∧ errorRuns movie brokenUnit.error = [(0, 2)] ∧ decodedOk.buf < movie.bufs ∧ aFrame.sb = 0 ∧ aFrame.sb + 1 < sbCount movie ∧ (ctxOf movie).pics = []
         ∧ seqSupported movie (default : SeqInfo) = false)
    ∧ interOk 1 { x := 0, y := 0, w := 64, h := 64, ref := 0, mvx := 748, mvy := 0, candX := 0, candY := -372 } = true := by
  simp only [coding]; decide +kernel
/-- The lines of a superblock of the frame's buffer can be written, and none of them is another. -/
theorem wit_FramesKeepTheirBudget_3 : sbsWritable (frameOn strip aFrame) (ctxOf strip) 0 [0] := by
  refine ⟨?_, by decide +kernel⟩
  have h : ∀ p ∈ sbPlaces (ctxOf strip) 0 [0], p.space = .line ∧ p.at_ < 2 ^ 35 ∧ lineIdx p.at_ < 73728 ∧ lineFld p.at_ < pageLines := by decide +kernel
  have hp : ∀ i, i < 73728 → (frameOn strip aFrame).page i = PageEntry.ownLine := by
    intro i hi
    have : (frameOn strip aFrame).page i = sget pageReset [] i := rfl
    simp [this, sget, pageReset, hi]
  intro p hm
  obtain ⟨h0, h1, h2, h3⟩ := h p hm
  unfold writable plain
  rw [h0]
  exact ⟨⟨h1, h2, h3, by rw [hp _ h2]; rfl, by rw [hp _ h2]; rfl⟩, fun _ => by rw [hp _ h2]; rfl⟩

/-- R379: B = max(100,000 − 30,000, 25,000). -/
theorem test_frame_start : after (exec (.vcuFrameStart 4) (idleVcu camera)) (fun t =>
    (t.pipe 4).frame.map (fun f => (f.nominal, f.budget, f.slot, f.release)) = some (100000, 70000, 1, 7) && (t.pipe 4).ctx = 2) = true := by decide +kernel
/-- R380: the guard fires at the first superblock that reaches the budget, not at the last. -/
theorem test_guard : after (exec (.superblockDone 4 0 (codedFor oneRow 0 70000) default) (frameOn oneRow aFrame)) (fun t =>
    (t.pipe 4).frame.map (fun f => (f.bits, f.sb, f.guardSb)) = some (70000, 1, some 1)) = true := by decide +kernel

/-- R365: a superblock with a palette block is none of this encoder. -/
theorem test_palette : after (exec (.superblockDone 4 0 withPalette default) (frameOn camera aFrame)) (fun t => (t.pipe 4).frame = some aFrame) = true := by
  decide +kernel
/-- R371: the samples stand in the frame's buffer as FP16 100. -/
theorem test_recon : after (exec (.superblockDone 4 0 (codedFor strip 0 9) default) (frameOn strip aFrame)) (fun t =>
    leAt (t.t2Line 0 3) 62 2 = 0x5640 && lineOk (t.t2Line 0 3)) = true := by decide +kernel

/-- Every superblock of the pipe's band is done. -/
def codedFrame : State := (frameOn camera { aFrame with sb := 1 }).modPipe 4 fun x => { x with bandSb := 1 }

theorem wit_UnitsAreEmittedOrDropped_1 :
    let f := { aFrame with sb := 1 }
    coding codedFrame 4 4 f (ctxOf camera) ∧ f.unit < (unitRowsOf camera).length ∧ codedFrame.unitDone camera 4 f.unit = true
      ∧ unitPartsOk false f.key true (unitOf 84) = true ∧ (unitBytes false true (unitOf 84)).length = 100
      ∧ f.unit + 1 = (unitRowsOf camera).length ∧ f.dropping = false ∧ spanFits (ctxOf camera) (ctxOf camera).offset 100 = true
      ∧ spanFits (ctxOf camera) 0 513 = false ∧ (2 : Int) ≤ descRoom (ctxOf camera) ∧ (unitRowsOf { camera with height := 128 }).length = 2 := by
  simp only [coding]; decide +kernel
theorem wit_UnitsAreEmittedOrDropped_2 :
    let c := { ctxOf player with hostpos := 500, pics := [{ buf := 1, flags := 0, concealed := 0 }] }
    let s := { frameOn player aFrame with ctxs := [(32 * 4 + 2, some c)] }
    coding s 4 4 aFrame c ∧ slotFree c s.strokeNum = true ∧ 300 ≤ supplied c ∧ c.next = 0 ∧ 1 ≤ descRoom c
      ∧ seqSupported player goodSeq = true ∧ seqSupported player (default : SeqInfo) = false ∧ aFrame.sb = 0 ∧ c.pics.any (fun y => y.buf = 1) = true
      ∧ descRoom { c with descwr := 4 } < 1 := by simp only [coding]; decide +kernel
theorem wit_UnitsAreEmittedOrDropped_3 :
    (idleVcu camera).openCtx 4 2 = some (ctxOf camera) ∧ (idleVcu player).openCtx 4 2 = some (ctxOf player)
      ∧ 0 ≤ ((512#32) - (ctxOf player).hostpos).toInt ∧ ((512#32) - ((ctxOf player).vcupos + w32 (player.outLines * 64))).toInt ≤ 0
      ∧ 0 < ((513#32) - ((ctxOf player).vcupos + w32 (player.outLines * 64))).toInt := by decide +kernel

/-- R367: an OBU with its size field. -/
theorem test_obu : unitBytes false true (unitOf 1) = [0x12#8, 0#8, 0x1A#8, 10#8] ++ List.replicate 10 1#8 ++ [0x22#8, 1#8, 7#8] := by decide +kernel
/-- R367: an Annex B byte stream; the parameter sets and the first slice have start codes of four bytes. -/
theorem test_nal : unitBytes true true [{ type := 33, payload := [0#8, 0#8, 1#8] }, { type := 1, payload := [9#8] }]
    = [0#8, 0#8, 0#8, 1#8, 0x42#8, 1#8, 0#8, 0#8, 3#8, 1#8, 0#8, 0#8, 1#8, 2#8, 1#8, 9#8] := by decide +kernel
/-- R370: 100 bytes take two lines of 64; a UNIT and a FRAME_END descriptor follow. -/
theorem test_unit_emit : after (exec (.unitEmit 4 (unitOf 84)) codedFrame) (fun t =>
    (t.ctx 4 2).map (fun c => (c.offset, c.vcupos, c.descwr, c.next)) = some (128, 128#32, 2#32, 1) && (t.pipe 4).units = 1 && (t.pipe 4).frame.isNone)
    = true := by decide +kernel
theorem test_unit_dropped : after (exec (.unitEmit 4 (unitOf 496)) codedFrame) (fun t =>
    (t.ctx 4 2).map (fun c => (c.offset, c.vcupos, c.drops)) = some (576, 0#32, 2#32) && (t.pipe 4).units = 0) = true := by decide +kernel
theorem test_decoded : after (exec (.decodeCopyDone 4 2 { (default : DecodedFrame) with inPoint0 := true, buf := 1, consumed := 300 } { decodedOk with seq := { goodSeq with height := 2 } })
    { frameOn stripPlayer aFrame with ctxs := [(32 * 4 + 2, some { ctxOf stripPlayer with hostpos := 500, pics := [{ buf := 1, flags := 0, concealed := 0 }] })] }) (fun t =>
    (t.ctx 4 2).map (fun c => (c.vcupos, c.next, c.descwr)) = some (300#32, 1, 1#32) && (t.pipe 4).frame.isNone) = true := by decide +kernel
theorem test_hostpos : after (exec (.vcuCtxHostposWrite 4 2 513) (idleVcu player)) (fun t => (t.ctx 4 2).map (·.hostpos) = some 0#32) = true
    ∧ after (exec (.vcuCtxHostposWrite 4 2 512) (idleVcu player)) (fun t => (t.ctx 4 2).map (·.hostpos) = some 512#32) = true := by decide +kernel
theorem test_descrd : after (exec (.vcuCtxDescrdWrite 4 2 9) (idleVcu camera)) (fun t => (t.ctx 4 2).map (·.descrd) = some 9#32) = true := by decide +kernel

/-- R362: of two bands of one row each, the lower one's pipe gets the edge rows of the upper one's superblock. -/
def ganged : StreamCtx := { camera with height := 128, gang := 2 }
theorem test_edge_rows : after (exec (.superblockDone 4 0 { bits := 9, qp := 30, tools := [], blocks := [], recon := (sbLines ganged 0).map fun e => List.replicate e.2 100 } default)
    { idleVcu ganged with pipes := [(4, { Pipe.reset 4 with frame := some aFrame }), (5, { Pipe.reset 5 with lead := 4 })] }) (fun t =>
    (t.pipe 5).edges.map (·.sb) = [0] && t.doneAcross ganged 4 5 1 = [0]) = true := by decide +kernel
/-- R385: an error conceals the rest of its unit, with mid-grey while no picture has been decoded, and raises the event. -/
theorem test_concealed : after (exec (.superblockDone 4 0 (codedFor movie 0 0) { brokenUnit with seq := { goodSeq with width := 128, height := 2 } })
    (frameOn { movie with height := 2 } aFrame)) (fun t =>
    (t.pipe 4).evt.flags = 2 && ((t.pipe 4).frame.map fun f => (f.sb, f.concealed, f.lost, f.flags)) = some (1, 1, [(0, 2)], 2)) = true := by decide +kernel

/-! ### Boot, updates and the lifecycle -/

/-- Bytes from an offset as cells of a sparse table. -/
def cellsAt (a : Nat) : List Byte → Sparse Byte
  | [] => []
  | b :: rest => (a, b) :: cellsAt (a + 1) rest
/-- A root public key (SEC 1), a signing key, and signatures made with them over the record and over the scroll. -/
def rootKey : List Byte :=
  beBytes 97 0x04c7c76a90d6d3bc9c3f6065ef4f2a8c899feb773304629ea9dab2d2ba0f0c87fcf4b9f6bc3caac418b6db3219bd8d7982932f479dfea3f8459f72705b1c86e169e4e3c7230d6372cb5b97dffad3ec1f1a748afe53fe2d408d7c1130af5afbdf38
def signingKey : List Byte :=
  beBytes 97 0x0479e63de7983d4880f2e8f24afbb42149976e66881dcdb73d5753bdd9069ad3858ad72948d5f9d9a7166f4dad2c025e18629e2797a9ba8365c6d943885fe6f2b66c264644429d7cbd05d932ae5758310ce12d2cf981cc9626ede0770dd5365464
def recordSig : List Byte :=
  beBytes 96 0xd36d0bb8004226410720a4ade4f6501acdd5f995164e8d880bc5db8ca3f80e50e9169a534cc106b85d055a644fe02cd3bc184df3e72db3f669bc0ad9bf8f7a316e46fb8fcd3aae4c5770a922dcfb186c929e0b456d8ff3c9c2d12c044c63fdd5
def scrollSig : List Byte :=
  beBytes 96 0xacf70921802a1c1102ce6fd0356af7d9faa73f391cf30b364449bdf9b9a56399f82d7acff86a1c7ff4c4859a9b29a8ed2716edeeedcd9749ec08fa68b5b0828ed7c959925d733555aa8dba0a657ff08926cf4a94c27560bdcb47570d934b7f9b
/-- A provisioning record with one key, serial number 7 and SEQ 2 (R394). -/
def recordOwned : List Byte :=
  leBytes 4 0x44565250 ++ leBytes 2 1 ++ leBytes 2 0x0E03 ++ [1#8, 0xA1#8, 0#8, 0#8] ++ leBytes 8 7 ++ leBytes 4 2 ++ List.replicate 16 0#8
    ++ [1#8, 0#8] ++ List.replicate 6 0#8 ++ rootKey ++ signingKey ++ List.replicate 302 0#8 ++ recordSig
/-- A scroll of 128 bytes with four empty sections, signed under key 0 (R396). -/
def scrollOwned : List Byte :=
  leBytes 4 0x4C524353 ++ leBytes 2 1 ++ leBytes 2 0x0E03 ++ [0xA1#8, 1#8, 0#8, 1#8] ++ leBytes 4 1 ++ leBytes 4 9 ++ leBytes 4 128
    ++ leBytes 2 4 ++ List.replicate 38 0#8
    ++ (List.range 4).flatMap fun i => leBytes 2 (i + 1) ++ leBytes 2 0 ++ leBytes 4 128 ++ leBytes 4 0 ++ leBytes 4 (crc32c [])
def owned : Flash := { Flash.erased with bytes := cellsAt slotBase (scrollOwned ++ scrollSig) ++ cellsAt 0 recordOwned }
def bootRecord : BootRec :=
  { seq := 4, active := false, trial := none, trialLeft := 0, state := .operational, rbPending := false, bootCount := 6 }
/-- A provisioned module whose record and scroll are on flash 0, with its power, boot state, queue of the scribe and data buffer. -/
def bootable (p : Power) (b : Boot) (q : List CmdReq) (data : Sparse Byte) : State :=
  { State.reset with
    power := p
    boot := b
    fuses := { Fuses.reset with prov := true, rootHash := sha384 (rootKeyOf recordOwned) }
    flash0 := { owned with boot := [bootRecord] }
    flash1 := Flash.erased
    scr := { Scribe.reset with queue := q, mbx := { Mbx.reset with data := data } } }
theorem sget_cellsAt {d : Nat → Byte} (a i : Nat) (bs : List Byte) (rest : Sparse Byte) (h : i < bs.length) :
    sget d (cellsAt a bs ++ rest) (a + i) = bs[i] := by
  induction bs generalizing a i with
  | nil => simp at h
  | cons b bs ih =>
    cases i with
    | zero => simp [cellsAt, sget]
    | succ i =>
      have := ih (a + 1) i (by simpa using h)
      simpa [cellsAt, sget, Nat.add_assoc, Nat.add_comm 1 i] using this
theorem sget_past {d : Nat → Byte} (k : Nat) (pre m : Sparse Byte) (h : pre.all (fun c => c.1 ≠ k) = true) : sget d (pre ++ m) k = sget d m k := by
  induction pre with
  | nil => rfl
  | cons e pre ih =>
    simp only [List.all_cons, Bool.and_eq_true, decide_eq_true_eq] at h
    simp [sget, Ne.symm h.1, ih h.2]
theorem cellsAt_above (a k : Nat) (bs : List Byte) (h : k < a) : (cellsAt a bs).all (fun c => c.1 ≠ k) = true := by
  induction bs generalizing a with
  | nil => rfl
  | cons b bs ih =>
    simp only [cellsAt, List.all_cons, ih (a + 1) (by omega), Bool.and_true, decide_eq_true_eq]
    omega
theorem read_getElem (f : Flash) (a n i : Nat) (h : i < n) : (f.read a n)[i]? = some (sget erasedByte f.bytes (a + i)) := by
  induction n generalizing a i with
  | zero => omega
  | succ n ih =>
    cases i with
    | zero => rfl
    | succ i =>
      have := ih (a + 1) i (by omega)
      simpa [Flash.read, Nat.add_assoc, Nat.add_comm 1 i] using this
theorem read_length (f : Flash) (a n : Nat) : (f.read a n).length = n := by
  induction n generalizing a with
  | zero => rfl
  | succ n ih => simp [Flash.read, ih]
/-- A flash that holds `bs` from `a` on reads it there. -/
theorem read_is (f : Flash) (a : Nat) (bs : List Byte) (h : ∀ i (k : i < bs.length), sget erasedByte f.bytes (a + i) = bs[i]) : f.read a bs.length = bs := by
  apply List.ext_getElem?
  intro i
  by_cases k : i < bs.length
  · rw [read_getElem f a _ i k, h i k, List.getElem?_eq_getElem k]
  · rw [List.getElem?_eq_none (by rw [read_length]; omega), List.getElem?_eq_none (by omega)]
theorem lengths : recordOwned.length = recordSize ∧ scrollOwned.length = 128 ∧ scrollSig.length = 96 := by decide +kernel
theorem read_record : owned.read 0 recordSize = recordOwned := by
  rw [← lengths.1]
  refine read_is owned 0 recordOwned fun i k => ?_
  have : i < slotBase := lt_trans k (by rw [lengths.1]; decide)
  have e := sget_cellsAt (d := erasedByte) 0 i recordOwned [] k
  rw [List.append_nil] at e
  rw [← e]
  exact sget_past _ _ _ (cellsAt_above _ _ _ (by omega))
theorem read_scroll : owned.read slotBase 128 = scrollOwned := by
  rw [← lengths.2.1]
  refine read_is owned slotBase scrollOwned fun i k => ?_
  have e := sget_cellsAt (d := erasedByte) slotBase i (scrollOwned ++ scrollSig) (cellsAt 0 recordOwned) (by rw [List.length_append]; omega)
  rw [List.getElem_append_left k] at e
  exact e
theorem read_scrollSig : owned.read (slotBase + 128) 96 = scrollSig := by
  rw [← lengths.2.2]
  refine read_is owned (slotBase + 128) scrollSig fun i k => ?_
  have l := lengths.2.1
  have e := sget_cellsAt (d := erasedByte) slotBase (128 + i) (scrollOwned ++ scrollSig) (cellsAt 0 recordOwned) (by rw [List.length_append]; omega)
  rw [List.getElem_append_right (by omega), ← Nat.add_assoc] at e
  simp only [l, Nat.add_sub_cancel_left] at e
  exact e

/-- The signatures over record and scroll verify (R395, R397). -/
theorem record_verifies : signatureVerifies (rootKeyOf recordOwned) (recordOwned.take 544) ((recordOwned.drop 544).take 96) = true := by
  decide +kernel
theorem scroll_verifies : signatureVerifies (keyOf recordOwned 0) (owned.read slotBase 128) (owned.read (slotBase + 128) 96) = true := by
  rw [read_scroll, read_scrollSig]
  decide +kernel
/-- A signature whose last bit differs does not. -/
theorem test_signature_refused : signatureVerifies signingKey scrollOwned (beBytes 96 (beNat scrollSig ^^^ 1)) = false := by decide +kernel
/-- FIPS 180-4: SHA-384 of the three letters abc. -/
theorem test_sha384 : sha384 [97#8, 98#8, 99#8] = beBytes 48
    0xcb00753f45a35e8bb5a03d699ac65007272c32ab0eded1631a8b605a43ff5bed8086072ba1e7cc2358baeca134c825a7 := by decide +kernel

theorem read_bytes (f g : Flash) (h : f.bytes = g.bytes) (a n : Nat) : f.read a n = g.read a n := by
  induction n generalizing a with
  | zero => rfl
  | succ n ih => simp only [Flash.read, h, ih]

theorem record_signed (s : State) (e : s.fuses.rootHash = sha384 (rootKeyOf recordOwned)) (g : s.fuses.f512 = true) :
    s.recordValid recordOwned = true := by
  have x : s.recordSigned recordOwned = true := by simp only [State.recordSigned, record_verifies, e]; simp
  have y : s.grade = 1 := by simp [State.grade, g]
  unfold State.recordValid
  rw [x, y]
  decide +kernel

theorem erased_invalid (s : State) : s.recordValid (Flash.erased.read 0 recordSize) = false := by
  have m : leAt (Flash.erased.read 0 recordSize) 0 4 = 0xFFFFFFFF := by decide +kernel
  unfold State.recordValid
  rw [m]; rfl

theorem bootable_copies (p b q d) : (bootable p b q d).recordCopies = [recordOwned, Flash.erased.read 0 recordSize] := by
  unfold State.recordCopies
  rw [read_bytes (bootable p b q d).flash0 owned rfl, read_record, read_bytes (bootable p b q d).flash1 Flash.erased rfl]

theorem bootable_record (p b q d) : (bootable p b q d).record = some recordOwned := by
  unfold State.record
  rw [bootable_copies, List.filter_cons, record_signed _ rfl rfl, List.filter_cons, erased_invalid]
  rfl

theorem bootable_bytes (p b q d) (a n : Nat) : (bootable p b q d).scrollBytes false a n = owned.read (slotBase + a) n := by
  unfold State.scrollBytes
  exact read_bytes ((bootable p b q d).flash false) owned rfl _ _

theorem owned_head : (leAt (owned.read slotBase 64) 0 4 = 0x4C524353 && leAt (owned.read slotBase 64) 4 2 = 1 && leAt (owned.read slotBase 64) 6 2 = 0x0E03
    && byteAt (owned.read slotBase 64) 8 = 0xA1 && byteAt (owned.read slotBase 64) 9 / 1 % 2 = 1 && 64 ≤ 128 && 128 ≤ 132120480) = true := by decide +kernel

theorem bootable_slot (p b q d) (life : Life) (hl : life = .operational ∨ life = .provisioned) :
    (bootable p b q d).verifySlot false life recordOwned = 1 := by
  have k : byteAt (owned.read slotBase 64) 10 = 0 := by decide +kernel
  have l : leAt (owned.read slotBase 64) 20 4 = 128 := by decide +kernel
  have v : leAt (owned.read slotBase 64) 12 4 = 1 := by decide +kernel
  have y : recordKeys recordOwned = 1 ∧ recordRevoked recordOwned = 0 := by decide +kernel
  have z : (bootable p b q d).structureOk false 128 = true := by
    have n : (bootable p b q d).sections false = (bootable Power.reset Boot.reset [] []).sections false := by
      simp only [State.sections, bootable_bytes]
    have e : ∀ x, (bootable p b q d).sectionBytes false x = (bootable Power.reset Boot.reset [] []).sectionBytes false x := by
      intro x; simp only [State.sectionBytes, bootable_bytes]
    have w : (bootable Power.reset Boot.reset [] []).structureOk false 128 = true := by decide +kernel
    unfold State.structureOk at w ⊢
    simp only [n, e]
    exact w
  have f : (bootable p b q d).fuses.f512 = true ∧ (bootable p b q d).fuses.fuseVer = 0 := ⟨rfl, rfl⟩
  unfold State.verifySlot
  simp only [bootable_bytes, Nat.add_zero, k, l, f.1, f.2, if_true, v, y.1, y.2, z, owned_head]
  rcases hl with rfl | rfl <;> simp [scroll_verifies]

theorem bootable_other (p b q d) (life : Life) (r : List Byte) : (bootable p b q d).verifySlot true life r = 2 := by
  have e : (bootable p b q d).scrollBytes true 0 64 = Flash.erased.read slotBase 64 := read_bytes _ _ rfl _ _
  have m : leAt (Flash.erased.read slotBase 64) 0 4 = 0xFFFFFFFF := by decide +kernel
  unfold State.verifySlot
  simp only [e, m]
  rfl

theorem bootable_keyed (p b q d) : keyed (bootable p b q d) := by
  intro _
  rw [bootable_copies, List.filter_cons, record_signed _ rfl rfl]
  have k : recordKeys recordOwned ≠ 0 := by decide +kernel
  simp [k]

/-- Every clause of a successful boot has its hypotheses: the slot of the active scroll verifies. -/
theorem wit_BootRunsItsSteps :
    let s := bootable Power.reset Boot.reset [] []
    startsBoot s noEnv (.powerGood noEnv) ∧ s.record = some recordOwned ∧ keyed s ∧ s.fuses.ret = false
      ∧ s.bootRec.state ≠ .retired ∧ s.bootRec.trial = none ∧ s.bootRec.active = false ∧ s.bootRec.rbPending = false
      ∧ s.verifySlot false s.bootRec.state recordOwned = 1 ∧ noEnv.stackFail = [] ∧ noEnv.fabricFail = false ∧ noEnv.ioFail = false
      ∧ noEnv.flashFail = [] ∧ s.bootRec.seq.toNat + 8 < 2 ^ 32 := by
  intro s
  exact ⟨.inl ⟨rfl, rfl⟩, bootable_record _ _ _ _, bootable_keyed _ _ _ _, rfl, by decide +kernel, rfl, rfl, rfl,
    bootable_slot _ _ _ _ _ (.inl rfl), rfl, rfl, rfl, rfl, by decide +kernel⟩
/-- Without a record, a module that was retired, and a RESET command. -/
def askCmd (ch : Channel) (op : Nat) (args : List Word) : CmdReq := { ch := ch, op := op, tag := 3, args := args }
def asked1 (s : State) (c : CmdReq) : State := { s with scr := { s.scr with queue := [c] } }
/-- A module with erased flash devices. -/
def empty : State := { State.reset with flash0 := Flash.erased, flash1 := Flash.erased }
theorem record_blank : empty.record = none := by
  have e : empty.recordCopies = [Flash.erased.read 0 recordSize, Flash.erased.read 0 recordSize] := by
    unfold State.recordCopies
    rw [read_bytes empty.flash0 Flash.erased rfl, read_bytes empty.flash1 Flash.erased rfl]
  unfold State.record
  rw [e, List.filter_cons, erased_invalid, List.filter_cons, erased_invalid]
  rfl
theorem wit_BootRunsItsSteps_2 :
    empty.atPowerGood = true ∧ empty.record = none ∧ empty.fuses.ret = false
      ∧ ({ empty with fuses := { Fuses.reset with ret := true } }).atPowerGood = true
      ∧ runs (asked1 on (askCmd .mailbox 0x14 [])) 0x14 (askCmd .mailbox 0x14 []) [] ∧ on.power.switchClosed = true := by
  refine ⟨rfl, record_blank, rfl, rfl, ⟨rfl, rfl, rfl, by decide +kernel⟩, rfl⟩

/-- R405: a retired module stops with code 0x40. -/
theorem test_boot_retired : after (exec (.powerGood noEnv) { empty with fuses := { Fuses.reset with ret := true } }) (fun t =>
    t.boot.code = 0x40 && t.boot.phase = 1 && t.power.vio && !t.power.vcore && t.boot.life = .retired && t.scr.logQueue.map (·.type) = [1]) = true := by
  decide +kernel

/-- The mailbox holds 4,096 bytes to be written at offset 4,096 of the idle slot. -/
def provisioned (life : Life) : State := { on with boot := { on.boot with life := life } }
def sent (life : Life) (op : Nat) (args : List Word) : State := asked1 (provisioned life) (askCmd .mailbox op args)

theorem wit_ScrollUpdatesGoThroughATrial :
    runs (sent .operational 0x10 [4096, 65536]) 0x10 (askCmd .mailbox 0x10 [4096, 65536]) [] ∧ (4096 : Nat) + 65536 ≤ slotSize
      ∧ ((sent .operational 0x10 []).flash true).bad = false ∧ flashTakes (sent .operational 0x10 [])
      ∧ (let s := { sent .operational 0x10 [4096, 4] with flash1 := { Flash.erased with bad := true } }
         runs s 0x10 (askCmd .mailbox 0x10 [4096, 4]) [] ∧ (s.flash (!s.bootRec.active)).bad = true ∧ scrollRangeOk (askCmd .mailbox 0x10 [4096, 4]) = true)
      ∧ runs (sent .operational 0x12 []) 0x12 (askCmd .mailbox 0x12 []) [] ∧ runs (sent .operational 0x12 [4]) 0x12 (askCmd .mailbox 0x12 [4]) []
      ∧ runs (sent .operational 0x10 [1, 65537]) 0x10 (askCmd .mailbox 0x10 [1, 65537]) []
      ∧ runs (sent .operational 0x11 []) 0x11 (askCmd .mailbox 0x11 []) []
      ∧ runs (sent .operational 0x12 [3]) 0x12 (askCmd .mailbox 0x12 [3]) []
      ∧ (let s := { sent .operational 0x13 [] with boot := { (sent .operational 0x13 []).boot with trial := true } }
         runs s 0x13 (askCmd .mailbox 0x13 []) [] ∧ s.boot.trial = true ∧ s.ready = true ∧ s.boot.noPset = false)
      ∧ runs (sent .operational 0x13 []) 0x13 (askCmd .mailbox 0x13 []) [] ∧ (sent .operational 0x13 []).boot.trial = false := by
  simp only [runs, flashTakes]; decide +kernel

/-- The data buffer's first bytes reach the idle slot, slot 1; the rest of the block is as the buffer has it. -/
theorem test_scroll_write : after (exec .scrollWrite { sent .operational 0x10 [4096, 4] with
      scr := { (sent .operational 0x10 [4096, 4]).scr with mbx := { Mbx.reset with data := [(0, 0xAA#8), (3, 0xBB#8)] } } }) (fun t =>
    t.scrollBytes true 4096 5 = [0xAA#8, 0#8, 0#8, 0xBB#8, 0xFF#8] && t.flash0.bytes = [] && (t.scr.finish.map (·.status)) = some 0) = true := by
  decide +kernel
theorem test_scroll_verify : after (exec .scrollVerify (sent .operational 0x11 [])) (fun t =>
    t.scr.finish.map (fun d => (d.status, d.res)) = some (5, [2#32])) = true := by decide +kernel
theorem test_trial : after (exec .trial (sent .operational 0x12 [3])) (fun t =>
    t.bootRec.trial = some true && t.bootRec.trialLeft = 3 && t.boot.trialLeft = 3) = true := by decide +kernel
theorem test_commit_refused : after (exec .commit (sent .operational 0x13 [])) (fun t => t.scr.finish.map (·.status) = some 5) = true := by decide +kernel

/-- The record in the data buffer, to be provisioned over a record with SEQ 1. -/
def mailed : Sparse Byte := cellsAt 0 recordOwned
theorem read_mailed : ((List.range recordSize).map fun k => sget (fun _ => 0#8) mailed (0 + k)) = recordOwned := by
  apply List.ext_getElem
  · simp [lengths.1]
  · intro i h k
    simp only [List.getElem_map, List.getElem_range]
    have e := sget_cellsAt (d := fun _ => 0#8) 0 i recordOwned [] k
    rwa [List.append_nil] at e
def provisioning (f : Flash) (code : BitVec 8) (life : Life) : State :=
  { on with
    boot := { on.boot with code := code, life := life, recordSeq := 1 }
    fuses := { Fuses.reset with rootHash := sha384 (rootKeyOf recordOwned) }
    flash0 := f
    flash1 := f
    scr := { Scribe.reset with queue := [askCmd .mailbox 0x20 []], mbx := { Mbx.reset with data := mailed } } }
theorem mailed_valid (f : Flash) (code : BitVec 8) (life : Life) : (provisioning f code life).recordValid recordOwned = true := by
  have x : (provisioning f code life).recordSigned recordOwned = true := by simp only [State.recordSigned, record_verifies, provisioning]; simp
  have y : (provisioning f code life).grade = 1 := rfl
  unfold State.recordValid
  rw [x, y]
  decide +kernel
/-- Copies that hold SEQ 2 and nothing else. -/
def badCopy : Flash := { Flash.erased with bytes := cellsAt 20 (leBytes 4 2), boot := [bootRecord] }
theorem wit_LifecycleTransitionsResetTheModule_1 :
    let c := askCmd .mailbox 0x20 []
    (let s := provisioning Flash.erased 1 .blank
     runs s 0x20 c [] ∧ s.boot.code ≠ 0x11 ∧ s.fuses.ret = false ∧ s.recordValid (s.mbxBytes 0 recordSize) = true
       ∧ recordKeys (s.mbxBytes 0 recordSize) ≠ 0 ∧ s.boot.recordSeq.toNat < recordSeqOf (s.mbxBytes 0 recordSize))
    ∧ (let s := provisioning badCopy 0x11 .operational
       runs s 0x20 c [] ∧ s.boot.code = 0x11 ∧ s.romRecordOk (s.mbxBytes 0 recordSize) = true ∧ s.bootRec.state ≠ .retired) := by
  intro c
  have q : recordSeqOf (badCopy.read 0 recordSize) = 2 ∧ recordSeqOf recordOwned = 2 ∧ recordKeys recordOwned = 1 := by decide +kernel
  have m : ∀ f code life, (provisioning f code life).mbxBytes 0 recordSize = recordOwned := fun _ _ _ => read_mailed
  simp only [m]
  refine ⟨⟨⟨rfl, rfl, rfl, by decide +kernel⟩, by decide, rfl, mailed_valid _ _ _, ?_, ?_⟩, ⟨rfl, rfl, rfl, by decide +kernel⟩, rfl, ?_, by decide +kernel⟩
  · rw [q.2.2]; decide
  · rw [q.2.1]; decide
  · have e : (provisioning badCopy 0x11 .operational).recordCopies = [badCopy.read 0 recordSize, badCopy.read 0 recordSize] := by
      unfold State.recordCopies
      rw [read_bytes (provisioning badCopy 0x11 .operational).flash0 badCopy rfl, read_bytes (provisioning badCopy 0x11 .operational).flash1 badCopy rfl]
    unfold State.romRecordOk
    rw [mailed_valid, e]
    simp [q.1, q.2.1, q.2.2]
theorem wit_LifecycleTransitionsResetTheModule_3 :
    runs (sent .blank 0x20 []) 0x20 (askCmd .mailbox 0x20 []) [] ∧ (sent .blank 0x20 []).fuses.ret = false
      ∧ flashTakes (sent .operational 0x22 []) ∧ flashTakes (sent .diagnostic 0x23 []) ∧ flashTakes (sent .blank 0x20 [])
      ∧ (let s := { sent .operational 0x22 [] with flash0 := { Flash.erased with bad := true } }
         runs s 0x22 (askCmd .mailbox 0x22 []) [] ∧ s.flashFails = true)
      ∧ runs (sent .operational 0x22 []) 0x22 (askCmd .mailbox 0x22 []) [] ∧ runs (sent .diagnostic 0x23 []) 0x23 (askCmd .mailbox 0x23 []) []
      ∧ runs (sent .diagnostic 0x24 []) 0x24 (askCmd .mailbox 0x24 []) [] ∧ runs (sent .operational 0x25 [0]) 0x25 (askCmd .mailbox 0x25 [0]) []
      ∧ (askCmd .mailbox 0x25 [0]).arg 0 = ((sent .operational 0x25 [0]).boot.serial.setWidth 32).toNat
      ∧ runs (sent .operational 0x25 [1]) 0x25 (askCmd .mailbox 0x25 [1]) []
      ∧ (askCmd .mailbox 0x25 [1]).arg 0 ≠ ((sent .operational 0x25 [1]).boot.serial.setWidth 32).toNat
      ∧ runs (sent .diagnostic 0x26 []) 0x26 (askCmd .mailbox 0x26 []) [] := by
  simp only [runs, flashTakes]; decide +kernel
/-- ENABLE of a provisioned module with a scroll; and with one that the rollback fuses shut out. -/
theorem wit_LifecycleTransitionsResetTheModule_4 :
    let c := askCmd .uart 0x21 []
    let s := bootable on.power { on.boot with life := .provisioned } [c] []
    let u := { s with fuses := { s.fuses with fuseVer := 5 } }
    runs s 0x21 c [] ∧ s.record = some recordOwned ∧ s.verifySlot false s.boot.life recordOwned = 1 ∧ s.verifySlot true s.boot.life recordOwned ≠ 1
      ∧ runs u 0x21 c [] ∧ u.record = some recordOwned ∧ u.verifySlot false u.boot.life recordOwned = 3 ∧ u.verifySlot true u.boot.life recordOwned = 2 := by
  intro c s u
  refine ⟨⟨rfl, rfl, rfl, by decide +kernel⟩, bootable_record _ _ _ _, bootable_slot _ _ _ _ _ (.inr rfl), ?_, ⟨rfl, rfl, rfl, by decide +kernel⟩, ?_, ?_, ?_⟩
  · rw [bootable_other]; decide
  · have e : u.recordCopies = [recordOwned, Flash.erased.read 0 recordSize] := by
      unfold State.recordCopies
      rw [read_bytes u.flash0 owned rfl, read_record, read_bytes u.flash1 Flash.erased rfl]
    unfold State.record
    rw [e, List.filter_cons, record_signed _ rfl rfl, List.filter_cons, erased_invalid]
    rfl
  · have l : leAt (owned.read slotBase 64) 20 4 = 128 := by decide +kernel
    have b : u.scrollBytes false 0 64 = owned.read slotBase 64 := by
      unfold State.scrollBytes
      exact read_bytes (u.flash false) owned rfl _ _
    have v : leAt (owned.read slotBase 64) 12 4 = 1 := by decide +kernel
    have f : u.fuses.fuseVer = 5 ∧ u.fuses.f512 = true := ⟨rfl, rfl⟩
    unfold State.verifySlot
    simp only [b, l, v, f.1, f.2, if_true, owned_head]
    rfl
  · have m : leAt (Flash.erased.read slotBase 64) 0 4 = 0xFFFFFFFF := by decide +kernel
    have b : u.scrollBytes true 0 64 = Flash.erased.read slotBase 64 := by
      unfold State.scrollBytes
      exact read_bytes (u.flash true) Flash.erased rfl _ _
    unfold State.verifySlot
    simp only [b, m]
    rfl

/-- R457: a command whose flash access fails answers FLASH and changes nothing. -/
theorem test_diag_flash : after (exec (.diagEnter noEnv) { sent .operational 0x22 [] with flash0 := { Flash.erased with bad := true } }) (fun t =>
    t.scr.finish.map (·.status) = some 6 && t.boot.life = .operational && t.power.vcore) = true := by decide +kernel
theorem test_retire_refused : after (exec (.retire noEnv) (sent .operational 0x25 [1])) (fun t => t.scr.finish.map (·.status) = some 5 && !t.fuses.ret) = true := by
  decide +kernel
theorem test_clear_fences : after (exec .clearFences (sent .diagnostic 0x26 [])) (fun t =>
    t.boot.fullSelfTest && t.scr.logQueue.map (fun e => (e.type, e.payload)) = [(0x11, [0#32])]) = true := by decide +kernel

/-! ### Rings, host resets, release and power -/

def withRing (s : State) (x : Ring) : State := { s with rings := [(7, x)] }
def heldRec : CplRec :=
  { ring := 7, status := 0x10, origin := 0x7F, flags := 0, detail := 0, jobId := 5, strokesRun := 1, endGtc := 0, epoch := 0, stretches := 0, notify := false }
def enabled : Ring := { Ring.reset with en := true }
def queuedJob : State := { withRing group enabled with strk := { Strk.reset with queued := some someJob } }

theorem wit_RingsFollowTheHost :
    on.ringOpen 7 = true ∧ (15#32).toNat < 2 ^ (on.ring 7).sz.toNat ∧ 2 ^ (on.ring 7).sz.toNat ≤ (16#32).toNat
      ∧ (0x51#32).getLsbD 1 = false ∧ (0x51#32).getLsbD 0 = true ∧ (on.ring 7).en = false ∧ on.host.held = []
      ∧ ({ on with host := { on.host with held := [heldRec] } }).host.held = [heldRec] ∧ heldRec.ring = 7 ∧ on.host.quiesced = false
      ∧ ((withRing on enabled).ring 7).en = true
      ∧ queuedJob.strk.queued = some someJob ∧ someJob.ring = 7 ∧ queuedJob.strk.run = none ∧ queuedJob.ringOpen 7 = true
      ∧ groupBusy.ringOpen 7 = true ∧ groupBusy.strk.queued = none ∧ groupBusy.strk.run = some someJob ∧ someJob.stopped = false
      ∧ (let s := withJob groupBusy { someJob with stopped := true }
         s.ringOpen 7 = true ∧ s.strk.run = some { someJob with stopped := true })
      ∧ on.strk.queued = none ∧ on.strk.run = none := by decide +kernel
theorem wit_RingsFollowTheHost_2 : ringTakes queuedJob 7 := by unfold ringTakes; decide +kernel

theorem test_doorbell : after (exec (.doorbell 7 15) on) (fun t => (t.ring 7).tail = 15) = true
    ∧ after (exec (.doorbell 7 16) on) (fun t => (t.ring 7).tail = 0 && (t.ring 7).evt.flags = 1) = true := by decide +kernel
theorem test_cqhead : after (exec (.ringCqheadWrite 7 3) on) (fun t => (t.ring 7).cqhead = 3) = true := by decide +kernel
theorem test_feeddone : after (exec (.ringFeeddoneWrite 7 4) (withRing on { enabled with feeddone := 1 })) (fun t => (t.ring 7).feeddone = 5) = true := by
  decide +kernel
/-- R413, R419: EN with SZ 5; the held record leaves with HELD. -/
theorem test_ring_enable : after (exec (.ringEnable 7 0x51) { on with host := { on.host with held := [heldRec] } }) (fun t =>
    (t.ring 7).en && (t.ring 7).sz = 5 && (t.ring 7).cqtail = 1 && t.host.held = []) = true := by decide +kernel
theorem test_ring_abort_queued : after (exec (.ringAbort 7) queuedJob) (fun t => t.strk.queued.isNone && (t.ring 7).cqtail = 1) = true := by decide +kernel
/-- R430: once the strokes have stopped for a release, the abort ends the job here. -/
theorem test_ring_abort_stopped : after (exec (.ringAbort 7) (withJob groupBusy { someJob with stopped := true })) (fun t => t.strk.run.isNone) = true := by
  decide +kernel
theorem test_ring_abort : after (exec (.ringAbort 7) groupBusy) (fun t =>
    t.strk.run.map (fun j => j.ends.map (fun e => (e.stroke, e.status))) = some [(5, 0x19)]) = true := by decide +kernel

theorem wit_HostResetsKeepTheJob : groupBusy.power.vio = true ∧ (7 : Nat) < 64 ∧ groupBusy.strk.run = some someJob ∧ someJob.ring = 7 := by decide +kernel
theorem test_host_reset : ([.flr, .hotReset, .perstNAssert, .d3hot, .pcieLinkLoss] : List Instr).all (fun c =>
    after (exec c { groupBusy with rings := [(6, { enabled with prog := 8 }), (7, { enabled with prog := 9, tail := 3 })] }) fun t =>
      !(t.ring 7).en && (t.ring 7).prog = 9 && (t.ring 7).tail = 0 && (t.ring 6).prog = 0 && t.strk.run = some someJob) = true := by decide +kernel

def standingBy : State := { State.reset with power := { Power.reset with switchClosed := false, good := false, standby := true } }
def releasing (step : Nat) : State := { on with host := { on.host with quiesceReq := true }, mir := { on.mir with releaseStep := step, st := .leaving } }

theorem wit_ReleaseRunsToReady :
    (standingBy.power.scribe = true ∧ standingBy.pins.relReq = false ∧ standingBy.power.standby = true)
      ∧ (groupBusy.power.scribe = true ∧ groupBusy.pins.relReq = false ∧ groupBusy.power.standby = false ∧ groupBusy.boot.life ≠ .retired
        ∧ groupBusy.mir.releaseStep = 0 ∧ groupBusy.mir.leaving = none)
      ∧ (on.power.scribe = true ∧ on.pins.relReq = false ∧ on.power.standby = false ∧ on.boot.life ≠ .retired ∧ on.live = true ∧ on.strk.run = none
        ∧ on.mir.releaseStep = 0 ∧ on.loan.held = [] ∧ on.loan.granted = [] ∧ on.linksEmpty = true
        ∧ ({ on with links := [(0, { upLink 1 0 with vc3 := [{ msg := true, slots := [zeroLine], chunk := none, sent := 0 }] })] }).linksEmpty = false)
      ∧ ((releasing 5).live = true ∧ (releasing 5).host.quiesceReq = true ∧ (releasing 5).host.quiesced = false)
      ∧ ((releasing 6).mir.releaseStep = 6 ∧ (releasing 6).scr.logQueue = [] ∧ (releasing 6).power.scribe = true)
      ∧ (let c := askCmd .uart 0x40 []
         let s := { releasing 6 with scr := { Scribe.reset with wait := [c] } }
         s.mir.releaseStep = 6 ∧ s.scr.wait = [c] ∧ c.op = 0x40) := by decide +kernel
theorem wit_ReleaseRunsToReady_2 : running groupBusy someJob := by unfold running; decide +kernel

/-- R356: in stroke 3 of a job without a mirror set, the module leaves after stroke 5. -/
theorem test_release_request : after (exec .releaseRequest groupBusy) (fun t => t.mir.leaving = some 5 && t.mir.st = .leaving && t.mir.releaseStep = 1) = true := by
  decide +kernel
theorem test_release_idle : after (exec .releaseRequest on) (fun t => t.mir.releaseStep = 5 && t.host.quiesceReq) = true := by decide +kernel
theorem test_quiesce : after (exec .quiesceAck (releasing 5)) (fun t => t.host.quiesceAck && after (exec .quiesceComplete t) fun u =>
    u.host.quiesced && u.mir.releaseStep = 6) = true := by decide +kernel
theorem test_release_ready : after (exec .releaseReady (releasing 6)) (fun t => t.pins.relRdy && !t.power.vcore && t.mir.st = .released) = true := by
  decide +kernel

def holdingUp : State := { on with power := { on.power with aux := false, holdup := some 1 }, scr := { Scribe.reset with logHead := 5, logQueue := [default] } }
theorem wit_SuppliesComeAndGo :
    standingBy.power.good = false ∧ standingBy.power.scribe = true
      ∧ (standingBy.power.aux = true ∧ standingBy.power.switchClosed = false ∧ standingBy.power.tripped = false ∧ standingBy.power.latchedOpen = false
        ∧ standingBy.pins.relRdy = false)
      ∧ ({ standingBy with pins := { standingBy.pins with relRdy := true } }).pins.relRdy = true
      ∧ (on.power.switchClosed = true ∧ on.power.good = true ∧ on.power.scribe = true ∧ on.power.aux = true ∧ (on.sensor 160).alerted = false)
      ∧ (holdingUp.power.holdup = some 1 ∧ 1 = holdingUp.scr.logQueue.length ∧ holdingUp.scr.logQueue.length ≤ 64 ∧ holdingUp.scr.gap = 0 ∧ holdingUp.flashFails = false)
      ∧ (11 : Nat) < 12 := by decide +kernel
theorem wit_SuppliesComeAndGo_2 :
    let s := { training with boot := { group.boot with phase := 12, life := .operational }, links := [] }
    s.live = true ∧ 10 ≤ s.boot.phase.toNat ∧ s.boot.life ≠ .blank ∧ s.boot.life ≠ .retired ∧ (s.linkEntry (8 * 0 + 1)).isSome = true
      ∧ (s.link (8 * 0 + 1)).st = .disabled ∧ s.coll.steps = [] := by decide +kernel

theorem test_standby : after (exec .standby { standingBy with power := { standingBy.power with standby := false } }) (fun t => t.power.standby) = true := by
  decide +kernel
theorem test_ramp : after (exec (.hotswapRampStart false) standingBy) (fun t => t.power.switchClosed) = true
    ∧ after (exec (.hotswapRampStart false) { standingBy with power := { standingBy.power with latchedOpen := true } }) (fun t => !t.power.switchClosed) = true := by
  decide +kernel
/-- R491, R492: an undervoltage opens the switch for good, and the loss of main power alerts for sensor 160. -/
theorem test_protection : after (exec (.inputProtection .underVoltage) on) (fun t =>
    !t.power.switchClosed && t.power.latchedOpen && t.power.standby && t.scr.latch = 0x20 && t.scr.logQueue.map (·.type) = [0x20]) = true := by decide +kernel
theorem test_mate_loop : after (exec .mateLoopOpen on) (fun t => !t.power.mate && !t.power.good) = true := by decide +kernel
theorem test_power_good_end : after (exec (.powerGoodEnd .ref100) on) (fun t => !t.power.ref100 && !t.power.vio) = true := by decide +kernel
theorem test_aux_loss : after (exec .auxSupplyLoss on) (fun t => !t.power.aux && t.power.holdup = some 1) = true := by decide +kernel
theorem test_holdup_end : after (exec .auxHoldupEnd holdingUp) (fun t => !t.power.scribe && t.flash0.entries.length = 1 && t.scr.logHead = 6) = true := by
  decide +kernel
theorem test_cable : after (exec (.cablePresenceChange 1 false) group) (fun t => (t.link 8).st = .disabled && (t.link 0).st = .up) = true := by decide +kernel

/-! ### Sensors, throttling and log -/

/-- Sensor 37 reads 100.25 °C, its THROTTLE value being 100 °C. -/
def hotDie (s : State) : State := { s with scr := { s.scr with sensors := [(37, { value := 401#16, missed := 0, alerted := true })] } }
/-- Every reading is cool, and has been for 1 s on rung 2. -/
def cooledDown : State := { on with scr := { Scribe.reset with throttle := { Throttle.reset with rung := 2, coolMs := 1000, sinceUpMs := 999 } } }
/-- R449's example: BASE_CLOCK 18, stroke 3,000, BASE_PERIOD 470,000 ns. -/
def qkvJob : Job := { someJob with stroke := 3000, desc := { someJob.desc with strokes := 9000, basePeriod := 470000 } }
def flowState (p : Nat) : State :=
  { on with scr := { Scribe.reset with sensors := [(157, { value := 100#16, missed := 0, alerted := false })], flowSum := p * 10000, flowCount := 1 } }

theorem wit_SensorsAlertThrottleAndTrip_1 :
    on.power.scribe = true ∧ sensorExists 37 = true ∧ (439#16).toInt < 440 ∧ tripValue 37 = some 440 ∧ (440 : Int) ≤ (440#16).toInt
      ∧ on.power.tripped = false ∧ (on.threshold (thresholdRow 37)).1 = some 380 ∧ (380 : Int) ≤ (380#16).toInt ∧ (on.sensor 37).alerted = false
      ∧ ((hotDie on).sensor 37).alerted = true ∧ (on.sensor 37).missed < 2 ∧ (on.sensor 37).value.toInt < 440
      ∧ (let s := { on with scr := { Scribe.reset with sensors := [(37, { value := 0#16, missed := 2, alerted := false })] } }
         2 ≤ (s.sensor 37).missed ∧ (s.sensor 37).missed = 2) := by decide +kernel
theorem wit_SensorsAlertThrottleAndTrip_2 :
    ((flowState 2000).power.scribe = true ∧ (flowState 2000).reading 156 = some 0 ∧ (flowState 2000).reading 157 = some 100 ∧ (0 : Int) < 100
      ∧ ((flowState 2000).threshold 7).1 = some 400 ∧ (flowState 2000).scr.flowCount ≠ 0 ∧ ({ on with scr := Scribe.reset }).scr.flowCount = 0
      ∧ 10000000 * (flowState 2000).scr.flowCount < (flowState 2000).scr.flowSum
      ∧ 24000 * (flowState 2000).scr.flowSum < 400 * (3978 * 10000 * (flowState 2000).scr.flowCount * (100 - 0))
      ∧ (flowState 2000).scr.flowAlerted = false ∧ (flowState 1000).scr.flowSum ≤ 10000000 * (flowState 1000).scr.flowCount)
    ∧ ((hotDie on).live = true ∧ (hotDie on).strk.run = none ∧ (hotDie on).throttleCause ≠ 0 ∧ (hotDie on).scr.throttle.downPending = none
      ∧ (hotDie on).scr.throttle.downMs ≤ 1 ∧ (hotDie on).scr.throttle.rung < 13)
    ∧ (cooledDown.throttleCause = 0 ∧ cooledDown.stepUpOk = true ∧ 1000 ≤ cooledDown.scr.throttle.coolMs ∧ 999 ≤ cooledDown.scr.throttle.sinceUpMs
      ∧ 0 < cooledDown.scr.throttle.rung ∧ cooledDown.scr.throttle.rung ≤ 13)
    ∧ ((hotDie groupBusy).throttleCause ≠ 0 ∧ (hotDie groupBusy).scr.throttle.downPending = none ∧ 9 ≤ someJob.desc.baseClock
      ∧ (hotDie groupBusy).scr.throttle.rung < lowestRung someJob.desc.baseClock ∧ (hotDie groupBusy).scr.throttle.hostReq = none) := by decide +kernel
theorem wit_SensorsAlertThrottleAndTrip_3 : running (hotDie groupBusy) someJob := by unfold running; decide +kernel

theorem test_sample_alert : after (exec (.sensorSample 37 (some 380)) on) (fun t =>
    (t.sensor 37).alerted && t.scr.alert.flags = 1 && t.scr.latch = 1 && t.scr.teleU.alerts = 1) = true := by decide +kernel
theorem test_sample_trip : after (exec (.sensorSample 37 (some 440)) on) (fun t => t.pins.thermtrip && !t.power.vcore && t.scr.trips = 1) = true := by decide +kernel
/-- R444: 2,000 W and a rise of 25 K give 2.40 · 2,000 ÷ (39.78 · 25) = 120 units of 0.01 L/min; a second without a power sample gives no estimate. -/
theorem test_flow : after (exec .flowEstimate (flowState 2000)) (fun t => t.scr.teleM.flowMin = 120 && t.scr.alert.flags = 8) = true
    ∧ after (exec .flowEstimate { flowState 0 with scr := { (flowState 0).scr with flowCount := 0 } }) (fun t => t.scr.teleM.flowMin = 0xFFFF) = true := by decide +kernel
/-- The example of R449: RATE(3,002, 17, 64). -/
theorem test_throttle : after (exec .throttleEvaluation (withJob (hotDie groupBusy) qkvJob)) (fun t =>
    t.scr.throttle.downPending = some 3002 && t.scr.throttle.rung = 1 && t.scr.alert.flags = 2
      && t.strk.run.map (·.rates) = some [{ rank := 0, stroke := 3002, clock := 17, factor := 64 }]) = true := by decide +kernel
theorem test_step_up : after (exec .throttleEvaluation cooledDown) (fun t => t.scr.throttle.rung = 1 && t.strk.clock = 17) = true := by decide +kernel

def logging : State := { on with scr := { Scribe.reset with logQueue := [{ (default : LogEntry) with type := 0x20 }] } }
theorem wit_LogEntriesGoToBothCopies :
    logging.power.scribe = true ∧ logging.scr.logHead < logPositions ∧ logging.flashFails = false ∧ roomAt logging 0 ∧ roomAt logging 1
      ∧ logging.scr.logHead = 0 ∧ (0 + 1) % logPositions = 1 ∧ logging.scr.gap = 0 ∧ logging.scr.logQueue = [{ (default : LogEntry) with type := 0x20 }]
      ∧ (logging.countEntry 0x00FF).2 < 16
      ∧ (let s := { logging with scr := { logging.scr with gap := 2, typeCount := [(0x00FF, 16)] } }
         s.scr.gap ≠ 0 ∧ 16 ≤ (s.countEntry 0x00FF).2)
      ∧ (let f : Flash := { Flash.erased with log := [(0, .torn)] }
         let s := { logging with flash0 := f, power := { on.power with holdup := some 1 } }
         roomAt s 0 ∧ s.power.holdup ≠ none)
      ∧ (let f : Flash := { Flash.erased with log := [(0, .whole { (default : LogEntry) with seq := 6 })] }
         let s := { logging with flash0 := f }
         s.flash0.entries ++ s.flash1.entries = [{ (default : LogEntry) with seq := 6 }]) := by unfold roomAt; decide +kernel
/-- R452: the sector ahead is erased once fewer than 65 positions are left. -/
theorem test_sector_ahead :
    let f : Flash := { Flash.erased with log := [(959, .whole { (default : LogEntry) with seq := 6 }), (1024, .whole { (default : LogEntry) with seq := 3 })] }
    after (exec .logEntryWrite { logging with flash0 := f, flash1 := f, scr := { logging.scr with logHead := 960 } }) (fun t =>
      t.scr.logHead = 961 && t.flash0.entries.map (·.seq) = [6, 7] && t.flash1.entries.length = 2) = true := by decide +kernel
theorem test_log_write : after (exec .logEntryWrite logging) (fun t =>
    t.flash0.entries.map (fun e => (e.seq, e.type)) = [(1, 0x20)] && t.flash1.entries.length = 1 && t.scr.logQueue = []) = true := by decide +kernel

/-! ### Scribe: commands and channels -/

theorem wit_RefusedCommandsHaveNoEffect :
    (let s := sent .blank 0x30 []
     rowOp .loanOffer = some 0x30 ∧ s.power.scribe = true ∧ s.scr.queue = [askCmd .mailbox 0x30 []] ∧ s.cmdRefusal (askCmd .mailbox 0x30 []) = some 3
       ∧ s.scr.released = false ∧ s.power.standby = false ∧ s.boot.code ≠ 0x10 ∧ s.boot.code ≠ 0x11
       ∧ (cmdTable.all fun r => r.1 ≠ 0x30 || r.2.1 / 2 ^ lifeNum s.boot.life % 2 = 0) = true)
    ∧ (let s := { sent .operational 0x43 [] with scr := { (sent .operational 0x43 []).scr with released := true } }
       s.scr.released = true ∧ 4 < 0x43 ∧ rowOp .rate = some 0x43)
    ∧ (let s := { sent .operational 0x14 [] with mir := { Mir.reset with st := .holding } }
       cmdInLife 0x14 (lifeNum s.boot.life) = true ∧ s.mir.st = .holding ∧ s.boot.code ≠ 0x10 ∧ s.boot.code ≠ 0x11)
    ∧ (let s := { sent .operational 0x13 [] with boot := { (sent .operational 0x13 []).boot with code := 0x10 } }
       s.boot.code = 0x10 ∧ 0x13 ∉ [0x01, 0x02, 0x03, 0x04, 0x14, 0x40] ∧ 0x12 < 0x13)
    ∧ (let s := { sent .operational 0x20 [] with boot := { (sent .operational 0x20 []).boot with code := 0x11 }, mir := { Mir.reset with releaseStep := 6 } }
       s.boot.code = 0x11 ∧ s.mir.releaseStep ≠ 0 ∧ s.scr.released = false ∧ s.power.standby = false)
    ∧ (let s := { hotDie standingBy with power := { standingBy.power with tripped := true } }
       s.scr.released = false ∧ s.power.standby = true ∧ s.power.tripped = true ∧ s.cooled = false) := by decide +kernel
theorem test_refused : after (exec .loanOffer (sent .blank 0x30 [])) (fun t => t.scr.finish.map (·.status) = some 3 && t.scr.queue = []) = true := by
  decide +kernel
theorem test_reset_tripped : after (exec (.reset noEnv)
    { asked1 (hotDie standingBy) (askCmd .uart 0x14 []) with power := { standingBy.power with tripped := true } }) (fun t =>
    t.power.tripped && t.scr.uart = asciiErr 9 ++ asciiPrompt) = true := by decide +kernel

theorem wit_QuestionsAreAnswered :
    runs (sent .operational 0x01 []) 0x01 (askCmd .mailbox 0x01 []) [] ∧ runs (sent .operational 0x02 [100, 84]) 0x02 (askCmd .mailbox 0x02 [100, 84]) []
      ∧ runs (sent .operational 0x03 [0, 1024]) 0x03 (askCmd .mailbox 0x03 [0, 1024]) [] ∧ runs (sent .operational 0x04 []) 0x04 (askCmd .mailbox 0x04 []) []
      ∧ runs (sent .operational 0x05 []) 0x05 (askCmd .mailbox 0x05 []) []
      ∧ runs (sent .operational 0x06 [126976, 4096]) 0x06 (askCmd .mailbox 0x06 [126976, 4096]) [] ∧ 126976 + 4096 ≤ 131072
      ∧ runs (sent .operational 0x07 [1, 1]) 0x07 (askCmd .mailbox 0x07 [1, 1]) []
      ∧ runs (sent .operational 0x02 [101, 84]) 0x02 (askCmd .mailbox 0x02 [101, 84]) [] ∧ 184 < 101 + 84 ∧ rowOp .sensors = some 0x02 := by
  unfold runs; decide +kernel
/-- The result of the command: status, words and data. -/
def result (o : Out State) (status : Nat) (res : List Word) (data : List Byte) : Bool :=
  after o fun t => t.scr.finish.map (fun d => (d.status, d.res, d.data)) = some (status, res, data)
theorem test_identify : after (exec .identify (sent .operational 0x01 [])) (fun t => t.scr.finish.map (fun d => d.res.length) = some 6) = true := by decide +kernel
/-- R443: ID 158 is not assigned, and reads 0x8001. -/
theorem test_sensors : result (exec .sensors (asked1 (hotDie (provisioned .operational)) (askCmd .mailbox 0x02 [37, 1]))) 0 [] [0x91#8, 1#8] = true
    ∧ result (exec .sensors (sent .operational 0x02 [158, 1])) 0 [] [1#8, 0x80#8] = true
    ∧ result (exec .sensors (sent .operational 0x02 [158, 27])) 2 [] [] = true := by decide +kernel
theorem test_log_read : after (exec .logRead { sent .operational 0x03 [0, 5] with
      flash0 := { Flash.erased with log := [(0, .whole { (default : LogEntry) with seq := 6 })] } }) (fun t =>
    t.scr.finish.map (fun d => (d.res, d.data.length)) = some ([1#32, 6#32], 64)) = true := by decide +kernel
theorem test_telemetry : after (exec .telemetry (sent .operational 0x04 [])) (fun t => t.scr.finish.map (fun d => d.data.length) = some 64) = true := by
  decide +kernel
theorem test_map_image : result (exec .mapImage { sent .operational 0x05 [] with units := { on.units with map0 := [0x1FF#16], map1 := [3#16] } }) 0 []
    [0xFF#8, 1#8, 3#8, 0#8] = true := by decide +kernel
/-- R230: the entry of T3 index 73,728 has KIND 0x3. -/
theorem test_pmap_read : result (exec .pmapRead (sent .operational 0x06 [73728, 1])) 0 [] (3#8 :: List.replicate 15 0#8) = true := by decide +kernel
/-- R184: TAIL, bits 95 to 84, reads 0xFFF in a FREE entry. -/
theorem test_kvt_read : result (exec .kvtRead (sent .operational 0x07 [9, 1])) 0 [] (leBytes 16 (0xFFF * 2 ^ 84)) = true := by decide +kernel

def inGroup (s : State) (op : Nat) (args : List Word) (words : List Nat) : State :=
  { s with
    boot := { s.boot with life := .operational }
    scr := { Scribe.reset with queue := [askCmd .mailbox op args], mbx := { Mbx.reset with data := putData [] 0 (words.flatMap (leBytes 4)) } } }
def offered1 (s : State) : State := { s with loan := { s.loan with offersIn := [{ rank := 1, pages := 1, notice := 4, share := 4 }] } }

theorem wit_LoanCommandsMoveTheTables_1 :
    (let s := inGroup lender 0x30 [1, 2, 255, 16] []
     let c := askCmd .mailbox 0x30 [1, 2, 255, 16]
     s.routePair (c.arg 0) = [0, 1] ∧ runs s 0x30 c [] ∧ s.others.contains (c.arg 0) = true ∧ c.arg 1 ≤ s.lendable.length ∧ c.arg 2 ≤ 255 ∧ c.arg 3 ≤ 16)
    ∧ (let s := offered1 (inGroup group 0x31 [1, 1, 255] [73728, 0, 73727, 65535])
       let c := askCmd .mailbox 0x31 [1, 1, 255]
       s.routePair (c.arg 0) = [0, 1] ∧ runs s 0x31 c [] ∧ s.strk.run = none ∧ s.askedPage 0 = { t3 := 73728, homeRank := 0, homePage := 73727, homeTag := 65535 }
         ∧ s.askable (s.askedPage 0) = true ∧ s.loan.offersIn.find? (fun o => o.rank = c.arg 0) = some { rank := 1, pages := 1, notice := 4, share := 4 }
         ∧ 4 ≤ c.arg 2 ∧ (s.askedPage 0).homeRank = s.grp.rank.toNat ∧ s.canPin (s.askedPage 0).homePage = true ∧ (s.page 73728).kind ≠ 2)
    ∧ (let s := inGroup group 0x31 [1, 1, 4] []
       runs s 0x31 (askCmd .mailbox 0x31 [1, 1, 4]) [] ∧ s.loan.offersIn.find? (fun o => o.rank = 1) = none) := by unfold runs; decide +kernel
theorem wit_LoanCommandsMoveTheTables_2 :
    (let s := inGroup (lent false) 0x32 [1, 2] [73730]
     let c := askCmd .mailbox 0x32 [1, 2]
     s.routePair (c.arg 0) = [0, 1] ∧ runs s 0x32 c [] ∧ (s.loansOf (c.arg 0) [73730]).length = 1)
    ∧ (let s := inGroup (borrower 2 0) 0x33 [1] [73730]
       runs s 0x33 (askCmd .mailbox 0x33 [1]) [] ∧ s.strk.run = none ∧ s.pmapPending = [] ∧ borrows s 1 73730)
    ∧ (let s := inGroup group 0x34 [73727, 1, 1] []
       let c := askCmd .mailbox 0x34 [73727, 1, 1]
       runs s 0x34 c [] ∧ c.arg 0 + c.arg 1 ≤ 73728 ∧ (s.page 73727).pinned = false ∧ (s.page 73727).lent = false
         ∧ s.boot.config.lendable.contains 73727 = false) := by unfold runs borrows; decide +kernel
theorem wit_LoanCommandsMoveTheTables_3 (s : State) (h : s.scr.mbx.data = putData [] 0 (leBytes 4 73730)) : s.mbxIndices = [73730] := by
  have e : (List.range 16384).map s.mbxWord = 73730 :: 0 :: (List.range 16382).map fun i => s.mbxWord (i + 2) := by
    rw [List.range_succ_eq_map, List.range_succ_eq_map]
    simp only [List.map_cons, List.map_map]
    have a : s.mbxWord 0 = 73730 := by simp only [State.mbxWord, Mbx.dataWord, h]; decide +kernel
    have b : s.mbxWord (Nat.succ 0) = 0 := by simp only [State.mbxWord, Mbx.dataWord, h]; decide +kernel
    rw [a, b]; rfl
  unfold State.mbxIndices
  rw [e]; rfl
theorem test_loan_offer : after (exec .loanOffer (inGroup lender 0x30 [1, 2, 255, 16] [])) (fun t =>
    t.scr.finish.map (·.status) = some 0 && t.loan.share = 16 && (t.link 0).vc3.length = 1) = true := by decide +kernel
theorem test_loan_request : after (exec .loanRequest (offered1 (inGroup group 0x31 [1, 1, 255] [73728, 0, 73727, 65535]))) (fun t =>
    (t.page 73728).state = 1 && (t.page 73728).kind = 2 && (t.page 73728).homePage.toNat = 73727 && (t.page 73727).pinned && t.scr.wait.length = 1) = true := by
  decide +kernel
theorem test_page_kind : after (exec .pageKind { inGroup group 0x34 [73727, 1, 1] [] with mem := memOf [(t2At 73726 0, [1#8]), (t2At 73727 0, [2#8])] }) (fun t =>
    (t.page 73727).kind = 1 && t.mem = memOf [(t2At 73726 0, [1#8])]) = true := by decide +kernel

theorem wit_ServiceCommandsTakeEffect_1 :
    runs (asked1 standingBy (askCmd .uart 0x40 [])) 0x40 (askCmd .uart 0x40 []) [] ∧ standingBy.power.standby = true
      ∧ (let s := sent .operational 0x40 []
         runs s 0x40 (askCmd .mailbox 0x40 []) [] ∧ s.power.standby = false ∧ s.boot.life ≠ .retired ∧ s.mir.releaseStep = 0 ∧ s.live = true)
      ∧ (let s := { inGroup group 0x41 [65535] [] with mir := { Mir.reset with st := .lost } }
         runs s 0x41 (askCmd .mailbox 0x41 [65535]) [] ∧ s.partner = some 1 ∧ s.mir.st ≠ .none ∧ s.upBundle = [8, 9])
      ∧ runs (sent .operational 0x42 []) 0x42 (askCmd .mailbox 0x42 []) []
      ∧ runs (sent .operational 0x43 [9, 4096]) 0x43 (askCmd .mailbox 0x43 [9, 4096]) []
      ∧ runs (sent .operational 0x44 [5, 0, 0xFFFFFFFF]) 0x44 (askCmd .mailbox 0x44 [5, 0, 0xFFFFFFFF]) []
      ∧ runs (sent .operational 0x44 [8, 0, 0]) 0x44 (askCmd .mailbox 0x44 [8, 0, 0]) [] ∧ runs (sent .operational 0x44 [7, 0, 0]) 0x44 (askCmd .mailbox 0x44 [7, 0, 0]) []
      ∧ (tableThreshold 7).1 = some 400 ∧ (tableThreshold 5).1 = none ∧ (tableThreshold 5).2 = some 4200 ∧ (tableThreshold 0).1 = some 380 := by unfold runs; decide +kernel
def finished : State := { on with scr := { Scribe.reset with finish := some { req := askCmd .mailbox 0x05 [], status := 0, res := [7], data := [1#8, 2#8] } } }
def unanswered (op : Nat) : State := { on with mir := { Mir.reset with st := .restoring, prior := .lost, restoreEpoch := some 3 },
                                               scr := { Scribe.reset with wait := [askCmd .mailbox op []], mbx := { Mbx.reset with busy := true } } }
theorem wit_ServiceCommandsTakeEffect_2 :
    finished.power.scribe = true ∧ finished.scr.finish.isSome = true ∧ (unanswered 0x31).scr.finish = none
      ∧ (unanswered 0x31).scr.wait = [askCmd .mailbox 0x31 []] ∧ (unanswered 0x41).scr.wait = [askCmd .mailbox 0x41 []]
      ∧ (let s := withJob (inGroup groupBusy 0x43 [9, 64] []) someJob
         after (exec .rate s) (fun t => t.combinedRate ≠ s.combinedRate && decide (t.combinedRate.1 < s.combinedRate.1)) = true)
      ∧ (let s := sent .operational 0x43 [9, 64]
         s.strk.run = none ∧ after (exec .rate s) (fun t => t.combinedRate ≠ s.combinedRate) = true) := by decide +kernel
theorem test_release : after (exec .release (sent .operational 0x40 [])) (fun t => t.scr.released && t.mir.st = .leaving && t.scr.wait.length = 1) = true := by
  decide +kernel
theorem test_restore : after (exec .restore { inGroup group 0x41 [65535] [] with mir := { Mir.reset with st := .lost } }) (fun t =>
    t.mir.st = .restoring && t.mir.prior = .lost && (t.link 8).vc3.length = 1) = true := by decide +kernel
theorem test_discard : after (exec .discardImage { sent .operational 0x42 [] with mir := { Mir.reset with st := .holding, imageEpoch := 5 } }) (fun t =>
    t.mir.st = .lost && t.mir.imageEpoch = 0) = true := by decide +kernel
theorem test_rate_command : after (exec .rate (sent .operational 0x43 [16, 64])) (fun t => t.strk.clock = 16 && t.scr.alert.flags = 2) = true := by decide +kernel
/-- R445: 90 °C is taken for die sensors, 110 °C is held at the table's 100 °C; the flow's ALERT value, 4.0 L/min, can be lowered to 3.5. -/
theorem test_threshold : after (exec .threshold (sent .operational 0x44 [0, 360, 440])) (fun t => t.threshold 0 = (some 360, some 400)) = true
    ∧ after (exec .threshold (sent .operational 0x44 [7, 350, 0])) (fun t => (t.threshold 7).1 = some 350) = true := by decide +kernel
theorem test_completion : after (exec .mailboxCompletion finished) (fun t =>
    t.scr.mbx.res.headD 0#32 = 7 && t.scr.mbx.evt.flags = 1 && t.mbxBytes 0 3 = [1#8, 2#8, 0#8] && t.pcieOut = []) = true := by decide +kernel
theorem test_peer : after (exec .mailboxCompletion (unanswered 0x41)) (fun t => t.scr.mbx.status = 7 && t.mir.st = .lost) = true := by decide +kernel

theorem wit_ChannelsTakeCommandsAndSendResults :
    on.power.scribe = true ∧ on.power.standby = false ∧ (['r', 'a', 't', 'e'], 0x43) ∈ cmdNames ∧ cmdAccepted 0x02 .uart = true
      ∧ (['s', 'e', 'n', 's', 'o', 'r', 's'], 0x02) ∈ cmdNames ∧ wordsOf [] (ascii ['x', ' ', '1']) = [ascii ['x'], ascii ['1']]
      ∧ (cmdNames.all fun x => ascii x.1 ≠ ascii ['x']) = true ∧ cmdAccepted 0x01 .smbus = true ∧ cmdAccepted 0x43 .smbus = false
      ∧ (0#8 : Byte) ≠ pecOf ([0xB4#8, 0x10#8, BitVec.ofNat 8 2] ++ [1#8, 0#8])
      ∧ ({ on with scr := { Scribe.reset with latch := 1 } }).scr.latch ≠ 0 := by decide +kernel
theorem test_monitor : after (exec (.monitorLine (ascii ['s', 'e', 'n', 's', 'o', 'r', 's', ' ', '2', '5', ' ', '1'])) on) (fun t =>
    t.scr.queue = [{ askCmd .uart 0x02 [0x25, 1] with tag := 0 }]) = true := by decide +kernel
theorem test_monitor_unknown : after (exec (.monitorLine (ascii ['x'])) on) (fun t =>
    t.scr.uart = ascii ['x', '\n', 'e', 'r', 'r', ' ', '0', '1', '\n', 'o', 'z', '3', '>', ' ']) = true := by decide +kernel
theorem test_smb_status : after (exec .smbStatus (provisioned .operational)) (fun t => t.rdata = 5 && t.rbytes.length = 3) = true := by decide +kernel
theorem test_smb_temperatures : after (exec .smbTemperatures on) (fun t => t.rbytes.headD 0#8 = 10#8) = true := by decide +kernel
theorem test_smb_power : after (exec .smbPower on) (fun t => t.rbytes.headD 0#8 = 6#8) = true := by decide +kernel
theorem test_smb_identity : after (exec .smbIdentity on) (fun t => t.rbytes.length = 18) = true := by decide +kernel
theorem test_alert_cause : after (exec .alertCause { on with scr := { Scribe.reset with latch := 1 } }) (fun t => t.rdata = 1 && t.scr.latch = 0) = true := by
  decide +kernel
theorem test_smb_command : after (exec (.smbCommandWrite [1#8, 0#8] none) on) (fun t => t.scr.queue.map (·.op) = [1] && t.scr.smb.status = 0xFF) = true
    ∧ after (exec (.smbCommandWrite [1#8, 0#8] (some 0#8)) on) (fun t => t.scr.queue = []) = true := by decide +kernel
theorem test_smb_results : after (exec .smbResultRead { on with scr := { Scribe.reset with smb := { status := 0, result := List.replicate 40 9#8, pos := 0 } } }) (fun t =>
    t.rbytes.length = 34 && after (exec .smbResultNext t) fun u => u.rbytes.length = 11 && u.scr.smb.pos = 40) = true := by decide +kernel
theorem test_ara : after (exec .alertResponseAddress { on with scr := { Scribe.reset with latch := 1 } }) (fun t => t.rbytes.headD 0#8 = 0xB4#8) = true := by
  decide +kernel
/-- The SMBus CRC-8 of the ASCII digits 1 to 9 is 0xF4. -/
theorem test_pec : pecOf (ascii ['1', '2', '3', '4', '5', '6', '7', '8', '9']) = 0xF4#8 := by decide +kernel

/-! ### Registers -/

theorem wit_RegistersReadAndClearAsTyped :
    flagAt (on.target 0x30F0004) = some (.stack 7) ∧ (FlagReg.stack 7).count = 2 ∧ (on.counterAt (on.target 0x30F0008)).isSome = true
      ∧ countAt (on.target 0x30F0008) = some (.stack 7, 0) ∧ 0x30F0008 % 4 = 0 ∧ (on.counterAt (on.target 0x1130)).isSome = true ∧ countAt (on.target 0x1130) = none
      ∧ inMsix (blockOf 0x30F0008) = false
      ∧ Requester.pcie ≠ Requester.scribe ∧ pairAt on 0x100 ∧ highOfPair (on.target 0x104) = true ∧ on.latches = []
      ∧ ({ on with host := { on.host with msixOpen := [144] } }).host.msixOpen.contains 144 = true ∧ on.power.vio = true
      ∧ ({ on with host := { on.host with msixOpen := [144], msixMerged := [144] } }).host.msixMerged.contains 144 = true ∧ on.host.quiesced = false
      ∧ (sget (fun _ => MsixEntry.reset) on.host.msixTable 144).control.getLsbD 0 = true
      ∧ (let s := { on with host := { on.host with msixTable := [(144, { MsixEntry.reset with control := 0 })] } }
         (sget (fun _ => MsixEntry.reset) s.host.msixTable 144).control.getLsbD 0 = false) := by
  unfold pairAt; decide +kernel

/-- The example of R24: nib 2,345 is nib block 0x929 and quill 293 is quill block 0x125. -/
theorem test_blocks : blockOf 0x01929000 = .nib 0x929 0 ∧ blockOf 0x02049400 = .quill 0x125 0 := by decide +kernel
/-- The example of R474: stack 7, page 1,234, line 56,789. -/
theorem test_patrol : after (exec (.patrolScrub 7 1234 56789 .uncorrectable) on) (fun t =>
    t.readPlain (t.target 0x030F0014) = 0x1348DDD5#32 && t.readPlain (t.target 0xB0) = 0x80#32 && t.readPlain (t.target 0x10) = 8#32) = true := by decide +kernel
/-- Step 6 and 7 of it: UE is set in the cycle of the write, and the counter reads 2. -/
theorem test_w1c : after (exec (.w1cClear 0x30F0004 1 1) { on with stackRegs := [(7, { Stack.reset with err := Events.none.raise 0 })] }) (fun t =>
    (t.stack 7).err.flags = 1 && after (exec (.rcRead { offset := 0x30F0008, width := 4 } 0) t) fun u => u.rdata = 2 && (u.stack 7).err.count 0 = 0) = true := by decide +kernel
/-- R465: the high word is that of the moment of the low word's read. -/
theorem test_pair : after (exec (.lowWordRead .pcie 0x100) { on with gtc := { on.gtc with now := 0x2FFFFFFFF } }) (fun t =>
    t.rdata = 0xFFFFFFFF && after (exec (.highWordRead .pcie 0x104) { t with gtc := { t.gtc with now := 0x300000000 } }) fun u => u.rdata = 2 && u.latches = []) = true := by
  decide +kernel
/-- R435: a merged message of a masked vector becomes its pending bit. -/
theorem test_interval : after (exec (.msixIntervalEnd 144) { on with host := { on.host with msixOpen := [144], msixMerged := [144] } }) (fun t =>
    t.host.msixMerged = [] && t.host.msixOpen = [] && sget (fun _ => false) t.host.msixPba 144) = true := by decide +kernel
theorem test_read_hole : after (exec (.rcRead { offset := 0x31FFFFC, width := 4 } 7) on) (fun t => t.rdata = 0) = true := by decide +kernel

theorem wit_RegisterWritesReachTheirRegister :
    (2 : Nat) ^ 32 - 1 < 2 ^ 32 ∧ on.target 0x31FFFFC = .hole ∧ on.target 2 = .hole ∧ flagAt (on.target 0x1508) = some .host ∧ on.ringOpen 63 = true
      ∧ on.power.vio = true ∧ on.live = true ∧ on.ready = true ∧ on.scr.mbx.busy = false ∧ (unanswered 0x31).scr.mbx.busy = true
      ∧ cmdAccepted (0x30044 % 65536) .mailbox = true ∧ cmdAccepted (0x99 % 65536) .mailbox = false := by decide +kernel
theorem test_write_command : after (exec (.registerWrite 0x40000 4 0x030044) on) (fun t =>
    t.scr.mbx.busy && t.scr.queue.map (fun c => (c.op, c.tag)) = [(0x44, 3)]) = true := by decide +kernel
theorem test_write_bar2 : after (exec (.glbBar2MapWrite 4095 0x80011FFF) on) (fun t => sget (fun _ => 0#32) t.host.bar2 4095 = 0x80011FFF#32) = true
    ∧ after (exec (.glbBar2MapWrite 0 0x80012000) on) (fun t => sget (fun _ => 0#32) t.host.bar2 0 = 0x12000#32 && t.host.evt.flags = 8) = true := by decide +kernel
theorem test_blotctl : after (exec (.wellBlotctlWrite 1 0x21F) on) (fun t => (t.well 1).blotK = 20 && !(t.well 1).blotEn && (t.well 1).blotAct) = true := by
  decide +kernel
theorem test_blottol : after (exec (.wellBlottolWrite 1 0xFF00) on) (fun t => (t.well 1).blotRel = 8 && (t.well 1).blotAbs = 149) = true := by decide +kernel

/-! ### The machine -/

theorem wit_StepRunsTheFrontCommand : on.pending = [] ∧ on.power.good = true ∧ on.power.vio = true ∧ on.gtc.slewPpm = 0 ∧ on.gtc.slewAcc = 0 := by decide +kernel
theorem wit_StepsKeepMemoryCanonical :
    Memory.wf State.reset.mem = true
      ∧ ∃ t, step { on with pending := [.vadd 0 .f32 3 (.reg 1) (.reg 2)] } = .next t ∧ t.pending = [] := by
  refine ⟨by decide, _, rfl, ?_⟩
  decide +kernel
theorem wit_FusesAreNeverUnblown :
    let s := { on with fuses := { Fuses.reset with prov := true, ret := true }, pending := [.flr] }
    (∃ t, step s = .next t) ∧ s.fuses.prov = true ∧ s.fuses.ret = true := ⟨⟨_, rfl⟩, rfl, rfl⟩

/-! ### Worked examples of the spec -/

/-- R65's table of the two-digit split. -/
theorem test_digits : int8Digits 127 = (7, 15) ∧ int8Digits 100 = (6, 4) ∧ int8Digits 255 = (15, 15) ∧ int8Digits 156 = (9, 12) ∧ int8Digits 128 = (8, 0) := by
  decide
/-- Block 0 of the worked packed line, in units of 1/160,000. -/
def block0 : List FV :=
  [800000, -208000, 64000, 350000, -32000, 0, 496000, -105000, -700000, 144000, 280000, -448000, 35000, 176000, -80000, 416000,
   0, -16000, 640000, 224000, -624000, 112000, -160000, 48000, 304000, -128000, 8000, -800000, 352000, -256000, 96000, -56000].map
    fun (n : Int) => FV.ofRat false ((n : Rat) / 160000)
theorem test_quantise : quantChosen 1 1 none block0 = { blk := { scale := 0x76, codes :=
    [7, 0xB, 1, 4, 0, 0, 6, 0xA, 0xE, 2, 4, 0xD, 0, 3, 9, 5, 0, 0, 6, 3, 0xE, 2, 0xA, 1, 4, 0xA, 0, 0xF, 5, 0xC, 1, 9] }, flush := 0, sat := 0, poison := 0 } := by
  decide +kernel
/-- The whole line: blocks 1 and 2 are zeros, block 3 holds one code; the check code is 0x6F74_E62D. -/
theorem test_packed_line : packBlocks 1 [(quantChosen 1 1 none block0).blk, { scale := 0, codes := List.replicate 32 0 }, { scale := 0, codes := List.replicate 32 0 },
      { scale := 0xFE, codes := 7 :: List.replicate 31 0 }]
    = [[0xB7#8, 0x41#8, 0#8, 0xA6#8, 0x2E#8, 0xD4#8, 0x30#8, 0x59#8, 0#8, 0x36#8, 0x2E#8, 0x1A#8, 0xA4#8, 0xF0#8, 0xC5#8, 0x91#8] ++ List.replicate 32 0#8
        ++ 7#8 :: List.replicate 15 0#8 ++ [0x76#8, 0#8, 0#8, 0xFE#8, 0x2D#8, 0xE6#8, 0x74#8, 0x6F#8]] := by decide +kernel
theorem test_flush_sat : (quantChosen 1 1 none (FV.ofRat false (3 / 100000) :: List.replicate 31 (FV.ofRat false 0))).flush = 1
    ∧ quantChosen 1 1 none (FV.ofRat false 1000000 :: List.replicate 31 (FV.ofRat false 20000))
      = { blk := { scale := 0xFE, codes := 7 :: List.replicate 31 0 }, flush := 0, sat := 1, poison := 0 } := by decide +kernel
/-- The example of R327: 1.0 + 2^24 + 1.0 in ordered mode, and in fast mode when rank 2 arrives first. -/
theorem test_order : add32 (add32 0x3F800000#32 0x4B800000#32) 0x3F800000#32 = 0x4B800000#32 ∧ add32 (add32 0x3F800000#32 0x3F800000#32) 0x4B800000#32 = 0x4B800001#32 := by
  decide +kernel
/-- The guard example: N = 400,000, and the next frame's budget after an overshoot of 31,208. -/
theorem test_carry : frameBudget { camera with bitrate := 24000000, fpsNum := 60 } 400000 31208 = 368792
    ∧ nextCarry 0 { aFrame with nominal := 400000, budget := 400000, bits := 431208 } = 31208
    ∧ nextCarry 31208 { aFrame with nominal := 400000, budget := 368792, bits := 0 } = 0 := by decide +kernel
/-- The examples of R182 and the pools: 8 heads take 4,112 lines, 56 blocks a page; 48 heads take 24,672, 9 a page. -/
theorem test_slots : slotLines { form := 0, heads := 8, headDim := 128, pages := [], tailPages := [] } = 4112 ∧ pageLines / 4112 = 56
    ∧ slotLines { form := 0, heads := 48, headDim := 128, pages := [], tailPages := [] } = 24672 ∧ pageLines / 24672 = 9 := by decide +kernel

/-- R412: the identification words of an F512. -/
theorem test_config_ids : on.configWord 0 = 0x0E031FD7#32 ∧ on.configWord 8 = 0x120000A1#32 ∧ on.configWord 0x2C = 0x00011FD7#32 := by decide +kernel

end Sys2Proof.Tests
end

section
/-! PROOF. The registers of BAR0 (R12 to R16, R435, R462 to R466): what reads, clearing writes and other writes do, and the statements on them. -/
namespace Sys2Proof.Machine

/-! ### Words -/

theorem toNat_w32 {v : Nat} (h : v < 2 ^ 32) : (w32 v).toNat = v := by
  rw [w32, BitVec.toNat_ofNat, Nat.mod_eq_of_lt h]

theorem getLsbD_w32 (v : Nat) {i : Nat} (h : i < 32) : (w32 v).getLsbD i = v.testBit i := by
  rw [w32, BitVec.getLsbD_ofNat, decide_eq_true h, Bool.true_and]

theorem satAdd_zero (n : Nat) : satAdd 0#32 n = w32 (min n 0xFFFFFFFF) := by simp [satAdd, w32]

/-! ### The flags and counters of one register -/

theorem Events.count_setCount (e : Events) (i j : Nat) (w : Word) : (e.setCount i w).count j = if j = i then w else e.count j :=
  sget_sset_if i j w

theorem Events.count_raise (e : Events) (i j : Nat) : (e.raise i).count j = if j = i then satAdd (e.count i) 1 else e.count j :=
  e.count_setCount i j _

theorem Events.flag_raise (e : Events) (i j : Nat) :
    (e.raise i).flags.getLsbD j = (e.flags.getLsbD j || (decide (j < 8) && decide (i = j))) := by
  simp only [Events.raise, Events.setCount, BitVec.getLsbD_or, BitVec.getLsbD_ofNat, Nat.testBit_two_pow]

/-- Hardware sets the flags of a mask below `n`: all of `Events.raiseMask` at `n = 8`. -/
def Events.raiseBelow (e : Events) (mask : BitVec 8) (n : Nat) : Events :=
  (List.range n).foldl (fun e i => if mask.getLsbD i then e.raise i else e) e

theorem Events.raiseMask_eq (e : Events) (mask : BitVec 8) : e.raiseMask mask = e.raiseBelow mask 8 := rfl

theorem Events.raiseBelow_succ (e : Events) (mask : BitVec 8) (n : Nat) :
    e.raiseBelow mask (n + 1) = if mask.getLsbD n then (e.raiseBelow mask n).raise n else e.raiseBelow mask n := by
  simp [Events.raiseBelow, List.range_succ]

theorem Events.flag_raiseBelow (e : Events) (mask : BitVec 8) (n j : Nat) :
    (e.raiseBelow mask n).flags.getLsbD j = (e.flags.getLsbD j || (decide (j < n) && mask.getLsbD j)) := by
  induction n with
  | zero => simp [Events.raiseBelow]
  | succ n ih =>
    rw [Events.raiseBelow_succ]
    by_cases hj : j = n
    · subst hj
      split
      next hm => rw [Events.flag_raise, ih, hm, decide_eq_true (BitVec.lt_of_getLsbD hm)]; simp
      next hm => simp [ih, hm]
    · have hlt : (j < n + 1) = (j < n) := by simp; omega
      split <;> simp [Events.flag_raise, ih, Ne.symm hj, hlt]

theorem Events.count_raiseBelow (e : Events) (mask : BitVec 8) (n j : Nat) :
    (e.raiseBelow mask n).count j = if j < n ∧ mask.getLsbD j = true then satAdd (e.count j) 1 else e.count j := by
  induction n with
  | zero => simp [Events.raiseBelow]
  | succ n ih =>
    rw [Events.raiseBelow_succ]
    by_cases hj : j = n
    · subst hj
      split
      next hm => simp [Events.count_raise, ih, hm]
      next hm => rw [ih, if_neg fun h => hm h.2, if_neg fun h => hm h.2]
    · have hlt : (j < n + 1) = (j < n) := by simp; omega
      split <;> simp [Events.count_raise, ih, hj, hlt]

theorem FlagReg.count_le (f : FlagReg) : f.count ≤ 8 := by cases f <;> simp [FlagReg.count]

@[simp] theorem State.events_setEvents (s : State) (f : FlagReg) (e : Events) : (s.setEvents f e).events f = e := by
  cases f <;> simp [State.setEvents, State.events]

/-! ### A firing and a register's map -/

/-- A firing changes the endpoint's intervals and pending bits and what it sends, nothing else. -/
theorem State.fire_intervals (s : State) (v : Nat) : ∃ a b c p, s.fire v =
    { s with host := { s.host with msixPba := a, msixOpen := b, msixMerged := c }, pcieOut := p } := by
  unfold State.fire State.deliver
  split_ifs <;> exact ⟨_, _, _, _, rfl⟩

@[simp] theorem State.events_fire (s : State) (v : Nat) (f : FlagReg) : (s.fire v).events f = s.events f := by
  obtain ⟨a, b, c, p, e⟩ := s.fire_intervals v
  rw [e]
  cases f <;> rfl

/-- What decides which register stands at an offset is as it was, and so is memory. -/
structure SameMap (s t : State) : Prop where
  power : t.power = s.power
  boot : t.boot = s.boot
  units : t.units = s.units
  hasCtxs : ∀ p, t.hasCtxs p = s.hasCtxs p
  mem : t.mem = s.mem

theorem SameMap.trans {s t u : State} (h : SameMap s t) (k : SameMap t u) : SameMap s u :=
  ⟨k.power.trans h.power, k.boot.trans h.boot, k.units.trans h.units, fun p => (k.hasCtxs p).trans (h.hasCtxs p), k.mem.trans h.mem⟩

theorem SameMap.live {s t : State} (h : SameMap s t) : t.live = s.live := by simp only [State.live, h.power]

theorem SameMap.quillPresent {s t : State} (h : SameMap s t) (q : Nat) : t.quillPresent q = s.quillPresent q := by
  unfold State.quillPresent State.quillsOf
  rw [h.units]

theorem SameMap.answers {s t : State} (h : SameMap s t) (b : Block) : t.answers b = s.answers b := by
  have hready : t.ready = s.ready := by simp only [State.ready, h.boot]
  cases b <;> simp only [State.answers, State.nibPresent, h.power, h.live, hready, h.quillPresent, h.hasCtxs]

theorem SameMap.target {s t : State} (h : SameMap s t) (a : Nat) : t.target a = s.target a := by
  simp only [State.target, h.answers]

theorem State.sameMap_fire (s : State) (v : Nat) : SameMap s (s.fire v) := by
  obtain ⟨a, b, c, p, e⟩ := s.fire_intervals v
  rw [e]
  exact ⟨rfl, rfl, rfl, fun _ => rfl, rfl⟩

theorem State.sameMap_setEvents (s : State) (f : FlagReg) (e : Events) : SameMap s (s.setEvents f e) := by
  cases f <;> exact ⟨rfl, rfl, rfl, fun _ => rfl, rfl⟩

theorem State.sameMap_noteUe (s : State) (f : FlagReg) (i : Nat) (ue : Nat × Nat) : SameMap s (s.noteUe f i ue) := by
  unfold State.noteUe
  split
  · split <;> exact ⟨rfl, rfl, rfl, fun _ => rfl, rfl⟩
  · exact ⟨rfl, rfl, rfl, fun _ => rfl, rfl⟩

/-- A context that stays as open as it was leaves every pipe its context registers. -/
theorem State.sameMap_setCtx (s : State) {p k : Nat} {c d : Ctx} (hc : s.ctx p k = some c) (hd : d.isOpen = c.isOpen) :
    SameMap s (s.setCtx p k (some d)) := by
  refine ⟨rfl, rfl, rfl, fun p' => ?_, rfl⟩
  unfold State.hasCtxs
  congr 1
  funext k'
  by_cases hk : 32 * p' + k' = 32 * p + k
  · have hold : s.ctx p' k' = some c := by rw [← hc, State.ctx, hk, State.ctx]
    have hnew : (s.setCtx p k (some d)).ctx p' k' = some d := by rw [State.ctx, hk, ← State.ctx, State.setCtx_ctx]
    rw [hnew, hold]
    exact hd
  · rw [State.setCtx_ctx_other _ _ _ _ _ _ hk]

theorem State.sameMap_setWell (s : State) (d : Nat) (x : Well) : SameMap s (s.setWell d x) := ⟨rfl, rfl, rfl, fun _ => rfl, rfl⟩

@[simp] theorem State.well_fire (s : State) (v d : Nat) : (s.fire v).well d = s.well d := by
  obtain ⟨h, p, e⟩ := s.fire_frame v
  rw [e]
  rfl

theorem State.sameMap_spill (s : State) (d n inc : Nat) : SameMap s (s.spill d n inc) := by
  unfold State.spill
  dsimp only
  split
  · exact ⟨rfl, rfl, rfl, fun _ => rfl, rfl⟩
  · split
    · exact ((s.sameMap_setWell d _).trans (State.sameMap_setWell _ d _)).trans (State.sameMap_fire _ 140)
    · exact s.sameMap_setWell d _

/-! ### Flag registers (R14 to R16) -/

theorem State.clearFlags_sameMap_events (s : State) (f : FlagReg) (v hw : BitVec 8) :
    SameMap s (s.clearFlags f v hw) ∧ (s.clearFlags f v hw).events f =
      ((s.events f).clear v).raiseMask (hw &&& BitVec.ofNat 8 (2 ^ f.count - 1)) := by
  unfold State.clearFlags
  refine foldl_keeps (fun t => SameMap s t ∧ t.events f = _) _ _ _ ?_ ⟨s.sameMap_setEvents f _, s.events_setEvents f _⟩
  rintro t i ⟨hm, he⟩
  split
  · exact ⟨hm.trans (t.sameMap_fire _), (t.events_fire _ f).trans he⟩
  · exact ⟨hm, he⟩

theorem getLsbD_flagMask (f : FlagReg) (hw : BitVec 8) {i : Nat} (h : i < f.count) :
    (hw &&& BitVec.ofNat 8 (2 ^ f.count - 1)).getLsbD i = hw.getLsbD i := by
  have := f.count_le
  simp [BitVec.getLsbD_ofNat, Nat.testBit_two_pow_sub_one, h, show i < 8 by omega]

/-- R15: the flag that hardware sets in the cycle of its clearing write ends the cycle set. -/
theorem State.flag_clearFlags (s : State) (f : FlagReg) (v hw : BitVec 8) {i : Nat} (h : i < f.count) :
    ((s.clearFlags f v hw).events f).flags.getLsbD i = (hw.getLsbD i || ((s.events f).flags.getLsbD i && !v.getLsbD i)) := by
  have h8 : i < 8 := Nat.lt_of_lt_of_le h f.count_le
  rw [(s.clearFlags_sameMap_events f v hw).2, Events.raiseMask_eq, Events.flag_raiseBelow, getLsbD_flagMask f hw h]
  simp [Events.clear, h8, Bool.or_comm]

/-- R16: each set of a flag counts, whatever the write clears. -/
theorem State.count_clearFlags (s : State) (f : FlagReg) (v hw : BitVec 8) {i : Nat} (h : i < f.count) :
    ((s.clearFlags f v hw).events f).count i = if hw.getLsbD i then satAdd ((s.events f).count i) 1 else (s.events f).count i := by
  have h8 : i < 8 := Nat.lt_of_lt_of_le h f.count_le
  rw [(s.clearFlags_sameMap_events f v hw).2, Events.raiseMask_eq, Events.count_raiseBelow, getLsbD_flagMask f hw h]
  simp [h8, Events.clear, Events.count]

/-! ### RC counters (R14, R16, R466) -/

theorem State.counterAt_flag (s : State) {b : Block} {f : FlagReg} {i : Nat} (h : countAt b = some (f, i)) :
    s.counterAt b = some ((s.events f).count i, fun w => s.setEvents f ((s.events f).setCount i w)) := by
  simp only [State.counterAt, h]

theorem State.counterAt_plain (s : State) {b : Block} (h : countAt b = none) : s.counterAt b = s.plainCounter b := by
  simp only [State.counterAt, h]

theorem index_le {o base stride count n : Nat} (h : index o base stride count = some n) : base ≤ o := by
  unfold index at h
  split at h
  next hc =>
    simp only [Bool.and_eq_true, decide_eq_true_eq] at hc
    obtain ⟨⟨hle, -⟩, -⟩ := hc
    exact hle
  next => cases h

/-- A counter of R119 is the spill counter of its layer. -/
theorem State.plainCounter_spill (s : State) (d : Nat) {o n : Nat} (h : index o 0x1000 4 256 = some n) :
    s.plainCounter (.well d o) = some (sget (fun _ => 0#32) (s.well d).fspill n, fun w =>
      s.setWell d { s.well d with fspill := sset (fun _ => 0#32) (s.well d).fspill n w }) := by
  have ho := index_le h
  unfold State.plainCounter
  dsimp only
  split
  case h_8 => rw [h]; rfl
  all_goals omega

@[simp] theorem State.setRdata_nib (s : State) (w : Word) (n : Nat) : (s.setRdata w).nib n = s.nib n := rfl
@[simp] theorem State.setRdata_quill (s : State) (w : Word) (q : Nat) : (s.setRdata w).quill q = s.quill q := rfl
@[simp] theorem State.setRdata_link (s : State) (w : Word) (l : Nat) : (s.setRdata w).link l = s.link l := rfl
@[simp] theorem State.setRdata_stack (s : State) (w : Word) (k : Nat) : (s.setRdata w).stack k = s.stack k := rfl
@[simp] theorem State.setRdata_pipe (s : State) (w : Word) (p : Nat) : (s.setRdata w).pipe p = s.pipe p := rfl
@[simp] theorem State.setRdata_well (s : State) (w : Word) (d : Nat) : (s.setRdata w).well d = s.well d := rfl
@[simp] theorem State.setRdata_ctx (s : State) (w : Word) (p k : Nat) : (s.setRdata w).ctx p k = s.ctx p k := rfl
@[simp] theorem State.setRdata_events (s : State) (w : Word) (f : FlagReg) : (s.setRdata w).events f = s.events f := by cases f <;> rfl
theorem State.sameMap_setRdata (s : State) (w : Word) : SameMap s (s.setRdata w) := ⟨rfl, rfl, rfl, fun _ => rfl, rfl⟩

/-- The counters that no flag owns hold what is put into them, and putting it moves no register. -/
theorem State.plainCounter_put (s : State) {b : Block} {w : Word} {put : Word → State} (h : s.plainCounter b = some (w, put)) (x r : Word) :
    SameMap s (put x) ∧ ∃ q, ((put x).setRdata r).plainCounter b = some (x, q) := by
  unfold State.plainCounter at h
  cases b
  case glb o | scr o =>
    dsimp only at h
    split at h <;> cases h
    all_goals exact ⟨⟨rfl, rfl, rfl, fun _ => rfl, rfl⟩, _, rfl⟩
  case nib n o | quill n o | link n o | stack n o =>
    dsimp only at h
    split at h <;> cases h
    all_goals exact ⟨⟨rfl, rfl, rfl, fun _ => rfl, rfl⟩, by simp [State.plainCounter]⟩
  case pipe p o =>
    dsimp only at h
    split at h
    case h_7 =>
      split at h
      next ho =>
        obtain ⟨c, hc, he⟩ := Option.map_eq_some_iff.1 h
        cases he
        exact ⟨s.sameMap_setCtx hc rfl, by simp [State.plainCounter, ho]⟩
      next => cases h
    all_goals
      cases h
      exact ⟨⟨rfl, rfl, rfl, fun _ => rfl, rfl⟩, by simp [State.plainCounter]⟩
  case well d o =>
    dsimp only at h
    split at h
    case h_8 =>
      obtain ⟨n, hn, he⟩ := Option.map_eq_some_iff.1 h
      cases he
      exact ⟨s.sameMap_setWell d _, by simp [State.plainCounter_spill _ d hn]⟩
    all_goals
      cases h
      exact ⟨s.sameMap_setWell d _, by simp [State.plainCounter]⟩
  all_goals cases h

theorem readCounter_flag {b : Block} {f : FlagReg} {i : Nat} (h : countAt b = some (f, i)) (inc : Nat) (ue : Nat × Nat) (put : Word → State) :
    readCounter b inc ue put = if inc = 0 then put 0 else
      (((put 0).noteUe f i ue).setEvents f (((put 0).events f).raise i)).fire (f.vector i) := by
  unfold readCounter
  rw [h]

theorem readCounter_spill {d o n : Nat} (hc : countAt (.well d o) = none) (hn : index o 0x1000 4 256 = some n) (inc : Nat) (ue : Nat × Nat)
    (put : Word → State) : readCounter (.well d o) inc ue put = (put 0).spill d n inc := by
  unfold readCounter
  rw [hc]
  dsimp only
  rw [hn]

theorem readCounter_plain {b : Block} (hc : countAt b = none) (hs : ∀ d o, b = .well d o → index o 0x1000 4 256 = none) (inc : Nat)
    (ue : Nat × Nat) (put : Word → State) : readCounter b inc ue put = put (w32 (min inc 0xFFFFFFFF)) := by
  unfold readCounter
  rw [hc]
  cases b with
  | well d o => dsimp only; rw [hs d o rfl]
  | _ => rfl

/-- A spill counter takes the channels, saturating. -/
theorem State.fspill_spill (s : State) (d n inc : Nat) :
    sget (fun _ => 0#32) ((s.spill d n inc).well d).fspill n =
      if inc = 0 then sget (fun _ => 0#32) (s.well d).fspill n else satAdd (sget (fun _ => 0#32) (s.well d).fspill n) inc := by
  unfold State.spill
  dsimp only
  split
  · rfl
  · split <;> simp

/-- R466: the cleared counter of a flag counts the event of the read's cycle, and the flag is set. -/
theorem State.readCounter_flag_counts (s : State) {b : Block} {f : FlagReg} {i : Nat} (hc : countAt b = some (f, i)) {w : Word}
    {put : Word → State} (h : s.counterAt b = some (w, put)) (inc : Nat) (ue : Nat × Nat) :
    SameMap s (readCounter b inc ue put) ∧ ((readCounter b inc ue put).events f).count i = (if inc = 0 then 0 else 1)
      ∧ (inc ≠ 0 → i < 8 → ((readCounter b inc ue put).events f).has i = true) := by
  rw [s.counterAt_flag hc] at h
  cases h
  rw [readCounter_flag hc]
  split
  next h0 => exact ⟨s.sameMap_setEvents f _, by simp [Events.count_setCount], fun hne => absurd h0 hne⟩
  next =>
    refine ⟨((s.sameMap_setEvents f _).trans (State.sameMap_noteUe _ f i ue)).trans
      ((State.sameMap_setEvents _ f _).trans (State.sameMap_fire _ _)), ?_, fun _ h8 => ?_⟩
    · simp [Events.count_setCount, Events.count_raise, satAdd]
    · simp [Events.has, Events.flag_raise, h8]

/-- R466: any other counter holds the whole advance of the read's cycle. -/
theorem State.readCounter_plain_counts (s : State) {b : Block} (hc : countAt b = none) {w : Word} {put : Word → State}
    (h : s.counterAt b = some (w, put)) (inc : Nat) (ue : Nat × Nat) (r : Word) :
    SameMap s (readCounter b inc ue put) ∧
      ∃ q, ((readCounter b inc ue put).setRdata r).counterAt b = some (w32 (min inc 0xFFFFFFFF), q) := by
  rw [State.counterAt_plain _ hc] at h
  rw [State.counterAt_plain _ hc]
  by_cases hs : ∃ d o n, b = .well d o ∧ index o 0x1000 4 256 = some n
  · obtain ⟨d, o, n, rfl, hn⟩ := hs
    rw [s.plainCounter_spill d hn] at h
    cases h
    rw [readCounter_spill hc hn, State.plainCounter_spill _ d hn]
    refine ⟨(s.sameMap_setWell d _).trans (State.sameMap_spill _ d n inc), _, congrArg (fun x => some (x, _)) ?_⟩
    rw [State.setRdata_well, State.fspill_spill]
    split
    next h0 => simp [h0, w32]
    next => simp [satAdd_zero]
  · rw [readCounter_plain hc fun d o e => Option.eq_none_iff_forall_ne_some.2 fun n hn => hs ⟨d, o, n, e, hn⟩]
    exact s.plainCounter_put h _ r

/-! ### Reads (R12, R465) -/

theorem State.readReg_counter (s : State) {a : Nat} {w : Word} {put : Word → State} (h : s.counterAt (s.target a) = some (w, put))
    (who : Requester) (inc : Nat) (ue : Nat × Nat) : s.readReg who a inc ue = (readCounter (s.target a) inc ue put).setRdata w := by
  unfold State.readReg
  dsimp only
  rw [h]

/-- No half of a pair is an RC counter. -/
theorem State.counterAt_pair (s : State) {b : Block} (h : lowOfPair b = true ∨ highOfPair b = true) : s.counterAt b = none := by
  cases b <;> simp only [lowOfPair, highOfPair, Bool.or_eq_true, decide_eq_true_eq, reduceCtorEq, or_self] at h
  case nib n o => rcases h with rfl | rfl <;> rfl
  case glb o => rcases h with ((rfl | rfl) | rfl) | (rfl | rfl) | rfl <;> rfl
  case ring r o => rcases h with ((rfl | rfl) | rfl) | (rfl | rfl) | rfl <;> rfl

theorem lowOfPair_of_high {b : Block} (h : highOfPair b = true) : lowOfPair b = false := by
  cases b <;> simp only [highOfPair, Bool.or_eq_true, decide_eq_true_eq, reduceCtorEq] at h
  case nib n o => subst h; rfl
  case glb o => rcases h with (rfl | rfl) | rfl <;> rfl
  case ring r o => rcases h with (rfl | rfl) | rfl <;> rfl

theorem State.mem_dropLatch (s : State) (who : Requester) (low : Nat) (l : Latch) :
    l ∈ (s.dropLatch who low).latches ↔ l ∈ s.latches ∧ ¬ (l.who = who ∧ l.off = low) := by
  simp [State.dropLatch, imp_iff_not_or]

/-- No register's word depends on the latches. -/
theorem State.readPlain_dropLatch (s : State) (who : Requester) (low : Nat) (b : Block) : (s.dropLatch who low).readPlain b = s.readPlain b := by
  cases b <;> rfl

/-- A read of a pair's low word latches the high word for its requester. -/
theorem State.readReg_low (s : State) {a : Nat} (h : lowOfPair (s.target a) = true) (who : Requester) (inc : Nat) : s.readReg who a inc =
    { s with latches := (s.dropLatch who a).latches ++ [{ who := who, off := a, word := s.readPlain (s.target (a + 4)) }],
             rdata := (s.readPlain (s.target a)).setWidth 64 } := by
  unfold State.readReg
  dsimp only
  rw [s.counterAt_pair (.inl h), if_pos h, State.readPlain_dropLatch, ← s.readPlain_dropLatch who a (s.target (a + 4))]
  rfl

/-- A read of a pair's high word takes the word of its requester's latch, and ends the latch. -/
theorem State.readReg_high_some (s : State) {a : Nat} (h : highOfPair (s.target a) = true) (who : Requester) (inc : Nat) {x : Latch}
    (hx : s.latches.find? (fun l => l.who = who && l.off = a - 4) = some x) :
    s.readReg who a inc = (s.dropLatch who (a - 4)).setRdata x.word := by
  simp [State.readReg, s.counterAt_pair (.inr h), lowOfPair_of_high h, h, hx]

theorem State.readReg_high_none (s : State) {a : Nat} (h : highOfPair (s.target a) = true) (who : Requester) (inc : Nat)
    (hx : s.latches.find? (fun l => l.who = who && l.off = a - 4) = none) :
    s.readReg who a inc = s.setRdata (s.readPlain (s.target a)) := by
  simp [State.readReg, s.counterAt_pair (.inr h), lowOfPair_of_high h, h, hx]

/-- The latch that a requester holds on a pair alone: its word is the one that a read of the high word returns. -/
theorem State.readReg_high_latched (s : State) {a : Nat} (h : highOfPair (s.target (a + 4)) = true) (who : Requester) (inc : Nat) {x : Latch}
    (hx : ∀ l, l.who = who → l.off = a → (l ∈ s.latches ↔ l = x)) (hwho : x.who = who) (hoff : x.off = a) :
    s.readReg who (a + 4) inc = (s.dropLatch who a).setRdata x.word := by
  have hfind : s.latches.find? (fun l => l.who = who && l.off = a + 4 - 4) = some x := by
    cases hf : s.latches.find? fun l => l.who = who && l.off = a + 4 - 4 with
    | none =>
      have hmem := (hx x hwho hoff).2 rfl
      have := List.find?_eq_none.1 hf x hmem
      simp [hwho, hoff] at this
    | some y =>
      have hp := List.find?_some hf
      simp only [Bool.and_eq_true, decide_eq_true_eq] at hp
      rw [(hx y hp.1 hp.2).1 (List.mem_of_find?_eq_some hf)]
  exact s.readReg_high_some h who inc hfind

/-- Without a latch a read of the high word returns what stands there. -/
theorem State.readReg_high_fresh (s : State) {a : Nat} (h : highOfPair (s.target (a + 4)) = true) (who : Requester) (inc : Nat)
    (hl : ∀ l ∈ s.latches, ¬ (l.who = who ∧ l.off = a)) :
    s.readReg who (a + 4) inc = s.setRdata (s.readPlain (s.target (a + 4))) := by
  have hfind : s.latches.find? (fun l => l.who = who && l.off = a + 4 - 4) = none :=
    List.find?_eq_none.2 fun l hm => by simpa using hl l hm
  exact s.readReg_high_none h who inc hfind

/-- A read of a high word leaves the latches as they were, or ends its requester's latch on the pair. -/
theorem State.readReg_high_latches (s : State) {a : Nat} (h : highOfPair (s.target a) = true) (who : Requester) (inc : Nat) :
    (s.readReg who a inc).latches = s.latches ∨ (s.readReg who a inc).latches = (s.dropLatch who (a - 4)).latches := by
  cases hf : s.latches.find? fun l => l.who = who && l.off = a - 4 with
  | none => exact .inl (by rw [s.readReg_high_none h who inc hf]; rfl)
  | some x => exact .inr (by rw [s.readReg_high_some h who inc hf]; rfl)

theorem exec_lowWordRead (s : State) {o : Nat} (h : lowOfPair (s.target o) = true) (who : Requester) :
    exec (.lowWordRead who o) s = .next (s.readReg who o 0) := if_pos h

theorem exec_highWordRead (s : State) {o : Nat} (h : highOfPair (s.target o) = true) (who : Requester) :
    exec (.highWordRead who o) s = .next (s.readReg who o 0) := if_pos h

theorem exec_w1cClear (s : State) {o : Nat} {f : FlagReg} (h : flagAt (s.target o) = some f) (v : Word) (hw : BitVec 8) :
    exec (.w1cClear o v hw) s = .next (s.clearFlags f (v.setWidth 8) hw) := by
  show execW1cClear o v hw s = _
  rw [execW1cClear, h]

theorem exec_rcRead (s : State) {o : Nat} (h : o % 4 = 0) (inc : Nat) :
    exec (.rcRead { offset := o, width := 4 } inc) s = .next (s.readReg .pcie o inc) := if_pos (by simp [h])

theorem exec_rcRead_other (s : State) {o width : Nat} (inc : Nat)
    (h : (width = 4 ∧ o % 4 ≠ 0) ∨ (width ≠ 4 ∧ (width ≠ 8 ∨ o % 8 ≠ 0 ∨ inMsix (blockOf o) = false))) :
    exec (.rcRead { offset := o, width := width } inc) s = .next { s with rdata := 0 } := by
  have h4 : (decide (width = 4) && decide (o % 4 = 0)) = false := by
    rcases h with ⟨-, h⟩ | ⟨h, -⟩ <;> simp [h]
  have h8 : (decide (width = 8) && decide (o % 8 = 0) && inMsix (blockOf o)) = false := by
    rcases h with ⟨h, -⟩ | ⟨-, h | h | h⟩ <;> simp [h]
  show execRcRead _ inc s = _
  simp only [execRcRead, h4, h8]
  rfl

/-! ### The end of a vector's interval (R435) -/

theorem State.deliver_masked (s : State) {v : Nat} (h : s.msixMasked v = true) : s.deliver v =
    { s with host := { s.host with msixPba := sset (fun _ => false) s.host.msixPba v true } } := if_pos h

theorem State.deliver_unmasked (s : State) {v : Nat} (h : s.msixMasked v = false) : s.deliver v = { s with pcieOut := s.pcieOut ++ [.msix v] } :=
  if_neg (by simp [h])

/-- Nothing merged, or quiesced: the interval ends without a message. -/
theorem exec_msixIntervalEnd_quiet (s : State) {v : Nat} (hp : s.power.vio = true) (ho : s.host.msixOpen.contains v = true)
    (hq : (s.host.msixMerged.contains v && !s.host.quiesced) = false) : exec (.msixIntervalEnd v) s =
      .next { s with host := { s.host with msixOpen := s.host.msixOpen.erase v, msixMerged := s.host.msixMerged.erase v } } := by
  show execMsixIntervalEnd v s = _
  simp only [execMsixIntervalEnd, hp, ho, hq]
  rfl

/-- A merged firing of an unmasked vector is sent, and a new interval begins. -/
theorem exec_msixIntervalEnd_sent (s : State) {v : Nat} (hp : s.power.vio = true) (ho : s.host.msixOpen.contains v = true)
    (hm : s.host.msixMerged.contains v = true) (hq : s.host.quiesced = false) (hk : s.msixMasked v = false) : exec (.msixIntervalEnd v) s =
      .next { s with host := { s.host with msixMerged := s.host.msixMerged.erase v }, pcieOut := s.pcieOut ++ [.msix v] } := by
  show execMsixIntervalEnd v s = _
  simp only [execMsixIntervalEnd, hp, ho, hm, hq, hk]
  exact congrArg Host.Outcome.next (State.deliver_unmasked _ hk)

/-- A merged firing of a masked vector becomes its pending bit. -/
theorem exec_msixIntervalEnd_masked (s : State) {v : Nat} (hp : s.power.vio = true) (ho : s.host.msixOpen.contains v = true)
    (hm : s.host.msixMerged.contains v = true) (hq : s.host.quiesced = false) (hk : s.msixMasked v = true) : exec (.msixIntervalEnd v) s =
      .next { s with host := { s.host with msixOpen := s.host.msixOpen.erase v, msixMerged := s.host.msixMerged.erase v,
                                           msixPba := sset (fun _ => false) s.host.msixPba v true } } := by
  show execMsixIntervalEnd v s = _
  simp only [execMsixIntervalEnd, hp, ho, hm, hq, hk]
  exact congrArg Host.Outcome.next (State.deliver_masked _ hk)

/-! ### What the register reads do -/

theorem rcRead_returns_and_clears (s : State) {o : Nat} (ho : o % 4 = 0) (inc : Nat) {w : Word} {put : Word → State}
    (h : s.counterAt (s.target o) = some (w, put)) :
    ∃ (t : State) (q : Word → State), exec (.rcRead { offset := o, width := 4 } inc) s = .next t ∧ t.rdata = w.setWidth 64 ∧ t.mem = s.mem
      ∧ (countAt (s.target o) = none → t.counterAt (t.target o) = some (w32 (min inc 0xFFFFFFFF), q))
      ∧ ∀ f i, countAt (s.target o) = some (f, i) →
          t.counterAt (t.target o) = some (if inc = 0 then 0 else 1, q) ∧ (inc ≠ 0 → i < 8 → (t.events f).has i = true) := by
  rw [exec_rcRead s ho, s.readReg_counter h]
  cases hc : countAt (s.target o) with
  | none =>
    obtain ⟨hm, q, hq⟩ := s.readCounter_plain_counts hc h inc (0, 0) w
    have hmap := hm.trans (State.sameMap_setRdata _ w)
    exact ⟨_, q, rfl, rfl, hmap.mem, fun _ => by rw [hmap.target]; exact hq, fun f i hf => nomatch hf⟩
  | some fi =>
    obtain ⟨hm, hcount, hflag⟩ := s.readCounter_flag_counts hc h inc (0, 0)
    have hmap := hm.trans (State.sameMap_setRdata _ w)
    obtain ⟨q, hq⟩ : ∃ q, ((readCounter (s.target o) inc (0, 0) put).setRdata w).counterAt (s.target o) = some (if inc = 0 then 0 else 1, q) :=
      ⟨_, by rw [State.counterAt_flag _ hc, State.setRdata_events, hcount]⟩
    refine ⟨_, q, rfl, rfl, hmap.mem, nofun, ?_⟩
    rintro f i ⟨⟩
    rw [hmap.target, State.setRdata_events]
    exact ⟨hq, hflag⟩

/-- R465: the high word that a requester reads after the low word is that of the low word's read. -/
theorem lowWordRead_latches (s : State) (who : Requester) {o : Nat} (h : lowOfPair (s.target o) = true) :
    ∃ t : State, exec (.lowWordRead who o) s = .next t ∧ t.rdata = (s.readPlain (s.target o)).setWidth 64
      ∧ t = { s with rdata := t.rdata, latches := t.latches }
      ∧ ∀ u : State, (∀ l, l.who = who → l.off = o → (l ∈ u.latches ↔ l ∈ t.latches)) → highOfPair (u.target (o + 4)) = true →
        ∃ x : State, exec (.highWordRead who (o + 4)) u = .next x ∧ x.rdata = (s.readPlain (s.target (o + 4))).setWidth 64
          ∧ x = { u with rdata := x.rdata, latches := x.latches } ∧ ∀ l ∈ x.latches, ¬ (l.who = who ∧ l.off = o) := by
  rw [exec_lowWordRead s h, s.readReg_low h]
  refine ⟨_, rfl, rfl, rfl, fun u hu hhigh => ?_⟩
  have honly : ∀ l, l.who = who → l.off = o → (l ∈ u.latches ↔ l = { who := who, off := o, word := s.readPlain (s.target (o + 4)) }) := by
    intro l hwho hoff
    rw [hu l hwho hoff, List.mem_append, s.mem_dropLatch, List.mem_singleton]
    exact or_iff_right fun hl => hl.2 ⟨hwho, hoff⟩
  rw [exec_highWordRead u hhigh, u.readReg_high_latched hhigh who 0 honly rfl rfl]
  exact ⟨_, rfl, rfl, rfl, fun l hl => ((u.mem_dropLatch who o l).1 hl).2⟩

/-- A read of a pair's low word leaves the latches of the other requesters. -/
theorem lowWordRead_others (s : State) {who other : Requester} (hne : who ≠ other) {o : Nat} (h : lowOfPair (s.target o) = true) :
    ∃ t : State, exec (.lowWordRead other o) s = .next t ∧ ∀ l, l.who = who → (l ∈ t.latches ↔ l ∈ s.latches) := by
  rw [exec_lowWordRead s h, s.readReg_low h]
  refine ⟨_, rfl, ?_⟩
  rintro l rfl
  have hnew : l ≠ { who := other, off := o, word := s.readPlain (s.target (o + 4)) } := fun e => hne (congrArg Latch.who e)
  rw [List.mem_append, s.mem_dropLatch, List.mem_singleton]
  simp [hne, hnew]

theorem highWordRead_others (s : State) {who other : Requester} (hne : who ≠ other) {o : Nat} (h : highOfPair (s.target o) = true) :
    ∃ t : State, exec (.highWordRead other o) s = .next t ∧ ∀ l, l.who = who → (l ∈ t.latches ↔ l ∈ s.latches) := by
  rw [exec_highWordRead s h]
  refine ⟨_, rfl, ?_⟩
  rintro l rfl
  rcases s.readReg_high_latches h other 0 with e | e <;> rw [e]
  rw [s.mem_dropLatch]
  simp [hne]

/-! ### Offsets (R462) -/

theorem State.target_of (s : State) {a : Nat} {b : Block} (ha : a % 4 = 0) (hb : blockOf a = b) (h : s.answers b = true) : s.target a = b := by
  simp [State.target, ha, hb, h]

theorem State.aligned_of_target (s : State) {a : Nat} (h : s.target a ≠ .hole) : a % 4 = 0 := by
  by_contra ha
  exact h (by simp [State.target, ha])

theorem blockOf_glb {a : Nat} (h : a < 0x40000) : blockOf a = .glb a := if_pos h

theorem blockOf_scr {o : Nat} (h : o < 0x20000) : blockOf (0x40000 + o) = .scr o := by
  simp (disch := omega) only [blockOf, if_neg, if_pos, Nat.add_sub_cancel_left]

theorem blockOf_ring {r o : Nat} (hr : r < 64) (ho : o < 0x100) : blockOf (0x80000 + 0x100 * r + o) = .ring r o := by
  simp (disch := omega) only [blockOf, if_neg, if_pos]
  congr 1 <;> omega

theorem blockOf_well {d o : Nat} (hd : d < 2) (ho : o < 0x10000) : blockOf (0x3300000 + 0x10000 * d + o) = .well d o := by
  simp (disch := omega) only [blockOf, if_neg, if_pos]
  congr 1 <;> omega

/-! ### Where a write arrives (R14, R463) -/

theorem State.touchPair_of_single (s : State) {b : Block} (hl : lowOfPair b = false) (hh : highOfPair b = false) (a : Nat) :
    s.touchPair b a = s := by
  simp [State.touchPair, hl, hh]

theorem exec_registerWrite (s : State) {o : Nat} (h : o % 4 = 0) (v : Nat) : exec (.registerWrite o 4 v) s = .next (s.writeReg o (w32 v)) := by
  show execRegisterWrite o 4 v s = _
  simp [execRegisterWrite, h]

theorem exec_registerWrite_unaligned (s : State) {o : Nat} (h : o % 4 ≠ 0) (v : Nat) : exec (.registerWrite o 4 v) s = .next s := by
  show execRegisterWrite o 4 v s = _
  simp [execRegisterWrite, h]

theorem State.writeReg_hole (s : State) {a : Nat} (h : s.target a = .hole) (v : Word) : s.writeReg a v = s := by
  unfold State.writeReg
  rw [h]
  rfl

/-- No flag register is half of a pair. -/
theorem single_of_flagAt {b : Block} {f : FlagReg} (h : flagAt b = some f) : lowOfPair b = false ∧ highOfPair b = false := by
  unfold flagAt at h
  split at h <;> cases h
  all_goals exact ⟨rfl, rfl⟩

theorem State.writeReg_flag (s : State) {a : Nat} {f : FlagReg} (h : flagAt (s.target a) = some f) (v : Word) :
    s.writeReg a v = s.clearFlags f (v.setWidth 8) 0 := by
  obtain ⟨hl, hh⟩ := single_of_flagAt h
  unfold State.writeReg
  dsimp only
  rw [s.touchPair_of_single hl hh, h]

theorem State.writeReg_ring (s : State) {a r o : Nat} (h : s.target a = .ring r o) (hf : flagAt (.ring r o) = none)
    (hl : lowOfPair (.ring r o) = false) (hh : highOfPair (.ring r o) = false) (v : Word) : s.writeReg a v = s.writeRing r o v := by
  unfold State.writeReg
  dsimp only
  rw [h, s.touchPair_of_single hl hh, hf]

theorem State.writeReg_well (s : State) {a d o : Nat} (h : s.target a = .well d o) (hf : flagAt (.well d o) = none) (v : Word) :
    s.writeReg a v = s.writeWell d o v := by
  unfold State.writeReg
  dsimp only
  rw [h, s.touchPair_of_single rfl rfl, hf]

theorem State.writeReg_scr (s : State) {a o : Nat} (h : s.target a = .scr o) (hf : flagAt (.scr o) = none) (v : Word) :
    s.writeReg a v = s.writeScr o v := by
  unfold State.writeReg
  dsimp only
  rw [h, s.touchPair_of_single rfl rfl, hf]

theorem flagAt_scr {o : Nat} (h8 : o ≠ 0x8) (ha : o ≠ 0xA0) : flagAt (.scr o) = none := by
  unfold flagAt
  split
  case h_18 => rfl
  all_goals simp_all

theorem flagAt_glb_high {o : Nat} (h : 0x2000 ≤ o) : flagAt (.glb o) = none := by
  unfold flagAt
  split
  case h_18 => rfl
  all_goals simp only [Block.glb.injEq, reduceCtorEq] at * <;> omega

theorem index_slot {base stride count i : Nat} (hi : i < count) (hs : 0 < stride) : index (base + stride * i) base stride count = some i := by
  have hlt : stride * i < stride * count := Nat.mul_lt_mul_of_pos_left hi hs
  simp [index, hlt, Nat.mul_div_cancel_left i hs]

/-- The window's mapping stands far above every flag register and pair of the global block. -/
theorem State.writeReg_bar2Map (s : State) {slot : Nat} (hv : s.power.vio = true) (hs : slot < 4096) (v : Word) :
    s.writeReg (0x20000 + 4 * slot) v = s.writeBar2Map slot v := by
  have ht : s.target (0x20000 + 4 * slot) = .glb (0x20000 + 4 * slot) := s.target_of (by omega) (blockOf_glb (by omega)) hv
  have hf : flagAt (.glb (0x20000 + 4 * slot)) = none := flagAt_glb_high (by omega)
  have hl : lowOfPair (.glb (0x20000 + 4 * slot)) = false := by simp [lowOfPair]; omega
  have hh : highOfPair (.glb (0x20000 + 4 * slot)) = false := by simp [highOfPair]; omega
  unfold State.writeReg
  dsimp only
  rw [ht, s.touchPair_of_single hl hh, hf]
  dsimp only
  rw [if_neg (by omega), index_slot hs (by decide)]

/-! ### Rings and wells -/

theorem State.ringOpen_iff (s : State) (r : Nat) : s.ringOpen r = true ↔ (s.live = true ∧ s.ready = true) ∧ r < 64 := by
  simp [State.ringOpen]

/-- An aligned write in an open ring's block, other than to a flag register or to half of a pair. -/
theorem exec_registerWrite_ring (s : State) {r o : Nat} (h : s.ringOpen r = true) (ho : o < 0x100) (h4 : o % 4 = 0)
    (hf : flagAt (.ring r o) = none) (hl : lowOfPair (.ring r o) = false) (hh : highOfPair (.ring r o) = false) (v : Nat) :
    exec (.registerWrite (0x80000 + 0x100 * r + o) 4 v) s = .next (s.writeRing r o (w32 v)) := by
  obtain ⟨⟨hlive, hready⟩, hr⟩ := (s.ringOpen_iff r).1 h
  have ha : (0x80000 + 0x100 * r + o) % 4 = 0 := by omega
  have ht : s.target (0x80000 + 0x100 * r + o) = .ring r o := s.target_of ha (blockOf_ring hr ho) (by simp [State.answers, hlive, hready])
  rw [exec_registerWrite s ha, s.writeReg_ring ht hf hl hh]

theorem exec_registerWrite_well (s : State) {d o : Nat} (hlive : s.live = true) (hready : s.ready = true) (hd : d < 2) (ho : o < 0x10000)
    (h4 : o % 4 = 0) (hf : flagAt (.well d o) = none) (v : Nat) :
    exec (.registerWrite (0x3300000 + 0x10000 * d + o) 4 v) s = .next (s.writeWell d o (w32 v)) := by
  have ha : (0x3300000 + 0x10000 * d + o) % 4 = 0 := by omega
  have ht : s.target (0x3300000 + 0x10000 * d + o) = .well d o := s.target_of ha (blockOf_well hd ho) (by simp [State.answers, hlive, hready])
  rw [exec_registerWrite s ha, s.writeReg_well ht hf]

theorem exec_doorbell (s : State) {r : Nat} (h : s.ringOpen r = true) (v : Word) : exec (.doorbell r v) s = .next (s.writeTail r v) :=
  if_neg (by simp [h])
theorem exec_ringCqheadWrite (s : State) {r : Nat} (h : s.ringOpen r = true) (v : Word) :
    exec (.ringCqheadWrite r v) s = .next (s.writeCqhead r v) := if_neg (by simp [h])
theorem exec_ringEnable (s : State) {r : Nat} (h : s.ringOpen r = true) (v : Word) : exec (.ringEnable r v) s = .next (s.writeRingCtrl r v) :=
  if_neg (by simp [h])
theorem exec_ringFeeddoneWrite (s : State) {r : Nat} (h : s.ringOpen r = true) (v : Word) :
    exec (.ringFeeddoneWrite r v) s = .next (s.writeFeeddone r v) := if_neg (by simp [h])
theorem exec_glbBar2MapWrite (s : State) {slot : Nat} (hv : s.power.vio = true) (hs : slot < 4096) (v : Word) :
    exec (.glbBar2MapWrite slot v) s = .next (s.writeBar2Map slot v) := if_pos (by simp [hv, hs])
theorem exec_wellBlotctlWrite (s : State) {d : Nat} (hlive : s.live = true) (hready : s.ready = true) (hd : d < 2) (v : Word) :
    exec (.wellBlotctlWrite d v) s = .next (s.writeBlotctl d v) := if_pos (by simp [hlive, hready, hd])
theorem exec_wellBlottolWrite (s : State) {d : Nat} (hlive : s.live = true) (hready : s.ready = true) (hd : d < 2) (v : Word) :
    exec (.wellBlottolWrite d v) s = .next (s.writeBlottol d v) := if_pos (by simp [hlive, hready, hd])

theorem State.writeBlotctl_eq (s : State) (d : Nat) {v : Nat} (hv : v < 2 ^ 32) : s.writeBlotctl d (w32 v) =
    s.setWell d { s.well d with blotK := BitVec.ofNat 5 (max 8 (min 20 (v % 32))), blotEn := v.testBit 8, blotAct := v.testBit 9 } := by
  simp only [State.writeBlotctl, State.modWell_eq, limit, toNat_w32 hv, getLsbD_w32 v (show 8 < 32 by decide), getLsbD_w32 v (show 9 < 32 by decide)]

theorem State.writeBlottol_eq (s : State) (d : Nat) {v : Nat} (hv : v < 2 ^ 32) : s.writeBlottol d (w32 v) =
    s.setWell d { s.well d with blotRel := BitVec.ofNat 5 (max 8 (min 20 (v % 32))), blotAbs := BitVec.ofNat 8 (min 149 (v / 256 % 256)) } := by
  simp only [State.writeBlottol, State.modWell_eq, limit, toNat_w32 hv]

/-! ### The mailbox (R458, R461) -/

theorem exec_registerWrite_scr (s : State) {o : Nat} (hv : s.power.vio = true) (ho : o < 0x20000) (h4 : o % 4 = 0) (h8 : o ≠ 0x8) (ha : o ≠ 0xA0)
    (v : Nat) : exec (.registerWrite (0x40000 + o) 4 v) s = .next (s.writeScr o (w32 v)) := by
  have ha4 : (0x40000 + o) % 4 = 0 := by omega
  rw [exec_registerWrite s ha4, s.writeReg_scr (s.target_of ha4 (blockOf_scr ho) hv) (flagAt_scr h8 ha)]

/-- The registers of the mailbox that the host writes: SCR_MBX_CMD, the arguments and the data buffer. -/
def mbxWritable (o : Nat) : Prop := o = 0 ∨ (0x10 ≤ o ∧ o < 0x50) ∨ (0x1000 ≤ o ∧ o < 0x11000)

theorem State.writeScr_busy (s : State) {o : Nat} (h : mbxWritable o) (hb : s.scr.mbx.busy = true) (v : Word) :
    s.writeScr o v = { s with scr := { s.scr with mbx := { s.scr.mbx with ignored := satAdd s.scr.mbx.ignored 1 } } } := by
  have hw : (!(decide (o = 0) || (decide (0x10 ≤ o) && decide (o < 0x50)) || (decide (0x1000 ≤ o) && decide (o < 0x11000)))) = false := by
    unfold mbxWritable at h
    simp
    omega
  unfold State.writeScr
  simp only [hw, hb]
  rfl

theorem State.writeScr_arg (s : State) {i : Nat} (hi : i < 16) (hb : s.scr.mbx.busy = false) (v : Word) :
    s.writeScr (0x10 + 4 * i) v = { s with scr := { s.scr with mbx := { s.scr.mbx with args := s.scr.mbx.args.set i v } } } := by
  have hlt : 0x10 + 4 * i < 0x50 := by omega
  simp [State.writeScr, hb, hlt]

/-- The data buffer with a word at byte `o`, low byte first. -/
def putDataWord (m : Sparse Byte) (o : Nat) (v : Word) : Sparse Byte :=
  (List.range 4).foldl (fun m k => sset (fun _ => 0#8) m (o + k) (BitVec.ofNat 8 (v.toNat / 2 ^ (8 * k)))) m

theorem State.writeScr_data (s : State) {i : Nat} (hi : i < 16384) (hb : s.scr.mbx.busy = false) (v : Word) :
    s.writeScr (0x1000 + 4 * i) v = { s with scr := { s.scr with mbx := { s.scr.mbx with data := putDataWord s.scr.mbx.data (4 * i) v } } } := by
  have hlt : 0x1000 + 4 * i < 0x11000 := by omega
  have harg : ¬ 0x1000 + 4 * i < 0x50 := by omega
  simp [State.writeScr, hb, hlt, harg, putDataWord]

theorem sget_putDataWord (m : Sparse Byte) (o : Nat) (v : Word) {k : Nat} (hk : k < 4) :
    sget (fun _ => 0#8) (putDataWord m o v) (o + k) = BitVec.ofNat 8 (v.toNat / 2 ^ (8 * k)) := by
  obtain rfl | rfl | rfl | rfl : k = 0 ∨ k = 1 ∨ k = 2 ∨ k = 3 := by omega
  all_goals simp [putDataWord, List.range_succ, sget_sset_if]

theorem Mbx.dataWord_putDataWord (x : Mbx) (o : Nat) (v : Word) : Mbx.dataWord { x with data := putDataWord x.data o v } o = v := by
  have hv := v.isLt
  have h0 := sget_putDataWord x.data o v (k := 0) (by decide)
  rw [Nat.add_zero] at h0
  apply BitVec.eq_of_toNat_eq
  simp [Mbx.dataWord, List.range_succ, sget_putDataWord, h0, leAt, byteAt, w32]
  omega

theorem State.writeScr_cmd (s : State) (hb : s.scr.mbx.busy = false) (v : Word) :
    s.writeScr 0 v = State.submit { s with scr := { s.scr with mbx := { s.scr.mbx with busy := true } } }
      { ch := .mailbox, op := v.toNat % 65536, tag := v.toNat / 65536 % 256, args := s.scr.mbx.args } := by
  simp [State.writeScr, hb]

/-- A command that the mailbox does not take is answered BAD_CMD, and waits for its completion. -/
theorem State.submit_refused (s : State) {c : CmdReq} (hch : c.ch = .mailbox) (h : cmdAccepted c.op .mailbox = false) :
    s.submit c = { s with scr := { s.scr with finish := some { req := c, status := 0x01, res := [], data := [] } } } := by
  simp [State.submit, h, State.deliverCmd, hch]

theorem State.submit_accepted (s : State) {c : CmdReq} (h : cmdAccepted c.op c.ch = true) :
    s.submit c = { s with scr := { s.scr with queue := s.scr.queue ++ [c] } } := if_pos h

end Sys2Proof.Machine

namespace Sys2Proof.Proofs
open Sys2Proof Sys2Proof.Machine Sys2Proof.Claims

/-- Settles O55: flags by `State.flag_clearFlags`, counters by `rcRead_returns_and_clears`, pairs by the one latch that a low word's read leaves its requester. -/
theorem registersReadAndClearAsTyped : Obligations.RegistersReadAndClearAsTyped := by
  unfold Obligations.RegistersReadAndClearAsTyped pairAt
  refine ⟨fun s o v hw f hf => ?_, fun s o inc w put h ho => rcRead_returns_and_clears s ho inc h, fun s o width inc h => exec_rcRead_other s inc h,
    fun s who o h => lowWordRead_latches s who h, fun s who other o hne => ⟨lowWordRead_others s hne, highWordRead_others s hne⟩,
    fun u who o hhigh hl => ?_, fun s v hp ho => ⟨fun hq => ?_, fun hm hq hk => ?_, fun hm hq hk => ?_⟩⟩
  · refine ⟨_, exec_w1cClear s hf v hw, (s.clearFlags_sameMap_events f _ hw).1.mem, fun i hi => ⟨?_, s.count_clearFlags f _ hw hi⟩⟩
    have h8 : i < 8 := Nat.lt_of_lt_of_le hi f.count_le
    rw [s.flag_clearFlags f _ hw hi, BitVec.getLsbD_setWidth]
    simp [h8]
  · rw [exec_highWordRead u hhigh, u.readReg_high_fresh hhigh who 0 hl]
    exact ⟨_, rfl, rfl⟩
  · exact exec_msixIntervalEnd_quiet s hp ho (by rcases hq with h | h <;> simp only [h, Bool.false_and, Bool.not_true, Bool.and_false])
  · exact exec_msixIntervalEnd_sent s hp ho hm hq hk
  · exact ⟨_, exec_msixIntervalEnd_masked s hp ho hm hq hk, rfl, rfl, rfl, rfl, sget_sset (m := s.host.msixPba) v true⟩

/-- Settles O56: each region's write arrives by its `exec_registerWrite_…` lemma. -/
theorem registerWritesReachTheirRegister : Obligations.RegisterWritesReachTheirRegister := by
  unfold Obligations.RegisterWritesReachTheirRegister
  intro s v hv
  refine ⟨fun o h => ?_, fun o f hf => ?_, fun r hr => ⟨?_, ?_, ?_, ?_⟩, fun hp slot hs => ?_, fun hlive hready d hd => ⟨?_, ?_, ?_, ?_⟩,
    fun hp hb o ho => ?_, fun hp hb => ⟨fun i hi => ?_, fun i hi => ?_, fun hc => ?_, fun hc => ?_⟩⟩
  -- no register
  · by_cases h4 : o % 4 = 0
    · rw [exec_registerWrite s h4, s.writeReg_hole h]
    · exact exec_registerWrite_unaligned s h4 v
  -- a flag register
  · have h4 : o % 4 = 0 := s.aligned_of_target fun h => by rw [h] at hf; cases hf
    rw [exec_registerWrite s h4, s.writeReg_flag hf, exec_w1cClear s hf]
  -- a ring
  · rw [exec_doorbell s hr, exec_registerWrite_ring s hr (by decide) (by decide) rfl rfl rfl]
    rfl
  · rw [exec_ringCqheadWrite s hr, exec_registerWrite_ring s hr (by decide) (by decide) rfl rfl rfl]
    rfl
  · exact (exec_registerWrite_ring s hr (o := 0) (by decide) (by decide) rfl rfl rfl v).trans (exec_ringEnable s hr (w32 v)).symm
  · rw [exec_ringFeeddoneWrite s hr, exec_registerWrite_ring s hr (by decide) (by decide) rfl rfl rfl]
    rfl
  -- a slot of the window
  · rw [exec_registerWrite s (by omega), s.writeReg_bar2Map hp hs, exec_glbBar2MapWrite s hp hs]
  -- a blotter
  · rw [exec_wellBlotctlWrite s hlive hready hd, exec_registerWrite_well s hlive hready hd (by decide) (by decide) rfl]
    rfl
  · rw [exec_wellBlottolWrite s hlive hready hd, exec_registerWrite_well s hlive hready hd (by decide) (by decide) rfl]
    rfl
  · rw [exec_wellBlotctlWrite s hlive hready hd, s.writeBlotctl_eq d hv]
  · rw [exec_wellBlottolWrite s hlive hready hd, s.writeBlottol_eq d hv]
  -- the mailbox while BUSY
  · have hw : mbxWritable o := by unfold mbxWritable; omega
    rw [exec_registerWrite_scr s hp (by omega) (by omega) (by omega) (by omega), s.writeScr_busy hw hb]
  -- the mailbox otherwise: an argument, a data word, a command
  · rw [show 0x40010 + 4 * i = 0x40000 + (0x10 + 4 * i) by omega,
      exec_registerWrite_scr s hp (by omega) (by omega) (by omega) (by omega), s.writeScr_arg hi hb]
  · rw [show 0x41000 + 4 * i = 0x40000 + (0x1000 + 4 * i) by omega,
      exec_registerWrite_scr s hp (by omega) (by omega) (by omega) (by omega), s.writeScr_data hi hb]
    exact ⟨_, rfl, s.scr.mbx.dataWord_putDataWord (4 * i) (w32 v), rfl⟩
  · rw [show 0x40000 = 0x40000 + 0 from rfl, exec_registerWrite_scr s hp (by decide) (by decide) (by decide) (by decide),
      s.writeScr_cmd hb, toNat_w32 hv, State.submit_accepted _ hc]
  · rw [show 0x40000 = 0x40000 + 0 from rfl, exec_registerWrite_scr s hp (by decide) (by decide) (by decide) (by decide),
      s.writeScr_cmd hb, toNat_w32 hv, State.submit_refused _ rfl hc]
    exact ⟨_, rfl, rfl, rfl, _, rfl, rfl, rfl⟩

end Sys2Proof.Proofs
end

section
/-! PROOF. The questions to the scribe (R33, R184, R230, R443, R450, R451, R455, R456): what a command that is not refused leaves, the items of a
table's answer, and the statement on the seven questions. -/
namespace Sys2Proof.Machine
open Sys2Proof.Claims

/-! ### Little-endian bytes -/

@[simp] theorem length_leBytes (n x : Nat) : (leBytes n x).length = n := by
  induction n generalizing x with
  | zero => rfl
  | succ n ih => simp [leBytes, ih]

theorem leAt_cons (b : Byte) (l : List Byte) (i n : Nat) : leAt (b :: l) (i + 1) n = leAt l i n := by
  induction n generalizing i with
  | zero => rfl
  | succ n ih => simp only [leAt, ih, byteAt, List.getD_cons_succ]

theorem leAt_append_right (a l : List Byte) (i n : Nat) : leAt (a ++ l) (a.length + i) n = leAt l i n := by
  induction a with
  | nil => simp
  | cons b a ih => rw [List.cons_append, List.length_cons, Nat.add_right_comm, leAt_cons, ih]

theorem leAt_leBytes_append (n : Nat) {x : Nat} (h : x < 256 ^ n) (l : List Byte) : leAt (leBytes n x ++ l) 0 n = x := by
  induction n generalizing x with
  | zero => simp only [Nat.pow_zero, Nat.lt_one_iff] at h; rw [h]; rfl
  | succ n ih =>
    have hq : x / 256 < 256 ^ n := Nat.div_lt_of_lt_mul (by rwa [Nat.pow_succ'] at h)
    have hb : (BitVec.ofNat 8 (x % 256)).toNat = x % 256 := by simp
    rw [leBytes, List.cons_append, leAt, leAt_cons, ih hq, byteAt, List.getD_cons_zero, hb]
    omega

/-- Items of `k` bytes each, one after another: item `i` of a list stands at byte `k * i`. -/
theorem leAt_flatMap_leBytes {α : Type} (k : Nat) (g : α → Nat) (l : List α) {i : Nat} (hi : i < l.length) (hg : g l[i] < 256 ^ k) :
    leAt (l.flatMap fun x => leBytes k (g x)) (k * i) k = g l[i] := by
  induction l generalizing i with
  | nil => exact absurd hi (Nat.not_lt_zero i)
  | cons y ys ih =>
    rw [List.flatMap_cons]
    cases i with
    | zero => exact leAt_leBytes_append k hg _
    | succ i =>
      have hstep := leAt_append_right (leBytes k (g y)) (ys.flatMap fun x => leBytes k (g x)) (k * i) k
      rw [length_leBytes] at hstep
      rw [Nat.mul_succ, Nat.add_comm, hstep]
      exact ih (Nat.lt_of_succ_lt_succ hi) hg

theorem length_flatMap_leBytes {α : Type} (k : Nat) (g : α → Nat) (l : List α) : (l.flatMap fun x => leBytes k (g x)).length = k * l.length := by
  simp [List.length_flatMap, Nat.mul_comm]

/-! ### A command that is not refused -/

/-- The state whose scribe has taken the front command from its queue. -/
def State.taken (s : State) (rest : List CmdReq) : State := { s with scr := { s.scr with queue := rest } }

theorem runCmd_of_runs {s : State} {op : Nat} {c : CmdReq} {rest : List CmdReq} (h : runs s op c rest) (f : CmdReq → State → State) :
    s.runCmd op f = .next (f c (s.taken rest)) := by
  obtain ⟨hp, hq, hop, hr⟩ := h
  have hr' : (s.taken rest).cmdRefusal c = none := hr
  unfold State.taken at hr'
  simp [State.runCmd, hq, hop, hp, hr', State.taken]

/-- An answer reaches its channel; `u` is the state in which the command has run. -/
theorem replied_answerCmd {s u : State} (ha : u.scr.uart = s.scr.uart) (hm : u.scr.smb = s.scr.smb) (c : CmdReq) (status : Nat) (res : List Word)
    (data : List Byte) : replied s (u.answerCmd c status res data) c status res data := by
  unfold replied State.answerCmd State.deliverCmd
  cases c.ch with
  | mailbox => rfl
  | uart => simp only [ha]
  | smbus => by_cases ht : c.tag = s.scr.smb.tag <;> simp [ht, hm]

/-- An answer changes the three places where results are handed over, nothing else. -/
theorem State.answerCmd_frame (s : State) (c : CmdReq) (status : Nat) (res : List Word) (data : List Byte) :
    ∃ f a m, s.answerCmd c status res data = { s with scr := { s.scr with finish := f, uart := a, smb := m } } := by
  unfold State.answerCmd State.deliverCmd
  cases c.ch with
  | mailbox => exact ⟨_, _, _, rfl⟩
  | uart => exact ⟨_, _, _, rfl⟩
  | smbus => dsimp only; split <;> exact ⟨_, _, _, rfl⟩

theorem onlyReply_answerCmd (s : State) (c : CmdReq) (rest : List CmdReq) (status : Nat) (res : List Word) (data : List Byte) :
    onlyReply s ((s.taken rest).answerCmd c status res data) c rest status res data := by
  refine ⟨replied_answerCmd rfl rfl c status res data, ?_⟩
  obtain ⟨f, a, m, h⟩ := (s.taken rest).answerCmd_frame c status res data
  rw [h]
  rfl

/-- A row that only answers, once it is not refused. -/
theorem onlyReply_of_runCmd {s : State} {cmd : Instr} {op : Nat} {c : CmdReq} {rest : List CmdReq} {f : CmdReq → State → State} {status : Nat}
    {res : List Word} {data : List Byte} (hr : runs s op c rest) (hx : exec cmd s = s.runCmd op f)
    (hf : f c (s.taken rest) = (s.taken rest).answerCmd c status res data) :
    ∃ t : State, exec cmd s = .next t ∧ onlyReply s t c rest status res data := by
  refine ⟨_, hx.trans (runCmd_of_runs hr f), ?_⟩
  rw [hf]
  exact onlyReply_answerCmd s c rest status res data

/-! ### The rows without a range of a table -/

theorem exec_identify (s : State) : exec .identify s = s.runCmd 0x01 fun c s => s.answerCmd c 0 s.identity [] := rfl
theorem exec_mapImage (s : State) :
    exec .mapImage s = s.runCmd 0x05 fun c s => s.answerCmd c 0 [] ((s.units.map0 ++ s.units.map1).flatMap fun e => leBytes 2 e.toNat) := rfl
theorem exec_logRead (s : State) : exec .logRead s = s.runCmd 0x03 fun c s =>
    if 1 ≤ c.arg 1 && c.arg 1 ≤ 1024 then
      let es := (s.logEntries.filter fun e => c.arg 0 ≤ e.seq).take (c.arg 1)
      s.answerCmd c 0 [w32 es.length, w32 ((s.logEntries.head?.map (·.seq)).getD 0)] (es.flatMap entryBytes)
    else s.answerCmd c 0x02 [] [] := rfl

/-- IDENTIFY's words are GLB_ID, SERIAL, GLB_FW_VER, GLB_LIFECYCLE and GLB_BOOT_STAT (R456). -/
theorem State.identity_eq (s : State) : s.identity =
    [s.readGlb 0, s.boot.serial.setWidth 32, (s.boot.serial >>> 32).setWidth 32, s.readGlb 0x140C, s.readGlb 0x1408, s.readGlb 0x1400] := rfl

/-! ### Questions for a range of a table -/

/-- A question for ARG1 items of `k` bytes from item ARG0 on, at most `most` and all below `limit`; BAD_ARG for any other range (R456, R457). -/
def rangeQuestion (k most limit : Nat) (item : State → Nat → Nat) (c : CmdReq) (s : State) : State :=
  if rangeOk (c.arg 0) (c.arg 1) most limit then
    s.answerCmd c 0 [] ((List.range (c.arg 1)).flatMap fun i => leBytes k (item s (c.arg 0 + i)))
  else s.answerCmd c 0x02 [] []

theorem exec_sensors (s : State) : exec .sensors s = s.runCmd 0x02 (rangeQuestion 2 184 184 fun s i => (s.sensorValue i).toNat) := rfl
theorem exec_pmapRead (s : State) : exec .pmapRead s = s.runCmd 0x06 (rangeQuestion 16 4096 131072 fun s i => pageBits (s.page i)) := rfl
theorem exec_kvtRead (s : State) : exec .kvtRead s = s.runCmd 0x07 (rangeQuestion 16 4096 262144 fun s i => kvBits (s.kvShown i)) := rfl

theorem rangeOk_iff {first count most limit : Nat} : rangeOk first count most limit = true ↔ 1 ≤ count ∧ count ≤ most ∧ first + count ≤ limit := by
  simp [rangeOk, and_assoc]

section
variable {s : State} {cmd : Instr} {op k most limit : Nat} {item : State → Nat → Nat} {c : CmdReq} {rest : List CmdReq}

theorem rangeQuestion_answers (hx : exec cmd s = s.runCmd op (rangeQuestion k most limit item))
    (hr : runs s op c rest) (ht : ∀ i, item (s.taken rest) i = item s i) (h1 : 1 ≤ c.arg 1) (hm : c.arg 1 ≤ most)
    (hl : c.arg 0 + c.arg 1 ≤ limit) (hk : ∀ i, item s i < 256 ^ k) :
    ∃ (t : State) (d : List Byte), exec cmd s = .next t ∧ onlyReply s t c rest 0 [] d ∧ d.length = k * c.arg 1
      ∧ ∀ i, i < c.arg 1 → leAt d (k * i) k = item s (c.arg 0 + i) := by
  obtain ⟨t, hexec, honly⟩ := onlyReply_of_runCmd hr hx (if_pos (rangeOk_iff.2 ⟨h1, hm, hl⟩))
  refine ⟨t, _, hexec, honly, by rw [length_flatMap_leBytes, List.length_range], fun i hi => ?_⟩
  simp only [ht]
  rw [leAt_flatMap_leBytes k (fun j => item s (c.arg 0 + j)) _ (by rwa [List.length_range]) (hk _), List.getElem_range]

theorem rangeQuestion_refuses (hx : exec cmd s = s.runCmd op (rangeQuestion k most limit item)) (hr : runs s op c rest)
    (h : c.arg 1 = 0 ∨ most < c.arg 1 ∨ limit < c.arg 0 + c.arg 1) : ∃ t : State, exec cmd s = .next t ∧ onlyReply s t c rest 0x02 [] [] := by
  refine onlyReply_of_runCmd hr hx (if_neg fun hok => ?_)
  obtain ⟨h1, hm, hl⟩ := rangeOk_iff.1 hok
  omega

end

/-! ### The items of the tables -/

theorem sensorExists_iff {id : Nat} : sensorExists id = true ↔ id < 158 ∨ (160 ≤ id ∧ id < 184) := by simp [sensorExists]

theorem State.sensorValue_toNat (s : State) {id : Nat} (h : id < 184) :
    (s.sensorValue id).toNat = if id = 158 ∨ id = 159 then 0x8001 else (s.sensor id).value.toNat := by
  unfold State.sensorValue
  by_cases hid : id = 158 ∨ id = 159
  · rw [if_pos hid, if_neg (by rw [sensorExists_iff]; omega)]
    rfl
  · rw [if_neg hid, if_pos (by rw [sensorExists_iff]; omega)]

theorem bit_le_one (b : Bool) : bit b ≤ 1 := by cases b <;> decide

/-- The fields of a page-map entry end at bit 104 (R230). -/
theorem pageBits_lt (e : PageEntry) : pageBits e < 256 ^ 16 := by
  have hs : (if e.kind = 2 then e.state.toNat else 0) < 2 ^ 3 := by split <;> omega
  have hp := bit_le_one e.pinned
  have he := bit_le_one e.shadowEn
  have hl := bit_le_one e.lent
  unfold pageBits
  omega

/-- The fields of a table entry end at bit 103 (R184). -/
theorem kvBits_lt (e : KvEntry) : kvBits e < 256 ^ 16 := by
  have hl : (if e.leased then 1 else 0) ≤ 1 := by split <;> omega
  unfold kvBits
  omega

/-! ### TELEMETRY -/

theorem Scribe.tele_teleRead_same (x : Scribe) (ch : Channel) : (x.teleRead ch).tele ch = Tele.reset := by cases ch <;> rfl

theorem Scribe.tele_teleRead_other (x : Scribe) {ch ch' : Channel} (h : ch' ≠ ch) : (x.teleRead ch).tele ch' = x.tele ch' := by
  cases ch <;> cases ch' <;> simp [Scribe.teleRead, Scribe.tele] at h ⊢

theorem Scribe.uart_teleRead (x : Scribe) (ch : Channel) : (x.teleRead ch).uart = x.uart := by cases ch <;> rfl
theorem Scribe.smb_teleRead (x : Scribe) (ch : Channel) : (x.teleRead ch).smb = x.smb := by cases ch <;> rfl

/-- The state whose copy of the telemetry for a channel is cleared. -/
def State.teleCleared (s : State) (ch : Channel) : State := { s with scr := s.scr.teleRead ch }

theorem exec_telemetry (s : State) :
    exec .telemetry s = s.runCmd 0x04 fun c s => (s.teleCleared c.ch).answerCmd c 0 [] (s.scr.record (s.scr.tele c.ch)) := rfl

/-- TELEMETRY answers with its channel's copy and clears that copy alone (R455). -/
theorem telemetry_answers {s : State} {c : CmdReq} {rest : List CmdReq} (hr : runs s 0x04 c rest) :
    ∃ t : State, exec .telemetry s = .next t ∧ replied s t c 0 [] (s.scr.record (s.scr.tele c.ch)) ∧ scribeOnly s t
      ∧ t.scr.tele c.ch = Tele.reset ∧ ∀ ch, ch ≠ c.ch → t.scr.tele ch = s.scr.tele ch := by
  have hreply := replied_answerCmd (s := s) (u := (s.taken rest).teleCleared c.ch) (Scribe.uart_teleRead _ _) (Scribe.smb_teleRead _ _) c 0 []
    (s.scr.record (s.scr.tele c.ch))
  have hrun : exec .telemetry s = .next (((s.taken rest).teleCleared c.ch).answerCmd c 0 [] (s.scr.record (s.scr.tele c.ch))) :=
    (exec_telemetry s).trans (runCmd_of_runs hr _)
  obtain ⟨f, a, m, hframe⟩ := ((s.taken rest).teleCleared c.ch).answerCmd_frame c 0 [] (s.scr.record (s.scr.tele c.ch))
  rw [hframe] at hrun hreply
  exact ⟨_, hrun, hreply, ⟨rfl, rfl, rfl, rfl, rfl, rfl, rfl, rfl, rfl, rfl, rfl, rfl⟩, (s.taken rest).scr.tele_teleRead_same c.ch,
    fun _ h => (s.taken rest).scr.tele_teleRead_other h⟩

end Sys2Proof.Machine

namespace Sys2Proof.Proofs
open Sys2Proof Sys2Proof.Machine Sys2Proof.Claims

/-- Settles O51: a row that only answers by `onlyReply_of_runCmd`, the ranges of a table by `rangeQuestion_answers` and `rangeQuestion_refuses`, TELEMETRY by
`telemetry_answers`. -/
theorem questionsAreAnswered : Obligations.QuestionsAreAnswered := by
  unfold Obligations.QuestionsAreAnswered
  intro s c rest
  refine ⟨fun hr => ?_, fun hr h1 hm hl => ?_, fun hr h1 hm => ?_, telemetry_answers, fun hr => onlyReply_of_runCmd hr (exec_mapImage s) rfl,
    fun hr h1 hm hl => ?_, fun hr h1 hm hl => ?_, fun cmd most limit hmem hr hop h => ?_⟩
  -- IDENTIFY
  · rw [← s.identity_eq]
    exact onlyReply_of_runCmd hr (exec_identify s) rfl
  -- SENSORS
  · obtain ⟨t, d, ht, honly, hlen, hd⟩ := rangeQuestion_answers (exec_sensors s) hr (fun _ => rfl) h1 hm hl fun _ => BitVec.isLt _
    refine ⟨t, d, ht, honly, hlen, fun i hi => ?_⟩
    rw [hd i hi]
    exact s.sensorValue_toNat (by omega)
  -- LOG_READ
  · exact onlyReply_of_runCmd hr (exec_logRead s) (if_pos (by simp [h1, hm]))
  -- PMAP_READ
  · exact rangeQuestion_answers (exec_pmapRead s) hr (fun _ => rfl) h1 hm hl fun _ => pageBits_lt _
  -- KVT_READ
  · exact rangeQuestion_answers (item := fun s i => kvBits (s.kvShown i)) (exec_kvtRead s) hr (fun _ => rfl) h1 hm hl fun _ => kvBits_lt _
  -- ranges outside the limits
  · simp only [List.mem_cons, List.not_mem_nil, or_false, Prod.mk.injEq] at hmem
    obtain ⟨rfl, rfl, rfl⟩ | ⟨rfl, rfl, rfl⟩ | ⟨rfl, rfl, rfl⟩ := hmem
    · exact rangeQuestion_refuses (exec_sensors s) (Option.some.inj hop ▸ hr) h
    · exact rangeQuestion_refuses (exec_pmapRead s) (Option.some.inj hop ▸ hr) h
    · exact rangeQuestion_refuses (exec_kvtRead s) (Option.some.inj hop ▸ hr) h

end Sys2Proof.Proofs
end

section
/-! PROOF. Narrow number formats (R41, R42, R48, R50, R65): powers of two, the order of block scales, and what a sealed line and packed blocks read
back as. -/
namespace Sys2Proof.Machine

/-! ### Powers of two -/

theorem pow2_eq_zpow (e : Int) : pow2 e = (2 : ℚ) ^ e := by
  unfold pow2
  split
  · next h =>
    obtain ⟨n, rfl⟩ := Int.eq_ofNat_of_zero_le h
    simp
  · next h =>
    obtain ⟨n, hn⟩ := Int.eq_ofNat_of_zero_le (show 0 ≤ -e by omega)
    have he : e = -(n : Int) := by omega
    subst he
    simp [Rat.mkRat_eq_div]

theorem pow2_pos (e : Int) : 0 < pow2 e := by rw [pow2_eq_zpow]; positivity

theorem pow2_add (a b : Int) : pow2 (a + b) = pow2 a * pow2 b := by simp only [pow2_eq_zpow, zpow_add₀ (two_ne_zero' ℚ)]

theorem pow2_natCast (n : Nat) : pow2 n = ((2 ^ n : Nat) : ℚ) := by rw [pow2_eq_zpow]; simp

/-! ### Block scales (R41, R42) -/

/-- A block scale in units of 2^-17, the value of byte 0x01. -/
def ueQuanta (b : Nat) : Nat := if b / 8 = 0 then b else (8 + b % 8) * 2 ^ (b / 8 - 1)

theorem ueVal_eq_quanta (b : Nat) : ueVal b = (ueQuanta b : ℚ) * pow2 (-17) := by
  unfold ueVal ueQuanta
  split
  · rfl
  · next h =>
    have he : ((b / 8 : Nat) : Int) - 18 = (b / 8 - 1 : Nat) + -17 := by omega
    rw [he, pow2_add, pow2_natCast, Nat.cast_mul, mul_assoc]

/-- Inside a binade the mantissa grows by one unit, at its end the next binade begins. -/
theorem ueQuanta_strictMono : StrictMono ueQuanta := by
  refine strictMono_nat_of_lt_succ fun b => ?_
  unfold ueQuanta
  by_cases hend : b % 8 = 7
  · have hdiv : (b + 1) / 8 = b / 8 + 1 := by omega
    have hmod : (b + 1) % 8 = 0 := by omega
    rw [hdiv, hmod, hend, if_neg (Nat.succ_ne_zero _), Nat.add_sub_cancel]
    split
    · next h => rw [h]; omega
    · next h =>
      obtain ⟨e, he⟩ := Nat.exists_eq_add_of_le' (Nat.one_le_iff_ne_zero.mpr h)
      rw [he, Nat.add_sub_cancel, Nat.pow_succ]
      have := Nat.two_pow_pos e
      omega
  · have hdiv : (b + 1) / 8 = b / 8 := by omega
    have hmod : (b + 1) % 8 = b % 8 + 1 := by omega
    rw [hdiv, hmod]
    split
    · exact Nat.lt_succ_self b
    · exact Nat.mul_lt_mul_of_pos_right (by omega) (Nat.two_pow_pos _)

theorem ueVal_lt_iff (a b : Nat) : ueVal a < ueVal b ↔ a < b := by
  rw [ueVal_eq_quanta, ueVal_eq_quanta, mul_lt_mul_iff_of_pos_right (pow2_pos _), Nat.cast_lt, ueQuanta_strictMono.lt_iff_lt]

/-! ### Bytes of a list -/

theorem byteAt_append_left {a : List Byte} {i : Nat} (h : i < a.length) (l : List Byte) : byteAt (a ++ l) i = byteAt a i := by
  simp only [byteAt, List.getD_append _ _ _ _ h]

theorem byteAt_append_right (a l : List Byte) (i : Nat) : byteAt (a ++ l) (a.length + i) = byteAt l i := by
  simp only [byteAt, List.getD_append_right _ _ _ _ (Nat.le_add_right _ _), Nat.add_sub_cancel_left]

theorem leAt_append_left {a : List Byte} {i n : Nat} (h : i + n ≤ a.length) (l : List Byte) : leAt (a ++ l) i n = leAt a i n := by
  induction n generalizing i with
  | zero => rfl
  | succ n ih => rw [leAt, leAt, byteAt_append_left (by omega), ih (by omega)]

/-! ### The check code (R50, R51) -/

theorem fletcher_lt (l : List Byte) (ab : Nat × Nat) (h : ab.1 < 65535 ∧ ab.2 < 65535) : (fletcher l ab).1 < 65535 ∧ (fletcher l ab).2 < 65535 := by
  induction l, ab using fletcher.induct with
  | case1 lo hi rest a b a' ih => exact ih ⟨Nat.mod_lt _ (by decide), Nat.mod_lt _ (by decide)⟩
  | case2 l ab hshort => rwa [fletcher.eq_2 l ab hshort]

theorem checkCode_lt (body : List Byte) : checkCode body < 256 ^ 4 := by
  obtain ⟨ha, hb⟩ := fletcher_lt body (0, 0) (by decide)
  dsimp only [checkCode]
  omega

theorem length_sealLine {l : Line} (h : l.length = 68) : (sealLine l).length = 72 := by simp [sealLine, h]

theorem lineOk_sealLine {l : Line} (h : l.length = 68) : lineOk (sealLine l) = true := by
  have ht : l.take 68 = l := List.take_of_length_le h.le
  have hbody : (sealLine l).take 68 = l := by rw [sealLine, ht, ← h, List.take_left]
  have hcode : leAt (sealLine l) 68 4 = checkCode l := by
    have := leAt_append_right l (leBytes 4 (checkCode l) ++ []) 0 4
    rw [leAt_leBytes_append 4 (checkCode_lt l), List.append_nil, h] at this
    rwa [sealLine, ht]
  rw [lineOk, hbody, hcode, decide_eq_true rfl]

section
variable {data scales : List Byte} (hd : data.length = 64) (hs : scales.length = 4)
include hd hs

theorem length_mkLine : (mkLine data scales).length = 72 := length_sealLine (by simp [hd, hs])

theorem lineOk_mkLine : lineOk (mkLine data scales) = true := lineOk_sealLine (by simp [hd, hs])

theorem mkLine_eq : mkLine data scales = data ++ (scales ++ leBytes 4 (checkCode (data ++ scales))) := by
  have ht : (data ++ scales).take 68 = data ++ scales := List.take_of_length_le (by simp [hd, hs])
  rw [mkLine, sealLine, ht, List.append_assoc]

theorem byteAt_mkLine {i : Nat} (hi : i < 64) : byteAt (mkLine data scales) i = byteAt data i := by
  rw [mkLine_eq hd hs, byteAt_append_left (hd.symm ▸ hi)]

theorem leAt_mkLine {i n : Nat} (hi : i + n ≤ 64) : leAt (mkLine data scales) i n = leAt data i n := by
  rw [mkLine_eq hd hs, leAt_append_left (hd.symm ▸ hi)]

theorem scaleByte_mkLine {b : Nat} (hb : b < 4) : scaleByte (mkLine data scales) b = byteAt scales b := by
  rw [mkLine_eq hd hs, scaleByte, ← hd, byteAt_append_right, byteAt_append_left (hs.symm ▸ hb)]

end

/-! ### Nibbles of a line (R48) -/

theorem length_packNibbles (ns : List Nat) : (packNibbles ns).length = ns.length / 2 := by
  induction ns using packNibbles.induct with
  | case1 a b rest ih => simp only [packNibbles, List.length_cons, ih]; omega
  | case2 l h =>
    match l, h with
    | [], _ => rfl
    | [_], _ => simp [packNibbles]
    | a :: b :: r, h => exact absurd rfl (h a b r)

/-- Nibble `i` of packed nibbles stands in byte `i / 2`, the even one low. -/
theorem nibble_packNibbles {ns : List Nat} (heven : ns.length % 2 = 0) (i : Nat) :
    byteAt (packNibbles ns) (i / 2) / 16 ^ (i % 2) % 16 = ns.getD i 0 % 16 := by
  induction ns using packNibbles.induct generalizing i with
  | case1 a b rest ih =>
    have hbyte : (BitVec.ofNat 8 (a % 16 + 16 * (b % 16))).toNat = a % 16 + 16 * (b % 16) := by
      rw [BitVec.toNat_ofNat]; omega
    match i with
    | 0 => simp only [packNibbles, byteAt, List.getD_cons_zero, Nat.zero_div, Nat.zero_mod, hbyte]; omega
    | 1 =>
      simp only [packNibbles, byteAt, List.getD_cons_zero, List.getD_cons_succ, show 1 / 2 = 0 from rfl, show 1 % 2 = 1 from rfl, hbyte]; omega
    | i + 2 =>
      have hih := ih (by rw [List.length_cons, List.length_cons] at heven; omega) i
      rw [byteAt] at hih
      rw [packNibbles, byteAt, Nat.add_div_right i (by decide), Nat.add_mod_right, List.getD_cons_succ, List.getD_cons_succ, List.getD_cons_succ, hih]
  | case2 l h =>
    match l, h with
    | [], _ => simp [packNibbles, byteAt]
    | [_], _ => simp at heven
    | a :: b :: r, h => exact absurd rfl (h a b r)

theorem nibbleAt_mkLine_packNibbles {ns : List Nat} {scales : List Byte} (hn : ns.length = 128) (hs : scales.length = 4) {b j : Nat} (hb : b < 4)
    (hj : j < 32) : nibbleAt (mkLine (packNibbles ns) scales) b j = ns.getD (32 * b + j) 0 % 16 := by
  have hbyte : 16 * b + j / 2 = (32 * b + j) / 2 := by omega
  have hpart : j % 2 = (32 * b + j) % 2 := by omega
  rw [nibbleAt, byteAt_mkLine (by rw [length_packNibbles, hn]) hs (by omega), hbyte, hpart, nibble_packNibbles (by rw [hn])]

/-! ### Blocks of a line (R48, R65) -/

/-- Lists of `k` items each, one after another: item `j` of list `i` stands at `k * i + j`. -/
theorem getD_flatMap_of_length {α β : Type} {f : α → List β} {k : Nat} {l : List α} (h : ∀ x ∈ l, (f x).length = k) {i j : Nat} (hi : i < l.length)
    (hj : j < k) (d : β) : (l.flatMap f).getD (k * i + j) d = (f l[i]).getD j d := by
  induction l generalizing i with
  | nil => exact absurd hi (Nat.not_lt_zero i)
  | cons x xs ih =>
    have hx : (f x).length = k := h x List.mem_cons_self
    rw [List.flatMap_cons]
    cases i with
    | zero => rw [Nat.mul_zero, Nat.zero_add, List.getD_append _ _ _ _ (by omega), List.getElem_cons_zero]
    | succ i =>
      have hsub : k * (i + 1) + j - (f x).length = k * i + j := by rw [hx, Nat.mul_succ]; omega
      rw [List.getD_append_right _ _ _ _ (by rw [hx, Nat.mul_succ]; omega), hsub, List.getElem_cons_succ,
        ih (fun y hy => h y (List.mem_cons_of_mem x hy))]

theorem length_flatMap_of_length {α β : Type} {f : α → List β} {k : Nat} {l : List α} (h : ∀ x ∈ l, (f x).length = k) :
    (l.flatMap f).length = k * l.length := by
  rw [List.length_flatMap, List.map_congr_left h]; simp [Nat.mul_comm]

/-- Four blocks of 32 element codes of `top` values. -/
structure FourBlocks (top : Nat) (bs : List OutBlk) : Prop where
  length : bs.length = 4
  scale_lt : ∀ b ∈ bs, b.scale < 256
  codes_length : ∀ b ∈ bs, b.codes.length = 32
  code_lt : ∀ b ∈ bs, ∀ c ∈ b.codes, c < top

/-- The scale bytes of blocks that are written. -/
def scaleBytes (bs : List OutBlk) : List Byte := bs.map fun b => BitVec.ofNat 8 b.scale

/-- A line of one nibble of each element of four blocks. -/
def nibbleLine (nib : Nat → Nat) (bs : List OutBlk) : Line := mkLine (packNibbles (bs.flatMap fun b => b.codes.map nib)) (scaleBytes bs)

theorem packBlocks_four {fmt : Nat} (h : fmt ≤ 2) (bs : List OutBlk) : packBlocks fmt bs = [nibbleLine id bs] := by
  simp [packBlocks, nibbleLine, scaleBytes, show fmt ≠ 3 by omega, h]

theorem packBlocks_int8 (bs : List OutBlk) :
    packBlocks 3 bs = [nibbleLine (fun c => (int8Digits c).1) bs, nibbleLine (fun c => (int8Digits c).2) bs] := rfl

section
variable {top : Nat} {bs : List OutBlk} (hbs : FourBlocks top bs) (nib : Nat → Nat)
include hbs

theorem length_scaleBytes : (scaleBytes bs).length = 4 := by rw [scaleBytes, List.length_map, hbs.length]

theorem length_nibbles : (bs.flatMap fun b => b.codes.map nib).length = 128 := by
  rw [length_flatMap_of_length (k := 32) fun b hb => by rw [List.length_map, hbs.codes_length b hb], hbs.length]

theorem length_nibbleData : (packNibbles (bs.flatMap fun b => b.codes.map nib)).length = 64 := by rw [length_packNibbles, length_nibbles hbs]

theorem length_nibbleLine : (nibbleLine nib bs).length = 72 := length_mkLine (length_nibbleData hbs nib) (length_scaleBytes hbs)

theorem lineOk_nibbleLine : lineOk (nibbleLine nib bs) = true := lineOk_mkLine (length_nibbleData hbs nib) (length_scaleBytes hbs)

theorem scaleByte_nibbleLine {b : Nat} (hb : b < bs.length) : scaleByte (nibbleLine nib bs) b = bs[b].scale := by
  rw [nibbleLine, scaleByte_mkLine (length_nibbleData hbs nib) (length_scaleBytes hbs) (hbs.length ▸ hb), byteAt, scaleBytes,
    List.getD_eq_getElem _ _ (by simpa using hb), List.getElem_map, BitVec.toNat_ofNat, Nat.mod_eq_of_lt (hbs.scale_lt _ (List.getElem_mem hb))]

theorem nibbleAt_nibbleLine {b j : Nat} (hb : b < bs.length) (hj : j < bs[b].codes.length) :
    nibbleAt (nibbleLine nib bs) b j = nib bs[b].codes[j] % 16 := by
  have hlen : ∀ x ∈ bs, (x.codes.map nib).length = 32 := fun x hx => by rw [List.length_map, hbs.codes_length x hx]
  have hj32 : j < 32 := hbs.codes_length _ (List.getElem_mem hb) ▸ hj
  rw [nibbleLine, nibbleAt_mkLine_packNibbles (length_nibbles hbs nib) (length_scaleBytes hbs) (hbs.length ▸ hb) hj32,
    getD_flatMap_of_length hlen hb hj32, List.getD_eq_getElem _ _ (by simpa using hj), List.getElem_map]

/-- Lines whose scale bytes agree and whose elements decode to `val` of the codes read as the blocks with those values. -/
theorem lineBlocks_eq_of_elems {fmt : Nat} {hi lo : Line} {val : Nat → Int}
    (hscale : ∀ b (hb : b < bs.length), scaleByte hi b = bs[b].scale ∧ (fmt = 3 → scaleByte lo b = bs[b].scale))
    (helem : ∀ b (hb : b < bs.length) j (hj : j < bs[b].codes.length), (if fmt = 1 then fp4Half (nibbleAt hi b j)
      else if fmt = 2 then int4 (nibbleAt hi b j) else 16 * int4 (nibbleAt hi b j) + (nibbleAt lo b j : Int)) = val bs[b].codes[j]) :
    lineBlocks fmt hi lo 128 = bs.map fun b => { scale := b.scale, elems := b.codes.map val } := by
  refine List.ext_getElem (by simp [lineBlocks, hbs.length]) fun b h₁ h₂ => ?_
  have hb : b < bs.length := by simpa using h₂
  have hcodes := hbs.codes_length _ (List.getElem_mem hb)
  obtain ⟨hhi, hlo⟩ := hscale b hb
  simp only [lineBlocks, List.getElem_map, List.getElem_range, Blk.mk.injEq]
  constructor
  · by_cases h3 : fmt = 3
    · simp [h3, hhi, hlo h3]
    · simp [h3, hhi]
  · refine List.ext_getElem (by simp [hcodes]) fun j h₃ h₄ => ?_
    have hj : j < bs[b].codes.length := by simpa using h₄
    have hin : 32 * b + j < 128 := by have := hbs.length; omega
    rw [List.getElem_map, List.getElem_map, List.getElem_range, if_pos hin, helem b hb j hj]

end

/-! ### Digits of an INT8 element (R65) -/

/-- An INT8 element is 16 times its high digit, a two's complement nibble, plus its low digit. -/
theorem int8_of_digits {c : Nat} (h : c < 256) :
    16 * int4 (c / 16 % 16 % 16) + ((c % 16 % 16 : Nat) : Int) = if c < 128 then (c : Int) else (c : Int) - 256 := by
  unfold int4
  split <;> split <;> omega

theorem lineBlocks_packBlocks {fmt : Nat} {bs : List OutBlk} (h1 : 1 ≤ fmt) (h3 : fmt ≤ 3) (hbs : FourBlocks (if fmt = 3 then 256 else 16) bs) :
    lineBlocks fmt ((packBlocks fmt bs).getD 0 zeroLine) ((packBlocks fmt bs).getD 1 zeroLine) 128
      = bs.map fun b => { scale := b.scale, elems := b.codes.map fun c =>
          if fmt = 1 then fp4Half c else if fmt = 2 then int4 c else if c < 128 then (c : Int) else (c : Int) - 256 } := by
  by_cases h : fmt = 3
  · subst h
    refine lineBlocks_eq_of_elems hbs (fun b hb => ⟨scaleByte_nibbleLine hbs _ hb, fun _ => scaleByte_nibbleLine hbs _ hb⟩) fun b hb j hj => ?_
    have hc := hbs.code_lt _ (List.getElem_mem hb) _ (List.getElem_mem hj)
    simp only [packBlocks_int8, List.getD_cons_zero, List.getD_cons_succ, nibbleAt_nibbleLine hbs _ hb hj]
    exact int8_of_digits hc
  · rw [packBlocks_four (by omega)]
    refine lineBlocks_eq_of_elems hbs (fun b hb => ⟨scaleByte_nibbleLine hbs _ hb, fun h' => absurd h' h⟩) fun b hb j hj => ?_
    have hc : bs[b].codes[j] < 16 := by simpa [h] using hbs.code_lt _ (List.getElem_mem hb) _ (List.getElem_mem hj)
    rw [List.getD_cons_zero, nibbleAt_nibbleLine hbs id hb hj, id, Nat.mod_eq_of_lt hc]
    have h12 : fmt = 1 ∨ fmt = 2 := by omega
    rcases h12 with rfl | rfl <;> rfl

end Sys2Proof.Machine

namespace Sys2Proof.Proofs
open Sys2Proof.Machine

/-- Settles O1: a byte is the number of units of 2^-17 in a strictly rising way, within each binade and from one to the next. -/
theorem blockScaleBytesKeepOrder : Obligations.BlockScaleBytesKeepOrder := by
  unfold Obligations.BlockScaleBytesKeepOrder
  exact fun a b _ _ => (ueVal_lt_iff a b).symm

/-- Settles O2: each line holds one nibble of every element beside the scale bytes, and an INT8 element is the sum of its digits. -/
theorem packedBlocksReadBack : Obligations.PackedBlocksReadBack := by
  unfold Obligations.PackedBlocksReadBack
  intro fmt bs h1 h3 hlen hblk
  have hbs : FourBlocks (if fmt = 3 then 256 else 16) bs :=
    ⟨hlen, fun b hb => (hblk b hb).1, fun b hb => (hblk b hb).2.1, fun b hb => (hblk b hb).2.2⟩
  refine ⟨?_, fun l hl => ?_, lineBlocks_packBlocks h1 h3 hbs⟩
  · split
    · next h => rw [h, packBlocks_int8]; rfl
    · rw [packBlocks_four (by omega)]; rfl
  · have hline : ∃ nib, l = nibbleLine nib bs := by
      by_cases h : fmt = 3
      · rw [h, packBlocks_int8, List.mem_pair] at hl
        exact hl.elim (fun e => ⟨_, e⟩) fun e => ⟨_, e⟩
      · rw [packBlocks_four (by omega), List.mem_singleton] at hl
        exact ⟨_, hl⟩
    obtain ⟨nib, rfl⟩ := hline
    exact ⟨length_nibbleLine hbs nib, lineOk_nibbleLine hbs nib⟩

end Sys2Proof.Proofs
end

section
/-! PROOF. Rounding to a binary format (R67, R68): the binary logarithm of a rational, and that a code of a layout is what its own value encodes to. -/
namespace Sys2Proof.Machine

/-! ### The binary logarithm -/

theorem pow2_lt_pow2 {a b : Int} : pow2 a < pow2 b ↔ a < b := by
  rw [pow2_eq_zpow, pow2_eq_zpow, zpow_lt_zpow_iff_right₀ one_lt_two]

/-- Binades of a numerator and a denominator give the quotient's up to one. -/
theorem quotient_between {n d a b : Nat} (hn : 2 ^ a ≤ n ∧ n < 2 ^ (a + 1)) (hd : 2 ^ b ≤ d ∧ d < 2 ^ (b + 1)) :
    pow2 ((a : Int) - b - 1) ≤ (n : ℚ) / d ∧ (n : ℚ) / d < pow2 ((a : Int) - b + 1) := by
  have hpos : (0 : ℚ) < d := Nat.cast_pos.mpr (lt_of_lt_of_le (Nat.two_pow_pos b) hd.1)
  have hna : pow2 (a : Int) ≤ n := by rw [pow2_natCast]; exact Nat.cast_le.mpr hn.1
  have hna' : (n : ℚ) < pow2 ((a + 1 : Nat) : Int) := by rw [pow2_natCast]; exact Nat.cast_lt.mpr hn.2
  have hdb : pow2 (b : Int) ≤ d := by rw [pow2_natCast]; exact Nat.cast_le.mpr hd.1
  have hdb' : (d : ℚ) ≤ pow2 ((b + 1 : Nat) : Int) := by rw [pow2_natCast]; exact Nat.cast_le.mpr hd.2.le
  rw [le_div_iff₀ hpos, div_lt_iff₀ hpos]
  constructor
  · calc pow2 ((a : Int) - b - 1) * d ≤ pow2 ((a : Int) - b - 1) * pow2 ((b + 1 : Nat) : Int) := mul_le_mul_of_nonneg_left hdb' (pow2_pos _).le
      _ = pow2 (a : Int) := by rw [← pow2_add]; congr 1; omega
      _ ≤ n := hna
  · calc (n : ℚ) < pow2 ((a + 1 : Nat) : Int) := hna'
      _ = pow2 ((a : Int) - b + 1) * pow2 (b : Int) := by rw [← pow2_add]; congr 1; omega
      _ ≤ pow2 ((a : Int) - b + 1) * d := mul_le_mul_of_nonneg_left hdb (pow2_pos _).le

theorem ilog2_spec {r : ℚ} (h : 0 < r) : pow2 (ilog2 r) ≤ r ∧ r < pow2 (ilog2 r + 1) := by
  have hnum : 0 < r.num := Rat.num_pos.mpr h
  have hr : (r.num.toNat : ℚ) / r.den = r := by
    rw [← Int.cast_natCast r.num.toNat, Int.toNat_of_nonneg hnum.le, Rat.num_div_den]
  obtain ⟨hlo, hhi⟩ := quotient_between ⟨Nat.log2_self_le (show r.num.toNat ≠ 0 by omega), Nat.lt_log2_self⟩ ⟨Nat.log2_self_le r.den_nz, Nat.lt_log2_self⟩
  rw [hr] at hlo hhi
  unfold ilog2
  dsimp only
  split
  · next hle => exact ⟨hle, hhi⟩
  · next hlt => rw [sub_add_cancel]; exact ⟨hlo, not_le.mp hlt⟩

theorem ilog2_lt_iff {r : ℚ} (h : 0 < r) (e : Int) : ilog2 r < e ↔ r < pow2 e := by
  obtain ⟨hlo, hhi⟩ := ilog2_spec h
  refine ⟨fun he => ?_, fun hr => pow2_lt_pow2.mp (hlo.trans_lt hr)⟩
  rcases (show ilog2 r + 1 ≤ e by omega).eq_or_lt with he' | he'
  · exact he' ▸ hhi
  · exact hhi.trans (pow2_lt_pow2.mpr he')

theorem ilog2_eq {r : ℚ} {e : Int} (hlo : pow2 e ≤ r) (hhi : r < pow2 (e + 1)) : ilog2 r = e := by
  have h := (pow2_pos e).trans_le hlo
  have h₁ : ilog2 r < e + 1 := (ilog2_lt_iff h _).mpr hhi
  have h₂ : ¬ ilog2 r < e := fun hlt => absurd ((ilog2_lt_iff h e).mp hlt) (not_lt.mpr hlo)
  omega

/-! ### Codes of a layout and their values -/

theorem roundNat_natCast (n : Nat) : roundNat (n : ℚ) = n := by simp [roundNat, Nat.mod_one]

/-- `m` quanta of the binade at `e` round to themselves. -/
theorem Layout.codeRne_quanta (f : Layout) {m : Nat} {e : Int} (hm : m ≠ 0) (hmin : f.emin ≤ e) (htop : m < 2 ^ (f.mb + 1))
    (hbin : e = f.emin ∨ 2 ^ f.mb ≤ m) : f.codeRne ((m : ℚ) * pow2 (e - f.mb)) = (e - f.emin).toNat * 2 ^ f.mb + m := by
  have hpos : 0 < (m : ℚ) * pow2 (e - f.mb) := mul_pos (Nat.cast_pos.mpr (Nat.pos_of_ne_zero hm)) (pow2_pos _)
  have hlt : (m : ℚ) * pow2 (e - f.mb) < pow2 (e + 1) := by
    calc (m : ℚ) * pow2 (e - f.mb) < pow2 ((f.mb + 1 : Nat) : Int) * pow2 (e - f.mb) :=
          mul_lt_mul_of_pos_right (by rw [pow2_natCast]; exact Nat.cast_lt.mpr htop) (pow2_pos _)
      _ = pow2 (e + 1) := by rw [← pow2_add]; congr 1; omega
  have hexp : (if ilog2 ((m : ℚ) * pow2 (e - f.mb)) < f.emin then f.emin else ilog2 ((m : ℚ) * pow2 (e - f.mb))) = e := by
    rcases hbin with rfl | hnorm
    · have := (ilog2_lt_iff hpos _).mpr hlt
      split <;> omega
    · have hge : pow2 e ≤ (m : ℚ) * pow2 (e - f.mb) := by
        calc pow2 e = pow2 (f.mb : Int) * pow2 (e - f.mb) := by rw [← pow2_add]; congr 1; omega
          _ ≤ (m : ℚ) * pow2 (e - f.mb) := mul_le_mul_of_nonneg_right (by rw [pow2_natCast]; exact Nat.cast_le.mpr hnorm) (pow2_pos _).le
      rw [ilog2_eq hge hlt, if_neg (by omega)]
  have hquanta : (m : ℚ) * pow2 (e - f.mb) * pow2 (f.mb - e) = m := by
    rw [mul_assoc, ← pow2_add, show e - (f.mb : Int) + (f.mb - e) = ((0 : Nat) : Int) by omega, pow2_natCast]; simp
  rw [codeRne, if_neg hpos.ne', scaled, hexp, hquanta, roundNat_natCast]

/-- Rounding the magnitude of a code gives the code. -/
theorem Layout.codeRne_magOf (f : Layout) (code : Nat) : f.codeRne (f.magOf code) = code := by
  have hcode : code / 2 ^ f.mb * 2 ^ f.mb + code % 2 ^ f.mb = code := Nat.div_add_mod' code _
  have hmod : code % 2 ^ f.mb < 2 ^ f.mb := Nat.mod_lt _ (Nat.two_pow_pos _)
  have hpow : 2 ^ (f.mb + 1) = 2 * 2 ^ f.mb := Nat.pow_succ'
  unfold magOf
  dsimp only
  split
  · next he =>
    rw [he, Nat.zero_mul, Nat.zero_add] at hcode
    rw [hcode]
    by_cases h0 : code = 0
    · simp [h0, codeRne]
    · rw [f.codeRne_quanta h0 le_rfl (by omega) (.inl rfl)]; simp
  · next he =>
    obtain ⟨e, hq⟩ := Nat.exists_eq_add_of_le' (Nat.pos_of_ne_zero he)
    have hexp : f.emin - f.mb + (((e + 1 : Nat) : Int) - 1) = f.emin + e - f.mb := by omega
    rw [hq] at hcode ⊢
    rw [hexp, f.codeRne_quanta (by have := Nat.two_pow_pos f.mb; omega) (by omega) (by omega) (.inr (Nat.le_add_right _ _)), add_sub_cancel_left,
      Int.toNat_natCast, ← Nat.add_assoc, ← Nat.succ_mul, hcode]

/-- What is not a NaN encodes to the pattern that it was decoded from. -/
theorem Layout.encode_decode (f : Layout) (nan : Nat) {x : Nat} (hx : x < 2 ^ (f.eb + f.mb + 1)) (h : f.decode x ≠ .nan) :
    f.encode nan (f.decode x) = x := by
  have hsign : (if (decide (x / 2 ^ (f.eb + f.mb) % 2 = 1) : Bool) then 2 ^ (f.eb + f.mb) else 0) + x % 2 ^ (f.eb + f.mb) = x := by
    have hq : x / 2 ^ (f.eb + f.mb) < 2 := Nat.div_lt_of_lt_mul (by rwa [Nat.pow_succ] at hx)
    have hdm := Nat.div_add_mod' x (2 ^ (f.eb + f.mb))
    rcases Nat.le_one_iff_eq_zero_or_eq_one.mp (Nat.lt_succ_iff.mp hq) with hc | hc <;> rw [hc] at hdm ⊢ <;> simpa using hdm
  unfold decode at h ⊢
  dsimp only at h ⊢
  by_cases hfin : x % 2 ^ (f.eb + f.mb) ≤ f.top
  · rw [if_pos hfin, encode, f.codeRne_magOf, if_neg (not_lt.mpr hfin), hsign]
  · rw [if_neg hfin] at h ⊢
    by_cases hinf : x % 2 ^ (f.eb + f.mb) = f.top + 1
    · rw [if_pos hinf, encode, ← hinf, hsign]
    · exact absurd (if_neg hinf) h

/-- An FP32 pattern comes back from its value, every NaN as the canonical one (R68). -/
theorem enc32_dec32 (w : Word) : enc32 (dec32 w) = if isNan32 w then 0x7FC00000#32 else w := by
  unfold isNan32
  by_cases h : dec32 w = .nan
  · rw [h]; rfl
  · have hnan : (dec32 w).isNan = false := by
      cases hd : dec32 w with
      | nan => exact absurd hd h
      | inf => rfl
      | num => rfl
    rw [hnan, enc32, dec32, lay32.encode_decode _ w.isLt h, BitVec.ofNat_toNat, BitVec.setWidth_eq]; rfl

end Sys2Proof.Machine
end

section
/-! PROOF. Vector loads and stores (R49, R52, R131, R132, R155, R171, R224): what leaves the vector registers as they are, what a load of a T0 line puts
into a register, and the line that a store of an FP32 row leaves. -/
namespace Sys2Proof.Machine
open Sys2Proof.Claims

/-! ### Vector registers that stay -/

/-- Every vector register of every nib is as it was. -/
def SameVregs (s t : State) : Prop := ∀ m k, t.vreg m k = s.vreg m k

theorem SameVregs.refl (s : State) : SameVregs s s := fun _ _ => rfl

theorem SameVregs.trans {s t u : State} (h : SameVregs s t) (h' : SameVregs t u) : SameVregs s u := fun m k => (h' m k).trans (h m k)

theorem SameVregs.of_nibs {s t : State} (h : t.nibs = s.nibs) : SameVregs s t := fun m k => by unfold State.vreg State.nib; rw [h]

theorem SameVregs.modNib (s : State) (n : Nat) {f : Nib → Nib} (h : ∀ x, (f x).vregs = x.vregs) : SameVregs s (s.modNib n f) := fun m k => by
  unfold State.vreg
  by_cases hm : m = n
  · rw [hm, State.modNib_eq, State.setNib_nib, h]
  · rw [State.modNib_eq, State.setNib_nib_other _ _ _ _ hm]

theorem SameVregs.ite {s t u : State} {c : Prop} [Decidable c] (ht : SameVregs s t) (hu : SameVregs s u) : SameVregs s (if c then t else u) := by
  split
  · exact ht
  · exact hu

theorem SameVregs.foldl {α : Type} {s t : State} (ht : SameVregs s t) (f : State → α → State) (l : List α) (h : ∀ u a, SameVregs u (f u a)) :
    SameVregs s (l.foldl f t) :=
  foldl_keeps (SameVregs s) f l t (fun u a hu => hu.trans (h u a)) ht

variable (s : State)

theorem State.sameVregs_t0Write (nib line : Nat) (l : Line) : SameVregs s (s.t0Write nib line l) := by
  obtain ⟨m, u, e⟩ := s.t0Write_frame nib line l
  exact .of_nibs (by rw [e])

theorem State.sameVregs_noteHdr (nib line : Nat) : SameVregs s (s.noteHdr nib line) := by
  obtain ⟨k, e⟩ := s.noteHdr_frame nib line
  exact .of_nibs (by rw [e])

theorem State.sameVregs_hdr (nib line : Nat) (l : Line) : SameVregs s ((s.t0Write nib line l).noteHdr nib line) :=
  (s.sameVregs_t0Write nib line l).trans (State.sameVregs_noteHdr _ nib line)

theorem State.sameVregs_eccWell (die n : Nat) (e : EccResult) : SameVregs s (s.eccWell die n e) := by
  obtain ⟨w, h, o, c, e⟩ := s.eccWell_frame die n e
  exact .of_nibs (by rw [e])

theorem State.sameVregs_spill (die layer n : Nat) : SameVregs s (s.spill die layer n) := by
  unfold State.spill
  split
  · exact .refl s
  · dsimp only
    split
    · obtain ⟨h, p, e⟩ := State.fire_frame (State.modWell (s.setWell die _) die _) 140
      exact .of_nibs (by rw [e]; rfl)
    · exact .of_nibs rfl

theorem State.sameVregs_countQuant (nib : Nat) (bs : List QBlk) : SameVregs s (s.countQuant nib bs) := .modNib s nib fun _ => rfl

theorem State.sameVregs_countRows (nib : Nat) (recs : List (List Word)) : SameVregs s (s.countRows nib recs) := .modNib s nib fun _ => rfl

theorem State.sameVregs_t0WriteAll (nib line : Nat) (ls : List Line) : SameVregs s (s.t0WriteAll nib line ls) := by
  induction ls generalizing s line with
  | nil => exact .refl s
  | cons l ls ih => exact (s.sameVregs_t0Write nib line l).trans (ih _ _)

theorem State.sameVregs_writeRow (nib : Nat) (o : OutDesc) (t : Rat) (h : Option Nat) (whole zero : Bool) (row : Nat) (vs : List FV) (i fuel : Nat) :
    SameVregs s (s.writeRow nib o t h whole zero row vs i fuel) := by
  induction fuel generalizing s i with
  | zero => exact .refl s
  | succ fuel ih =>
    unfold State.writeRow
    dsimp only
    have hline : ∀ bs at_ ls l, SameVregs s (if o.fmt ≤ 5 then (s.countQuant nib bs).t0WriteAll nib at_ ls else s.t0Write nib at_ l) := fun bs at_ ls l =>
      .ite ((s.sameVregs_countQuant nib bs).trans (State.sameVregs_t0WriteAll _ nib at_ ls)) (s.sameVregs_t0Write nib at_ l)
    exact .ite (.refl s) ((hline _ _ _ _).trans (ih _ _))

theorem State.sameVregs_writeRows (nib : Nat) (o : OutDesc) (t : Rat) (h : Option Nat) (whole : Bool) (full : List Bool) (row : Nat)
    (rows : List (List FV)) : SameVregs s (s.writeRows nib o t h whole full row rows) := by
  induction rows generalizing s row with
  | nil => exact .refl s
  | cons vs rows ih => exact (s.sameVregs_writeRow nib o t h whole _ row vs 0 _).trans (ih _ _)

theorem State.sameVregs_writeSideLine (nib line : Nat) (t : Rat) (lists : List (List Nat)) (col0 : Nat) (vs : List FV) (v : Nat) :
    SameVregs s (s.writeSideLine nib line t lists col0 vs v) := by
  unfold State.writeSideLine
  dsimp only
  split
  · exact .refl s
  · exact (s.sameVregs_countQuant nib _).trans (State.sameVregs_t0Write _ nib _ _)

theorem State.sameVregs_writeSide (nib : Nat) (o : OutDesc) (hdr line stride : Nat) (scale : Word) (lists : List (List Nat)) (rows : List (List FV)) :
    SameVregs s (s.writeSide nib o hdr line stride scale lists rows) := by
  unfold State.writeSide
  dsimp only
  exact .foldl (s.sameVregs_hdr nib hdr _) _ _ fun t e =>
    .foldl (.refl t) _ _ fun u v => u.sameVregs_writeSideLine nib (line + (o.row0 + e.2) * stride) _ lists o.col0 e.1 v

/-- Writing an output tile changes memory, counters and what is told of them, and no vector register. -/
theorem State.sameVregs_writeTile (nib : Nat) (o : OutDesc) (whole : Bool) (valid : Nat) (full : List Bool) (rows : List (List FV)) :
    SameVregs s (s.writeTile nib o whole valid full rows) := by
  unfold State.writeTile
  split
  · exact s.sameVregs_writeRows nib o 1 none whole full 0 rows
  · dsimp only
    have hspill := s.sameVregs_spill (nib / 2048) o.layer (outLists o (rows.take valid)).2
    have hrows : ∀ u t h rs, SameVregs s u → SameVregs s (u.writeRows nib o t h whole full 0 rs) := fun u t h rs hu =>
      hu.trans (u.sameVregs_writeRows nib o t h whole full 0 rs)
    split
    on_goal 1 => refine hrows _ _ _ _ ?_
    on_goal 2 => refine SameVregs.trans (hrows _ _ _ _ ?_) (State.sameVregs_hdr _ nib _ _)
    all_goals
      split
      · exact hspill
      · exact hspill.trans (State.sameVregs_writeSide _ nib o _ _ _ _ _ rows)
      · exact (hspill.trans (State.sameVregs_t0WriteAll _ nib _ _)).trans (State.sameVregs_writeSide _ nib o _ _ _ _ _ rows)

theorem State.sameVregs_storeRecords (nib line : Nat) (rows : Bool) (recs : List (List Word)) (n : Nat) :
    SameVregs s (s.storeRecords nib line rows recs n) := by
  induction n generalizing s line recs with
  | zero => exact .refl s
  | succ n ih => exact (s.sameVregs_t0Write nib line _).trans (ih _ _ _)

/-- A store of plain values or of records keeps the registers that it stores. -/
theorem State.sameVregs_storeRows (nib : Nat) (rows : List (List Nat)) (cols : Nat) (o : OutDesc) {kind : StoreKind}
    (h : kind = .plain ∨ kind = .statRecords ∨ kind = .rowRecords) : SameVregs s (s.storeRows nib rows cols o kind) := by
  rcases h with rfl | rfl | rfl
  · exact s.sameVregs_writeTile nib o _ _ _ _
  · exact s.sameVregs_storeRecords nib _ _ _ _
  · exact (s.sameVregs_storeRecords nib _ _ _ _).trans (State.sameVregs_countRows _ nib _)

/-! ### Lanes of a register -/

theorem length_zeroLanes : zeroLanes.length = 64 := List.length_replicate

theorem length_fillLanes (ws : List Word) : (fillLanes ws).length = 64 := by simp [fillLanes, length_zeroLanes]

theorem fillLanes_of_length {ws : List Word} (h : ws.length = 64) : fillLanes ws = ws := by rw [fillLanes, ← h, List.take_left]

theorem State.length_vreg (n r : Nat) : (s.vreg n r).length = 64 := length_fillLanes _

theorem length_putLanes {reg ws : List Word} {lane : Nat} (hreg : reg.length = 64) (h : lane + ws.length ≤ 64) : (putLanes reg lane ws).length = 64 := by
  simp only [putLanes, List.length_take, List.length_append, List.length_drop, hreg]
  omega

/-- Lane `lane + i` holds word `i` of those put there. -/
theorem getD_putLanes {reg ws : List Word} {lane i : Nat} (hreg : reg.length = 64) (h : lane + ws.length ≤ 64) (hi : i < ws.length) (d : Word) :
    (putLanes reg lane ws).getD (lane + i) d = ws.getD i d := by
  have hlane : (reg.take lane).length = lane := by rw [List.length_take]; omega
  rw [putLanes, List.getD_eq_getElem?_getD, List.getElem?_take_of_lt (by omega), List.append_assoc, List.getElem?_append_right (by omega),
    hlane, Nat.add_sub_cancel_left, List.getElem?_append_left hi, List.getD_eq_getElem?_getD]

/-! ### Writes of vector registers -/

@[simp] theorem State.setVreg_mem (n r : Nat) (v : List Word) : (s.setVreg n r v).mem = s.mem := rfl

theorem State.nib_setVreg (n r : Nat) (v : List Word) :
    (s.setVreg n r v).nib n = { s.nib n with vregs := sset (fun _ => zeroLanes) (s.nib n).vregs (r % 64) v } := by
  rw [State.setVreg, State.modNib_eq, State.setNib_nib]

theorem State.vreg_setVreg (n r : Nat) (v : List Word) : (s.setVreg n r v).vreg n r = fillLanes v := by
  rw [State.vreg, State.nib_setVreg, sget_sset]

theorem State.vreg_setVreg_other {n r k : Nat} (v : List Word) (h : k % 64 ≠ r % 64) : (s.setVreg n r v).vreg n k = s.vreg n k := by
  rw [State.vreg, State.nib_setVreg, sget_sset_other v h, State.vreg]

theorem onlyNib_setVreg {s t : State} {n : Nat} (h : onlyNib s t n) (r : Nat) (v : List Word) : onlyNib s (t.setVreg n r v) n := by
  obtain ⟨ht, hothers⟩ := h
  refine ⟨?_, fun m hm => ?_⟩
  · rw [State.setVreg, State.modNib_eq, State.setNib, ht]
  · rw [State.setVreg, State.modNib_eq, State.setNib_nib_other _ _ _ _ hm, hothers m hm]

/-! ### A nib's load of a T0 line (R52, R224) -/

@[simp] theorem State.nibLoad_mem (n line : Nat) : (s.nibLoad n line).1.mem = s.mem := by
  obtain ⟨x, w, h, o, c, e⟩ := s.nibLoad_frame n line
  rw [e]

/-- A load counts a failed check and reports what error correction met, whatever it counts. -/
theorem State.nibLoad_fst (n line : Nat) : (s.nibLoad n line).1 =
    (if s.loadErrs n line = 0 then s else s.modNib n fun x => { x with lchkerr := satAdd x.lchkerr 1 }).eccWell (n / 2048) 1 (s.t0Ecc n line) := by
  unfold State.nibLoad State.countLoads
  dsimp only
  by_cases h : s.loadErrs n line = 0
  · rw [if_pos h, if_pos (by simp [h])]
  · rw [if_neg h, if_neg (by simp [h])]; rfl

theorem State.sameVregs_nibLoad (n line : Nat) : SameVregs s (s.nibLoad n line).1 := by
  rw [State.nibLoad_fst]
  refine SameVregs.trans ?_ (State.sameVregs_eccWell _ _ _ _)
  exact .ite (.refl s) (.modNib s n fun _ => rfl)

theorem State.nib_eccWell (die k : Nat) (e : EccResult) (n : Nat) : (s.eccWell die k e).nib n = s.nib n := by
  obtain ⟨w, h, o, c, he⟩ := s.eccWell_frame die k e
  rw [he]; rfl

theorem State.nibLoad_lchkerr (n line : Nat) : ((s.nibLoad n line).1.nib n).lchkerr =
    if s.loadErrs n line = 0 then (s.nib n).lchkerr else satAdd (s.nib n).lchkerr 1 := by
  rw [State.nibLoad_fst, State.nib_eccWell]
  split
  · rfl
  · rw [State.modNib_eq, State.setNib_nib]

theorem State.onlyNib_nibLoad {n line : Nat} (h : s.t0Ecc n line = .clean) : onlyNib s (s.nibLoad n line).1 n := by
  rw [State.nibLoad_fst, h, State.eccWell]
  split
  · exact ⟨rfl, fun _ _ => rfl⟩
  · exact ⟨rfl, fun m hm => State.setNib_nib_other _ _ _ _ hm⟩

/-- A line of T0 fails its check or cannot be corrected. -/
def State.loadFails (n line : Nat) : Bool := !lineOk (s.t0Read n line) || decide (s.eccOf (t0At n line) = .uncorrectable)

theorem State.loadErrs_eq {n line : Nat} (h : line < t0Lines) : s.loadErrs n line = if s.loadFails n line then 1 else 0 := by
  rw [State.loadErrs, State.loadFails, State.t0Ecc, if_pos h, Bool.or_comm]

theorem State.length_t0Read (n line : Nat) : (s.t0Read n line).length = 72 := by
  unfold State.t0Read State.readBytes outsideLine
  split <;> simp

/-! ### What a load changes -/

theorem State.upsetAt_t0_frame (n line : Nat) (e : EccResult) : ∃ u, s.upsetAt { space := .t0 n, at_ := line } e = { s with upset := u } := by
  unfold State.upsetAt State.addUpset
  dsimp only
  split
  · split <;> exact ⟨_, rfl⟩
  · exact ⟨_, rfl⟩

/-- Memory is as it was, and of nib `n`'s registers those alone that `rs` names can differ. -/
def FillsOnly (n : Nat) (rs : List Nat) (s t : State) : Prop := t.mem = s.mem ∧ ∀ r, (∀ k ∈ rs, r % 64 ≠ k % 64) → t.vreg n r = s.vreg n r

section
variable {n : Nat} {rs : List Nat} {s t : State}

theorem FillsOnly.refl : FillsOnly n rs s s := ⟨rfl, fun _ _ => rfl⟩

theorem FillsOnly.ite {u : State} {c : Prop} [Decidable c] (ht : FillsOnly n rs s t) (hu : FillsOnly n rs s u) :
    FillsOnly n rs s (if c then t else u) := by
  split
  · exact ht
  · exact hu

theorem FillsOnly.setVreg (h : FillsOnly n rs s t) {k : Nat} (hk : k ∈ rs) (v : List Word) : FillsOnly n rs s (t.setVreg n k v) :=
  ⟨h.1, fun r hr => (t.vreg_setVreg_other v (hr k hk)).trans (h.2 r hr)⟩

theorem FillsOnly.nibLoad (h : FillsOnly n rs s t) (line : Nat) : FillsOnly n rs s (t.nibLoad n line).1 :=
  ⟨(t.nibLoad_mem n line).trans h.1, fun r hr => (t.sameVregs_nibLoad n line n r).trans (h.2 r hr)⟩

theorem FillsOnly.nibLoad_ite {c : Prop} [Decidable c] (h : FillsOnly n rs s t) (line : Nat) (l : Line) :
    FillsOnly n rs s (if c then t.nibLoad n line else (t, l)).1 := by
  split
  · exact h.nibLoad line
  · exact h

theorem FillsOnly.upsetAt (line : Nat) (e : EccResult) : FillsOnly n rs s (s.upsetAt { space := .t0 n, at_ := line } e) := by
  obtain ⟨u, hu⟩ := s.upsetAt_t0_frame n line e
  rw [hu]
  exact ⟨rfl, fun _ _ => rfl⟩

/-- A load of a line of values fills its register, and the next one where the line holds more than 64 elements. -/
theorem FillsOnly.loadLine {dst : Nat} (h : FillsOnly n [dst, dst + 1] s t) (line fmt : Nat) (hdr : Option Nat) (col0 quarter : Nat) :
    FillsOnly n [dst, dst + 1] s (t.loadLine n dst line fmt hdr col0 quarter) := by
  have hplace : ∀ {u : State} {c : Prop} [Decidable c] {v w w' : List Word}, FillsOnly n [dst, dst + 1] s u →
      FillsOnly n [dst, dst + 1] s (if c then u.setVreg n dst v else (u.setVreg n dst w).setVreg n (dst + 1) w') := fun hu =>
    .ite (hu.setVreg (by simp) _) ((hu.setVreg (by simp) _).setVreg (by simp) _)
  unfold State.loadLine
  cases hdr with
  | none => exact hplace ((h.nibLoad line).nibLoad_ite _ _)
  | some a => exact hplace (((h.nibLoad a).nibLoad line).nibLoad_ite _ _)

theorem FillsOnly.putRecords (h : FillsOnly n rs s t) (dst lane i : Nat) (recs : List (List Word)) (k : Nat)
    (hrs : ∀ j, i ≤ j → j < i + k → dst + j ∈ rs) : FillsOnly n rs s (t.putRecords n dst lane i recs k) := by
  induction k generalizing t i with
  | zero => exact h
  | succ k ih => exact ih (h.setVreg (hrs i le_rfl (by omega)) _) (i + 1) fun j hj hj' => hrs j (by omega) (by omega)

/-- A load of records fills three registers, or four. -/
theorem FillsOnly.loadRecords {dst : Nat} (h : FillsOnly n [dst, dst + 1, dst + 2, dst + 3] s t) (line quarter : Nat) (rows : Bool) :
    FillsOnly n [dst, dst + 1, dst + 2, dst + 3] s (t.loadRecords n dst line quarter rows) := by
  refine (h.nibLoad line).putRecords dst _ 0 _ _ fun j _ hj => ?_
  have hj4 : j < 4 := by split at hj <;> omega
  interval_cases j <;> simp

end

/-! ### A load of an FP32 line (R131) -/

theorem State.onNib_of_runs {s : State} {n : Nat} (h : nibRuns s n) (f : State → State) : s.onNib n f = .next (f s) := by
  rw [State.onNib, h.1, h.2]; rfl

theorem exec_vectorLoad (n dst line : Nat) (kind : LoadKind) (hdr : Option Nat) (col0 quarter : Nat) (ecc : EccResult) :
    exec (.vectorLoad n dst line kind hdr col0 quarter ecc) s = execVectorLoad n dst line kind hdr col0 quarter ecc s := rfl

/-- The registers that a load can fill. -/
def loadedRegs (kind : LoadKind) (dst : Nat) : List Nat :=
  match kind with
  | .values _ => [dst, dst + 1]
  | _ => [dst, dst + 1, dst + 2, dst + 3]

/-- A load completes, and changes neither memory nor registers beyond those that it names (R155, R171). -/
theorem exec_vectorLoad_fills {s : State} {n : Nat} (h : nibRuns s n) (dst line : Nat) (kind : LoadKind) (hdr : Option Nat) (col0 quarter : Nat)
    (ecc : EccResult) : ∃ t : State, exec (.vectorLoad n dst line kind hdr col0 quarter ecc) s = .next t
      ∧ FillsOnly n (loadedRegs kind dst) s t := by
  rw [exec_vectorLoad, execVectorLoad, State.onNib_of_runs h]
  refine ⟨_, rfl, ?_⟩
  cases kind with
  | values fmt => exact (FillsOnly.upsetAt line ecc).loadLine line fmt hdr col0 quarter
  | statRecords => exact (FillsOnly.upsetAt line ecc).loadRecords line quarter false
  | rowRecords => exact (FillsOnly.upsetAt line ecc).loadRecords line quarter true

theorem length_lineWords_f32 (hi lo : Line) (keep : Nat) (t : Option Rat) : (lineWords 8 hi lo keep t false).length = 16 := by
  simp [lineWords, elemsPerLine]

/-- Word `i` of an FP32 line in its register form: 0 in an empty quarter, NaN in a poisoned one. -/
theorem getD_lineWords_f32 (hi lo : Line) (keep : Nat) (t : Option Rat) {i : Nat} (h : i < 16) : (lineWords 8 hi lo keep t false).getD i 0#32 =
    if scaleByte hi (i / 4) = 0 then 0#32 else if scaleByte hi (i / 4) = 0x78 then w32 (leAt hi (4 * i) 4) else 0x7FC00000#32 := by
  rw [List.getD_eq_getElem _ _ (by rw [length_lineWords_f32]; exact h)]
  simp only [lineWords, elemsPerLine, Bool.false_eq_true, Nat.reduceEqDiff, Nat.reduceLeDiff, if_false, if_true, List.getElem_map, List.getElem_range]
  split
  · next h0 => rw [if_pos h0]
  · next h78 => rw [h78]; rfl
  · next h0 h78 => rw [if_neg h0, if_neg h78]

theorem scaleByte_poisonLine {l : Line} (hl : 64 ≤ l.length) {b : Nat} (hb : b < 4) : scaleByte (poisonLine l) b = 0xFF := by
  rw [poisonLine, scaleByte_mkLine (by simp [hl]) (by simp) hb, byteAt, List.getD_replicate _ hb]; rfl

/-- A load of an FP32 line puts its words into a quarter of the register. -/
theorem State.loadLine_f32 (n dst line quarter : Nat) : s.loadLine n dst line 8 none 0 quarter = (s.nibLoad n line).1.setVreg n dst
    (putLanes ((s.nibLoad n line).1.vreg n dst) (quarter % 4 * 16) (lineWords 8 (s.loadedLine n line) zeroLine 16 none false)) := by
  unfold State.loadLine
  simp only [State.loadFmt, Nat.reduceEqDiff, ↓reduceIte, length_lineWords_f32, Nat.reduceLeDiff]
  rfl

/-- A load of an FP32 line of T0 that meets no new error. -/
theorem exec_vectorLoad_f32 {s : State} {n : Nat} (h : nibRuns s n) (dst line quarter : Nat) :
    exec (.vectorLoad n dst line (.values 8) none 0 quarter .clean) s = .next ((s.nibLoad n line).1.setVreg n dst
      (putLanes ((s.nibLoad n line).1.vreg n dst) (quarter % 4 * 16) (lineWords 8 (s.loadedLine n line) zeroLine 16 none false))) := by
  have hup : s.upsetAt { space := .t0 n, at_ := line } .clean = s := by unfold State.upsetAt State.addUpset; simp
  rw [exec_vectorLoad, execVectorLoad, State.onNib_of_runs h, hup]
  exact congrArg _ (s.loadLine_f32 n dst line quarter)

section
variable {s : State} {n line : Nat} (hline : line < t0Lines)
include hline

/-- What a nib uses of a line that fails its check or cannot be corrected is NaN in every quarter. -/
theorem scaleByte_loadedLine {b : Nat} (hb : b < 4) : scaleByte (s.loadedLine n line) b =
    if s.loadFails n line then 0xFF else scaleByte (s.t0Read n line) b := by
  rw [State.loadedLine, s.loadErrs_eq hline]
  split
  · next hf => rw [if_neg (by decide), scaleByte_poisonLine (by rw [s.length_t0Read]; decide) hb]
  · rw [if_pos rfl]

/-- A lane that a load of an FP32 line fills. -/
theorem regLane_of_load {quarter i : Nat} (hq : quarter < 4) (hi : i < 16) {t u : State} {dst : Nat}
    (ht : t = u.setVreg n dst (putLanes (u.vreg n dst) (quarter % 4 * 16) (lineWords 8 (s.loadedLine n line) zeroLine 16 none false))) :
    regLane t n dst (16 * quarter + i) =
      if s.loadFails n line then 0x7FC00000#32
      else if scaleByte (s.t0Read n line) (i / 4) = 0 then 0#32
      else if scaleByte (s.t0Read n line) (i / 4) = 0x78 then w32 (leAt (s.t0Read n line) (4 * i) 4)
      else 0x7FC00000#32 := by
  have hplace : 16 * quarter + i = quarter % 4 * 16 + i := by omega
  have hlen : (lineWords 8 (s.loadedLine n line) zeroLine 16 none false).length = 16 := length_lineWords_f32 _ _ _ _
  rw [regLane, ht, State.vreg_setVreg, fillLanes_of_length (length_putLanes (u.length_vreg n dst) (by omega)), hplace,
    getD_putLanes (u.length_vreg n dst) (by omega) (by omega), getD_lineWords_f32 _ _ _ _ hi, scaleByte_loadedLine hline (by omega)]
  split
  · rfl
  · next hf => rw [State.loadedLine, s.loadErrs_eq hline, if_neg hf, if_pos rfl]

end

/-! ### The line of sixteen FP32 values (R49, R132) -/

section
variable {vs : List FV} (hvs : vs.length = 16)
include hvs

theorem map_getD_range (d : FV) : (List.range 16).map (fun e => vs.getD e d) = vs :=
  List.ext_getElem (by simp [hvs]) fun i _ h => by simp [h]

theorem widePosition_f32 : widePosition 8 16 vs = mkLine (vs.flatMap fun v => leBytes 4 (enc32 v).toNat)
    ((List.range 4).map fun b => if ((vs.drop (4 * b)).take 4).any FV.isNan then 0xFF#8 else 0x78#8) := by
  have hall : (List.range 16).map (fun e => if e < 16 then vs.getD e (.num false 0) else .num false 0) = vs := by
    conv_rhs => rw [← map_getD_range hvs (.num false 0)]
    exact List.map_congr_left fun e he => if_pos (List.mem_range.mp he)
  have hdata : ((List.range 16).flatMap fun i => leBytes 4 (enc32 (vs.getD i (.num false 0))).toNat) = vs.flatMap fun v => leBytes 4 (enc32 v).toNat := by
    conv_rhs => rw [← map_getD_range hvs (.num false 0), List.flatMap_map]
  have htags : (List.range 4).map (fun b => if 16 ≤ 4 * b then 0#8 else if ((vs.drop (4 * b)).take 4).any FV.isNan then 0xFF#8 else 0x78#8)
      = (List.range 4).map fun b => if ((vs.drop (4 * b)).take 4).any FV.isNan then 0xFF#8 else 0x78#8 :=
    List.map_congr_left fun b hb => if_neg (by have := List.mem_range.mp hb; omega)
  have hn : elemsPerLine 8 = 16 := rfl
  simp only [widePosition, wideLine, hn, hall, Nat.reduceDiv, Nat.reduceEqDiff, if_false, hdata, htags]

theorem length_f32Data : (vs.flatMap fun v => leBytes 4 (enc32 v).toNat).length = 64 := by rw [length_flatMap_leBytes, hvs]

theorem length_widePosition_f32 : (widePosition 8 16 vs).length = 72 := by
  rw [widePosition_f32 hvs]; exact length_mkLine (length_f32Data hvs) (by simp)

theorem lineOk_widePosition_f32 : lineOk (widePosition 8 16 vs) = true := by
  rw [widePosition_f32 hvs]; exact lineOk_mkLine (length_f32Data hvs) (by simp)

theorem leAt_widePosition_f32 {i : Nat} (hi : i < vs.length) : leAt (widePosition 8 16 vs) (4 * i) 4 = (enc32 vs[i]).toNat := by
  rw [widePosition_f32 hvs, leAt_mkLine (length_f32Data hvs) (by simp) (by omega),
    leAt_flatMap_leBytes 4 (fun v => (enc32 v).toNat) vs hi (BitVec.isLt _)]

theorem scaleByte_widePosition_f32 {b : Nat} (hb : b < 4) :
    scaleByte (widePosition 8 16 vs) b = if ((vs.drop (4 * b)).take 4).any FV.isNan then 0xFF else 0x78 := by
  rw [widePosition_f32 hvs, scaleByte_mkLine (length_f32Data hvs) (by simp) hb, byteAt, List.getD_eq_getElem _ _ (by simpa using hb),
    List.getElem_map, List.getElem_range]
  split <;> rfl

end

/-! ### A store of an FP32 row (R131, R132) -/

/-- The values of the lowest sixteen lanes of a register. -/
def rowValues (n r : Nat) : List FV := (List.range 16).map fun e => dec32 (regLane s n r e)

theorem length_rowValues (n r : Nat) : (rowValues s n r).length = 16 := by simp [rowValues]

theorem storeValues_f32 (n r : Nat) : (storeValues 8 [s.vreg n r]).take 16 = rowValues s n r := by
  have hlen := s.length_vreg n r
  refine List.ext_getElem (by simp [storeValues, rowValues, hlen]) fun i h₁ h₂ => ?_
  have hi : i < 16 := by simpa [rowValues] using h₂
  simp [storeValues, rowValues, regLane, hlen, show i < 64 by omega]

/-- Values `4 * b` to `4 * b + 3` are those of quarter `b`. -/
theorem any_isNan_rowValues (n r : Nat) {b : Nat} (hb : b < 4) :
    (((rowValues s n r).drop (4 * b)).take 4).any FV.isNan = (List.range 4).any fun i => isNan32 (regLane s n r (4 * b + i)) := by
  have hquarter : ((rowValues s n r).drop (4 * b)).take 4 = (List.range 4).map fun i => dec32 (regLane s n r (4 * b + i)) := by
    refine List.ext_getElem ?_ fun i h₁ h₂ => ?_
    · rw [List.length_take, List.length_drop, length_rowValues, List.length_map, List.length_range]; omega
    · simp [rowValues]
  rw [hquarter, List.any_map]; rfl

/-- A store of any kind completes. -/
theorem exec_vectorStore {s : State} {n : Nat} (h : nibRuns s n) (rows : List (List Nat)) (cols : Nat) (o : OutDesc) (kind : StoreKind) :
    exec (.vectorStore n rows cols o kind) s = .next (s.storeRows n rows cols o kind) := by
  have he : exec (.vectorStore n rows cols o kind) s = s.onNib n fun s => s.storeRows n rows cols o kind := rfl
  rw [he, State.onNib_of_runs h]

section
variable (n : Nat) {o : OutDesc} (hfmt : o.fmt = 8) (hrow : o.row0 = 0) (hcol : o.col0 = 0) (hk : 16 ≤ o.validK)
include hfmt hrow hcol hk

/-- A row of one line position is one line. -/
theorem State.writeRow_f32 {vs : List FV} (hvs : vs.length = 16) (zero : Bool) :
    s.writeRow n o 1 none false zero 0 vs 0 2 = s.t0Write n o.line (widePosition 8 16 vs) := by
  have hn : elemsPerLine 8 = 16 := rfl
  have htake : vs.take 16 = vs := List.take_of_length_le hvs.le
  have hdrop : vs.drop 16 = [] := List.drop_eq_nil_of_le hvs.le
  have hne : vs.isEmpty = false := by cases vs with | nil => simp at hvs | cons => rfl
  simp [State.writeRow, hfmt, hrow, hcol, hn, htake, hdrop, hne, hvs, hk]

theorem exec_vectorStore_f32 (h : nibRuns s n) (r : Nat) :
    exec (.vectorStore n [[r]] 16 o .plain) s = .next (s.t0Write n o.line (widePosition 8 16 (rowValues s n r))) := by
  have hn : elemsPerLine 8 = 16 := rfl
  rw [exec_vectorStore h, ← s.writeRow_f32 n hfmt hrow hcol hk (length_rowValues s n r) false]
  simp only [State.storeRows, List.map_cons, List.map_nil, hfmt, storeValues_f32, State.writeTile, State.writeRows, length_rowValues, hn]
  rfl

end

/-- A T0 line's write stores its bytes and touches no other. -/
theorem State.memOutside_t0Write (n line : Nat) {l : Line} (hl : l.length = 72) : memOutside s (s.t0Write n line l) (t0At n line) 72 := by
  intro x hx
  unfold State.t0Write
  split
  · exact memGet_memWrite_outside _ _ (by rwa [List.length_take, hl])
  · rfl

end Sys2Proof.Machine

namespace Sys2Proof.Proofs
open Sys2Proof.Machine Sys2Proof.Claims

/-- Settles O8: a load is a read of its line, counted where it fails, and a write of the registers it names; a store of an FP32 row is one write of the
line of its values, and what a store of any tile does besides leaves the registers. -/
theorem vectorLinesAreLoadedAndStored : Obligations.VectorLinesAreLoadedAndStored := by
  unfold Obligations.VectorLinesAreLoadedAndStored
  refine ⟨fun s n dst line quarter hruns hline hq => ⟨?_, fun kind hdr col0 ecc => ?_⟩, fun s n r o hruns hfmt _ _ hrow hcol _ hk hline => ?_⟩
  · refine ⟨_, exec_vectorLoad_f32 hruns dst line quarter, ?_, fun hecc => ?_, fun r hr => ?_, ?_, fun i hi => regLane_of_load hline hq hi rfl⟩
    · rw [State.setVreg_mem, State.nibLoad_mem]
    · exact onlyNib_setVreg (s.onlyNib_nibLoad (by rw [State.t0Ecc, if_pos hline, hecc])) _ _
    · rw [State.vreg_setVreg_other _ _ hr, s.sameVregs_nibLoad]
    · rw [State.nib_setVreg, State.nibLoad_lchkerr, s.loadErrs_eq hline, State.loadFails]
      split
      · rw [if_neg (by decide)]
      · rw [if_pos rfl]
  · obtain ⟨t, ht, hmem, hregs⟩ := exec_vectorLoad_fills hruns dst line kind hdr col0 quarter ecc
    refine ⟨t, ht, hmem, fun r h0 h1 hrec => hregs r fun k hk => ?_⟩
    cases kind with
    | values fmt =>
      simp only [loadedRegs, List.mem_cons, List.not_mem_nil, or_false] at hk
      obtain rfl | rfl := hk
      · exact h0
      · exact h1
    | statRecords | rowRecords =>
      obtain ⟨h2, h3⟩ := hrec fun fmt h => by cases h
      simp only [loadedRegs, List.mem_cons, List.not_mem_nil, or_false] at hk
      obtain rfl | rfl | rfl | rfl := hk
      · exact h0
      · exact h1
      · exact h2
      · exact h3
  · have hvs := length_rowValues s n r
    have hread := s.t0Read_t0Write n o.line _ (length_widePosition_f32 hvs) hline
    refine ⟨_, exec_vectorStore_f32 s n hfmt hrow hcol hk hruns r, ?_, s.memOutside_t0Write n o.line (length_widePosition_f32 hvs), ?_,
      fun i hi => ?_, fun b hb => ?_, fun rows cols out kind => ⟨_, exec_vectorStore hruns rows cols out kind, fun h => s.sameVregs_storeRows n rows cols out h⟩⟩
    · obtain ⟨m, u, e⟩ := s.t0Write_frame n o.line (widePosition 8 16 (rowValues s n r))
      rw [e]
    · rw [hread, lineOk_widePosition_f32 hvs]
    · rw [hread, leAt_widePosition_f32 hvs (hvs.symm ▸ hi)]
      simp only [rowValues, List.getElem_map, List.getElem_range, enc32_dec32]
    · rw [hread, scaleByte_widePosition_f32 hvs hb, any_isNan_rowValues s n r hb]

end Sys2Proof.Proofs
end

section
/-! PROOF. MX conversion (R70, R71, R236): which bytes a mover's reads, writes and conversions can change, the lines and bytes that a row
becomes, and the layouts that both conversions keep. -/
namespace Sys2Proof.Machine
open Sys2Proof.Claims

/-! ### Bytes that can change -/

/-- Bytes outside `P` are as they were, and so is what the movers are at. -/
def WritesOnly (P : Nat → Prop) (s t : State) : Prop := t.movers = s.movers ∧ ∀ x, ¬ P x → memGet t.mem x = memGet s.mem x

/-- Bytes `a` to `a + n - 1`. -/
def inRun (a n x : Nat) : Prop := a ≤ x ∧ x < a + n

section
variable {P : Nat → Prop} {s t u : State}

theorem WritesOnly.of_read (hmovers : t.movers = s.movers) (hmem : t.mem = s.mem) : WritesOnly P s t := ⟨hmovers, fun _ _ => by rw [hmem]⟩

theorem WritesOnly.refl : WritesOnly P s s := .of_read rfl rfl

theorem WritesOnly.trans (h : WritesOnly P s t) (h' : WritesOnly P t u) : WritesOnly P s u :=
  ⟨h'.1.trans h.1, fun x hx => (h'.2 x hx).trans (h.2 x hx)⟩

theorem WritesOnly.ite {c : Prop} [Decidable c] (ht : WritesOnly P s t) (hu : WritesOnly P s u) : WritesOnly P s (if c then t else u) := by
  split
  · exact ht
  · exact hu

theorem WritesOnly.modWell (h : WritesOnly P s t) (d : Nat) (f : Well → Well) : WritesOnly P s (t.modWell d f) := h.trans (.of_read rfl rfl)

theorem WritesOnly.mono {Q : Nat → Prop} (h : WritesOnly P s t) (hPQ : ∀ x, P x → Q x) : WritesOnly Q s t :=
  ⟨h.1, fun x hx => h.2 x fun hP => hx (hPQ x hP)⟩

theorem WritesOnly.foldl {α : Type} (ht : WritesOnly P s t) (f : State → α → State) (l : List α) (h : ∀ u, ∀ a ∈ l, WritesOnly P u (f u a)) :
    WritesOnly P s (l.foldl f t) := by
  induction l generalizing t with
  | nil => exact ht
  | cons a l ih => exact ih (ht.trans (h t a List.mem_cons_self)) fun u b hb => h u b (List.mem_cons_of_mem a hb)

/-- A run outside `P` reads as before. -/
theorem WritesOnly.readBytes_eq (h : WritesOnly P s t) {a n : Nat} (hout : ∀ x, inRun a n x → ¬ P x) : t.readBytes a n = s.readBytes a n := by
  refine List.ext_getElem (by simp [State.readBytes]) fun i h₁ h₂ => ?_
  have hi : i < n := by simpa [State.readBytes] using h₁
  simp only [State.readBytes, memRead_getElem]
  exact h.2 _ (hout _ ⟨Nat.le_add_right a i, by omega⟩)

theorem WritesOnly.moverBusy (h : WritesOnly P s t) (m : MoverRef) : t.moverBusy m = s.moverBusy m := by
  rw [State.moverBusy, State.moverBusy, h.1]

end

variable {P : Nat → Prop} (s : State)

/-! ### Reads -/

theorem State.writesOnly_pmapBad (idx : Nat) : WritesOnly P s (s.pmapBad idx) := by
  obtain ⟨h, p, e⟩ := s.raiseLoan_frame 5 idx
  exact .of_read (by rw [State.pmapBad, e]) (by rw [State.pmapBad, e])

theorem State.writesOnly_rawRead (a n : Nat) : WritesOnly P s (s.rawRead a n).1 := by
  obtain ⟨l, k, h, o, c, e⟩ := s.rawRead_frame a n
  exact .of_read (by rw [e]) (by rw [e])

theorem State.length_rawRead (a n : Nat) : (s.rawRead a n).2.length = n := by
  unfold State.rawRead
  dsimp only
  split
  · exact List.length_replicate
  · refine foldl_keeps (fun bs : List Byte => bs.length = n) _ _ _ (fun bs e h => ?_) (memRead_length _ _ _)
    rw [List.length_mapIdx, h]

theorem State.writesOnly_rawBytes (a n : Nat) : WritesOnly P s (s.rawBytes a n).1 := by
  unfold State.rawBytes
  dsimp only
  split
  · exact s.writesOnly_rawRead a n
  · exact (s.writesOnly_rawRead a _).trans (State.writesOnly_rawRead _ _ _)

theorem State.length_rawBytes (a n : Nat) : (s.rawBytes a n).2.length = n := by
  unfold State.rawBytes
  dsimp only
  split
  · exact s.length_rawRead a n
  · rw [List.length_append, State.length_rawRead, State.length_rawRead]; omega

theorem State.writesOnly_moverLine (m : MoverRef) (p : Place) : WritesOnly P s (s.moverLine m p).1 := by
  unfold State.moverLine
  split
  · exact s.writesOnly_pmapBad _
  · obtain ⟨n, w, k, h, o, c, e⟩ := s.moverRead_frame (chkDie m) p
    exact .of_read (by rw [e]) (by rw [e])

theorem State.writesOnly_tileLine (m : MoverRef) (d : MoverDesc) (i : Nat) : WritesOnly P s (s.tileLine m d i).1 := s.writesOnly_moverLine m _

/-! ### Writes -/

/-- A mover's write of a line changes bytes of that line alone. -/
theorem State.writesOnly_moverWrite (m : MoverRef) (p : Place) (l : Line) : WritesOnly (inRun (addrOf p) 72) s (s.moverWrite m p l) := by
  have hrun : ∀ a, WritesOnly (inRun a 72) s (s.writeBytes a (l.take 72)) := fun a =>
    ⟨rfl, fun x hx => memGet_memWrite_outside _ _ (by simp only [inRun, List.length_take] at hx ⊢; omega)⟩
  unfold State.moverWrite State.placeWrite addrOf
  obtain ⟨space, at_⟩ := p
  cases space with
  | raw => exact s.writesOnly_pmapBad _
  | t0 n =>
    dsimp only [State.t0Write]
    split
    · exact hrun _
    · exact .refl
  | well w =>
    dsimp only [State.wellWrite]
    split
    · exact hrun _
    · exact .refl
  | line =>
    rcases s.t2Write_cases at_ l (writerOf m) with ⟨n, h, p, k, e⟩ | ⟨-, -, -, -, d, e⟩
    · exact .of_read (by rw [e]) (by rw [e])
    · dsimp only
      rw [e]
      exact hrun _

theorem State.writesOnly_rawWrite (a : Nat) (bs : List Byte) (who : Writer) : WritesOnly (inRun a bs.length) s (s.rawWrite a bs who) := by
  rcases s.rawWrite_cases a bs who with ⟨n, h, p, k, e⟩ | ⟨-, -, -, e⟩
  · exact .of_read (by rw [e]) (by rw [e])
  · have ha : t2At (a / 2 ^ 24) (a % 2 ^ 24) = a := Nat.div_add_mod' a _
    rw [e, ha]
    exact ⟨rfl, fun x hx => memGet_memWrite_outside _ _ (by unfold inRun at hx; omega)⟩

/-- A write of bytes, across the end of a page too, changes those bytes alone. -/
theorem State.writesOnly_rawPut (a : Nat) (bs : List Byte) (who : Writer) : WritesOnly (inRun a bs.length) s (s.rawPut a bs who) := by
  unfold State.rawPut
  dsimp only
  split
  · exact s.writesOnly_rawWrite a bs who
  · next hroom =>
    refine ((s.writesOnly_rawWrite a _ who).mono fun x hx => ?_).trans ((State.writesOnly_rawWrite _ _ _ who).mono fun x hx => ?_)
    · simp only [inRun, List.length_take] at hx ⊢; omega
    · simp only [inRun, List.length_drop] at hx ⊢; omega

theorem State.writesOnly_moverPut (m : MoverRef) (p : Place) (i : Nat) (ls : List Line)
    (hP : ∀ j, i ≤ j → j < i + ls.length → ∀ x, inRun (addrOf (placeStep p j)) 72 x → P x) : WritesOnly P s (s.moverPut m p i ls) := by
  induction ls generalizing s i with
  | nil => exact .refl
  | cons l ls ih =>
    rw [List.length_cons] at hP
    exact ((s.writesOnly_moverWrite m _ l).mono (hP i le_rfl (by omega))).trans (ih _ (i + 1) fun j hj hj' => hP j (by omega) (by omega))

/-! ### MX_IMPORT (R70) -/

theorem State.writesOnly_mxScales (d : MoverDesc) (r n : Nat) : WritesOnly P s (s.mxScales d r n).1 := by
  induction n generalizing s r with
  | zero => exact .refl
  | succ n ih => exact (s.writesOnly_rawBytes _ _).trans (ih _ _)

theorem State.length_mxScales (d : MoverDesc) (r n : Nat) : (s.mxScales d r n).2.length = n := by
  induction n generalizing s r with
  | zero => rfl
  | succ n ih => rw [State.mxScales, List.length_cons, ih]

/-- A row has one scale byte for every 32 elements. -/
theorem State.length_of_mem_mxScales (d : MoverDesc) (r n : Nat) : ∀ x ∈ (s.mxScales d r n).2, x.length = d.k / 32 := by
  induction n generalizing s r with
  | zero => exact fun x hx => absurd hx List.not_mem_nil
  | succ n ih =>
    intro x hx
    rcases List.mem_cons.mp hx with rfl | hx
    · rw [List.length_map, State.length_rawBytes]
    · exact ih _ _ x hx

theorem length_packBlocks {fmt : Nat} (bs : List OutBlk) : (packBlocks fmt bs).length = if fmt = 3 then 2 else 1 := by
  unfold packBlocks
  dsimp only
  split
  · rfl
  · split <;> rfl

/-- The lines of an imported row: those that R236 gives a row of the tile. -/
theorem length_mxRow (d : MoverDesc) (t : Int) {scales : List Nat} (bytes : List Byte) (hk : d.k % 32 = 0) (hs : scales.length = d.k / 32) :
    (mxRow d.mxint8 t scales bytes).1.length = mxLines d := by
  have hpos : ceilDiv scales.length 4 = ceilDiv d.k 128 := by unfold ceilDiv; omega
  have hper : ((if d.mxint8 then 3 else 1) = 3 : Prop) ↔ d.mxint8 = true := by cases d.mxint8 <;> simp
  dsimp only [mxRow]
  rw [length_flatMap_of_length (k := if d.mxint8 then 2 else 1) fun i _ => by rw [length_packBlocks]; simp only [hper]]
  rw [List.length_range, hpos, mxLines, Nat.mul_comm]

/-- Rows from `r` on are written at their places of the tile, after its header. -/
theorem State.writesOnly_mxRows (m : MoverRef) (d : MoverDesc) (t : Int) (r : Nat) (rows : List (List Nat)) (hk : d.k % 32 = 0)
    (hrows : ∀ x ∈ rows, x.length = d.k / 32)
    (hP : ∀ j, 1 + r * mxLines d ≤ j → j < 1 + (r + rows.length) * mxLines d → ∀ x, inRun (addrOf (placeStep d.dst j)) 72 x → P x) :
    WritesOnly P s (s.mxRows m d t (mxLines d) r rows) := by
  induction rows generalizing s r with
  | nil => exact .refl
  | cons scales rest ih =>
    have hlen : r + (scales :: rest).length = r + 1 + rest.length := by rw [List.length_cons]; omega
    have hnext : (r + 1) * mxLines d = r * mxLines d + mxLines d := Nat.succ_mul _ _
    have hend : (r + 1) * mxLines d ≤ (r + 1 + rest.length) * mxLines d := Nat.mul_le_mul_right _ (by omega)
    rw [hlen] at hP
    rw [State.mxRows]
    refine WritesOnly.trans (WritesOnly.trans ?_ (State.writesOnly_moverPut _ m d.dst _ _ fun j hj hj' => hP j hj ?_))
      (ih _ (r + 1) (fun x hx => hrows x (List.mem_cons_of_mem _ hx)) fun j hj hj' => hP j (by omega) hj')
    · exact .ite ((s.writesOnly_rawBytes _ _).modWell _ _) (s.writesOnly_rawBytes _ _)
    · rw [length_mxRow d t _ hk (hrows scales List.mem_cons_self)] at hj'
      omega

/-- The header of an imported tile. -/
def mxHdr (d : MoverDesc) (scale : Word) : TileHdr :=
  { scale := scale, fmt := if d.mxint8 then 3 else 1, flags := 0, linesPerRow := mxLines d, rows := d.rows, stream := 0, tileIndex := 0, validK := d.k,
    bad := false }

/-- MX_IMPORT reads, writes the header line, then the rows. -/
theorem State.mxImport_steps (m : MoverRef) (d : MoverDesc) (hk : d.k % 32 = 0)
    (hP : ∀ j, 1 ≤ j → j < 1 + d.rows * mxLines d → ∀ x, inRun (addrOf (placeStep d.dst j)) 72 x → P x) :
    ∃ u scale, WritesOnly (fun _ => False) s u ∧ WritesOnly P (u.moverWrite m d.dst (writeHdr (mxHdr d scale))) (s.mxImport m d) := by
  refine ⟨_, _, s.writesOnly_mxScales d 0 d.rows, State.writesOnly_mxRows _ m d _ 0 _ hk (s.length_of_mem_mxScales d 0 d.rows) fun j hj hj' => ?_⟩
  rw [State.length_mxScales] at hj'
  exact hP j (by omega) (by simpa using hj')

theorem length_writeHdr (h : TileHdr) : (writeHdr h).length = 72 := length_mkLine (by simp) (by simp)

/-! ### MX_EXPORT (R71) -/

/-- A block as it is read has 32 element integers and as many codes. -/
def FullBlock (x : Blk × List Nat) : Prop := x.1.elems.length = 32 ∧ x.2.length = 32

theorem length_elems_of_mem_lineBlocks {fmt : Nat} {hi lo : Line} {keep : Nat} {b : Blk} (h : b ∈ lineBlocks fmt hi lo keep) : b.elems.length = 32 := by
  obtain ⟨i, -, rfl⟩ := List.mem_map.mp h
  simp

theorem length_of_mem_lineCodes {fmt : Nat} {hi lo : Line} {cs : List Nat} (h : cs ∈ lineCodes fmt hi lo) : cs.length = 32 := by
  obtain ⟨i, -, rfl⟩ := List.mem_map.mp h
  simp

theorem State.writesOnly_mxSource (m : MoverRef) (d : MoverDesc) (h : TileHdr) (row p n : Nat) : WritesOnly P s (s.mxSource m d h row p n).1 := by
  induction n generalizing s p with
  | zero => exact .refl
  | succ n ih =>
    rw [State.mxSource]
    dsimp only
    refine WritesOnly.trans ?_ (ih _ _)
    split
    · exact (s.writesOnly_tileLine m d _).trans (State.writesOnly_tileLine _ m d _)
    · exact s.writesOnly_tileLine m d _

theorem State.fullBlock_of_mem_mxSource (m : MoverRef) (d : MoverDesc) (h : TileHdr) (row p n : Nat) :
    ∀ x ∈ (s.mxSource m d h row p n).2, FullBlock x := by
  induction n generalizing s p with
  | zero => exact fun x hx => absurd hx List.not_mem_nil
  | succ n ih =>
    intro x hx
    rw [State.mxSource] at hx
    rcases List.mem_append.mp hx with hx | hx
    · obtain ⟨i, hi, rfl⟩ := List.mem_mapIdx.mp hx
      obtain ⟨hblk, hcodes⟩ := List.of_mem_zip (List.getElem_mem hi)
      have he := length_elems_of_mem_lineBlocks hblk
      have hc := length_of_mem_lineCodes hcodes
      split
      · exact ⟨he, hc⟩
      · split
        · exact ⟨he, hc⟩
        · exact ⟨he, List.length_mapIdx.trans hc⟩
    · exact ih _ _ x hx

theorem length_mxPack (mxint8 : Bool) {cs : List Nat} (h : cs.length = 32) : (mxPack mxint8 cs).length = mxBytes mxint8 32 := by
  cases mxint8 <;> simp [mxPack, mxBytes, length_packNibbles, h]

theorem length_mxExportBlock (mxint8 : Bool) {codes : List Nat} {vs : List Rat} (st : Rat) (hc : codes.length = 32) (hv : vs.length = 32) :
    (mxExportBlock mxint8 codes vs st).2.length = 32 := by
  dsimp only [mxExportBlock]
  split
  · exact hc
  · rw [List.length_map, hv]

/-- The element bytes of an exported block, whatever their values. -/
theorem length_mxBlock (key : List Nat) (mxint8 : Bool) (fmt : Nat) (t : Rat) {x : Blk × List Nat} (h : FullBlock x) :
    (mxBlock key mxint8 fmt t x.1 x.2).2.length = mxBytes mxint8 32 := by
  dsimp only [mxBlock]
  split
  · simp [freeWords]
  · split
    · exact List.length_replicate
    · exact length_mxPack mxint8 (length_mxExportBlock mxint8 _ h.2 (by rw [List.length_map, h.1]))

/-- The bytes of row `r` that MX_EXPORT writes: its elements and its scale bytes. -/
def exportedRow (d : MoverDesc) (r x : Nat) : Prop :=
  inRun (d.dst.at_ + r * d.dstStride) (mxBytes d.mxint8 d.k) x ∨ inRun (d.mxscale + r * (d.k / 32)) (d.k / 32) x

theorem mxBytes_mul (mxint8 : Bool) (n : Nat) : mxBytes mxint8 (n * 32) = n * mxBytes mxint8 32 := by cases mxint8 <;> simp [mxBytes]; omega

theorem State.writesOnly_mxEmit (m : MoverRef) (d : MoverDesc) (h : TileHdr) (row k : Nat) (bs : List (Blk × List Nat)) (hk32 : d.k % 32 = 0)
    (hbs : ∀ x ∈ bs, FullBlock x) (hk : k + bs.length ≤ d.k / 32) : WritesOnly (exportedRow d row) s (s.mxEmit m d h row k bs) := by
  induction bs generalizing s k with
  | nil => exact .refl
  | cons b rest ih =>
    rw [List.length_cons] at hk
    have hlen := length_mxBlock (mxKey m d ++ [s.strokeNum, row, k]) d.mxint8 h.fmt (dec32 h.scale).toRat (hbs b List.mem_cons_self)
    have hend : k * mxBytes d.mxint8 32 + mxBytes d.mxint8 32 ≤ mxBytes d.mxint8 d.k := by
      rw [← Nat.succ_mul, ← mxBytes_mul]
      unfold mxBytes
      split <;> omega
    rw [State.mxEmit]
    refine WritesOnly.trans (WritesOnly.trans ((s.writesOnly_rawPut _ _ _).mono fun x hx => .inl ?_)
      ((State.writesOnly_rawPut _ _ _ _).mono fun x hx => .inr ?_)) (ih _ (k + 1) (fun x hx => hbs x (List.mem_cons_of_mem _ hx)) (by omega))
    · rw [hlen] at hx
      unfold inRun at hx ⊢
      omega
    · simp only [inRun, List.length_singleton] at hx ⊢
      omega

theorem State.writesOnly_mxExport (m : MoverRef) (d : MoverDesc) (hk : d.k % 32 = 0) :
    WritesOnly (fun x => ∃ r, r < d.rows ∧ exportedRow d r x) s (s.mxExport m d) := by
  unfold State.mxExport
  dsimp only
  refine .ite (s.writesOnly_tileLine m d 0) (.foldl (s.writesOnly_tileLine m d 0) _ _ fun u r hr => ?_)
  refine (u.writesOnly_mxSource m d _ r 0 _).trans ((State.writesOnly_mxEmit _ m d _ r 0 _ hk (fun x hx => ?_) ?_).mono fun x hx => ?_)
  · exact u.fullBlock_of_mem_mxSource m d _ r 0 _ x (List.mem_of_mem_take hx)
  · rw [List.length_take]; omega
  · exact ⟨r, List.mem_range.mp hr, hx⟩

/-! ### Commands that wait for lines (R246) -/

theorem State.writesOnly_awaitLines (w : ReadWait) (page tag : Nat) : WritesOnly P s (s.awaitLines w page tag) := by
  unfold State.awaitLines
  obtain ⟨k, e⟩ := State.sendRecord_frame { s with loan := { s.loan with reads := s.loan.reads ++ [w] } } w.rank 0x37
    [page, w.first, w.count, tag, if w.home then 1 else 0] false
  exact .of_read (by rw [e]) (by rw [e])

theorem State.writesOnly_askLine (key idx line : Nat) (hold : Bool) (dst : Place) : WritesOnly P s (s.askLine key idx line hold dst) := by
  unfold State.askLine
  dsimp only
  split
  · exact s.writesOnly_awaitLines _ _ _
  · exact s.writesOnly_awaitLines _ _ _
  · exact .refl

theorem State.writesOnly_dropFetched (ps : List Place) : WritesOnly P s (s.dropFetched ps) :=
  .foldl .refl _ ps fun _ _ _ => .ite (.of_read rfl rfl) .refl

/-- A command that waits for lines of other modules changes meanwhile nothing that it would change. -/
theorem State.writesOnly_withLines (key : Nat) (c : Instr) (ps : List Place) (f : State → State) (hf : WritesOnly P s (f s)) :
    WritesOnly P s (s.withLines key c ps f) := by
  unfold State.withLines
  exact .ite (hf.trans (State.writesOnly_dropFetched _ ps)) (.foldl (.of_read rfl rfl) _ _ fun u p _ => u.writesOnly_askLine key _ _ true p)

theorem State.writesOnly_runExport (m : MoverRef) (d : MoverDesc) (hk : d.k % 32 = 0) :
    WritesOnly (fun x => ∃ r, r < d.rows ∧ exportedRow d r x) s (s.runExport m d) :=
  s.writesOnly_withLines _ _ _ (fun s => s.mxExport m d) (s.writesOnly_mxExport m d hk)

/-! ### A mover's descriptor starts -/

theorem State.onMover_of_starts {s : State} {m : MoverRef} (h : moverStarts s m) {ok : Bool} (hok : ok = true) (f : State → State) :
    s.onMover m ok f = .next (f (s.setMover m 1)) := by
  obtain ⟨hlive, hpres, hidle⟩ := h
  rw [State.onMover, hlive, hpres, hok, hidle]; rfl

theorem State.moverBusy_setMover_one (m : MoverRef) : (s.setMover m 1).moverBusy m = true := by
  simp [State.moverBusy, State.setMover]

theorem exec_mxImport {s : State} {m : MoverRef} {d : MoverDesc} (h : moverStarts s m) (hsp : spelled .mxImport d = true) (hf : mxFields d = true)
    (hsrc : d.src.space = .raw) (hdst : d.dst.space ≠ .raw) : exec (.mxImport m d) s = .next ((s.setMover m 1).mxImport m d) := by
  have he : exec (.mxImport m d) s = execMxImport m d s := rfl
  rw [he, execMxImport, State.onMover_of_starts h (by simp [hsp, hf, hsrc, hdst])]

theorem exec_mxExport {s : State} {m : MoverRef} {d : MoverDesc} (h : moverStarts s m) (hsp : spelled .mxExport d = true) (hf : mxFields d = true)
    (hdst : d.dst.space = .raw) (hsrc : d.src.space ≠ .raw) : exec (.mxExport m d) s = .next ((s.setMover m 1).runExport m d) := by
  have he : exec (.mxExport m d) s = execMxExport m d s := rfl
  rw [he, execMxExport, State.onMover_of_starts h (by simp [hsp, hf, hsrc, hdst])]

/-! ### A tile in a well -/

theorem addrOf_placeStep_well {p : Place} {w : Nat} (hp : p.space = .well w) (i : Nat) : addrOf (placeStep p i) = addrOf p + 72 * i := by
  obtain ⟨space, at_⟩ := p
  cases hp
  simp only [placeStep, addrOf, wellAt]
  omega

/-- A line that a mover writes into a well is read back. -/
theorem State.lineAt_moverWrite_well (m : MoverRef) {p : Place} {w : Nat} (hp : p.space = .well w) (hat : p.at_ < wellLines) {l : Line}
    (hl : l.length = 72) : lineAt (s.moverWrite m p l) p = l := by
  have hread := s.wellRead_wellWrite w p.at_ l hl hat
  rw [State.wellRead, if_pos hat] at hread
  simpa only [lineAt, addrOf, State.moverWrite, State.placeWrite, hp] using hread

/-- MX_IMPORT to a well leaves its header line, and changes no byte outside the tile. -/
theorem State.mxImport_well (m : MoverRef) (d : MoverDesc) (hk : d.k % 32 = 0) {w : Nat} (hw : d.dst.space = .well w) (hat : d.dst.at_ < wellLines) :
    (∃ scale, lineAt (s.mxImport m d) d.dst = writeHdr (mxHdr d scale))
      ∧ WritesOnly (inRun (addrOf d.dst) (72 * (1 + d.rows * mxLines d))) s (s.mxImport m d) := by
  obtain ⟨u, scale, hread, hrows⟩ := s.mxImport_steps (P := inRun (addrOf d.dst + 72) (72 * (d.rows * mxLines d))) m d hk fun j hj hj' x hx => by
    rw [addrOf_placeStep_well hw] at hx
    unfold inRun at hx ⊢
    omega
  refine ⟨⟨scale, ?_⟩, ?_⟩
  · rw [← u.lineAt_moverWrite_well m hw hat (length_writeHdr (mxHdr d scale))]
    exact hrows.readBytes_eq fun x hx hx' => by unfold inRun at hx hx'; omega
  · refine ((hread.mono fun x hx => hx.elim).trans ((u.writesOnly_moverWrite m d.dst _).mono fun x hx => ?_)).trans (hrows.mono fun x hx => ?_) <;>
      (unfold inRun at hx ⊢; omega)

end Sys2Proof.Machine

namespace Sys2Proof.Proofs
open Sys2Proof.Machine Sys2Proof.Claims

/-- Settles O19: MX_IMPORT writes its header and then each row at its own lines, MX_EXPORT each block at its own bytes; nothing else that they do
changes memory or the mover's queue. -/
theorem mxConversionKeepsItsLayout : Obligations.MxConversionKeepsItsLayout := by
  unfold Obligations.MxConversionKeepsItsLayout
  intro s m d hstarts hr hr' hk hk' hk32 per
  have hf : mxFields d = true := by simp [mxFields, hr, hr', hk', hk32]; omega
  have hper : mxLines d = per := rfl
  have hbusy : (s.setMover m 1).moverBusy m = true := s.moverBusy_setMover_one m
  refine ⟨fun hsrc hdst hsp => ?_, fun hdst hsrc hsp => ?_⟩
  · refine ⟨_, exec_mxImport hstarts hsp hf hsrc hdst, ?_, fun ⟨w, hw⟩ hend => ?_⟩
    · obtain ⟨u, scale, hread, hrows⟩ := (s.setMover m 1).mxImport_steps (P := fun _ => True) m d hk32 fun _ _ _ _ _ => trivial
      rw [hrows.moverBusy, (u.writesOnly_moverWrite m _ _).moverBusy, hread.moverBusy, hbusy]
    · obtain ⟨hhdr, hwrites⟩ := (s.setMover m 1).mxImport_well m d hk32 hw (by omega)
      rw [hper] at hwrites
      exact ⟨hhdr, fun x hx => hwrites.2 x fun hin => by unfold inRun at hin; omega⟩
  · have hwrites := (s.setMover m 1).writesOnly_runExport m d hk32
    refine ⟨_, exec_mxExport hstarts hsp hf hdst hsrc, hwrites.moverBusy m ▸ hbusy, fun _ x hx => ?_⟩
    by_contra hnot
    refine hx (hwrites.2 x fun ⟨r, hrow, hin⟩ => hnot ⟨r, hrow, hin.imp id fun hin => ?_⟩)
    rw [Nat.succ_mul]
    unfold inRun at hin
    omega

end Sys2Proof.Proofs
end

section
/-! PROOF. A tile on a gang with a fenced nib (R91, R95): what the command does at all, the T0 and well lines that are written poisoned, and the running maxima
that become NaN. -/
namespace Sys2Proof.Machine
open Sys2Proof.Claims

/-! ### The command -/

theorem exec_tileClose {s : State} {t : TileDesc} (h : gangTakes s t) : exec (.tileClose t) s = .next (s.closeTile t) := by
  obtain ⟨hlive, hquill, hgang⟩ := h
  have he : exec (.tileClose t) s = s.onGang t fun s => s.closeTile t := rfl
  rw [he, State.onGang, hlive, hquill]
  simp only [Bool.not_true, Bool.false_or, Bool.false_eq_true, if_false, decide_eq_true_eq, if_neg (not_lt.mpr hgang)]

theorem State.closeTile_unfit {s : State} {t : TileDesc} (h : s.tileFits t = false) : s.closeTile t = s := by simp [State.closeTile, h]

theorem State.closeTile_fenced {s : State} {t : TileDesc} (hfit : s.tileFits t = true) (h : s.gangFenced t.quill t.gang = true) :
    s.closeTile t = s.closePoisoned t (s.gangSize t.quill) := by simp [State.closeTile, hfit, h]

/-- A gang's lead nib lies on the die of its quill. -/
theorem leadOf_die {s : State} {t : TileDesc} (h : gangTakes s t) : leadOf s t / 2048 = t.quill / 256 := by
  have hsize : 1 ≤ s.gangSize t.quill := Nat.one_le_two_pow
  have hgang : t.gang * s.gangSize t.quill + s.gangSize t.quill ≤ 8 := Nat.succ_mul t.gang _ ▸ h.2.2
  unfold leadOf gangNib
  omega

section
variable (s : State) (t : TileDesc)

theorem State.doneTile_fenced : ((s.doneTile t).quill t.quill).fenced = (s.quill t.quill).fenced := by
  rw [State.doneTile, State.modQuill_eq, State.setQuill_quill]

theorem State.doneTile_quill_other {q : Nat} (h : q ≠ t.quill) : (s.doneTile t).quill q = s.quill q := by
  rw [State.doneTile, State.modQuill_eq, State.setQuill_quill_other _ _ _ _ h]

end

theorem State.closePoisoned_scores {s : State} {t : TileDesc} {q : QueryBlock} {w row0 reg : Nat} (h : t.role = .scores q w row0 reg) :
    s.closePoisoned t (s.gangSize t.quill) = (s.poisonScores (leadOf s t) q.desc w reg row0 (outRows t)).doneTile t := by
  unfold State.closePoisoned
  rw [h]
  rfl

theorem State.closePoisoned_tile {s : State} {t : TileDesc} (h : ∀ q w row0 reg, t.role ≠ .scores q w row0 reg) :
    s.closePoisoned t (s.gangSize t.quill) = (s.poisonTile (leadOf s t) t.out (!t.free) (outRows t) (outCols t)).doneTile t := by
  unfold State.closePoisoned
  cases hr : t.role with
  | plain => rfl
  | pv => rfl
  | scores q w row0 reg => exact absurd hr (h q w row0 reg)

/-! ### Lines that are written alike -/

/-- Of the lines that stand one after another from byte `base`, those of `A` hold `l`, and no byte outside them has changed. -/
structure Stamps (base : Nat) (l : Line) (A : Nat → Prop) (s u : State) : Prop where
  writes : WritesOnly (fun x => ∃ a, A a ∧ inRun (base + 72 * a) 72 x) s u
  read : ∀ a, A a → u.readBytes (base + 72 * a) 72 = l

section
variable {base : Nat} {l : Line} {A B : Nat → Prop} {s t u : State}

theorem Stamps.refl : Stamps base l (fun _ => False) s s := ⟨.refl, fun _ h => h.elim⟩

theorem Stamps.congr (h : Stamps base l A s u) (hAB : ∀ a, A a ↔ B a) : Stamps base l B s u := by
  rwa [← funext fun a => propext (hAB a)]

theorem Stamps.after (h : Stamps base l A s t) (hmovers : u.movers = t.movers) (hmem : u.mem = t.mem) : Stamps base l A s u :=
  ⟨h.writes.trans (.of_read hmovers hmem), fun a ha => by rw [State.readBytes, hmem]; exact h.read a ha⟩

/-- A line of the first writes that the second ones leave out is apart from all of theirs. -/
theorem Stamps.trans (h : Stamps base l A s t) (h' : Stamps base l B t u) : Stamps base l (fun a => A a ∨ B a) s u := by
  refine ⟨(h.writes.mono ?_).trans (h'.writes.mono ?_), fun a ha => ?_⟩
  · exact fun x ⟨a, ha, hx⟩ => ⟨a, .inl ha, hx⟩
  · exact fun x ⟨a, ha, hx⟩ => ⟨a, .inr ha, hx⟩
  · by_cases hB : B a
    · exact h'.read a hB
    · rw [h'.writes.readBytes_eq, h.read a (ha.resolve_right hB)]
      rintro x hx ⟨b, hb, hx'⟩
      have hne : b ≠ a := fun e => hB (e ▸ hb)
      unfold inRun at hx hx'
      omega

theorem Stamps.foldl {α : Type} {A : α → Nat → Prop} {f : State → α → State} {as : List α}
    (h : ∀ u, ∀ r ∈ as, Stamps base l (A r) u (f u r)) :
    Stamps base l (fun a => ∃ r ∈ as, A r a) s (as.foldl f s) := by
  induction as generalizing s with
  | nil => exact Stamps.refl.congr (by simp)
  | cons r as ih =>
    exact ((h s r List.mem_cons_self).trans (ih fun u k hk => h u k (List.mem_cons_of_mem r hk))).congr (by simp)

theorem WritesOnly.writeBytes (a : Nat) (bs : List Byte) : WritesOnly (inRun a bs.length) s (s.writeBytes a bs) :=
  ⟨rfl, fun x hx => memGet_memWrite_outside _ _ (by unfold inRun at hx; omega)⟩

theorem Stamps.writeBytes (hl : l.length = 72) (a : Nat) : Stamps base l (· = a) s (s.writeBytes (base + 72 * a) (l.take 72)) := by
  rw [List.take_of_length_le hl.le]
  refine ⟨(WritesOnly.writeBytes _ l).mono fun x hx => ⟨a, rfl, hl ▸ hx⟩, ?_⟩
  rintro _ rfl
  rw [State.readBytes, ← hl]
  exact memRead_memWrite _ _ _

end

section
variable (s : State) {l : Line} (hl : l.length = 72)

theorem t0At_eq (nib line : Nat) : t0At nib line = t0At nib 0 + 72 * line := by unfold t0At; omega

theorem wellAt_eq (die line : Nat) : wellAt die line = wellAt die 0 + 72 * line := by unfold wellAt; omega

include hl in
theorem State.stamps_t0Write (nib : Nat) {line : Nat} (h : line < t0Lines) : Stamps (t0At nib 0) l (· = line) s (s.t0Write nib line l) := by
  rw [State.t0Write, if_pos h, t0At_eq nib line]
  exact .writeBytes hl line

include hl in
theorem State.stamps_wellWrite (die : Nat) {line : Nat} (h : line < wellLines) : Stamps (wellAt die 0) l (· = line) s (s.wellWrite die line l) := by
  rw [State.wellWrite, if_pos h, wellAt_eq die line]
  exact .writeBytes hl line

include hl in
theorem State.stamps_t0WriteAll (nib line n : Nat) (h : ∀ i, i < n → line + i < t0Lines) :
    Stamps (t0At nib 0) l (inRun line n) s (s.t0WriteAll nib line (List.replicate n l)) := by
  induction n generalizing s line with
  | zero => exact Stamps.refl.congr fun a => ⟨False.elim, fun h => by unfold inRun at h; omega⟩
  | succ n ih =>
    refine ((s.stamps_t0Write hl nib (line := line) (h 0 n.succ_pos)).trans (ih _ (line + 1) fun i hi => ?_)).congr fun a => by simp only [inRun]; omega
    have := h (i + 1) (by omega)
    omega

theorem State.t0WriteAll_frame (nib line : Nat) (ls : List Line) : ∃ m v, s.t0WriteAll nib line ls = { s with mem := m, upset := v } := by
  induction ls generalizing s line with
  | nil => exact ⟨_, _, rfl⟩
  | cons l ls ih =>
    obtain ⟨m, v, e⟩ := s.t0Write_frame nib line l
    rw [State.t0WriteAll, e]
    exact ih _ _

end

theorem Stamps.t0Read {nib : Nat} {l : Line} {A : Nat → Prop} {s u : State} (h : Stamps (t0At nib 0) l A s u) {a : Nat} (ha : A a) (hin : a < t0Lines) :
    u.t0Read nib a = l := by
  rw [State.t0Read, if_pos hin, t0At_eq]
  exact h.read a ha

theorem Stamps.wellRead {die : Nat} {l : Line} {A : Nat → Prop} {s u : State} (h : Stamps (wellAt die 0) l A s u) {a : Nat} (ha : A a)
    (hin : a < wellLines) : u.wellRead die a = l := by
  rw [State.wellRead, if_pos hin, wellAt_eq]
  exact h.read a ha

/-! ### An output tile written poisoned -/

/-- The data bytes of a poisoned output line: 64 in every format. -/
theorem poisonOut_eq (fmt : Nat) : ∃ data : List Byte, data.length = 64 ∧ poisonOut fmt = mkLine data (List.replicate 4 0xFF#8) := by
  unfold poisonOut wideLine
  split
  · next h =>
    simp only [Bool.and_eq_true, decide_eq_true_eq] at h
    refine ⟨_, ?_, rfl⟩
    have hfmt : fmt = 6 ∨ fmt = 7 ∨ fmt = 8 := by omega
    rcases hfmt with rfl | rfl | rfl <;> simp [elemsPerLine]
  · exact ⟨_, List.length_replicate, rfl⟩

theorem length_poisonOut (fmt : Nat) : (poisonOut fmt).length = 72 := by
  obtain ⟨data, hdata, e⟩ := poisonOut_eq fmt
  rw [e, length_mkLine hdata List.length_replicate]

theorem lineOk_poisonOut (fmt : Nat) : lineOk (poisonOut fmt) = true := by
  obtain ⟨data, hdata, e⟩ := poisonOut_eq fmt
  rw [e, lineOk_mkLine hdata List.length_replicate]

theorem scaleByte_poisonOut (fmt : Nat) {b : Nat} (hb : b < 4) : scaleByte (poisonOut fmt) b = 0xFF := by
  obtain ⟨data, hdata, e⟩ := poisonOut_eq fmt
  rw [e, scaleByte_mkLine hdata List.length_replicate hb, byteAt, List.getD_replicate _ hb]
  rfl

/-- First line of row `r` of an output tile. -/
def outRowLine (o : OutDesc) (r : Nat) : Nat := o.line + (o.row0 + r) * o.stride + o.col0 / elemsPerLine o.fmt * positionLines o.fmt

/-- Lines that a poisoned row takes from there. -/
def outRowLines (o : OutDesc) (whole : Bool) (cols : Nat) : Nat :=
  ceilDiv (if whole then cols else min cols (o.validK - o.col0)) (elemsPerLine o.fmt) * positionLines o.fmt

section
variable (s : State) (nib : Nat) {o : OutDesc} (hhdr : o.hdr = none) (whole : Bool) (rows cols : Nat)
include hhdr

theorem State.poisonTile_eq : s.poisonTile nib o whole rows cols = (List.range rows).foldl (fun s r =>
    s.t0WriteAll nib (outRowLine o r) (List.replicate (outRowLines o whole cols) (poisonOut o.fmt))) s := by
  simp only [State.poisonTile, hhdr]
  rfl

theorem State.poisonTile_frame : ∃ m v, s.poisonTile nib o whole rows cols = { s with mem := m, upset := v } := by
  rw [s.poisonTile_eq nib hhdr]
  refine foldl_keeps (fun t => ∃ m v, t = { s with mem := m, upset := v }) _ _ s ?_ ⟨_, _, rfl⟩
  rintro _ r ⟨m, v, rfl⟩
  exact State.t0WriteAll_frame _ _ _ _

/-- Every line of the tile's rows is poisoned, and nothing else is written (R95). -/
theorem State.stamps_poisonTile (hin : ∀ r i, r < rows → i < outRowLines o whole cols → outRowLine o r + i < t0Lines) :
    Stamps (t0At nib 0) (poisonOut o.fmt) (fun a => ∃ r ∈ List.range rows, inRun (outRowLine o r) (outRowLines o whole cols) a) s
      (s.poisonTile nib o whole rows cols) := by
  rw [s.poisonTile_eq nib hhdr]
  exact .foldl fun u r hr => u.stamps_t0WriteAll (length_poisonOut o.fmt) nib _ _ fun i hi => hin r i (List.mem_range.mp hr) hi

end

/-! ### Running maxima of sweep one (R136, R166) -/

theorem isNan32_max32 (a : Word) {b : Word} (h : isNan32 b = true) : isNan32 (max32 a b) = true := by
  rw [max32, FV.max, show (dec32 b).isNan = true from h, Bool.or_true, if_pos rfl]
  rfl

/-- A NaN score makes a maximum NaN. -/
theorem isNan32_foldl_max32 (n : Nat) (a : Word) : isNan32 ((List.replicate (n + 1) 0x7FC00000#32).foldl max32 a) = true := by
  rw [List.replicate_succ', List.foldl_append]
  exact isNan32_max32 _ rfl

/-- The scores of a row that is written poisoned. -/
def nanScores : List Word := List.replicate 256 0x7FC00000#32

theorem isNan32_max_nanScores (a : Word) : isNan32 (nanScores.foldl max32 a) = true := isNan32_foldl_max32 255 a

theorem State.vreg_mod_eq (s : State) (n : Nat) {r k : Nat} (h : r % 64 = k % 64) : s.vreg n r = s.vreg n k := by rw [State.vreg, State.vreg, h]

/-- VMAX of a row changes its own lane alone. -/
theorem State.regLane_putMax (s : State) (nib reg row : Nat) (ws : List Word) (r : Nat) {lane : Nat} (hlane : lane < 64) :
    regLane (s.putMax nib reg row ws) nib r lane =
      if r % 64 = (reg + row / 64) % 64 ∧ lane = row % 64 then ws.foldl max32 (regLane s nib r lane) else regLane s nib r lane := by
  unfold regLane State.putMax
  dsimp only
  by_cases hr : r % 64 = (reg + row / 64) % 64
  · have hlen := s.length_vreg nib (reg + row / 64)
    rw [State.vreg_mod_eq _ nib hr, State.vreg_mod_eq s nib hr, State.vreg_setVreg, fillLanes_of_length (by rw [List.length_set, hlen])]
    by_cases hl : lane = row % 64
    · rw [if_pos ⟨hr, hl⟩, ← hl, List.getD_eq_getElem _ _ (by rw [List.length_set, hlen]; exact hlane), List.getElem_set_self]
    · rw [if_neg fun h => hl h.2, List.getD_eq_getElem?_getD, List.getElem?_set_ne (Ne.symm hl), List.getD_eq_getElem?_getD]
  · rw [if_neg fun h => hr h.1, State.vreg_setVreg_other _ _ hr]

section
variable (s : State) (nib : Nat) (d : AttnDesc)

theorem State.sameVregs_placeWrite (p : Place) (l : Line) (who : Writer) : SameVregs s (s.placeWrite p l who) := by
  obtain ⟨m, u, n, h, o, k, d, e⟩ := s.placeWrite_frame p l who
  exact .of_nibs (by rw [e])

theorem State.sameVregs_putScores (row w : Nat) (ws : List Word) : SameVregs s (s.putScores nib d row w ws) :=
  .foldl (.refl s) _ _ fun u _ => .ite ((u.sameVregs_placeWrite _ _ _).trans (.modNib _ nib fun _ => rfl)) (u.sameVregs_placeWrite _ _ _)

theorem State.placeWrite_quills (p : Place) (l : Line) (who : Writer) : (s.placeWrite p l who).quills = s.quills := by
  obtain ⟨m, u, n, h, o, k, d, e⟩ := s.placeWrite_frame p l who
  rw [e]

theorem State.putScores_quills (row w : Nat) (ws : List Word) : (s.putScores nib d row w ws).quills = s.quills := by
  refine foldl_keeps (fun u : State => u.quills = s.quills) _ _ s (fun u p hu => ?_) rfl
  dsimp only
  split
  · exact (u.placeWrite_quills _ _ _).trans hu
  · exact (u.placeWrite_quills _ _ _).trans hu

variable (w reg : Nat)

theorem State.poisonScores_succ (row n : Nat) : s.poisonScores nib d w reg row (n + 1) =
    ((s.putScores nib d row w nanScores).putMax nib reg row nanScores).poisonScores nib d w reg (row + 1) n := rfl

theorem State.poisonScores_quills (row n : Nat) : (s.poisonScores nib d w reg row n).quills = s.quills := by
  induction n generalizing s row with
  | zero => rfl
  | succ n ih => exact (ih _ _).trans (s.putScores_quills nib d row w _)

/-- A running maximum that is NaN stays NaN. -/
theorem State.isNan32_poisonScores_of_isNan (row n : Nat) {r lane : Nat} (hlane : lane < 64) (h : isNan32 (regLane s nib r lane) = true) :
    isNan32 (regLane (s.poisonScores nib d w reg row n) nib r lane) = true := by
  induction n generalizing s row with
  | zero => exact h
  | succ n ih =>
    rw [State.poisonScores_succ]
    refine ih _ _ ?_
    rw [State.regLane_putMax _ _ _ _ _ _ hlane]
    split
    · exact isNan32_max_nanScores _
    · rw [regLane, s.sameVregs_putScores]
      exact h

/-- The rows' running maxima become NaN (log entry 81). -/
theorem State.isNan32_poisonScores {row n k : Nat} (hk : k < n) (hrows : row + n ≤ 64) :
    isNan32 (regLane (s.poisonScores nib d w reg row n) nib reg (row + k)) = true := by
  induction n generalizing s row k with
  | zero => exact absurd hk (Nat.not_lt_zero k)
  | succ n ih =>
    rw [State.poisonScores_succ]
    cases k with
    | zero =>
      have hreg : reg % 64 = (reg + row / 64) % 64 := by omega
      refine State.isNan32_poisonScores_of_isNan _ nib d w reg _ _ (by omega) ?_
      rw [State.regLane_putMax _ _ _ _ _ _ (by omega), if_pos ⟨hreg, by omega⟩]
      exact isNan32_max_nanScores _
    | succ k =>
      rw [← Nat.add_assoc, Nat.add_right_comm]
      exact ih _ (by omega) (by omega)

end

/-! ### Score lines written poisoned (R95, R167) -/

/-- Sixteen NaN scores as they are stored. -/
def nanLine : Line := widePosition 8 16 (List.replicate 16 (dec32 0x7FC00000#32))

theorem scaleByte_nanLine {b : Nat} (hb : b < 4) : scaleByte nanLine b = 0xFF := by
  rw [nanLine, scaleByte_widePosition_f32 List.length_replicate hb, if_pos]
  have : b = 0 ∨ b = 1 ∨ b = 2 ∨ b = 3 := by omega
  rcases this with rfl | rfl | rfl | rfl <;> decide

theorem length_nanLine : nanLine.length = 72 := length_widePosition_f32 List.length_replicate

theorem map_dec32_nanScores {i : Nat} (hi : i < 16) : widePosition 8 16 (((nanScores.drop (16 * i)).take 16).map dec32) = nanLine := by
  rw [nanScores, List.drop_replicate, List.take_replicate, List.map_replicate, Nat.min_eq_left (by omega), nanLine]

theorem zipIdx_map_range {α : Type} (f : Nat → α) (n : Nat) : ((List.range n).map f).zipIdx = (List.range n).map fun i => (f i, i) :=
  List.ext_getElem (by simp) (by simp)

/-- First line of a row's scores for block `w`, in FP32 in the well. -/
def scoreLine (d : AttnDesc) (w row : Nat) : Nat := d.wellAt + row * (d.wellKeys / 16) + 16 * w

theorem scoreLine_fits {d : AttnDesc} {w row rows r : Nat} (hkeys : 256 * w + 256 ≤ d.wellKeys)
    (hend : d.wellAt + (row + rows) * (d.wellKeys / 16) ≤ wellLines) (hr : r < row + rows) : scoreLine d w r + 16 ≤ wellLines := by
  have hrow : (r + 1) * (d.wellKeys / 16) ≤ (row + rows) * (d.wellKeys / 16) := Nat.mul_le_mul_right _ hr
  rw [Nat.succ_mul] at hrow
  unfold scoreLine
  omega

section
variable (s : State) {nib die : Nat} (hdie : nib / 2048 = die) {d : AttnDesc} {w : Nat} (hkeys : 256 * w + 256 ≤ d.wellKeys) (hfmt : d.scoreFmt = 8)
include hkeys hfmt

theorem scorePlaces_well (row : Nat) :
    scorePlaces d die row w = (List.range 16).map fun i => { space := .well die, at_ := scoreLine d w row + i } := by
  have he : elemsPerLine d.scoreFmt = 16 := by rw [hfmt]; rfl
  unfold scorePlaces
  rw [he]
  refine List.map_congr_left fun i hi => ?_
  have hi : i < 16 := List.mem_range.mp hi
  have hdiv : (256 * w + i * 16) / 16 = 16 * w + i := by omega
  rw [scorePlace, he, if_pos (by omega), hdiv, ← Nat.add_assoc]
  rfl

include hdie

theorem State.stamps_putScores (row : Nat) (hin : scoreLine d w row + 16 ≤ wellLines) :
    Stamps (wellAt die 0) nanLine (inRun (scoreLine d w row) 16) s (s.putScores nib d row w nanScores) := by
  have he : elemsPerLine d.scoreFmt = 16 := by rw [hfmt]; rfl
  unfold State.putScores
  rw [he, hdie, scorePlaces_well hkeys hfmt, zipIdx_map_range, List.foldl_map]
  refine (Stamps.foldl (A := fun i a => a = scoreLine d w row + i) fun u i hi => ?_).congr fun a => ?_
  · have hi : i < 16 := List.mem_range.mp hi
    rw [if_neg (fun h => by cases h), hfmt, map_dec32_nanScores hi]
    exact u.stamps_wellWrite length_nanLine die (by omega)
  · simp only [List.mem_range, inRun]
    exact ⟨fun ⟨i, hi, h⟩ => by omega, fun h => ⟨a - scoreLine d w row, by omega, by omega⟩⟩

/-- Every score line of the rows is poisoned. -/
theorem State.stamps_poisonScores (reg row n : Nat) (hin : ∀ r, row ≤ r → r < row + n → scoreLine d w r + 16 ≤ wellLines) :
    Stamps (wellAt die 0) nanLine (fun a => ∃ r, row ≤ r ∧ r < row + n ∧ inRun (scoreLine d w r) 16 a) s (s.poisonScores nib d w reg row n) := by
  induction n generalizing s row with
  | zero => exact Stamps.refl.congr fun a => ⟨False.elim, fun ⟨r, _, _, _⟩ => by omega⟩
  | succ n ih =>
    rw [State.poisonScores_succ]
    refine (((s.stamps_putScores hdie hkeys hfmt row (hin row le_rfl (by omega))).after (u := State.putMax _ nib reg row nanScores) rfl rfl).trans
      (ih _ (row + 1) fun r hr hr' => hin r (by omega) (by omega))).congr fun a => ⟨?_, ?_⟩
    · rintro (ha | ⟨r, hr, hr', ha⟩)
      · exact ⟨row, le_rfl, by omega, ha⟩
      · exact ⟨r, by omega, by omega, ha⟩
    · rintro ⟨r, hr, hr', ha⟩
      rcases hr.eq_or_lt with rfl | hr
      · exact .inl ha
      · exact .inr ⟨r, hr, by omega, ha⟩

end

end Sys2Proof.Machine

namespace Sys2Proof.Proofs
open Sys2Proof.Machine Sys2Proof.Claims

/-- Settles O10: each row is written as lines of one poisoned content, a later write of a line repeats it, and a running maximum that has met a NaN
stays NaN. -/
theorem fencedGangWritesPoison : Obligations.FencedGangWritesPoison := by
  unfold Obligations.FencedGangWritesPoison
  intro s t htakes hfit hfenced
  have hexec := exec_tileClose htakes
  rw [State.closeTile_fenced hfit hfenced] at hexec
  constructor
  · intro q w row0 reg hrole hrows
    rw [State.closePoisoned_scores hrole] at hexec
    refine ⟨_, hexec, ?_, fun r hr => ?_, fun hkeys hfmt hend r i b hr hi hb => ?_⟩
    · rw [State.doneTile_fenced, State.quill, State.poisonScores_quills]
      rfl
    · exact State.isNan32_poisonScores s (leadOf s t) q.desc w reg hr hrows
    · have hscores := (State.stamps_poisonScores s (leadOf_die htakes) hkeys hfmt reg row0 (outRows t) fun r _ hr => scoreLine_fits hkeys hend hr).after
        (u := (s.poisonScores (leadOf s t) q.desc w reg row0 (outRows t)).doneTile t) rfl rfl
      have hline : q.desc.wellAt + (row0 + r) * (q.desc.wellKeys / 16) + (256 * w + 16 * i) / 16 = scoreLine q.desc w (row0 + r) + i := by
        unfold scoreLine
        omega
      have hfits := scoreLine_fits hkeys hend (Nat.add_lt_add_left hr row0)
      rw [hline, hscores.wellRead ⟨row0 + r, Nat.le_add_right _ r, Nat.add_lt_add_left hr row0, Nat.le_add_right _ i, Nat.add_lt_add_left hi _⟩ (by omega),
        scaleByte_nanLine hb]
  · intro hrole hhdr o n at_ hin
    rw [State.closePoisoned_tile hrole] at hexec
    obtain ⟨m, v, hframe⟩ := s.poisonTile_frame (leadOf s t) hhdr (!t.free) (outRows t) (outCols t)
    have hstamps := (s.stamps_poisonTile (leadOf s t) hhdr (!t.free) (outRows t) (outCols t) hin).after
      (u := (s.poisonTile (leadOf s t) t.out (!t.free) (outRows t) (outCols t)).doneTile t) rfl rfl
    have hline : ∀ r i, r < outRows t → i < n → ((s.poisonTile (leadOf s t) t.out (!t.free) (outRows t) (outCols t)).doneTile t).t0Read (leadOf s t)
        (at_ r + i) = poisonOut o.fmt := fun r i hr hi =>
      hstamps.t0Read ⟨r, List.mem_range.mpr hr, Nat.le_add_right _ i, Nat.add_lt_add_left hi _⟩ (hin r i hr hi)
    refine ⟨_, hexec, ?_, fun q hq => ?_, ?_, fun r i b hr hi hb => ?_, fun r i hr hi => ?_, fun x hx => hstamps.writes.2 x ?_⟩
    · rw [hframe]
      rfl
    · rw [State.doneTile_quill_other _ _ hq, hframe]
      rfl
    · rw [State.doneTile_fenced, hframe]
      rfl
    · rw [hline r i hr hi, scaleByte_poisonOut _ hb]
    · rw [hline r i hr hi, lineOk_poisonOut]
    · rintro ⟨a, ⟨r, hr, hlo, hhi⟩, hax⟩
      obtain ⟨i, rfl⟩ := Nat.exists_eq_add_of_le hlo
      have hout : x < t0At (leadOf s t) (outRowLine t.out r + i) ∨ t0At (leadOf s t) (outRowLine t.out r + i) + 72 ≤ x :=
        hx r i (List.mem_range.mp hr) (Nat.lt_of_add_lt_add_left hhi)
      rw [t0At_eq] at hout
      unfold inRun at hax
      omega

end Sys2Proof.Proofs
end

section
/-! PROOF. A tile that closes on a gang which runs it (R75 to R77, R84, R109, R121, R122): what its steps change before the results are drained, the issue
cycles that they count, and the capture of a sampled tile. -/
namespace Sys2Proof.Machine
open Sys2Proof.Claims

/-! ### What the steps of a tile change -/

/-- Nibs, quills, wells, the endpoint and the scribe can differ, nothing else. -/
def OnlyUnits (s u : State) : Prop := ∃ n q w h o c, u = { s with nibs := n, quills := q, wells := w, host := h, pcieOut := o, scr := c }

theorem OnlyUnits.trans {s t u : State} (h : OnlyUnits s t) (h' : OnlyUnits t u) : OnlyUnits s u := by
  obtain ⟨_, _, _, _, _, _, rfl⟩ := h
  obtain ⟨_, _, _, _, _, _, rfl⟩ := h'
  exact ⟨_, _, _, _, _, _, rfl⟩

theorem OnlyUnits.mem {s u : State} (h : OnlyUnits s u) : u.mem = s.mem := by
  obtain ⟨_, _, _, _, _, _, rfl⟩ := h
  rfl

theorem OnlyUnits.captureAt {s u : State} (h : OnlyUnits s u) (die half : Nat) : u.captureAt die half = s.captureAt die half := by
  obtain ⟨_, _, _, _, _, _, rfl⟩ := h
  rfl

/-- Only units differ, and every nib's count of issue cycles is as it was. -/
structure Unissued (s u : State) : Prop where
  units : OnlyUnits s u
  issue : ∀ n, (u.nib n).issue = (s.nib n).issue

section
variable {s t u : State}

theorem Unissued.of_nibs (h : OnlyUnits s u) (hn : u.nibs = s.nibs) : Unissued s u := ⟨h, fun n => by unfold State.nib; rw [hn]⟩

theorem Unissued.refl : Unissued s s := .of_nibs ⟨_, _, _, _, _, _, rfl⟩ rfl

theorem Unissued.trans (h : Unissued s t) (h' : Unissued t u) : Unissued s u :=
  ⟨h.units.trans h'.units, fun n => (h'.issue n).trans (h.issue n)⟩

theorem Unissued.ite {c : Prop} [Decidable c] (ht : Unissued s t) (hu : Unissued s u) : Unissued s (if c then t else u) := by
  split
  · exact ht
  · exact hu

theorem Unissued.modNib (h : Unissued s t) {n : Nat} {f : Nib → Nib} (hf : ∀ x, (f x).issue = x.issue) : Unissued s (t.modNib n f) := by
  refine h.trans ⟨⟨_, _, _, _, _, _, rfl⟩, fun m => ?_⟩
  by_cases hm : m = n
  · rw [hm, State.modNib_eq, State.setNib_nib, hf]
  · rw [State.modNib_eq, State.setNib_nib_other _ _ _ _ hm]

theorem Unissued.modQuill (h : Unissued s t) (q : Nat) (f : Quill → Quill) : Unissued s (t.modQuill q f) :=
  h.trans (.of_nibs ⟨_, _, _, _, _, _, rfl⟩ rfl)

theorem Unissued.eccWell (h : Unissued s t) (die n : Nat) (e : EccResult) : Unissued s (t.eccWell die n e) := by
  obtain ⟨w, host, o, c, he⟩ := t.eccWell_frame die n e
  exact h.trans (.of_nibs ⟨_, _, _, _, _, _, he⟩ (by rw [he]))

theorem Unissued.foldl {α : Type} {f : State → α → State} {as : List α} (ht : Unissued s t) (h : ∀ u a, Unissued u (f u a)) :
    Unissued s (as.foldl f t) :=
  foldl_keeps (Unissued s) f as t (fun u a hu => hu.trans (h u a)) ht

/-- The same for a fold that gathers what it reads. -/
theorem Unissued.foldl_fst {α β : Type} {f : State × β → α → State × β} {as : List α} {acc : State × β} (hacc : Unissued s acc.1)
    (h : ∀ x a, Unissued x.1 (f x a).1) : Unissued s (as.foldl f acc).1 :=
  foldl_keeps (fun x : State × β => Unissued s x.1) f as acc (fun x a hx => hx.trans (h x a)) hacc

/-! ### Loading the operands -/

theorem Unissued.countLoads (h : Unissued s t) (nib line n : Nat) : Unissued s (t.countLoads nib line n) := by
  unfold State.countLoads
  refine Unissued.eccWell ?_ _ _ _
  exact .ite h (h.modNib fun _ => rfl)

theorem Unissued.nibLoad (h : Unissued s t) (nib line : Nat) : Unissued s (t.nibLoad nib line).1 := h.countLoads nib line 1

end

variable (s : State)

theorem State.unissued_loadPos (nib line fmt keep loads : Nat) (clip : Bool) : Unissued s (s.loadPos nib line fmt keep loads clip).1 := by
  have hload : Unissued s (s.countLoads nib line loads) := Unissued.refl.countLoads nib line loads
  unfold State.loadPos
  split
  · exact .refl
  · exact .ite (hload.countLoads nib (line + 1) loads) hload

theorem State.unissued_loadRow (o : OpRead) (loads : Nat → Nat → Nat) (r p n : Nat) : Unissued s (s.loadRow o loads r p n).1 := by
  induction n generalizing s p with
  | zero => exact .refl
  | succ n ih => exact (s.unissued_loadPos _ _ _ _ _ _).trans (ih _ _)

theorem State.unissued_loadRows (o : OpRead) (loads : Nat → Nat → Nat) (l valid r n : Nat) : Unissued s (s.loadRows o loads l valid r n).1 := by
  induction n generalizing s r with
  | zero => exact .refl
  | succ n ih =>
    refine Unissued.trans ?_ (ih _ _)
    split
    · exact .refl
    · exact s.unissued_loadRow o loads r 0 l

theorem State.unissued_loadOperand (base g hdr line stride l cap : Nat) (clip : Bool) (valid n : Nat) (loads : Nat → Nat → Nat) :
    Unissued s (s.loadOperand base g hdr line stride l cap clip valid n loads).1 := by
  have hhdr : Unissued s (s.nibLoad base hdr).1 := Unissued.refl.nibLoad base hdr
  unfold State.loadOperand
  dsimp only
  split
  · exact hhdr
  · exact hhdr.trans (State.unissued_loadRows _ _ _ _ _ _ _)

theorem State.unissued_loadFlourish (lead l rows : Nat) (f : FlourishIn) : Unissued s (s.loadFlourish lead l rows f).1 := by
  unfold State.loadFlourish
  refine .foldl_fst ?_ fun x (m : Nat) => .foldl_fst .refl fun y (v : Nat) => Unissued.refl.nibLoad lead _
  refine Unissued.nibLoad ?_ lead f.sideHdr
  exact .foldl_fst .refl fun x (e : Nat × Nat) => Unissued.refl.nibLoad lead e.1

theorem State.unissued_enterLine (quill lead a : Nat) : Unissued s (s.enterLine quill lead a) := by
  have hread : Unissued s (s.readWellLine (quill / 256) a).1 := Unissued.refl.eccWell _ 1 _
  unfold State.enterLine
  refine Unissued.modQuill ?_ quill _
  exact .ite hread (hread.modNib fun _ => rfl)

theorem State.unissued_fillBuffer (quill lead : Nat) (reads : List Nat) : Unissued s (s.fillBuffer quill lead reads) := by
  unfold State.fillBuffer
  exact .modQuill (.foldl .refl fun u a => u.unissued_enterLine quill lead a) quill _

variable (t : TileDesc)

theorem State.unissued_feedSeg (c : ConvFeed) (lead i : Nat) : Unissued s (s.feedSeg t c lead i).1 := by
  unfold State.feedSeg
  dsimp only
  exact .eccWell (.modQuill (s.unissued_fillBuffer _ _ _) _ _) _ _ _

theorem State.unissued_loadSeg (role : RoleOps) (g i : Nat) (fed : Bool) (n : Loads) (seg : Segment) : Unissued s (s.loadSeg t role g i fed n seg).1 := by
  have hb : ∀ {u : State}, Unissued s u → ∀ hdr line stride cap clip valid k loads,
      Unissued s (u.loadOperand (gangNib t.quill t.gang g 0) g hdr line stride seg.lines cap clip valid k loads).1 := fun hu _ _ _ _ _ _ _ _ =>
    hu.trans (State.unissued_loadOperand _ _ _ _ _ _ _ _ _ _ _ _)
  have ha : ∀ {u : State}, Unissued s u → Unissued s (if fed then u else s) := fun hu => .ite hu .refl
  have hf : ∀ {u : State}, Unissued s u → ∀ f, Unissued s (if fed then (u.loadFlourish (gangNib t.quill t.gang g 0) seg.lines (outRows t) f).1 else u) :=
    fun hu f => .ite (hu.trans (State.unissued_loadFlourish _ _ _ _ f)) hu
  unfold State.loadSeg
  cases t.conv with
  | none =>
    have hseg := hb (ha (hb .refl seg.aHdr seg.aLine seg.aStride 16384 t.free t.rows t.mt n.a))
    cases seg.flourish with
    | none => exact hseg _ _ _ _ _ _ _ _
    | some f => exact hf (hseg _ _ _ _ _ _ _ _) f
  | some c =>
    have hseg := hb (ha (s.unissued_feedSeg t c (gangNib t.quill t.gang g 0) i))
    cases seg.flourish with
    | none => exact hseg _ _ _ _ _ _ _ _
    | some f => exact hf (hseg _ _ _ _ _ _ _ _) f

/-! ### Counts of a segment (R84, R101) -/

theorem gangNib_injective (q gang g : Nat) : Function.Injective (gangNib q gang g) := fun _ _ h => Nat.add_left_cancel h

theorem State.nib_foldl_modNib_other {at_ : Nat → Nat} (f : Nat → Nib → Nib) (js : List Nat) {n : Nat} (hn : ∀ j ∈ js, n ≠ at_ j) :
    (js.foldl (fun s j => s.modNib (at_ j) (f j)) s).nib n = s.nib n := by
  induction js generalizing s with
  | nil => rfl
  | cons k js ih =>
    rw [List.foldl_cons, ih _ fun j hj => hn j (List.mem_cons_of_mem k hj), State.modNib_eq, State.setNib_nib_other _ _ _ _ (hn k List.mem_cons_self)]

/-- Nibs that are changed one after another are each changed once. -/
theorem State.nib_foldl_modNib {at_ : Nat → Nat} (hat : Function.Injective at_) (f : Nat → Nib → Nib) {js : List Nat} (hjs : js.Nodup) {j : Nat}
    (hj : j ∈ js) : (js.foldl (fun s j => s.modNib (at_ j) (f j)) s).nib (at_ j) = f j (s.nib (at_ j)) := by
  induction js generalizing s with
  | nil => exact absurd hj List.not_mem_nil
  | cons k js ih =>
    obtain ⟨hk, hjs⟩ := List.nodup_cons.mp hjs
    rw [List.foldl_cons]
    rcases List.mem_cons.mp hj with rfl | hj
    · rw [State.nib_foldl_modNib_other _ f js fun i hi h => hk ((show j = i from hat h) ▸ hi), State.modNib_eq, State.setNib_nib]
    · have hne : at_ j ≠ at_ k := fun h => hk (hat h ▸ hj)
      rw [ih _ hjs hj, State.modNib_eq, State.setNib_nib_other _ _ _ _ hne]

/-- Only units differ, and each nib of the tile's gang has counted `k` more issue cycles. -/
structure Issues (t : TileDesc) (g k : Nat) (s u : State) : Prop where
  units : OnlyUnits s u
  issue : ∀ j, j < g → (u.nib (gangNib t.quill t.gang g j)).issue = (s.nib (gangNib t.quill t.gang g j)).issue + BitVec.ofNat 64 k

section
variable {t : TileDesc} {g k k' : Nat} {s u v : State}

theorem Unissued.issues (h : Unissued s u) : Issues t g 0 s u := ⟨h.units, fun j _ => by rw [h.issue]; simp⟩

theorem Issues.trans (h : Issues t g k s u) (h' : Issues t g k' u v) : Issues t g (k + k') s v :=
  ⟨h.units.trans h'.units, fun j hj => by rw [h'.issue j hj, h.issue j hj, BitVec.ofNat_add, BitVec.add_assoc]⟩

theorem Issues.after (h : Issues t g k s u) (h' : Unissued u v) : Issues t g k s v := h.trans h'.issues

theorem Issues.before (h : Issues t g k u v) (h' : Unissued s u) : Issues t g k s v := Nat.zero_add k ▸ h'.issues.trans h

end

/-- Each nib of the gang counts alike. -/
theorem State.issues_foldl_modNib {f : Nat → Nib → Nib} {k : Nat} (g : Nat) (hf : ∀ j x, (f j x).issue = x.issue + BitVec.ofNat 64 k) :
    Issues t g k s ((List.range g).foldl (fun s j => s.modNib (gangNib t.quill t.gang g j) (f j)) s) := by
  refine ⟨foldl_keeps (OnlyUnits s) _ _ s (fun u j hu => hu.trans ⟨_, _, _, _, _, _, rfl⟩) ⟨_, _, _, _, _, _, rfl⟩, fun j hj => ?_⟩
  rw [State.nib_foldl_modNib s (gangNib_injective _ _ _) f List.nodup_range (List.mem_range.mpr hj), hf]

theorem State.issues_countSeg (g i done ahead : Nat) (seg : Segment) (o : SegOps) :
    Issues t g (issueCycles t o done) s (s.countSeg t g i done ahead seg o) := by
  unfold State.countSeg
  cases t.conv with
  | none => exact s.issues_foldl_modNib t g fun _ _ => rfl
  | some c =>
    refine Issues.after ?_ (Unissued.refl.modQuill _ _)
    exact s.issues_foldl_modNib t g fun _ _ => rfl

theorem State.unissued_keepRegs (role : RoleOps) (g i done ahead : Nat) (seg : Segment) (o : SegOps) :
    Unissued s (s.keepRegs t role g i done ahead seg o) := by
  unfold State.keepRegs
  dsimp only
  cases t.conv with
  | none => exact .foldl .refl fun u j => Unissued.refl.modNib fun _ => rfl
  | some c =>
    refine Unissued.modQuill ?_ _ _
    exact .foldl .refl fun u j => Unissued.refl.modNib fun _ => rfl

/-! ### All segments of a tile (R77, R84) -/

theorem sumNat_cons (a : Nat) (l : List Nat) : sumNat (a :: l) = a + sumNat l := by
  simp only [sumNat, ← List.sum_eq_foldl, List.sum_cons]

theorem sumNat_append (k l : List Nat) : sumNat (k ++ l) = sumNat k + sumNat l := by
  simp only [sumNat, ← List.sum_eq_foldl, List.sum_append]

/-- Of a tile whose steps have all run, every segment's have. -/
theorem doneIn_of_tileSteps_le {t : TileDesc} {g done : Nat} {pre rest : List Segment} {seg : Segment} (hsegs : t.segs = pre ++ seg :: rest)
    (h : tileSteps t g ≤ done) : doneIn t g pre.length done = segSteps t g seg.lines := by
  rw [tileSteps, hsegs, List.map_append, List.map_cons, sumNat_append, sumNat_cons] at h
  have hseg : t.segs.getD pre.length default = seg := by rw [hsegs, List.getD_append_right _ _ _ _ le_rfl, Nat.sub_self]; rfl
  have hpre : t.segs.take pre.length = pre := by rw [hsegs, List.take_left]
  rw [doneIn, hseg, hpre]
  omega

/-- Issue cycles of segments all of whose steps run. -/
def segCycles (t : TileDesc) (g : Nat) (segs : List Segment) (ops : List SegOps) : Nat :=
  sumNat (List.zipWith (fun (seg : Segment) o => issueCycles t o (segSteps t g seg.lines)) segs ops)

theorem State.issues_loadSegs (role : RoleOps) (g : Nat) {pre segs : List Segment} {i : Nat} (hsegs : t.segs = pre ++ segs) (hi : pre.length = i) :
    Issues t g (segCycles t g segs (s.loadSegs t role g (tileSteps t g) i segs).2) s (s.loadSegs t role g (tileSteps t g) i segs).1 := by
  induction segs generalizing s pre i with
  | nil => exact Unissued.refl.issues
  | cons seg rest ih =>
    subst hi
    have hdone : doneIn t g pre.length (tileSteps t g) = segSteps t g seg.lines := doneIn_of_tileSteps_le hsegs le_rfl
    have hahead : aheadIn t g pre.length (tileSteps t g) = segSteps t g seg.lines := doneIn_of_tileSteps_le hsegs (Nat.le_succ _)
    rw [State.loadSegs, hdone, hahead]
    dsimp only
    rw [segCycles, List.zipWith_cons_cons, sumNat_cons]
    refine Issues.trans ?_ (ih _ (pre := pre ++ [seg]) (by rw [hsegs, List.append_assoc]; rfl) (by simp))
    split
    · next h =>
      simp only [h, issueCycles, Nat.zero_mul]
      exact Unissued.refl.issues
    · exact ((State.issues_countSeg _ t g _ _ _ seg _).after (State.unissued_keepRegs _ t role g _ _ _ seg _)).before
        (s.unissued_loadSeg t role g _ _ _ seg)

/-! ### From the last step to the results -/

theorem State.unissued_countWaits (g : Nat) : Unissued s (s.countWaits t g) := by
  unfold State.countWaits
  dsimp only
  cases t.conv with
  | none =>
    refine Unissued.modNib ?_ fun _ => rfl
    exact .foldl .refl fun _ _ => Unissued.refl.modNib fun _ => rfl
  | some c =>
    refine Unissued.modQuill ?_ _ _
    refine Unissued.modNib ?_ fun _ => rfl
    exact .foldl .refl fun _ _ => Unissued.refl.modNib fun _ => rfl

theorem State.unissued_cure : Unissued s (s.cure t) := by
  unfold State.cure
  split
  · exact .refl
  · exact .foldl (Unissued.refl.modQuill _ _) fun u p => Unissued.refl.modNib fun _ => rfl

theorem State.unissued_fillAcc (lead : Nat) (ops : List SegOps) (ys : List (List Word)) : Unissued s (s.fillAcc t lead ops ys) :=
  .foldl .refl fun _ _ => .foldl .refl fun _ _ => Unissued.refl.modNib fun _ => rfl

/-- The state after all steps of a tile, and the operands of every segment. -/
def State.ranSegs : State × List SegOps :=
  (s.roleOps t (leadOf s t)).1.loadSegs t (s.roleOps t (leadOf s t)).2 (s.gangSize t.quill) (tileSteps t (s.gangSize t.quill)) 0 t.segs

/-- The tile's waits and results have been counted and kept; its sample has not been taken and nothing has been drained. -/
def State.checkedTile : State :=
  let s' := (s.ranSegs t).1.modNib (leadOf s t) fun x => { x with vinvalid := satAdd x.vinvalid (tailNans t (s.roleOps t (leadOf s t)).2 (s.ranSegs t).2) }
  ((s'.countWaits t (s.gangSize t.quill)).cure t).fillAcc t (leadOf s t) (s.ranSegs t).2
    (tileResults t (s.roleOps t (leadOf s t)).2 (s.gangSize t.quill) (s.ranSegs t).2)

theorem State.roleOps_plain (h : t.role = .plain) (lead : Nat) : (s.roleOps t lead).1 = s := by
  unfold State.roleOps
  rw [h]

theorem State.issues_ranSegs (h : t.role = .plain) :
    Issues t (s.gangSize t.quill) (segCycles t (s.gangSize t.quill) t.segs (s.ranSegs t).2) s (s.ranSegs t).1 := by
  unfold State.ranSegs
  rw [s.roleOps_plain t h]
  exact s.issues_loadSegs t _ _ (pre := []) rfl rfl

theorem State.unissued_checkedTile : Unissued (s.ranSegs t).1 (s.checkedTile t) := by
  unfold State.checkedTile
  refine Unissued.trans ?_ (State.unissued_fillAcc _ t _ _ _)
  refine Unissued.trans ?_ (State.unissued_cure _ t)
  refine Unissued.trans ?_ (State.unissued_countWaits _ t _)
  exact Unissued.refl.modNib fun _ => rfl

/-! ### The sample of a tile (R121, R122) -/

theorem State.capture_frame (ys : List (List Word)) : ∃ w m v, s.capture t ys = { s with wells := w, mem := m, upset := v } := by
  unfold State.capture
  dsimp only
  split
  · exact ⟨_, _, _, rfl⟩
  · split
    · exact ⟨_, _, _, rfl⟩
    · split
      · exact ⟨_, _, _, rfl⟩
      · exact ⟨_, s.mem, s.upset, rfl⟩

theorem State.captureAt_half (die half : Nat) : s.captureAt die half = s.captureAt die 0 + half * 2 ^ 24 := by
  unfold State.captureAt
  split <;> rw [Nat.zero_mul, Nat.add_zero]

/-- A sample of at most 2^24 bytes stays inside the capture area. -/
theorem State.writesOnly_capture {ys : List (List Word)} (h : 4 * (ys.flatMap id).length ≤ 2 ^ 24) :
    WritesOnly (inRun (s.captureAt (t.quill / 256) 0) (2 ^ 25)) s (s.capture t ys) := by
  have hput : ∀ (x : Well) (half : Nat), half ≤ 1 → WritesOnly (inRun (s.captureAt (t.quill / 256) 0) (2 ^ 25)) s
      ((s.setWell (t.quill / 256) x).writeBytes ((s.setWell (t.quill / 256) x).captureAt (t.quill / 256) half)
        ((ys.flatMap id).flatMap fun y => leBytes 4 y.toNat)) := fun x half hhalf => by
    refine WritesOnly.trans (t := s.setWell (t.quill / 256) x) (.of_read rfl rfl) ((WritesOnly.writeBytes _ _).mono fun a ha => ?_)
    have hat : (s.setWell (t.quill / 256) x).captureAt (t.quill / 256) half = s.captureAt (t.quill / 256) 0 + half * 2 ^ 24 :=
      s.captureAt_half (t.quill / 256) half
    rw [length_flatMap_leBytes, hat] at ha
    unfold inRun at ha ⊢
    omega
  unfold State.capture
  dsimp only
  split
  · exact .refl
  · split
    · exact hput _ 0 (by decide)
    · split
      · exact hput _ 1 le_rfl
      · exact .of_read rfl rfl

theorem outRows_le : outRows t ≤ t.mt := by
  have hn : (if t.free then min t.rows t.mt else t.mt) ≤ t.mt := by split <;> omega
  unfold outRows
  dsimp only
  cases t.conv with
  | none => exact hn
  | some c => exact (Nat.min_le_left _ _).trans hn

theorem outCols_le : outCols t ≤ t.nt := by
  unfold outCols
  split <;> omega

theorem length_tileResults (role : RoleOps) (g : Nat) (ops : List SegOps) : ((tileResults t role g ops).flatMap id).length = outCols t * outRows t := by
  have hrow : ∀ r ∈ tileResults t role g ops, (id r).length = outCols t := fun r hr => by
    obtain ⟨m, -, rfl⟩ := List.mem_map.mp hr
    simp
  rw [length_flatMap_of_length hrow, tileResults, List.length_map, List.length_range]

/-! ### The command -/

theorem State.closeTile_runs {s : State} {t : TileDesc} (h : gangRuns s t) : s.closeTile t = s.closeNow t (s.gangSize t.quill) := by
  obtain ⟨-, hfit, hfenced, hhalo⟩ := h
  simp [State.closeTile, hfit, hfenced, hhalo]

/-- A tile that closes takes its sample, drains its results and is done with. -/
theorem State.closeNow_eq {x : RoleOps × List SegOps} (hx : x = tileLoads s t (tileSteps t (s.gangSize t.quill))) {ys : List (List Word)}
    (hys : ys = tileResults t x.1 (s.gangSize t.quill) x.2) : s.closeNow t (s.gangSize t.quill) =
      (((s.checkedTile t).capture t ys).drainTile t x.1 (leadOf s t) ys).doneTile t := by
  subst hys hx
  rfl

theorem State.drainTile_plain (h : t.role = .plain) (role : RoleOps) (lead : Nat) (ys : List (List Word)) :
    s.drainTile t role lead ys = (s.epilogue lead 0 t.epilogue ys).1.writeTile lead t.out (!t.free) (min t.rows t.mt) []
      ((s.epilogue lead 0 t.epilogue ys).2.map fun r => r.map dec32) := by
  unfold State.drainTile
  rw [h]

end Sys2Proof.Machine

namespace Sys2Proof.Proofs
open Sys2Proof.Machine Sys2Proof.Claims

/-- Settles O9: what precedes the sample counts the issue cycles of every segment and leaves memory, and the sample stays inside the capture area. -/
theorem closedTileWritesItsResults : Obligations.ClosedTileWritesItsResults := by
  unfold Obligations.ClosedTileWritesItsResults
  intro s t htakes
  have hexec := exec_tileClose htakes
  refine ⟨fun hfit => by rw [hexec, State.closeTile_unfit hfit], fun hruns => ?_⟩
  intro g x ys
  rw [State.closeTile_runs hruns, s.closeNow_eq t (x := x) rfl (ys := ys) rfl] at hexec
  refine ⟨_, hexec, fun hrole => ?_⟩
  obtain ⟨hunits, hissue⟩ := (s.issues_ranSegs t hrole).after (s.unissued_checkedTile t)
  obtain ⟨w, m, v, hcapture⟩ := (s.checkedTile t).capture_frame t ys
  refine ⟨State.drainTile_plain _ t hrole _ _ _, fun j hj => ?_, fun hmt hnt a ha => ?_, ?_⟩
  · rw [hcapture]
    exact hissue j hj
  · have hsize : 4 * (ys.flatMap id).length ≤ 2 ^ 24 := by
      have := Nat.mul_le_mul ((outCols_le t).trans hnt) ((outRows_le t).trans hmt)
      rw [length_tileResults]
      omega
    have hwrites := (s.checkedTile t).writesOnly_capture t hsize
    rw [hunits.captureAt] at hwrites
    by_contra hout
    exact ha ((hwrites.2 a hout).trans (by rw [hunits.mem]))
  · obtain ⟨n, q, w', h, o, c, hu⟩ := hunits
    rw [hcapture, hu]

end Sys2Proof.Proofs
end

section
/-! PROOF. Array faults (R94, R98 to R100, R105 to R111): the checksum against the column total, what an attempt at a tile changes and what it leaves, the noting
of its faults, and the fence of a gang. -/
namespace Sys2Proof.Machine
open Sys2Proof.Claims

/-! ### The checksum (R105, R106) -/

theorem sumInt_eq (l : List Int) : sumInt l = l.sum := rfl

/-- C, with the integers of the checksum column written out. -/
theorem checkC_eq (row : List Int) (slots : List (List Int)) :
    checkC row slots = ((List.range 32).map fun e => row.getD e 0 * (slots.map fun b => b.getD e 0).sum).sum := by
  unfold checkC checksumCol
  rw [sumInt_eq]
  refine congrArg List.sum (List.map_congr_left fun e he => ?_)
  rw [List.getD_eq_getElem (n := e) (l := (List.range 32).map _) _ (by simpa using he), List.getElem_map, List.getElem_range, sumInt_eq]

/-- C distributes over the slots. -/
theorem checkC_eq_columnTotal (row : List Int) (slots : List (List Int)) : checkC row slots = columnTotal row slots := by
  rw [checkC_eq, columnTotal, sumInt_eq]
  induction slots with
  | nil => simp
  | cons slot slots ih =>
    simp only [List.map_cons, List.sum_cons, mul_add, List.sum_map_add, ih]
    rfl

theorem mismatch_add (c d : Int) : mismatch c (c + d) = decide (d % 65536 ≠ 0) := by
  unfold mismatch
  rw [decide_eq_decide]
  omega

/-! ### Events of the module that stay -/

theorem State.fire_evt (s : State) (v : Nat) : (s.fire v).host.evt = s.host.evt := by
  obtain ⟨a, b, c, p, e⟩ := s.fire_intervals v
  rw [e]

theorem State.logEvent_evt (s : State) (type severity : Nat) (payload : List Word) : (s.logEvent type severity payload).host.evt = s.host.evt := by
  unfold State.logEvent
  split
  · rfl
  · obtain ⟨c, n, e⟩ := s.countEntry_frame type
    rw [e]
    dsimp only
    split
    · rfl
    · split
      · exact State.fire_evt _ 147
      · rfl

/-! ### What an attempt at a tile changes (R109) -/

/-- The registers of a quill that the noting of faults, a fence or a recompute concerns are as they were. -/
structure SameFaults (x y : Quill) : Prop where
  gang : y.gang = x.gang
  fenced : y.fenced = x.fenced
  gfault : y.gfault = x.gfault
  gfctx : y.gfctx = x.gfctx
  attempt : y.attempt = x.attempt

theorem SameFaults.refl (x : Quill) : SameFaults x x := ⟨rfl, rfl, rfl, rfl, rfl⟩

theorem SameFaults.trans {x y z : Quill} (h : SameFaults x y) (h' : SameFaults y z) : SameFaults x z :=
  ⟨h'.gang.trans h.gang, h'.fenced.trans h.fenced, h'.gfault.trans h.gfault, h'.gfctx.trans h.gfctx, h'.attempt.trans h.attempt⟩

/-- Of a well only its account of errors differs. -/
def SameButErrors (x y : Well) : Prop := ∃ m e, y = { x with memerr := m, eccce := e }

theorem SameButErrors.refl (x : Well) : SameButErrors x x := ⟨_, _, rfl⟩

theorem SameButErrors.trans {x y z : Well} (h : SameButErrors x y) (h' : SameButErrors y z) : SameButErrors x z := by
  obtain ⟨_, _, rfl⟩ := h
  obtain ⟨_, _, rfl⟩ := h'
  exact ⟨_, _, rfl⟩

/-- What an attempt at a tile of quill `q` loads, issues and waits changes in units alone: of wells their accounts of errors, no other quill, and neither a fault
register, nor a count of mismatches, nor an event of the module. -/
structure Tries (q : Nat) (s u : State) : Prop where
  units : OnlyUnits s u
  wells : ∀ d, SameButErrors (s.well d) (u.well d)
  others : ∀ p, p ≠ q → u.quill p = s.quill p
  faults : SameFaults (s.quill q) (u.quill q)
  csmism : ∀ n, (u.nib n).csmism = (s.nib n).csmism
  evt : u.host.evt = s.host.evt

section
variable {q : Nat} {s t u : State}

theorem Tries.refl : Tries q s s := ⟨⟨_, _, _, _, _, _, rfl⟩, fun _ => .refl _, fun _ _ => rfl, .refl _, fun _ => rfl, rfl⟩

theorem Tries.trans (h : Tries q s t) (h' : Tries q t u) : Tries q s u :=
  ⟨h.units.trans h'.units, fun d => (h.wells d).trans (h'.wells d), fun p hp => (h'.others p hp).trans (h.others p hp), h.faults.trans h'.faults,
    fun n => (h'.csmism n).trans (h.csmism n), h'.evt.trans h.evt⟩

theorem Tries.ite {c : Prop} [Decidable c] (ht : Tries q s t) (hu : Tries q s u) : Tries q s (if c then t else u) := by
  split
  · exact ht
  · exact hu

theorem Tries.modNib (h : Tries q s t) {n : Nat} {f : Nib → Nib} (hf : ∀ x, (f x).csmism = x.csmism) : Tries q s (t.modNib n f) := by
  refine h.trans ⟨⟨_, _, _, _, _, _, rfl⟩, fun _ => .refl _, fun _ _ => rfl, .refl _, fun m => ?_, rfl⟩
  by_cases hm : m = n
  · rw [hm, State.modNib_eq, State.setNib_nib, hf]
  · rw [State.modNib_eq, State.setNib_nib_other _ _ _ _ hm]

theorem Tries.modQuill (h : Tries q s t) {f : Quill → Quill} (hf : ∀ x, SameFaults x (f x)) : Tries q s (t.modQuill q f) := by
  refine h.trans ⟨⟨_, _, _, _, _, _, rfl⟩, fun _ => .refl _, fun p hp => State.setQuill_quill_other _ _ _ _ hp, ?_, fun _ => rfl, rfl⟩
  rw [State.modQuill_eq, State.setQuill_quill]
  exact hf _

theorem State.sameButErrors_modWell (s : State) (d : Nat) {f : Well → Well} (hf : ∀ x, SameButErrors x (f x)) (k : Nat) :
    SameButErrors (s.well k) ((s.modWell d f).well k) := by
  by_cases hk : k = d
  · rw [hk, State.modWell_eq, State.setWell_well]
    exact hf _
  · rw [State.modWell_eq, State.setWell_well_other _ _ _ _ hk]
    exact .refl _

theorem State.tries_raiseWell (s : State) (d i : Nat) : Tries q s (s.raiseWell d i) := by
  obtain ⟨c, h, p, e⟩ := s.raiseWell_frame d i
  have hevt : (s.raiseWell d i).host.evt = s.host.evt := (State.logEvent_evt _ _ _ _).trans (State.fire_evt _ 144)
  refine ⟨⟨_, _, _, _, _, _, e⟩, fun k => ?_, fun _ _ => by rw [e]; rfl, by rw [e]; exact .refl _, fun _ => by rw [e]; rfl, hevt⟩
  rw [e]
  exact s.sameButErrors_modWell d (fun _ => ⟨_, _, rfl⟩) k

theorem State.tries_eccWell (s : State) (d n : Nat) (e : EccResult) : Tries q s (s.eccWell d n e) := by
  cases e with
  | clean => exact .refl
  | corrected =>
    exact ⟨⟨_, _, _, _, _, _, rfl⟩, s.sameButErrors_modWell d fun _ => ⟨_, _, rfl⟩, fun _ _ => rfl, .refl _, fun _ => rfl, rfl⟩
  | uncorrectable => exact foldl_keeps (Tries q s) _ _ s (fun u _ hu => hu.trans (u.tries_raiseWell d 0)) .refl

theorem Tries.eccWell (h : Tries q s t) (d n : Nat) (e : EccResult) : Tries q s (t.eccWell d n e) := h.trans (t.tries_eccWell d n e)

theorem Tries.foldl {α : Type} {f : State → α → State} {as : List α} (ht : Tries q s t) (h : ∀ u a, Tries q u (f u a)) : Tries q s (as.foldl f t) :=
  foldl_keeps (Tries q s) f as t (fun u a hu => hu.trans (h u a)) ht

/-- The same for a fold that gathers what it reads. -/
theorem Tries.foldl_fst {α β : Type} {f : State × β → α → State × β} {as : List α} {acc : State × β} (hacc : Tries q s acc.1)
    (h : ∀ x a, Tries q x.1 (f x a).1) : Tries q s (as.foldl f acc).1 :=
  foldl_keeps (fun x : State × β => Tries q s x.1) f as acc (fun x a hx => hx.trans (h x a)) hacc

theorem Tries.countLoads (h : Tries q s t) (nib line n : Nat) : Tries q s (t.countLoads nib line n) := by
  unfold State.countLoads
  refine Tries.eccWell ?_ _ _ _
  exact .ite h (h.modNib fun _ => rfl)

theorem Tries.nibLoad (h : Tries q s t) (nib line : Nat) : Tries q s (t.nibLoad nib line).1 := h.countLoads nib line 1

end

section
variable (q : Nat) (s : State)

theorem State.tries_loadPos (nib line fmt keep loads : Nat) (clip : Bool) : Tries q s (s.loadPos nib line fmt keep loads clip).1 := by
  have hload : Tries q s (s.countLoads nib line loads) := Tries.refl.countLoads nib line loads
  unfold State.loadPos
  split
  · exact .refl
  · exact .ite (hload.countLoads nib (line + 1) loads) hload

theorem State.tries_loadRow (o : OpRead) (loads : Nat → Nat → Nat) (r p n : Nat) : Tries q s (s.loadRow o loads r p n).1 := by
  induction n generalizing s p with
  | zero => exact .refl
  | succ n ih => exact (s.tries_loadPos q _ _ _ _ _ _).trans (ih _ _)

theorem State.tries_loadRows (o : OpRead) (loads : Nat → Nat → Nat) (l valid r n : Nat) : Tries q s (s.loadRows o loads l valid r n).1 := by
  induction n generalizing s r with
  | zero => exact .refl
  | succ n ih =>
    refine Tries.trans ?_ (ih _ _)
    split
    · exact .refl
    · exact s.tries_loadRow q o loads r 0 l

theorem State.tries_loadOperand (base g hdr line stride l cap : Nat) (clip : Bool) (valid n : Nat) (loads : Nat → Nat → Nat) :
    Tries q s (s.loadOperand base g hdr line stride l cap clip valid n loads).1 := by
  have hhdr : Tries q s (s.nibLoad base hdr).1 := Tries.refl.nibLoad base hdr
  unfold State.loadOperand
  dsimp only
  split
  · exact hhdr
  · exact hhdr.trans (State.tries_loadRows _ _ _ _ _ _ _ _)

theorem State.tries_loadFlourish (lead l rows : Nat) (f : FlourishIn) : Tries q s (s.loadFlourish lead l rows f).1 := by
  unfold State.loadFlourish
  refine .foldl_fst ?_ fun x (m : Nat) => .foldl_fst .refl fun y (v : Nat) => Tries.refl.nibLoad lead _
  refine Tries.nibLoad ?_ lead f.sideHdr
  exact .foldl_fst .refl fun x (e : Nat × Nat) => Tries.refl.nibLoad lead e.1

theorem State.tries_enterLine (lead a : Nat) : Tries q s (s.enterLine q lead a) := by
  have hread : Tries q s (s.readWellLine (q / 256) a).1 := s.tries_eccWell _ 1 _
  unfold State.enterLine
  refine Tries.modQuill ?_ fun _ => ⟨rfl, rfl, rfl, rfl, rfl⟩
  exact .ite hread (hread.modNib fun _ => rfl)

theorem State.tries_fillBuffer (lead : Nat) (reads : List Nat) : Tries q s (s.fillBuffer q lead reads) := by
  unfold State.fillBuffer
  exact .modQuill (.foldl .refl fun u a => u.tries_enterLine q lead a) fun _ => ⟨rfl, rfl, rfl, rfl, rfl⟩

variable (t : TileDesc)

theorem State.tries_feedSeg (c : ConvFeed) (lead i : Nat) : Tries t.quill s (s.feedSeg t c lead i).1 := by
  unfold State.feedSeg
  dsimp only
  refine Tries.eccWell ?_ _ _ _
  refine Tries.modQuill ?_ fun _ => ⟨rfl, rfl, rfl, rfl, rfl⟩
  exact s.tries_fillBuffer t.quill lead _

theorem State.tries_loadSeg (role : RoleOps) (g i : Nat) (fed : Bool) (n : Loads) (seg : Segment) :
    Tries t.quill s (s.loadSeg t role g i fed n seg).1 := by
  have hload : ∀ {u : State}, Tries t.quill s u → ∀ hdr line stride cap clip valid k loads,
      Tries t.quill s (u.loadOperand (gangNib t.quill t.gang g 0) g hdr line stride seg.lines cap clip valid k loads).1 := fun hu _ _ _ _ _ _ _ _ =>
    hu.trans (State.tries_loadOperand _ _ _ _ _ _ _ _ _ _ _ _ _)
  have hfed : ∀ {u : State}, Tries t.quill s u → Tries t.quill s (if fed then u else s) := fun hu => .ite hu .refl
  have hflourish : ∀ {u : State}, Tries t.quill s u → ∀ f,
      Tries t.quill s (if fed then (u.loadFlourish (gangNib t.quill t.gang g 0) seg.lines (outRows t) f).1 else u) := fun hu f =>
    .ite (hu.trans (State.tries_loadFlourish _ _ _ _ _ f)) hu
  unfold State.loadSeg
  cases t.conv with
  | none =>
    have hcols := hload (hfed (hload .refl seg.aHdr seg.aLine seg.aStride 16384 t.free t.rows t.mt n.a))
    cases seg.flourish with
    | none => exact hcols _ _ _ _ _ _ _ _
    | some f => exact hflourish (hcols _ _ _ _ _ _ _ _) f
  | some c =>
    have hcols := hload (hfed (s.tries_feedSeg t c (gangNib t.quill t.gang g 0) i))
    cases seg.flourish with
    | none => exact hcols _ _ _ _ _ _ _ _
    | some f => exact hflourish (hcols _ _ _ _ _ _ _ _) f

/-! ### What an attempt counts -/

theorem State.tries_countSeg (g i done ahead : Nat) (seg : Segment) (o : SegOps) : Tries t.quill s (s.countSeg t g i done ahead seg o) := by
  unfold State.countSeg
  dsimp only
  cases t.conv with
  | none => exact .foldl .refl fun _ _ => Tries.refl.modNib fun _ => rfl
  | some c =>
    refine Tries.modQuill ?_ fun _ => ⟨rfl, rfl, rfl, rfl, rfl⟩
    exact .foldl .refl fun _ _ => Tries.refl.modNib fun _ => rfl

theorem State.tries_keepRegs (role : RoleOps) (g i done ahead : Nat) (seg : Segment) (o : SegOps) :
    Tries t.quill s (s.keepRegs t role g i done ahead seg o) := by
  unfold State.keepRegs
  dsimp only
  cases t.conv with
  | none => exact .foldl .refl fun u j => Tries.refl.modNib fun _ => rfl
  | some c =>
    refine Tries.modQuill ?_ fun _ => ⟨rfl, rfl, rfl, rfl, rfl⟩
    exact .foldl .refl fun u j => Tries.refl.modNib fun _ => rfl

theorem State.tries_loadSegs (role : RoleOps) (g done i : Nat) (segs : List Segment) : Tries t.quill s (s.loadSegs t role g done i segs).1 := by
  induction segs generalizing s i with
  | nil => exact .refl
  | cons seg rest ih =>
    refine Tries.trans ?_ (ih _ _)
    refine .ite .refl ?_
    exact ((s.tries_loadSeg t role g i _ _ seg).trans (State.tries_countSeg _ t g i _ _ seg _)).trans (State.tries_keepRegs _ t role g i _ _ seg _)

theorem State.tries_countWaits (g : Nat) : Tries t.quill s (s.countWaits t g) := by
  unfold State.countWaits
  dsimp only
  cases t.conv with
  | none =>
    refine Tries.modNib ?_ fun _ => rfl
    exact .foldl .refl fun _ _ => Tries.refl.modNib fun _ => rfl
  | some c =>
    refine Tries.modQuill ?_ fun _ => ⟨rfl, rfl, rfl, rfl, rfl⟩
    refine Tries.modNib ?_ fun _ => rfl
    exact .foldl .refl fun _ _ => Tries.refl.modNib fun _ => rfl

/-! ### Noting the faults (R98 to R100) -/

/-- The fault registers after one more array fault. -/
def Quill.note (t : TileDesc) (outcome : Nat) (x : Quill) (f : Nat × Nat) : Quill :=
  { x with gfctx := sset (fun _ => 0#32) x.gfctx t.gang (gfctxWord t.tileIndex f.2 x.gang.toNat f.1 outcome), gfault := x.gfault.raise t.gang }

/-- Array faults noted one after another: the registers of the tile's quill, and what is told of them. -/
structure Notes (outcome : Nat) (found : List (Nat × Nat)) (s u : State) : Prop where
  frame : ∃ q h p, u = { s with quills := q, host := h, pcieOut := p }
  evt : u.host.evt = s.host.evt
  others : ∀ p, p ≠ t.quill → u.quill p = s.quill p
  quill : u.quill t.quill = found.foldl (Quill.note t outcome) (s.quill t.quill)

theorem State.quills_raiseGfault (q g : Nat) : (s.raiseGfault q g).quills = (s.modQuill q fun x => { x with gfault := x.gfault.raise g }).quills := by
  obtain ⟨h, p, e⟩ := s.raiseGfault_frame q g
  rw [e]

theorem State.onlyQuills_raiseGfault (q g : Nat) : ∃ x h p, s.raiseGfault q g = { s with quills := x, host := h, pcieOut := p } := by
  obtain ⟨h, p, e⟩ := s.raiseGfault_frame q g
  exact ⟨_, h, p, e⟩

theorem State.quill_congr {s u : State} (h : u.quills = s.quills) (q : Nat) : u.quill q = s.quill q := by rw [State.quill, State.quill, h]

theorem State.notes_noteFault (outcome : Nat) (f : Nat × Nat) : Notes t outcome [f] s (s.noteFault t outcome f) := by
  unfold State.noteFault
  generalize hx : (fun x : Quill => { x with gfctx := sset (fun _ => 0#32) x.gfctx t.gang (gfctxWord t.tileIndex f.2 x.gang.toNat f.1 outcome) }) = ctx
  have hquill : ∀ q, ((s.modQuill t.quill ctx).raiseGfault t.quill t.gang).quill q = _ := State.quill_congr (State.quills_raiseGfault _ _ _)
  obtain ⟨x, h, p, e⟩ := (s.modQuill t.quill ctx).onlyQuills_raiseGfault t.quill t.gang
  refine ⟨⟨x, h, p, e⟩, State.fire_evt _ 144, fun p hp => ?_, ?_⟩
  · rw [hquill, State.modQuill_eq, State.setQuill_quill_other _ _ _ _ hp, State.modQuill_eq, State.setQuill_quill_other _ _ _ _ hp]
  · rw [hquill, State.modQuill_eq, State.setQuill_quill, State.modQuill_eq, State.setQuill_quill, ← hx]
    rfl

theorem State.notes_noteFaults (outcome : Nat) (found : List (Nat × Nat)) :
    Notes t outcome found s (found.foldl (fun s f => s.noteFault t outcome f) s) := by
  induction found generalizing s with
  | nil => exact ⟨⟨_, _, _, rfl⟩, rfl, fun _ _ => rfl, rfl⟩
  | cons f found ih =>
    obtain ⟨⟨q, h, p, e⟩, hevt, hothers, hquill⟩ := s.notes_noteFault t outcome f
    obtain ⟨⟨q', h', p', e'⟩, hevt', hothers', hquill'⟩ := ih (s.noteFault t outcome f)
    rw [List.foldl_cons]
    refine ⟨⟨q', h', p', by rw [e', e]⟩, hevt'.trans hevt, fun p hp => (hothers' p hp).trans (hothers p hp), ?_⟩
    rw [hquill', hquill]
    rfl

theorem Notes.nib {t : TileDesc} {outcome : Nat} {found : List (Nat × Nat)} {s u : State} (h : Notes t outcome found s u) (n : Nat) : u.nib n = s.nib n := by
  obtain ⟨_, _, _, e⟩ := h.frame
  rw [e]
  rfl

section
variable (outcome : Nat) (x : Quill) (found : List (Nat × Nat))

theorem Quill.gfctx_note (f : Nat × Nat) : (x.note t outcome f).gfctx =
    sset (fun _ => 0#32) x.gfctx t.gang (gfctxWord t.tileIndex f.2 x.gang.toNat f.1 outcome) := rfl

theorem Quill.gang_notes : (found.foldl (Quill.note t outcome) x).gang = x.gang :=
  foldl_keeps (fun y : Quill => y.gang = x.gang) _ _ _ (fun _ _ h => h) rfl

theorem Quill.fenced_notes : (found.foldl (Quill.note t outcome) x).fenced = x.fenced :=
  foldl_keeps (fun y : Quill => y.fenced = x.fenced) _ _ _ (fun _ _ h => h) rfl

theorem Quill.attempt_notes : (found.foldl (Quill.note t outcome) x).attempt = x.attempt :=
  foldl_keeps (fun y : Quill => y.attempt = x.attempt) _ _ _ (fun _ _ h => h) rfl

theorem Quill.gfault_notes : (found.foldl (Quill.note t outcome) x).gfault = found.foldl (fun e _ => e.raise t.gang) x.gfault := by
  induction found generalizing x with
  | nil => rfl
  | cons f found ih => exact ih (x.note t outcome f)

/-- The context that stands is the latest fault's (R99). -/
theorem Quill.gfctx_notes {f : Nat × Nat} (h : found.getLast? = some f) : sget (fun _ => 0#32) (found.foldl (Quill.note t outcome) x).gfctx t.gang =
    gfctxWord t.tileIndex f.2 x.gang.toNat f.1 outcome := by
  obtain ⟨before, rfl⟩ := List.getLast?_eq_some_iff.mp h
  rw [List.foldl_append, List.foldl_cons, List.foldl_nil, Quill.gfctx_note, sget_sset, Quill.gang_notes]

end

/-! ### The attempt that a fault ends (R109) -/

/-- The state after the first `done` steps of an attempt at a tile, its waits counted. -/
def State.countedTile (done : Nat) : State :=
  ((s.roleOps t (leadOf s t)).1.loadSegs t (s.roleOps t (leadOf s t)).2 (s.gangSize t.quill) done 0 t.segs).1.countWaits t (s.gangSize t.quill)

/-- The same with each nib's mismatches counted. -/
def State.triedTile (faults : List NibFault) (done : Nat) : State :=
  (faults.filter fun f => f.nib / s.gangSize t.quill = t.gang).foldl (fun u f => u.modNib (8 * t.quill + f.nib) fun x =>
    { x with csmism := satAdd x.csmism (mismatches t (s.gangSize t.quill) done (tileLoads s t done).2 f) }) (s.countedTile t done)

/-- The state with the faults of an attempt noted. -/
def State.notedTile (faults : List NibFault) (done : Nat) (outcome : Nat) : State :=
  (faultsFound s t faults done).foldl (fun u f => u.noteFault t outcome f) (s.triedTile t faults done)

theorem exec_arrayFault {s : State} {t : TileDesc} (h : gangTakes s t) (nibs : List Nat) (parity : List (List Nat)) (cycles : List (List IssueFault))
    (steps : Nat) : exec (.arrayFault t nibs parity cycles steps) s = .next (s.arrayFault t (nibFaults nibs parity cycles) steps) := by
  obtain ⟨hlive, hquill, hgang⟩ := h
  have he : exec (.arrayFault t nibs parity cycles steps) s = s.onGang t fun s => s.arrayFault t (nibFaults nibs parity cycles) steps := rfl
  rw [he, State.onGang, hlive, hquill]
  simp only [Bool.not_true, Bool.false_or, Bool.false_eq_true, if_false, decide_eq_true_eq, if_neg (not_lt.mpr hgang)]

/-- The faults of an attempt leave the tile to be recomputed, or fence the nibs that found them. -/
theorem State.arrayFault_runs {s : State} {t : TileDesc} (h : gangRuns s t) (faults : List NibFault) {done : Nat} (hdone : 0 < done)
    (hsteps : done ≤ tileSteps t (s.gangSize t.quill)) (hfound : faultsFound s t faults done ≠ []) : s.arrayFault t faults done =
      if (s.quill t.quill).attempt.any (fun a => a.tile.gang = t.gang) then
        (s.notedTile t faults done 2).fenceGang t (s.gangSize t.quill) ((faultsFound s t faults done).map (·.1)).eraseDups
      else (s.notedTile t faults done 0).modQuill t.quill fun x =>
        { x with
          attempt := x.attempt ++ [{ tile := t, nibs := ((faultsFound s t faults done).map (·.1)).eraseDups }]
          convLast := if t.conv.isSome then some t else x.convLast
          convBusy := x.convBusy || t.conv.isSome } := by
  obtain ⟨-, hfit, hfenced, hhalo⟩ := h
  unfold State.arrayFault
  dsimp only
  rw [if_neg]
  · unfold State.notedTile State.triedTile State.countedTile faultsFound tileLoads leadOf
    cases (s.quill t.quill).attempt.any fun a => a.tile.gang = t.gang <;> simp only [Bool.false_eq_true, if_true, if_false]
  · unfold faultsFound tileLoads leadOf at hfound
    simp [hfit, hfenced, hhalo, hsteps, hdone.ne', hfound]

theorem State.tries_countedTile (h : t.role = .plain) (done : Nat) : Tries t.quill s (s.countedTile t done) := by
  unfold State.countedTile
  rw [s.roleOps_plain t h]
  exact (s.tries_loadSegs t _ _ _ _ _).trans (State.tries_countWaits _ t _)

theorem State.triedTile_frame (faults : List NibFault) (done : Nat) : ∃ n, s.triedTile t faults done = { s.countedTile t done with nibs := n } := by
  refine foldl_keeps (fun u => ∃ n, u = { s.countedTile t done with nibs := n }) _ _ (s.countedTile t done) ?_ ⟨_, rfl⟩
  rintro _ f ⟨n, rfl⟩
  exact ⟨_, rfl⟩

/-- A nib that alone met faults has counted its mismatches. -/
theorem State.csmism_triedTile (h : t.role = .plain) {f : NibFault} (hgang : f.nib / s.gangSize t.quill = t.gang) (done : Nat) :
    ((s.triedTile t [f] done).nib (8 * t.quill + f.nib)).csmism =
      satAdd (s.nib (8 * t.quill + f.nib)).csmism (mismatches t (s.gangSize t.quill) done (tileLoads s t done).2 f) := by
  unfold State.triedTile
  rw [List.filter_cons_of_pos (by simpa using hgang), List.filter_nil, List.foldl_cons, List.foldl_nil, State.modNib_eq, State.setNib_nib,
    (s.tries_countedTile t h done).csmism]

/-! ### Fences (R94, R95, R111) -/

/-- The running job still runs, with the first cause of its failure as it was. -/
def SameFailure (s u : State) : Prop := ∀ j, s.strk.run = some j → ∃ k, u.strk.run = some k ∧ k.failure = j.failure

theorem SameFailure.of_strk {s u : State} (h : u.strk = s.strk) : SameFailure s u := fun j hj => ⟨j, h ▸ hj, rfl⟩

theorem SameFailure.trans {s u v : State} (h : SameFailure s u) (h' : SameFailure u v) : SameFailure s v := fun j hj => by
  obtain ⟨k, hk, hfail⟩ := h j hj
  obtain ⟨l, hl, hfail'⟩ := h' k hk
  exact ⟨l, hl, hfail'.trans hfail⟩

theorem State.sameFailure_noteHdr (nib line : Nat) : SameFailure s (s.noteHdr nib line) := by
  unfold State.noteHdr
  split
  · exact fun j hj => ⟨_, (s.modRun_run _).trans (congrArg (Option.map _) hj), rfl⟩
  · exact .of_strk rfl

/-- A tile that is written poisoned, with its header line where it has one. -/
theorem State.poisonTile_cases (nib : Nat) (o : OutDesc) (whole : Bool) (rows cols : Nat) :
    (∃ m v k, s.poisonTile nib o whole rows cols = { s with mem := m, upset := v, strk := k }) ∧ SameFailure s (s.poisonTile nib o whole rows cols) := by
  cases hhdr : o.hdr with
  | none =>
    obtain ⟨m, v, e⟩ := s.poisonTile_frame nib hhdr whole rows cols
    exact ⟨⟨m, v, s.strk, e⟩, .of_strk (by rw [e])⟩
  | some a =>
    have he : s.poisonTile nib o whole rows cols = ((s.poisonTile nib { o with hdr := none } whole rows cols).t0Write nib a
        (writeHdr (outHdr o (o.tileScale.getD 0x3F800000#32)))).noteHdr nib a := by
      unfold State.poisonTile
      rw [hhdr]
    obtain ⟨m, v, e⟩ := s.poisonTile_frame nib (o := { o with hdr := none }) rfl whole rows cols
    rw [he, e]
    obtain ⟨m', v', e'⟩ := State.t0Write_frame { s with mem := m, upset := v } nib a (writeHdr (outHdr o (o.tileScale.getD 0x3F800000#32)))
    rw [e']
    obtain ⟨k, e''⟩ := State.noteHdr_frame { s with mem := m', upset := v' } nib a
    exact ⟨⟨m', v', k, e''⟩, State.sameFailure_noteHdr { s with mem := m', upset := v' } nib a⟩

theorem State.sameFaults_doneTile (q : Nat) : SameFaults (s.quill q) ((s.doneTile t).quill q) := by
  by_cases hq : q = t.quill
  · rw [hq, State.doneTile, State.modQuill_eq, State.setQuill_quill]
    exact ⟨rfl, rfl, rfl, rfl, rfl⟩
  · rw [s.doneTile_quill_other t hq]
    exact .refl _

/-- A tile closed poisoned leaves the fault registers, the endpoint, other quills and the cause of the job's failure as they were. -/
theorem State.closePoisoned_keeps {s : State} {t : TileDesc} (h : t.role = .plain) (g : Nat) :
    SameFaults (s.quill t.quill) ((s.closePoisoned t g).quill t.quill)
    ∧ (∀ q, q ≠ t.quill → (s.closePoisoned t g).quill q = s.quill q) ∧ (s.closePoisoned t g).host = s.host ∧ SameFailure s (s.closePoisoned t g) := by
  have he : s.closePoisoned t g = (s.poisonTile (gangNib t.quill t.gang g 0) t.out (!t.free) (outRows t) (outCols t)).doneTile t := by
    unfold State.closePoisoned
    rw [h]
  obtain ⟨⟨m, v, k, e⟩, hfail⟩ := s.poisonTile_cases (gangNib t.quill t.gang g 0) t.out (!t.free) (outRows t) (outCols t)
  rw [e] at he hfail
  rw [he]
  exact ⟨State.sameFaults_doneTile _ t _, fun q hq => State.doneTile_quill_other _ t hq, rfl, hfail.trans (.of_strk rfl)⟩

/-- Nibs of the tile's quill fenced one after another: the events, and the end of the running job, whose first cause stands. -/
structure Fences (nibs : List Nat) (s u : State) : Prop where
  quills : u.quills = s.quills
  evt : u.host.evt = nibs.foldl (fun e _ => e.raise 0) s.host.evt
  run : ∀ j, s.strk.run = some j → ∃ k, u.strk.run = some k ∧ (k.noCommit && k.fence) = (!nibs.isEmpty || (j.noCommit && j.fence))
    ∧ k.failure = j.failure.or (nibs.head?.map fun p => (0x15, 8 * t.quill + p))

/-- A fence logs and raises its event, then marks the running job and fails it. -/
theorem State.fenceNib_eq (p : Nat) : ∃ (u : State) (f : Job → Job), u.quills = s.quills ∧ u.strk = s.strk ∧ u.host.evt = s.host.evt.raise 0
    ∧ (∀ j, (f j).fence = true ∧ (f j).failure = j.failure) ∧ s.fenceNib t p = (u.modRun f).failJob 0x15 (8 * t.quill + p) := by
  unfold State.fenceNib
  dsimp only
  generalize [w32 (8 * t.quill + p), w32 (t.quill / 256), w32 (s.siteOf t.quill), sget (fun _ => 0#32) (s.quill t.quill).gfctx t.gang] = payload
  have hevt : ((s.logEvent 0x0010 2 payload).raiseHost 0).host.evt = s.host.evt.raise 0 :=
    (State.fire_evt _ 140).trans (congrArg (Events.raise · 0) (s.logEvent_evt _ _ _))
  obtain ⟨c, h, o, e⟩ := s.logEvent_frame 0x0010 2 payload
  obtain ⟨h', o', e'⟩ := (s.logEvent 0x0010 2 payload).raiseHost_frame 0
  have hquills : ((s.logEvent 0x0010 2 payload).raiseHost 0).quills = s.quills := by rw [e', e]
  have hstrk : ((s.logEvent 0x0010 2 payload).raiseHost 0).strk = s.strk := by rw [e', e]
  refine ⟨(s.logEvent 0x0010 2 payload).raiseHost 0, ?_⟩
  split
  · refine ⟨_, hquills, hstrk, hevt, ?_, rfl⟩
    exact fun _ => ⟨rfl, rfl⟩
  · refine ⟨_, hquills, hstrk, hevt, ?_, rfl⟩
    exact fun _ => ⟨rfl, rfl⟩

theorem State.run_failJob (status detail : Nat) {j : Job} (h : s.strk.run = some j) : (s.failJob status detail).strk.run =
    some { j with noCommit := true, failure := j.failure.or (some (status, detail)) } := by
  rw [State.failJob, State.modRun_run, h, Option.map_some]
  cases j.failure <;> rfl

theorem State.fences_fenceNib (p : Nat) : Fences t [p] s (s.fenceNib t p) := by
  obtain ⟨u, f, hquills, hstrk, hevt, hf, e⟩ := s.fenceNib_eq t p
  rw [e]
  refine ⟨hquills, hevt, fun j hj => ⟨_, State.run_failJob _ _ _ (j := f j) ?_, ?_, ?_⟩⟩
  · rw [State.modRun_run, hstrk, hj, Option.map_some]
  · simp [(hf j).1]
  · simp [(hf j).2]

theorem State.fences_fenceNibs (nibs : List Nat) : Fences t nibs s (nibs.foldl (fun s p => s.fenceNib t p) s) := by
  induction nibs generalizing s with
  | nil => exact ⟨rfl, rfl, fun j hj => ⟨j, hj, by simp, by simp⟩⟩
  | cons p nibs ih =>
    obtain ⟨hquills, hevt, hrun⟩ := s.fences_fenceNib t p
    obtain ⟨hquills', hevt', hrun'⟩ := ih (s.fenceNib t p)
    refine ⟨hquills'.trans hquills, by rw [List.foldl_cons, hevt', hevt]; rfl, fun j hj => ?_⟩
    obtain ⟨k, hk, hmarks, hfail⟩ := hrun j hj
    obtain ⟨l, hl, hmarks', hfail'⟩ := hrun' k hk
    refine ⟨l, hl, ?_, ?_⟩
    · simp [hmarks', hmarks]
    · simp [hfail', hfail]

end

/-! ### A tile with its faults noted -/

section
variable {s : State} {t : TileDesc} (hrole : t.role = .plain) (faults : List NibFault) (done outcome : Nat)
include hrole

theorem State.units_notedTile : OnlyUnits s (s.notedTile t faults done outcome) := by
  obtain ⟨⟨q, h, p, e⟩, -, -, -⟩ := State.notes_noteFaults (s.triedTile t faults done) t outcome (faultsFound s t faults done)
  obtain ⟨n, hn⟩ := s.triedTile_frame t faults done
  exact ((s.tries_countedTile t hrole done).units.trans ⟨_, _, _, _, _, _, hn⟩).trans ⟨_, _, _, _, _, _, e⟩

theorem State.evt_notedTile : (s.notedTile t faults done outcome).host.evt = s.host.evt := by
  obtain ⟨n, hn⟩ := s.triedTile_frame t faults done
  refine (State.notes_noteFaults _ t outcome _).evt.trans ?_
  rw [hn]
  exact (s.tries_countedTile t hrole done).evt

theorem State.quill_notedTile_other {q : Nat} (hq : q ≠ t.quill) : (s.notedTile t faults done outcome).quill q = s.quill q := by
  obtain ⟨n, hn⟩ := s.triedTile_frame t faults done
  refine ((State.notes_noteFaults _ t outcome _).others q hq).trans ?_
  rw [hn]
  exact (s.tries_countedTile t hrole done).others q hq

/-- The fault registers hold the faults found on top of what they held. -/
theorem State.quill_notedTile : ∃ x, SameFaults (s.quill t.quill) x
    ∧ (s.notedTile t faults done outcome).quill t.quill = (faultsFound s t faults done).foldl (Quill.note t outcome) x := by
  obtain ⟨n, hn⟩ := s.triedTile_frame t faults done
  refine ⟨_, ?_, (State.notes_noteFaults _ t outcome _).quill⟩
  rw [hn]
  exact (s.tries_countedTile t hrole done).faults

theorem State.fenced_notedTile : ((s.notedTile t faults done outcome).quill t.quill).fenced = (s.quill t.quill).fenced := by
  obtain ⟨x, hx, e⟩ := s.quill_notedTile hrole faults done outcome
  rw [e, Quill.fenced_notes, hx.fenced]

theorem State.attempt_notedTile : ((s.notedTile t faults done outcome).quill t.quill).attempt = (s.quill t.quill).attempt := by
  obtain ⟨x, hx, e⟩ := s.quill_notedTile hrole faults done outcome
  rw [e, Quill.attempt_notes, hx.attempt]

theorem State.gfault_notedTile : ((s.notedTile t faults done outcome).quill t.quill).gfault =
    (faultsFound s t faults done).foldl (fun e _ => e.raise t.gang) (s.quill t.quill).gfault := by
  obtain ⟨x, hx, e⟩ := s.quill_notedTile hrole faults done outcome
  rw [e, Quill.gfault_notes, hx.gfault]

theorem State.gfctx_notedTile {f : Nat × Nat} (hf : (faultsFound s t faults done).getLast? = some f) :
    sget (fun _ => 0#32) ((s.notedTile t faults done outcome).quill t.quill).gfctx t.gang =
      gfctxWord t.tileIndex f.2 (s.quill t.quill).gang.toNat f.1 outcome := by
  obtain ⟨x, hx, e⟩ := s.quill_notedTile hrole faults done outcome
  rw [e, Quill.gfctx_notes t outcome x _ hf, hx.gang]

theorem State.csmism_notedTile {f : NibFault} (hfaults : faults = [f]) (hfound : faultsFound s t faults done ≠ []) :
    ((s.notedTile t faults done outcome).nib (8 * t.quill + f.nib)).csmism =
      satAdd (s.nib (8 * t.quill + f.nib)).csmism (mismatches t (s.gangSize t.quill) done (tileLoads s t done).2 f) := by
  subst hfaults
  have hgang : f.nib / s.gangSize t.quill = t.gang := by
    by_contra hout
    exact hfound (by simp [faultsFound, hout])
  rw [← s.csmism_triedTile t hrole hgang done]
  exact congrArg Nib.csmism ((State.notes_noteFaults _ t outcome _).nib _)

end

/-! ### A gang fenced (R94, R95, R111) -/

/-- A gang fenced: the fault registers of its quill, the events, and the end of the running job. -/
theorem State.fenceGang_keeps {s : State} {t : TileDesc} (hrole : t.role = .plain) (g : Nat) (nibs : List Nat) :
    ((s.fenceGang t g nibs).quill t.quill).fenced = nibs.foldl (fun m p => m ||| BitVec.ofNat 8 (2 ^ p)) (s.quill t.quill).fenced
    ∧ ((s.fenceGang t g nibs).quill t.quill).gfctx = (s.quill t.quill).gfctx
    ∧ ((s.fenceGang t g nibs).quill t.quill).gfault = (s.quill t.quill).gfault
    ∧ (∀ q, q ≠ t.quill → (s.fenceGang t g nibs).quill q = s.quill q)
    ∧ (s.fenceGang t g nibs).host.evt = nibs.foldl (fun e _ => e.raise 0) s.host.evt
    ∧ ∀ j, s.strk.run = some j → nibs ≠ [] → ∃ k, (s.fenceGang t g nibs).strk.run = some k ∧ k.noCommit = true ∧ k.fence = true
      ∧ k.failure = j.failure.or (some (0x15, 8 * t.quill + nibs.headD 0)) := by
  unfold State.fenceGang
  dsimp only
  generalize hx : (fun x : Quill => { x with
    fenced := nibs.foldl (fun m p => m ||| BitVec.ofNat 8 (2 ^ p)) x.fenced, attempt := x.attempt.filter fun b => b.tile.gang ≠ t.gang }) = fences
  obtain ⟨hsame, hothers, hhost, hfail⟩ := State.closePoisoned_keeps (s := s.modQuill t.quill fences) hrole g
  obtain ⟨hquills, hevt, hrun⟩ := ((s.modQuill t.quill fences).closePoisoned t g).fences_fenceNibs t nibs
  have hown : SameFaults (fences (s.quill t.quill))
      ((nibs.foldl (fun s p => s.fenceNib t p) ((s.modQuill t.quill fences).closePoisoned t g)).quill t.quill) := by
    rw [State.quill_congr hquills]
    rwa [State.modQuill_eq, State.setQuill_quill] at hsame
  subst hx
  refine ⟨hown.fenced, hown.gfctx, hown.gfault, fun q hq => ?_, by rw [hevt, hhost]; rfl, fun j hj hne => ?_⟩
  · rw [State.quill_congr hquills, hothers q hq, State.modQuill_eq, State.setQuill_quill_other _ _ _ _ hq]
  · obtain ⟨k, hk, hkfail⟩ := hfail j hj
    obtain ⟨l, hl, hmarks, hlfail⟩ := hrun k hk
    obtain ⟨p, ps, rfl⟩ := List.exists_cons_of_ne_nil hne
    simp only [List.isEmpty_cons, Bool.not_false, Bool.true_or, Bool.and_eq_true] at hmarks
    exact ⟨l, hl, hmarks.1, hmarks.2, by rw [hlfail, hkfail]; rfl⟩

theorem OnlyUnits.setQuill {s u : State} (h : OnlyUnits s u) (q : Nat) (x : Quill) : OnlyUnits s (u.setQuill q x) :=
  h.trans ⟨_, _, _, _, _, _, rfl⟩

theorem OnlyUnits.eq {s u : State} (h : OnlyUnits s u) :
    u = { s with nibs := u.nibs, quills := u.quills, wells := u.wells, host := u.host, pcieOut := u.pcieOut, scr := u.scr } := by
  obtain ⟨_, _, _, _, _, _, e⟩ := h
  rw [e]

theorem eraseDups_ne_nil {l : List Nat} (h : l ≠ []) : l.eraseDups ≠ [] := by
  obtain ⟨a, l, rfl⟩ := List.exists_cons_of_ne_nil h
  rw [List.eraseDups_cons]
  exact List.cons_ne_nil _ _

end Sys2Proof.Machine

namespace Sys2Proof.Proofs
open Sys2Proof.Machine Sys2Proof.Claims

/-- Settles O11: the checksum distributes over the slots, an attempt leaves the fault registers until its faults are noted, and a fence fails the job for
its first nib. -/
theorem arrayFaultsAreRecordedThenFenced : Obligations.ArrayFaultsAreRecordedThenFenced := by
  unfold Obligations.ArrayFaultsAreRecordedThenFenced
  refine ⟨⟨fun row slots d => ⟨checkC_eq_columnTotal row slots, ?_⟩, fun s t nibs parity cycles steps hruns hpos hsteps => ?_⟩,
    fun s t nibs parity cycles steps hruns hpos hsteps => ?_⟩
  · rw [checkC_eq_columnTotal, mismatch_add]
  · intro faults found x hfound hfirst
    have hexec := exec_arrayFault hruns.1 nibs parity cycles steps
    rw [State.arrayFault_runs hruns faults hpos hsteps hfound, hfirst, if_neg Bool.false_ne_true, State.modQuill_eq] at hexec
    refine ⟨_, hexec, fun hrole => ?_⟩
    rw [State.setQuill_quill]
    refine ⟨fun f hf => State.gfctx_notedTile hrole _ _ _ hf, State.gfault_notedTile hrole _ _ _, ?_, State.fenced_notedTile hrole _ _ _,
      fun f hf => State.csmism_notedTile hrole _ _ _ hf hfound, fun q hq => ?_, ?_⟩
    · rw [State.attempt_notedTile hrole]
    · rw [State.setQuill_quill_other _ _ _ _ hq, State.quill_notedTile_other hrole _ _ _ hq]
    · exact ((State.units_notedTile hrole faults steps 0).setQuill t.quill _).eq
  · intro faults found x fenced hfound hsecond
    have hexec := exec_arrayFault hruns.1 nibs parity cycles steps
    rw [State.arrayFault_runs hruns faults hpos hsteps hfound, hsecond, if_pos rfl] at hexec
    refine ⟨_, hexec, fun hrole => ?_⟩
    obtain ⟨hfenced, hgfctx, hgfault, hothers, hevt, hrun⟩ :=
      (s.notedTile t faults steps 2).fenceGang_keeps hrole (s.gangSize t.quill) fenced
    refine ⟨?_, fun f hf => ?_, ?_, fun q hq => ?_, ?_, fun j hj => ?_⟩
    · exact hfenced.trans (by rw [State.fenced_notedTile hrole])
    · exact (congrArg (sget _ · _) hgfctx).trans (State.gfctx_notedTile hrole _ _ _ hf)
    · exact hgfault.trans (State.gfault_notedTile hrole _ _ _)
    · exact (hothers q hq).trans (State.quill_notedTile_other hrole _ _ _ hq)
    · exact hevt.trans (by rw [State.evt_notedTile hrole])
    · obtain ⟨n, q, w, h, o, c, e⟩ := State.units_notedTile hrole faults steps 2
      obtain ⟨k, hk, hcommit, hfence, hfail⟩ := hrun j (by rw [e]; exact hj) (eraseDups_ne_nil (by simpa using hfound))
      refine ⟨k, hk, hcommit, hfence, hfail.trans ?_⟩
      cases j.failure <;> rfl

end Sys2Proof.Proofs
end

section
/-! PROOF. The blotter and the row-ready counters (R122 to R125, R178, R214, R215, R217, R223, R246): what the reads of a check change, the half that it frees, the
wait for a halo row, and the increment that ends it. -/
namespace Sys2Proof.Machine
open Sys2Proof.Claims

/-! ### What the blotter's reads change (R223, R246) -/

/-- What reads of T0, the wells and T2 and of the KV table's blocks leave behind; of a well only its account of errors differs. -/
structure Reads (s u : State) : Prop where
  frame : ∃ n q k w a l x h p c, u = { s with nibs := n, quills := q, kvt := k, wells := w, loan := a, links := l, stackRegs := x, host := h,
                                              pcieOut := p, scr := c }
  wells : ∀ d, SameButErrors (s.well d) (u.well d)

section
variable {s t u : State}

theorem Reads.of_eq {n q k a l x h p c}
    (e : u = { s with nibs := n, quills := q, kvt := k, loan := a, links := l, stackRegs := x, host := h, pcieOut := p, scr := c }) : Reads s u := by
  subst e
  exact ⟨⟨_, _, _, _, _, _, _, _, _, _, rfl⟩, fun _ => .refl _⟩

theorem Reads.refl : Reads s s := .of_eq rfl

theorem Reads.trans (h : Reads s t) (h' : Reads t u) : Reads s u := by
  refine ⟨?_, fun d => (h.wells d).trans (h'.wells d)⟩
  obtain ⟨_, _, _, _, _, _, _, _, _, _, rfl⟩ := h.frame
  obtain ⟨_, _, _, _, _, _, _, _, _, _, rfl⟩ := h'.frame
  exact ⟨_, _, _, _, _, _, _, _, _, _, rfl⟩

theorem Reads.pair {α : Type} {x : α} (h : Reads s t) : Reads s (t, x).1 := h

theorem Reads.ite_fst {α : Type} {c : Prop} [Decidable c] {x y : State × α} (hx : Reads s x.1) (hy : Reads s y.1) : Reads s (if c then x else y).1 := by
  split
  · exact hx
  · exact hy

theorem Tries.reads {q : Nat} (h : Tries q s u) : Reads s u := by
  refine ⟨?_, h.wells⟩
  obtain ⟨_, _, _, _, _, _, e⟩ := h.units
  exact ⟨_, _, _, _, _, _, _, _, _, _, e⟩

theorem Reads.foldl_fst {α β : Type} {f : State × β → α → State × β} {as : List α} {acc : State × β} (hacc : Reads s acc.1)
    (h : ∀ x a, Reads x.1 (f x a).1) : Reads s (as.foldl f acc).1 :=
  foldl_keeps (fun x : State × β => Reads s x.1) f as acc (fun x a hx => hx.trans (h x a)) hacc

end

variable (s : State)

theorem State.reads_eccWell (d n : Nat) (e : EccResult) : Reads s (s.eccWell d n e) := (s.tries_eccWell (q := 0) d n e).reads

theorem State.reads_askLine (key idx line : Nat) (hold : Bool) (dst : Place) : Reads s (s.askLine key idx line hold dst) := by
  have hawait : ∀ w page tag, Reads s (s.awaitLines w page tag) := fun w page tag => by
    obtain ⟨k, e⟩ := State.sendRecord_frame { s with loan := { s.loan with reads := s.loan.reads ++ [w] } } w.rank 0x37
      [page, w.first, w.count, tag, if w.home then 1 else 0] false
    exact .of_eq e
  unfold State.askLine
  dsimp only
  split
  · exact hawait _ _ _
  · exact hawait _ _ _
  · exact .refl

theorem State.reads_t2Read (a : Nat) : Reads s (s.t2Read a).1 := by
  obtain ⟨n, k, h, o, c, e⟩ := s.t2Read_frame a
  exact .of_eq e

theorem State.reads_lineNow (a : Nat) : Reads s (s.lineNow a).1 := by
  unfold State.lineNow
  dsimp only
  split
  · split
    · exact s.reads_askLine _ _ _ _ _
    · exact s.reads_t2Read a
  · exact s.reads_t2Read a

theorem State.reads_moverNowOf (die a : Nat) : Reads s (s.moverNowOf die a).1 := by
  have hline := s.reads_lineNow a
  exact .ite_fst hline (.ite_fst (hline.trans (State.tries_raiseWell (q := 0) _ die 1).reads).pair (hline.trans (.of_eq rfl)).pair)

theorem State.reads_moverNow (a : Nat) : Reads s (s.moverNow a).1 := s.reads_moverNowOf _ a

theorem State.reads_kvBad (i : Nat) : Reads s (s.kvBad i) := by
  obtain ⟨h, p, e⟩ := s.raiseKvt_frame 3 i
  exact .of_eq e

theorem State.reads_pmapBad (i : Nat) : Reads s (s.pmapBad i) := by
  obtain ⟨h, p, e⟩ := s.raiseLoan_frame 5 i
  exact .of_eq e

theorem State.reads_placeRead (p : Place) : Reads s (s.placeRead p).1 := by
  unfold State.placeRead
  split
  · exact s.reads_eccWell _ _ _
  · exact s.reads_eccWell _ _ _
  · exact s.reads_t2Read _
  · obtain ⟨l, k, h, o, c, e⟩ := s.rawRead_frame p.at_ 72
    exact .of_eq e

/-- A line that a nib reads (R22, R237). -/
theorem State.reads_nibFetch (nib : Nat) (p : Place) : Reads s (s.nibFetch nib p).1 := by
  have hplace := s.reads_placeRead (nibPlace nib p)
  unfold State.nibFetch
  split
  · exact s.reads_moverNowOf _ _
  · exact (s.reads_pmapBad _).pair
  · exact .ite_fst hplace.pair (hplace.trans (.of_eq rfl)).pair

/-! ### Reads of KV blocks (R178, R182, R185) -/

theorem State.reads_listWord (t : ListSlot) : Reads s (s.listWord t).1 := by
  have hline := s.reads_moverNow (lineStep t.list (t.slot / 16))
  exact .ite_fst (hline.trans (State.reads_kvBad _ 0)).pair (.ite_fst hline.pair hline.pair)

theorem State.reads_named (w : Nat) : Reads s (s.named w).1 :=
  .ite_fst Reads.refl.pair (.ite_fst (s.reads_kvBad _).pair Reads.refl.pair)

theorem State.reads_slotEntry (t : ListSlot) : Reads s (s.slotEntry t).1 := by
  have hword := s.reads_listWord t
  unfold State.slotEntry
  generalize s.listWord t = w at hword ⊢
  obtain ⟨u, _ | x⟩ := w
  · exact hword
  · exact hword.trans (u.reads_named x)

theorem State.reads_kvLease (i stroke next : Nat) : Reads s (s.kvLease i stroke next) := .of_eq rfl

theorem State.reads_readListSlot (t : ListSlot) (prefetch : Bool) : Reads s (s.readListSlot t prefetch).1 := by
  have hentry := s.reads_slotEntry t
  unfold State.readListSlot
  generalize s.slotEntry t = r at hentry ⊢
  obtain ⟨u, _ | i⟩ := r
  · exact hentry
  · exact hentry.trans (u.reads_kvLease i _ _)

theorem State.reads_tailRows (e : KvEntry) (p : KvPool) (h c n : Nat) : Reads s (s.tailRows e p h c n).1 := by
  induction n generalizing s c with
  | zero => exact .refl
  | succ n ih => exact (s.reads_moverNow _).trans (ih _ _)

theorem State.reads_pvBlock (q : QueryBlock) (w : Nat) : Reads s (s.pvBlock q w).1 := by
  have hslot := s.reads_readListSlot (windowSlot q.desc w) false
  unfold State.pvBlock
  generalize s.readListSlot (windowSlot q.desc w) false = r at hslot ⊢
  obtain ⟨u, _ | i⟩ := r
  · exact hslot
  · dsimp only
    split
    · exact hslot
    · exact .ite_fst (hslot.trans (u.reads_tailRows _ _ _ _ _)) hslot

theorem State.reads_pvBlocks (q : QueryBlock) (w n : Nat) : Reads s (s.pvBlocks q w n).1 := by
  induction n generalizing s w with
  | zero => exact .refl
  | succ n ih => exact (s.reads_pvBlock q w).trans (ih _ _)

theorem State.reads_pvRows (nib : Nat) (d : AttnDesc) (row n : Nat) : Reads s (s.pvRows nib d row n).1 := by
  induction n generalizing s row with
  | zero => exact .refl
  | succ n ih => exact (s.reads_nibFetch nib _).trans (ih _ _)

theorem State.reads_blockLines (die e : Option Nat) (first n : Nat) : Reads s (s.blockLines die e first n).1 := by
  induction n generalizing s first with
  | zero => exact .refl
  | succ n ih =>
    refine Reads.trans ?_ (ih _ _)
    cases e with
    | none => exact .refl
    | some i => exact s.reads_moverNowOf _ _

theorem State.reads_blockTile (q : QueryBlock) (e : Option Nat) (value : Bool) : Reads s (s.blockTile q e value).1 := s.reads_blockLines _ _ _ _

theorem State.reads_roleOps (t : TileDesc) (lead : Nat) : Reads s (s.roleOps t lead).1 := by
  unfold State.roleOps
  cases t.role with
  | plain => exact Reads.refl.pair
  | scores q w row0 reg => exact (s.reads_readListSlot _ _).pair
  | pv q w row0 => exact ((s.reads_pvBlocks q w _).trans (State.reads_pvRows _ _ _ _ _)).pair

/-! ### Attention rows (R178) -/

theorem State.reads_fetchWords (nib fmt : Nat) (ps : List Place) : Reads s (s.fetchWords nib fmt ps).1 := by
  induction ps generalizing s with
  | nil => exact .refl
  | cons p ps ih => exact (s.reads_nibFetch nib p).trans (ih _)

theorem State.reads_rowScores (nib : Nat) (d : AttnDesc) (row w n : Nat) : Reads s (s.rowScores nib d row w n).1 := by
  induction n generalizing s w with
  | zero => exact .refl
  | succ n ih => exact (s.reads_fetchWords nib _ _).trans (ih _ _)

theorem State.reads_probsOf (nib : Nat) (d : AttnDesc) (q : QueryBlock) (row : Nat) : Reads s (s.probsOf nib d q row).1 := s.reads_rowScores nib d row 0 _

theorem State.reads_rowSeg (q : QueryBlock) (w : Nat) (ps : List QBlk) : Reads s (s.rowSeg q w ps).1 :=
  (s.reads_pvBlock q w).trans (State.reads_blockTile _ q _ true)

theorem State.reads_rowSegs (t : TileDesc) (q : QueryBlock) (r : PvRow) (g w : Nat) (probs : List (List QBlk)) (n : Nat) :
    Reads s (s.rowSegs t q r g w probs n).1 := by
  induction n generalizing s w with
  | zero => exact .refl
  | succ n ih => exact (s.reads_rowSeg q w _).trans (ih _ _)

theorem State.reads_rowOuts (t : TileDesc) (q : QueryBlock) (r : PvRow) (g : Nat) (probs : List (List QBlk)) (first : List Word) (chains : List Nat) :
    Reads s (s.rowOuts t q r g probs first chains).1 := s.reads_rowSegs t q r g _ probs _

theorem State.reads_nibLoad (nib line : Nat) : Reads s (s.nibLoad nib line).1 := (Tries.refl.nibLoad (q := 0) nib line).reads

theorem State.reads_queryRow (nib : Nat) (q : QueryBlock) (row : Nat) : Reads s (s.queryRow nib q row).1 := by
  unfold State.queryRow
  exact .foldl_fst (s.reads_nibLoad nib q.qHdr) fun x (i : Nat) => x.1.reads_nibLoad nib _

theorem State.reads_onlineBlocks (q : QueryBlock) (check : List Nat) (tq : Word) (query : List Word) (row w : Nat) (x : Online) (n : Nat) :
    Reads s (s.onlineBlocks q check tq query row w x n).1 := by
  induction n generalizing s w x with
  | zero => exact .refl
  | succ n ih =>
    refine Reads.trans ?_ (ih _ _ _)
    exact ((s.reads_pvBlock q w).trans (State.reads_blockTile _ q _ false)).trans (State.reads_blockTile _ q _ true)

theorem State.reads_onlineRow (nib : Nat) (q : QueryBlock) (check : List Nat) (row : Nat) : Reads s (s.onlineRow nib q check row).1 :=
  (s.reads_queryRow nib q row).trans (State.reads_onlineBlocks _ q check _ _ row 0 _ _)

theorem State.reads_rowBlots (t : TileDesc) (w : Well) (nib : Nat) (check : List Nat) (g : Nat) (q : QueryBlock) (ops : List SegOps) (r : PvRow)
    (m row : Nat) (first : List Word) (chains : List Nat) : Reads s (s.rowBlots t w nib check g q ops r m row first chains).1 := by
  have hprobs : Reads s (if q.desc.blocks ≤ ops.length then (s, []) else s.probsOf nib q.desc q row).1 :=
    .ite_fst .refl (s.reads_probsOf nib q.desc q row)
  have houts := hprobs.trans (State.reads_rowOuts _ t q r g (if q.desc.blocks ≤ ops.length then (s, []) else s.probsOf nib q.desc q row).2 first chains)
  exact .ite_fst houts (houts.trans (State.reads_onlineRow _ nib q check row))

theorem State.reads_attnBlots (t : TileDesc) (role : RoleOps) (w : Well) (nib : Nat) (check : List Nat) (g : Nat) (ops : List SegOps)
    (results : List (List Word)) (chains : List Nat) : Reads s (s.attnBlots t role w nib check g ops results chains).1 := by
  unfold State.attnBlots
  split
  · exact .foldl_fst .refl fun x (r : PvRow × Nat) => x.1.reads_rowBlots _ w nib check g _ ops r.1 r.2 _ _ chains
  · exact .refl

/-! ### A check (R123 to R125) -/

theorem State.reads_blotSegs (t : TileDesc) (role : RoleOps) (g i : Nat) (segs : List Segment) : Reads s (s.blotSegs t role g i segs).1 := by
  induction segs generalizing s i with
  | nil => exact .refl
  | cons seg rest ih => exact (s.tries_loadSeg t role g i true _ seg).reads.trans (ih _ _)

theorem State.reads_blotOps (t : TileDesc) (g : Nat) : Reads s (s.blotOps t g).1 := by
  refine Reads.trans ?_ (State.reads_blotSegs _ _ _ g 0 _)
  refine Reads.trans ?_ (State.reads_roleOps _ _ _)
  exact .of_eq rfl

/-- What the blotter reads changes nothing of nibs, quills and the KV table, and of a well only its account of errors. -/
theorem State.tileBlots_frame (w : Well) (c : Capture) (check chains : List Nat) :
    (∃ x a l k h p r, (s.tileBlots w c check chains).1 =
      { s with wells := x, loan := a, links := l, stackRegs := k, host := h, pcieOut := p, scr := r })
    ∧ ∀ d, SameButErrors (s.well d) ((s.tileBlots w c check chains).1.well d) := by
  have hread := (s.reads_blotOps c.tile (s.gangSize c.tile.quill)).trans (State.reads_attnBlots _ c.tile
    (s.blotOps c.tile (s.gangSize c.tile.quill)).2.1 w (gangNib c.tile.quill c.tile.gang (s.gangSize c.tile.quill) 0) check (s.gangSize c.tile.quill)
    (s.blotOps c.tile (s.gangSize c.tile.quill)).2.2 c.results chains)
  have hkeep : ∀ {u : State}, Reads s u → (∃ x a l k h p r, s.blotKeep u =
      { s with wells := x, loan := a, links := l, stackRegs := k, host := h, pcieOut := p, scr := r })
      ∧ ∀ d, SameButErrors (s.well d) ((s.blotKeep u).well d) := fun {u} hu => by
    refine ⟨?_, hu.wells⟩
    obtain ⟨_, _, _, _, _, _, _, _, _, _, e⟩ := hu.frame
    rw [e]
    exact ⟨_, _, _, _, _, _, _, rfl⟩
  exact hkeep hread

/-- A check frees its half and counts, and a blot is recorded in the state that this leaves. -/
theorem State.blotCheck_cases (d half : Nat) (c : Capture) (chains : List Nat) : ∃ v : State,
    v = { s with wells := v.wells, loan := v.loan, links := v.links, stackRegs := v.stackRegs, host := v.host, pcieOut := v.pcieOut, scr := v.scr }
    ∧ SameButErrors { s.well d with blotdone := satAdd (s.well d).blotdone 1, capture0 := if half = 0 then none else (s.well d).capture0,
                                    capture1 := if half = 1 then none else (s.well d).capture1 } (v.well d)
    ∧ (s.blotCheck d half c chains = v ∨ s.blotCheck d half c chains = v.recordBlot d c.tile c.stroke) := by
  obtain ⟨⟨_, _, _, _, _, _, _, e⟩, hwells⟩ := s.tileBlots_frame (s.well d) c [c.stroke, c.tile.quill, c.tile.gang, c.tile.tileIndex] chains
  obtain ⟨m, n, hwell⟩ := hwells d
  refine ⟨(s.tileBlots (s.well d) c [c.stroke, c.tile.quill, c.tile.gang, c.tile.tileIndex] chains).1.modWell d fun w =>
    { w with blotdone := satAdd w.blotdone 1, capture0 := if half = 0 then none else w.capture0,
             capture1 := if half = 1 then none else w.capture1 }, ?_, ?_, ?_⟩
  · rw [e]
    rfl
  · rw [State.modWell_eq, State.setWell_well, hwell]
    exact ⟨_, _, rfl⟩
  · unfold State.blotCheck
    dsimp only
    split
    · exact .inr rfl
    · exact .inl rfl

/-- A blot's record in its well (R124); memory, nibs and quills stay as they are (R125). -/
theorem State.recordBlot_keeps (d : Nat) (t : TileDesc) (stroke : Nat) :
    (s.recordBlot d t stroke).well d = { s.well d with
      blotctx := w32 (t.tileIndex % 65536 + t.quill % 256 * 2 ^ 16 + t.gang % 8 * 2 ^ 24), blotstrk := w32 stroke, blotstat := (s.well d).blotstat.raise 0 }
    ∧ (s.recordBlot d t stroke).mem = s.mem ∧ (s.recordBlot d t stroke).nibs = s.nibs ∧ (s.recordBlot d t stroke).quills = s.quills := by
  unfold State.recordBlot
  dsimp only
  generalize hx : (fun w : Well => { w with
    blotctx := w32 (t.tileIndex % 65536 + t.quill % 256 * 2 ^ 16 + t.gang % 8 * 2 ^ 24), blotstrk := w32 stroke, blotstat := w.blotstat.raise 0 }) = record
  obtain ⟨h, p, e⟩ := (s.modWell d record).fire_frame 140
  rw [e]
  obtain ⟨c, h', p', e'⟩ := State.logEvent_frame { s.modWell d record with host := h, pcieOut := p } 0x0012 2
    [w32 d, w32 (t.tileIndex % 65536 + t.quill % 256 * 2 ^ 16 + t.gang % 8 * 2 ^ 24), w32 stroke]
  rw [e']
  have hwell : (s.modWell d record).well d = record (s.well d) := State.setWell_well _ _ _
  subst hx
  split
  · exact ⟨hwell, rfl, rfl, rfl⟩
  · exact ⟨hwell, rfl, rfl, rfl⟩

/-! ### Row-ready counters (R214, R215, R217) -/

/-- Every quill that has left its reset value is changed, once or more often. -/
theorem State.quill_foldl_modQuill {f : Nat → Quill → Quill} (hf : ∀ q x, f q (f q x) = f q x) (l : List (Nat × Quill)) (q : Nat) :
    (l.foldl (fun u e => u.modQuill e.1 (f e.1)) s).quill q = if q ∈ l.map (·.1) then f q (s.quill q) else s.quill q := by
  induction l generalizing s with
  | nil => rfl
  | cons e l ih =>
    rw [List.foldl_cons, ih, List.map_cons]
    by_cases hq : q = e.1
    · subst hq
      rw [State.modQuill_eq, State.setQuill_quill, hf, if_pos List.mem_cons_self]
      exact ite_self _
    · rw [State.modQuill_eq, State.setQuill_quill_other _ _ _ _ hq]
      simp only [List.mem_cons, hq, false_or]

theorem sget_of_not_mem {α : Type} {d : Nat → α} {m : Sparse α} {k : Nat} (h : k ∉ m.map (·.1)) : sget d m k = d k := by
  induction m with
  | nil => rfl
  | cons e m ih =>
    rw [List.map_cons, List.mem_cons, not_or] at h
    rw [sget, if_neg h.1, ih h.2]

/-- A change that leaves a quill at its reset value, and made again changes nothing more, reaches every quill. -/
theorem State.quill_mapQuills {f : Nat → Quill → Quill} (hf : ∀ q x, f q (f q x) = f q x) (hreset : ∀ q, f q Quill.reset = Quill.reset) (q : Nat) :
    (s.mapQuills f).quill q = f q (s.quill q) := by
  rw [State.mapQuills, s.quill_foldl_modQuill hf]
  split
  · rfl
  · next h => rw [State.quill, sget_of_not_mem h, hreset]

theorem State.mapQuills_frame (f : Nat → Quill → Quill) : ∃ q, s.mapQuills f = { s with quills := q } := by
  unfold State.mapQuills
  refine foldl_keeps (fun u => ∃ q, u = { s with quills := q }) _ _ s ?_ ⟨_, rfl⟩
  rintro _ e ⟨q, rfl⟩
  exact ⟨_, rfl⟩

/-- What an increment of a die's counter to `n` does to a quill: a wait of the die for it that `n` reaches ends. -/
def Quill.endWait (d k n q : Nat) (x : Quill) : Quill :=
  if q / 256 = d && x.halo.any (fun w => w.1 = k && w.2 ≤ n) then { x with halo := none, hwaitNow := false } else x

theorem Quill.endWait_endWait (d k n q : Nat) (x : Quill) : (x.endWait d k n q).endWait d k n q = x.endWait d k n q := by
  unfold Quill.endWait
  split
  · simp
  · rfl

theorem Quill.endWait_reset (d k n q : Nat) : Quill.reset.endWait d k n q = Quill.reset := by simp [Quill.endWait, Quill.reset]

theorem Quill.endWait_eq (d k n q : Nat) (x : Quill) : x.endWait d k n q =
    if q / 256 = d ∧ x.halo.any (fun w => w.1 = k && w.2 ≤ n) = true then { x with halo := none, hwaitNow := false } else x :=
  if_congr (by rw [Bool.and_eq_true, decide_eq_true_eq]) rfl rfl

/-- A well whose row-ready counter `k` has grown by one. -/
def Well.countRow (k : Nat) (w : Well) : Well :=
  { w with rowrdy := sset (fun _ => 0#16) w.rowrdy k (sget (fun _ => 0#16) w.rowrdy k + 1) }

theorem State.rowReady_eq (d k : Nat) : s.rowReady d k =
    (s.modWell d (Well.countRow k)).mapQuills (Quill.endWait d k (sget (fun _ => 0#16) (s.well d).rowrdy k + 1).toNat) := by
  unfold State.rowReady Well.countRow
  dsimp only
  rw [State.modWell_eq, State.setWell_well, sget_sset]
  rfl

theorem State.rowReady_frame (d k : Nat) : ∃ q, s.rowReady d k = { s.setWell d ((s.well d).countRow k) with quills := q } := by
  rw [State.rowReady_eq]
  exact State.mapQuills_frame _ _

theorem State.well_rowReady (d k : Nat) : (s.rowReady d k).well d = (s.well d).countRow k := by
  obtain ⟨q, e⟩ := s.rowReady_frame d k
  rw [e]
  exact State.setWell_well _ _ _

theorem State.well_rowReady_other (d k : Nat) {i : Nat} (hi : i ≠ d) : (s.rowReady d k).well i = s.well i := by
  obtain ⟨q, e⟩ := s.rowReady_frame d k
  rw [e]
  exact State.setWell_well_other _ _ _ _ hi

theorem State.quill_rowReady (d k q : Nat) :
    (s.rowReady d k).quill q = (s.quill q).endWait d k (sget (fun _ => 0#16) (s.well d).rowrdy k + 1).toNat q := by
  rw [State.rowReady_eq]
  exact State.quill_mapQuills _ (Quill.endWait_endWait d k _) (Quill.endWait_reset d k _) q

theorem exec_rowReadyIncrement {s : State} {d k : Nat} (hlive : s.live = true) (hd : d < 2) (hk : k < 256) :
    exec (.rowReadyIncrement d k) s = .next (s.rowReady d k) := by
  have he : exec (.rowReadyIncrement d k) s = execRowReadyIncrement d k s := rfl
  rw [he, execRowReadyIncrement, hlive]
  simp [hd, hk]

theorem exec_blotCheckDone {s : State} {d half : Nat} {c : Capture} (hlive : s.live = true) (hhalf : half < 2)
    (hc : (if half = 0 then (s.well d).capture0 else (s.well d).capture1) = some c) (chains : List Nat) :
    exec (.blotCheckDone d half chains) s = .next (s.blotCheck d half c chains) := by
  have he : exec (.blotCheckDone d half chains) s = execBlotCheckDone d half chains s := rfl
  have hheld : (if half = 0 then (s.well d).capture0 else if half = 1 then (s.well d).capture1 else none) = some c := by
    rw [← hc]
    split
    · rfl
    · rw [if_pos (by omega)]
  rw [he, execBlotCheckDone, hlive, hheld]
  rfl

theorem State.closeTile_waits {s : State} {t : TileDesc} {w : HaloWait} (hfit : s.tileFits t = true) (hfenced : s.gangFenced t.quill t.gang = false)
    (h : s.haloDue t = some w) : s.closeTile t = s.waitHalo t w := by simp [State.closeTile, hfit, hfenced, h]

end Sys2Proof.Machine

namespace Sys2Proof.Proofs
open Sys2Proof.Machine Sys2Proof.Claims

/-- Settles O12: the blotter's reads change of a well only its account of errors, and an increment ends the waits that its counter reaches. -/
theorem blotterAndRowCountersAdvance : Obligations.BlotterAndRowCountersAdvance := by
  unfold Obligations.BlotterAndRowCountersAdvance
  refine ⟨fun s d half c chains hlive hhalf hc => ?_, fun s t w htakes hfit hfenced hhalo => ?_, fun s d k hlive hd hk => ?_⟩
  · refine ⟨_, exec_blotCheckDone hlive hhalf hc chains, ?_⟩
    obtain ⟨v, hv, ⟨m, n, hwell⟩, hcheck⟩ := s.blotCheck_cases d half c chains
    have hfree : (if half = 0 then (v.well d).capture0 else (v.well d).capture1) = none := by
      rw [hwell]
      rcases (by omega : half = 0 ∨ half = 1) with rfl | rfl <;> rfl
    rcases hcheck with hcheck | hcheck
    · rw [hcheck]
      exact ⟨by rw [hv], by rw [hv], by rw [hv], by rw [hwell], hfree, .inl ⟨hv, by rw [hwell]⟩⟩
    · obtain ⟨hrecord, hmem, hnibs, hquills⟩ := v.recordBlot_keeps d c.tile c.stroke
      rw [hcheck, hrecord]
      exact ⟨by rw [hmem, hv], by rw [hnibs, hv], by rw [hquills, hv], by rw [hwell], hfree, .inr ⟨by rw [hwell], rfl, rfl⟩⟩
  · refine ⟨_, (exec_tileClose htakes).trans (congrArg _ (State.closeTile_waits hfit hfenced hhalo)), rfl, fun q hq => ?_, ?_⟩
    · rw [State.waitHalo, State.modQuill_eq, State.setQuill_quill_other _ _ _ _ hq]
    · rw [State.waitHalo, State.modQuill_eq, State.setQuill_quill]
  · intro n
    refine ⟨_, exec_rowReadyIncrement hlive hd hk, ?_, fun i hi => s.well_rowReady_other d k hi, ?_, ?_, fun i hi => ?_, fun q => ?_⟩
    · obtain ⟨q, e⟩ := s.rowReady_frame d k
      rw [e]
      rfl
    · rw [State.well_rowReady]
      rfl
    · rw [State.well_rowReady]
      exact sget_sset _ _
    · rw [State.well_rowReady]
      exact sget_sset_other _ hi
    · rw [State.quill_rowReady, Quill.endWait_eq]

end Sys2Proof.Proofs
end

section
/-! PROOF. Vector arithmetic and signs (R130, R134 to R136, R162): what a nib's command writes into its registers and what it leaves, the elements of each lane
rounded once, and the sign bit beside the bits of the magnitude. -/
namespace Sys2Proof.Machine
open Sys2Proof.Claims

/-! ### A command of a nib's units -/

/-- A command that waits for power and its nib alone runs on a nib that has both. -/
theorem exec_of_onNib {s : State} {n : Nat} (h : nibRuns s n) {cmd : Instr} {f : State → State} (he : exec cmd s = s.onNib n f) :
    exec cmd s = .next (f s) := he.trans (State.onNib_of_runs h f)

/-- What holds of the state that a nib's command makes holds after it. -/
theorem exists_of_onNib {s : State} {n : Nat} (h : nibRuns s n) {o : Out State} {f : State → State} {P : State → Prop}
    (he : o = s.onNib n f) (hp : P (f s)) : ∃ t : State, o = .next t ∧ P t := ⟨f s, he.trans (State.onNib_of_runs h f), hp⟩

theorem onlyNib_refl {s : State} {n : Nat} : onlyNib s s n := ⟨rfl, fun _ _ => rfl⟩

theorem onlyNib_modNib {s t : State} {n : Nat} (h : onlyNib s t n) (f : Nib → Nib) : onlyNib s (t.modNib n f) n := by
  obtain ⟨ht, hothers⟩ := h
  refine ⟨?_, fun m hm => ?_⟩
  · rw [State.modNib_eq, State.setNib, ht]
  · rw [State.modNib_eq, State.setNib_nib_other _ _ _ _ hm, hothers m hm]

variable (s : State) (n : Nat)

theorem State.nib_modNib (f : Nib → Nib) : (s.modNib n f).nib n = f (s.nib n) := by rw [State.modNib_eq, State.setNib_nib]

theorem SameVregs.regLane {s t : State} (h : SameVregs s t) (n r i : Nat) : regLane t n r i = regLane s n r i := by
  rw [Claims.regLane, Claims.regLane, h n r]

theorem State.regLane_setVreg (r i : Nat) {v : List Word} (h : v.length = 64) : regLane (s.setVreg n r v) n r i = v.getD i 0#32 := by
  rw [regLane, State.vreg_setVreg, fillLanes_of_length h]

theorem State.regLane_setVreg_other {r k : Nat} (v : List Word) (h : k % 64 ≠ r % 64) (i : Nat) :
    regLane (s.setVreg n r v) n k i = regLane s n k i := by rw [regLane, regLane, State.vreg_setVreg_other s v h]

/-- A source of the vector unit has 64 lanes (R130, R131). -/
theorem State.length_vsrc (x : VSrc) : (s.vsrc n x).length = 64 := by
  cases x <;> simp [State.vsrc, State.length_vreg]

theorem State.getElem_vsrc (x : VSrc) {i : Nat} (h : i < (s.vsrc n x).length) : (s.vsrc n x)[i] = laneOf s n x i := by
  rw [laneOf, List.getD_eq_getElem _ _ h]

theorem getD_map_range {α : Type} (g : Nat → α) {i : Nat} (h : i < 64) (d : α) : ((List.range 64).map g).getD i d = g i := by
  rw [List.getD_eq_getElem _ _ (by simpa using h), List.getElem_map, List.getElem_range]

/-! ### Counters (R16, R162) -/

theorem satAdd_right_zero (w : Word) : satAdd w 0 = w := by
  have := w.isLt
  rw [satAdd, Nat.add_zero, Nat.min_eq_left (by omega), BitVec.ofNat_toNat, BitVec.setWidth_eq]

/-- Ones summed over what a test admits are as many as it admits. -/
theorem sumNat_map_ite {α : Type} (p : α → Bool) (l : List α) : sumNat (l.map fun a => if p a then 1 else 0) = (l.filter p).length := by
  induction l with
  | nil => rfl
  | cons a l ih =>
    rw [List.map_cons, sumNat_cons, ih, List.filter_cons]
    split
    · rw [List.length_cons, Nat.add_comm]
    · rw [Nat.zero_add]

theorem sumNat_eq_zero {l : List Nat} (h : ∀ a ∈ l, a = 0) : sumNat l = 0 := by
  rw [sumNat, ← List.sum_eq_foldl, List.sum_eq_zero h]

/-! ### Writes of one register -/

theorem State.onlyVreg_setVreg (dst : Nat) (v : List Word) : onlyVreg s (s.setVreg n dst v) n dst := by
  refine ⟨onlyNib_setVreg onlyNib_refl _ _, ?_, fun r hr => s.vreg_setVreg_other v hr⟩
  rw [State.nib_setVreg]

section
variable (dst k : Nat) (v : List Word)

theorem State.sameVregs_count : SameVregs s (s.modNib n fun x => { x with vinvalid := satAdd x.vinvalid k }) := .modNib s n fun _ => rfl

/-- A register written, and invalid results counted besides. -/
theorem State.onlyVreg_setVreg_count :
    onlyVreg s ((s.setVreg n dst v).modNib n fun x => { x with vinvalid := satAdd x.vinvalid k }) n dst := by
  refine ⟨onlyNib_modNib (onlyNib_setVreg onlyNib_refl _ _) _, ?_, fun r hr => ?_⟩
  · rw [State.nib_modNib, State.nib_setVreg]
  · rw [State.sameVregs_count _ n k n r, s.vreg_setVreg_other v hr]

end

section
variable (dst : Nat) (f : List Word → Word × Nat) (srcs : List VSrc)

theorem State.onlyVreg_lanewise : onlyVreg s (s.lanewise n dst f srcs) n dst := s.onlyVreg_setVreg_count n dst _ _

/-- Each lane takes the operation's value of the sources' lanes. -/
theorem State.regLane_lanewise {i : Nat} (hi : i < 64) : regLane (s.lanewise n dst f srcs) n dst i = (f (srcs.map fun x => laneOf s n x i)).1 := by
  refine ((State.sameVregs_count _ n _).regLane n dst i).trans ?_
  rw [State.regLane_setVreg _ _ _ _ (by simp [laneAll]), laneAll, List.map_map, getD_map_range _ hi, Function.comp_apply, List.map_map]
  rfl

/-- An operation that makes no invalid result counts none. -/
theorem State.vinvalid_lanewise {f : List Word → Word × Nat} (hf : ∀ ws, (f ws).2 = 0) :
    ((s.lanewise n dst f srcs).nib n).vinvalid = (s.nib n).vinvalid := by
  have hzero : sumNat ((laneAll f (srcs.map (s.vsrc n))).map (·.2)) = 0 := sumNat_eq_zero (by simp [laneAll, hf])
  unfold State.lanewise
  dsimp only
  rw [State.nib_modNib, State.nib_setVreg, hzero, satAdd_right_zero]

end

/-! ### Arithmetic (R134 to R136) -/

theorem halfOf_pairOf {lo hi h : Nat} (hh : h < 2) : halfOf (pairOf lo hi) h = (if h = 0 then lo else hi) % 65536 := by
  have hval : (pairOf lo hi).toNat = lo % 65536 + 65536 * (hi % 65536) := by
    rw [pairOf, w32, BitVec.toNat_ofNat, Nat.mod_eq_of_lt (by omega)]
  rw [halfOf, hval]
  interval_cases h
  · rw [if_pos rfl]; omega
  · rw [if_neg one_ne_zero]; omega

/-- A code beyond the largest finite one becomes that of infinity (R68). -/
theorem code_le_inf (top c : Nat) : (if top < c then top + 1 else c) ≤ top + 1 := by split <;> omega

theorem encBf16_lt (v : FV) : encBf16 v < 65536 := by
  cases v with
  | nan => decide
  | inf neg => cases neg <;> decide
  | num neg m =>
    have hsign : (if neg then 2 ^ (layBf16.eb + layBf16.mb) else 0) ≤ 0x8000 := by cases neg <;> decide
    exact (Nat.add_le_add hsign (code_le_inf layBf16.top (layBf16.codeRne m))).trans_lt (by decide)

/-- An elementwise operation gives each element of the form rounded once. -/
theorem State.elementwise_lanewise (form : VForm) (dst : Nat) (f : List FV → FV) (srcs : List VSrc) :
    elementwise s (s.lanewise n dst (laneOp form f) srcs) n form dst f srcs := by
  intro i hi
  cases form with
  | f32 => exact (s.regLane_lanewise n dst _ srcs hi).trans (by simp [laneOp, Function.comp_def])
  | bf16 =>
    intro h hh
    rw [s.regLane_lanewise n dst _ srcs hi]
    simp only [laneOp, List.map_map, Function.comp_def]
    rw [halfOf_pairOf hh]
    interval_cases h
    · rw [if_pos rfl, Nat.mod_eq_of_lt (encBf16_lt _)]
    · rw [if_neg one_ne_zero, Nat.mod_eq_of_lt (encBf16_lt _)]

/-- A lanewise command runs, and changes its register alone but for the count of invalid results. -/
theorem exec_lanewise {s : State} {n dst : Nat} (h : nibRuns s n) {cmd : Instr} {f : List Word → Word × Nat} {srcs : List VSrc}
    (he : exec cmd s = s.onNib n fun u => u.lanewise n dst f srcs) : ∃ t : State, exec cmd s = .next t ∧ onlyVreg s t n dst :=
  ⟨_, exec_of_onNib h he, s.onlyVreg_lanewise n dst f srcs⟩

theorem exec_arith {s : State} {n dst : Nat} (h : nibRuns s n) {cmd : Instr} {form : VForm} {f : List FV → FV} {srcs : List VSrc}
    (he : exec cmd s = s.onNib n fun u => u.lanewise n dst (laneOp form f) srcs) :
    ∃ t : State, exec cmd s = .next t ∧ elementwise s t n form dst f srcs ∧ onlyVreg s t n dst :=
  ⟨_, exec_of_onNib h he, s.elementwise_lanewise n form dst f srcs, s.onlyVreg_lanewise n dst _ srcs⟩

/-! ### Signs (R134, R136) -/

/-- A value with its sign set encodes to the magnitude's bits beside the new sign. -/
theorem Layout.encode_withSign (f : Layout) (nan : Nat) {x : Nat} (neg : Bool) (h : f.decode x ≠ .nan) :
    f.encode nan ((f.decode x).withSign neg) = (if neg then 2 ^ (f.eb + f.mb) else 0) + x % 2 ^ (f.eb + f.mb) := by
  unfold decode at h ⊢
  dsimp only at h ⊢
  by_cases hfin : x % 2 ^ (f.eb + f.mb) ≤ f.top
  · rw [if_pos hfin, FV.withSign, encode, f.codeRne_magOf, if_neg (not_lt.mpr hfin)]
  · rw [if_neg hfin] at h ⊢
    by_cases hinf : x % 2 ^ (f.eb + f.mb) = f.top + 1
    · rw [if_pos hinf, FV.withSign, encode, hinf]
    · exact absurd (if_neg hinf) h

theorem eq_nan_of_isNan {v : FV} (h : v.isNan = true) : v = .nan := by
  cases v with
  | nan => rfl
  | inf | num => cases h

/-- The same of FP32 patterns: the magnitude's bits stay, and a NaN becomes the canonical one. -/
theorem enc32_withSign (w : Word) (neg : Bool) : enc32 ((dec32 w).withSign neg) =
    if isNan32 w then 0x7FC00000#32 else (w &&& 0x7FFFFFFF#32) ||| (if neg then 0x80000000#32 else 0#32) := by
  by_cases hnan : isNan32 w = true
  · rw [if_pos hnan, eq_nan_of_isNan hnan]; rfl
  · have hmag : (w &&& 0x7FFFFFFF#32).toNat = w.toNat % 2 ^ 31 := by
      rw [BitVec.toNat_and]; exact Nat.and_two_pow_sub_one_eq_mod _ 31
    have hval : dec32 w ≠ .nan := fun he => hnan (by rw [isNan32, he]; rfl)
    rw [if_neg hnan, enc32, dec32, lay32.encode_withSign _ neg hval]
    apply BitVec.eq_of_toNat_eq
    have hlt := Nat.mod_lt w.toNat (Nat.two_pow_pos 31)
    rw [BitVec.toNat_or, hmag]
    cases neg with
    | false => simp [lay32]; omega
    | true =>
      have hor := Nat.two_pow_add_eq_or_of_lt hlt 1
      rw [Nat.or_comm]
      simp [lay32] at hor ⊢
      omega

/-- A sign operation gives each FP32 element the sign that the operands' sign bits say. -/
theorem exec_sign {s : State} {n dst : Nat} (h : nibRuns s n) {cmd : Instr} {f : Bool → Bool → Bool} {srcs : List VSrc}
    (he : exec cmd s = s.onNib n fun u => u.lanewise n dst (signLane .f32 f) srcs) :
    ∃ t : State, exec cmd s = .next t ∧ onlyVreg s t n dst ∧ (t.nib n).vinvalid = (s.nib n).vinvalid
      ∧ ∀ i, i < 64 → regLane t n dst i = (signLane .f32 f (srcs.map fun x => laneOf s n x i)).1 :=
  ⟨_, exec_of_onNib h he, s.onlyVreg_lanewise n dst _ srcs, s.vinvalid_lanewise n dst srcs fun _ => rfl,
    fun _ hi => s.regLane_lanewise n dst _ srcs hi⟩

theorem getLsbD_signMask : ∀ i < 32, (0x80000000#32).getLsbD i = decide (i = 31) := by decide

theorem getLsbD_magMask : ∀ i < 32, (0x7FFFFFFF#32).getLsbD i = decide (i ≠ 31) := by decide

theorem signMask_eq_and (w : Word) : (if w.getLsbD 31 then 0x80000000#32 else 0#32) = w &&& 0x80000000#32 := by
  refine BitVec.eq_of_getLsbD_eq fun i hi => ?_
  rw [BitVec.getLsbD_and, getLsbD_signMask i hi]
  by_cases h31 : i = 31
  · subst h31
    cases w.getLsbD 31 <;> rfl
  · rw [decide_eq_false h31, Bool.and_false]
    split
    · rw [getLsbD_signMask i hi, decide_eq_false h31]
    · exact BitVec.getLsbD_zero

/-- The magnitude beside the sign turned is the pattern with its top bit turned. -/
theorem magnitude_or_not_sign (w : Word) :
    (w &&& 0x7FFFFFFF#32) ||| (if !w.getLsbD 31 then 0x80000000#32 else 0#32) = w ^^^ 0x80000000#32 := by
  have hnot : (if !w.getLsbD 31 then 0x80000000#32 else 0#32) = ~~~w &&& 0x80000000#32 := by
    rw [← signMask_eq_and, BitVec.getLsbD_not]; rfl
  refine BitVec.eq_of_getLsbD_eq fun i hi => ?_
  rw [hnot, BitVec.getLsbD_or, BitVec.getLsbD_and, BitVec.getLsbD_and, BitVec.getLsbD_xor, BitVec.getLsbD_not, getLsbD_magMask i hi,
    getLsbD_signMask i hi]
  by_cases h31 : i = 31 <;> simp [h31, hi]

end Sys2Proof.Machine

namespace Sys2Proof.Proofs
open Sys2Proof.Machine Sys2Proof.Claims

/-- Settles O3: the arithmetic commands run one operation lane by lane, and the sign commands set the sign bit beside the bits of the magnitude. -/
theorem vectorArithmeticWritesEveryElement : Obligations.VectorArithmeticWritesEveryElement := by
  unfold Obligations.VectorArithmeticWritesEveryElement
  refine ⟨fun s n form dst a b c h => ⟨exec_arith h rfl, exec_arith h rfl, exec_arith h rfl, exec_arith h rfl, exec_arith h rfl, exec_arith h rfl⟩,
    fun s n dst a b h => ⟨?_, ?_, ?_, fun form => ⟨?_, ?_, ?_⟩⟩⟩
  · obtain ⟨t, he, honly, hcount, hlane⟩ := exec_sign h (rfl : exec (.vabs n .f32 dst a) s = _)
    refine ⟨t, he, honly, hcount, fun i hi => (hlane i hi).trans ((enc32_withSign _ _).trans ?_)⟩
    rw [if_neg Bool.false_ne_true, BitVec.or_zero]
    rfl
  · obtain ⟨t, he, honly, hcount, hlane⟩ := exec_sign h (rfl : exec (.vneg n .f32 dst a) s = _)
    refine ⟨t, he, honly, hcount, fun i hi => (hlane i hi).trans ((enc32_withSign _ _).trans ?_)⟩
    rw [magnitude_or_not_sign]
    rfl
  · obtain ⟨t, he, honly, hcount, hlane⟩ := exec_sign h (rfl : exec (.vcopysign n .f32 dst a b) s = _)
    refine ⟨t, he, honly, hcount, fun i hi => (hlane i hi).trans ((enc32_withSign _ _).trans ?_)⟩
    rw [signMask_eq_and]
    rfl
  all_goals exact exec_lanewise h rfl

end Sys2Proof.Proofs
end

section
/-! PROOF. Comparisons, selections, conversions, masks and reductions of the vector unit (R68, R134, R136, R137, R160): what each lane of the result is. -/
namespace Sys2Proof.Machine
open Sys2Proof.Claims

/-! ### Predicates (R130, R134) -/

theorem predSum_cons (b : Bool) (bs : List Bool) : sumNat ((b :: bs).mapIdx fun i b => if b then 2 ^ i else 0) =
    b.toNat + 2 * sumNat (bs.mapIdx fun i b => if b then 2 ^ i else 0) := by
  have hdouble : (bs.mapIdx fun i b => if b then 2 ^ (i + 1) else 0) = (bs.mapIdx fun i b => if b then 2 ^ i else 0).map (2 * ·) := by
    refine List.ext_getElem (by simp) fun i _ _ => ?_
    simp [pow_succ']
  rw [List.mapIdx_cons, sumNat_cons, hdouble, sumNat, sumNat, ← List.sum_eq_foldl, ← List.sum_eq_foldl, List.sum_map_mul_left, List.map_id']
  cases b <;> rfl

theorem testBit_predSum (bs : List Bool) (i : Nat) : (sumNat (bs.mapIdx fun i b => if b then 2 ^ i else 0)).testBit i = bs.getD i false := by
  induction bs generalizing i with
  | nil => simp [sumNat]
  | cons b bs ih =>
    rw [predSum_cons, Nat.add_comm, ← Nat.bit_val]
    cases i with
    | zero => exact Nat.testBit_bit_zero b _
    | succ i => exact (Nat.testBit_bit_succ _ b _).trans (ih i)

/-- A predicate's bit is its lane's truth value. -/
theorem getLsbD_predOf (bs : List Bool) {i : Nat} (hi : i < 64) : (predOf bs).getLsbD i = bs.getD i false := by
  rw [predOf, BitVec.getLsbD_ofNat, testBit_predSum, decide_eq_true hi, Bool.true_and]

variable (s : State) (n : Nat)

theorem State.preg_setPreg (p : Nat) (v : BitVec 64) : (s.setPreg n p v).preg n p = v := by
  rw [State.preg, State.setPreg, State.nib_modNib, sget_sset]

theorem State.preg_setPreg_other {p q : Nat} (v : BitVec 64) (h : q % 8 ≠ p % 8) : (s.setPreg n p v).preg n q = s.preg n q := by
  rw [State.preg, State.setPreg, State.nib_modNib, sget_sset_other v h, State.preg]

/-- A comparison of two sources, lane by lane. -/
theorem getD_zipWith_vsrc (a b : VSrc) (f : Word → Word → Bool) {i : Nat} (hi : i < 64) :
    (List.zipWith f (s.vsrc n a) (s.vsrc n b)).getD i false = f (laneOf s n a i) (laneOf s n b i) := by
  rw [List.getD_eq_getElem _ _ (by simp [State.length_vsrc, hi]), List.getElem_zipWith, State.getElem_vsrc, State.getElem_vsrc]

theorem getD_map_vsrc (a : VSrc) (f : Word → Word) {i : Nat} (hi : i < 64) : ((s.vsrc n a).map f).getD i 0#32 = f (laneOf s n a i) := by
  rw [List.getD_eq_getElem _ _ (by simp [State.length_vsrc, hi]), List.getElem_map, State.getElem_vsrc]

theorem condHolds_of_isNan {x y : FV} (h : x.isNan ∨ y.isNan) :
    condHolds .eq x y = false ∧ condHolds .lt x y = false ∧ condHolds .le x y = false ∧ condHolds .unord x y = true := by
  rcases h with h | h
  · rw [eq_nan_of_isNan h]
    exact ⟨rfl, rfl, rfl, rfl⟩
  · rw [eq_nan_of_isNan h]
    cases x <;> exact ⟨rfl, rfl, rfl, rfl⟩

/-! ### Conversions (R68) -/

/-- What encodes to a NaN is a NaN: other values encode at or below infinity. -/
theorem isNan_of_isNan32_enc32 {v : FV} (h : isNan32 (enc32 v) = true) : v = .nan := by
  have hnum : ∀ (neg : Bool) {c : Nat}, c ≤ 0x7F800000 → isNan32 (BitVec.ofNat 32 ((if neg then 2 ^ 31 else 0) + c)) = false := fun neg c hc => by
    have hmag : ((if neg then 2 ^ 31 else 0) + c) % 2 ^ 32 % 2 ^ 31 = c := by split <;> omega
    simp only [isNan32, dec32, Layout.decode, BitVec.toNat_ofNat, lay32, Nat.reduceAdd, hmag]
    split
    · rfl
    · next hfin => rw [if_pos (by omega)]; rfl
  cases v with
  | nan => rfl
  | inf neg => nomatch h.symm.trans (hnum neg le_rfl)
  | num neg m => nomatch h.symm.trans (hnum neg (code_le_inf lay32.top (lay32.codeRne m)))

/-- An encoded value that is decoded encodes to the same pattern. -/
theorem enc32_dec32_enc32 (v : FV) : enc32 (dec32 (enc32 v)) = enc32 v := by
  rw [enc32_dec32]
  split
  · next h => rw [isNan_of_isNan32_enc32 h]; rfl
  · rfl

theorem formValues_f32 (ws : List Word) : formValues .f32 ws = ws.map dec32 :=
  List.map_congr_left fun w _ => by rw [fmtDecode, BitVec.ofNat_toNat, BitVec.setWidth_eq]

/-- Codes fill their register, and the next one where they exceed it. -/
theorem State.putCodes_frame (dst : Nat) (f : WideFmt) (codes : List Nat) : onlyNib s (s.putCodes n dst f codes) n
    ∧ ∀ r, r % 64 ≠ dst % 64 → r % 64 ≠ (dst + 1) % 64 → (s.putCodes n dst f codes).vreg n r = s.vreg n r := by
  unfold State.putCodes
  dsimp only
  split
  · exact ⟨onlyNib_setVreg onlyNib_refl _ _, fun r hr _ => s.vreg_setVreg_other _ hr⟩
  · refine ⟨onlyNib_setVreg (onlyNib_setVreg onlyNib_refl _ _) _ _, fun r hr hr' => ?_⟩
    rw [State.vreg_setVreg_other _ _ hr', s.vreg_setVreg_other _ hr]

/-- Codes of 64 elements, one a lane, fill one register. -/
theorem State.putCodes_one (dst : Nat) {f : WideFmt} (hf : f ≠ .bf16) {codes : List Nat} (h : codes.length = 64) :
    s.putCodes n dst f codes = s.setVreg n dst (codes.map w32) := by
  have hwords : formWords f codes = codes.map w32 := by
    cases f with
    | bf16 => exact absurd rfl hf
    | f32 | f16 | e4m3 | e5m2 => rfl
  have hlen : (codes.map w32).length = 64 := by rw [List.length_map, h]
  rw [State.putCodes, hwords, if_pos hlen.le, fillLanes_of_length hlen]

/-! ### Masks (R160) -/

/-- A score that VMASK raises: below -2^63, not a NaN and not masked. -/
def raised (masked : Bool) (w : Word) : Bool := !masked && !isNan32 w && (dec32 w).lt (.num true (pow2 63))

theorem maskLane_f32 (w : Word) (masked : Bool) : maskLane .f32 w masked =
    (if masked then 0xDF800000#32 else if raised masked w then 0xDF000000#32 else w, if raised masked w then 1 else 0) := by
  have hcode : w32 w.toNat = w := by rw [w32, BitVec.ofNat_toNat, BitVec.setWidth_eq]
  unfold maskLane maskElem raised isNan32
  cases masked with
  | true => rfl
  | false =>
    simp only [Bool.not_false, Bool.true_and, Bool.false_eq_true, if_false]
    split
    · rfl
    · rw [hcode]

theorem mapIdx_vsrc (a : VSrc) {α : Type} (f : Nat → Word → α) :
    (s.vsrc n a).mapIdx f = (List.range 64).map fun i => f i (laneOf s n a i) :=
  List.ext_getElem (by simp [State.length_vsrc]) fun i _ _ => by simp [State.getElem_vsrc]

theorem exec_vmask (form : VForm) (dst p : Nat) (a : VSrc) : exec (.vmask n form dst p a) s = execVmask n form dst p a s := rfl

/-- VMASK of FP32 scores. -/
theorem exec_vmask_f32 {s : State} {n : Nat} (h : nibRuns s n) (dst p : Nat) (a : VSrc) :
    exec (.vmask n .f32 dst p a) s = .next ((s.setVreg n dst ((List.range 64).map fun i =>
        (maskLane .f32 (laneOf s n a i) ((s.preg n p).getLsbD i)).1)).modNib n fun x =>
      { x with vmclamp := satAdd x.vmclamp (((List.range 64).filter fun i => raised ((s.preg n p).getLsbD i) (laneOf s n a i)).length) }) := by
  rw [exec_vmask, execVmask, State.onNib_of_runs h]
  dsimp only
  rw [mapIdx_vsrc, List.map_map, List.map_map,
    ← sumNat_map_ite fun i => raised ((s.preg n p).getLsbD i) (laneOf s n a i)]
  simp only [Function.comp_def, maskLane_f32]

/-! ### Reductions (R136, R137) -/

theorem length_freeWords (site : Nat) (operands : List Nat) (k : Nat) : (freeWords site operands k).length = k := by simp [freeWords]

theorem getD_fillLanes_single (r : Word) {i : Nat} (h : 1 ≤ i) : (fillLanes [r]).getD i 0#32 = 0#32 := by
  obtain ⟨j, rfl⟩ := Nat.exists_eq_add_of_le' h
  rw [fillLanes, List.cons_append, List.nil_append, List.take_succ_cons, List.getD_cons_succ, zeroLanes, List.take_replicate]
  by_cases hj : j < min 63 64
  · exact List.getD_replicate _ hj
  · exact List.getD_eq_default _ _ (by simpa using hj)

theorem exec_reduceTo {s : State} {n dst : Nat} (h : nibRuns s n) {cmd : Instr} {f : Word → Word → Word} {a : VSrc}
    (he : exec cmd s = s.onNib n fun u => u.reduceTo n dst f a) :
    ∃ t : State, exec cmd s = .next t ∧ onlyVreg s t n dst ∧ regLane t n dst 0 = treeOf f (s.vsrc n a) :=
  ⟨_, exec_of_onNib h he, s.onlyVreg_setVreg n dst _, s.regLane_setVreg n dst 0 (by rw [List.length_cons, length_freeWords])⟩

end Sys2Proof.Machine

namespace Sys2Proof.Proofs
open Sys2Proof.Machine Sys2Proof.Claims

/-- Settles O4: a predicate holds its lanes' truth values bit by bit, and each of the others writes one register lane by lane. -/
theorem elementwiseSelectionsAndConversions : Obligations.ElementwiseSelectionsAndConversions := by
  unfold Obligations.ElementwiseSelectionsAndConversions
  refine ⟨fun s n cond dst p a b h => ⟨?_, ?_, fun x y => condHolds_of_isNan⟩,
    fun s n dst p acc a b h => ⟨?_, fun target ht => ?_, fun source target => ?_, ?_⟩⟩
  · refine exists_of_onNib h (o := execVcmp n cond p a b s) rfl
      ⟨onlyNib_modNib onlyNib_refl _, ?_, fun q hq => s.preg_setPreg_other n _ hq, fun i hi => ?_⟩
    · rw [State.setPreg, State.nib_modNib]
    · rw [State.preg_setPreg, getLsbD_predOf _ hi, getD_zipWith_vsrc s n a b _ hi]
  · refine exists_of_onNib h (o := execVsel n dst p a b s) rfl ⟨s.onlyVreg_setVreg n dst _, ?_, fun i hi => ?_⟩
    · rw [State.nib_setVreg]
    · rw [State.regLane_setVreg _ _ _ _ (by simp), getD_map_range _ hi]
      rfl
  · refine exists_of_onNib h (o := execVdot2 n dst acc a b s) rfl ⟨s.onlyVreg_lanewise n dst _ _, fun i hi => ?_⟩
    rw [State.regLane_lanewise _ _ _ _ _ hi]
    exact enc32_dec32_enc32 _
  · refine exists_of_onNib h (o := execVcvt n .f32 target dst a s) rfl ?_
    rw [formValues_f32, s.putCodes_one n dst ht (by simp [State.length_vsrc])]
    refine ⟨s.onlyVreg_setVreg n dst _, fun i hi => ?_⟩
    rw [State.regLane_setVreg _ _ _ _ (by simp [State.length_vsrc]), List.map_map, List.map_map, getD_map_vsrc s n a _ hi]
    rfl
  · exact exists_of_onNib h (o := execVcvt n source target dst a s) rfl (s.putCodes_frame n dst target _)
  · have hsame := fun v k => SameVregs.modNib (s.setVreg n dst v) n (f := fun x => { x with vmclamp := satAdd x.vmclamp k }) fun _ => rfl
    refine ⟨_, exec_vmask_f32 h dst p a, onlyNib_modNib (onlyNib_setVreg onlyNib_refl _ _) _, fun r hr => ?_, ?_, ?_, fun i hi => ?_⟩
    · exact (hsame _ _ n r).trans (s.vreg_setVreg_other _ hr)
    · rw [State.nib_modNib, State.nib_setVreg]
    · rw [State.nib_modNib, State.nib_setVreg]
      rfl
    · refine ((hsame _ _).regLane n dst i).trans ?_
      rw [State.regLane_setVreg _ _ _ _ (by simp), getD_map_range _ hi, maskLane_f32]
      cases (s.preg n p).getLsbD i <;> rfl

/-- Settles O5: the tree's result is the first word of the register written, before zeros or before free words. -/
theorem reductionsFillLaneZero : Obligations.ReductionsFillLaneZero := by
  unfold Obligations.ReductionsFillLaneZero
  refine fun s n dst a h => ⟨?_, exec_reduceTo h rfl, exec_reduceTo h rfl⟩
  have hlane := fun r k i => ((State.sameVregs_count (s.setVreg n dst (fillLanes [r])) n k).regLane n dst i).trans
    (s.regLane_setVreg n dst i (length_fillLanes [r]))
  exact exists_of_onNib h (o := execVredsum n dst a s) rfl
    ⟨s.onlyVreg_setVreg_count n dst _ _, hlane _ _ 0, fun i hi _ => (hlane _ _ i).trans (getD_fillLanes_single _ hi)⟩

end Sys2Proof.Proofs
end

section
/-! PROOF. Running statistics of rows (R151 to R153): the three registers of the partials, written lane by lane. -/
namespace Sys2Proof.Machine
open Sys2Proof.Claims

variable (s : State) (n rn rmu rm2 : Nat)

/-- Lane `i` of the partials in three registers. -/
def lanePartial (i : Nat) : Partial := { n := regLane s n rn i, mu := regLane s n rmu i, m2 := regLane s n rm2 i }

theorem SameVregs.lanePartial {s t : State} (h : SameVregs s t) (n rn rmu rm2 i : Nat) :
    lanePartial t n rn rmu rm2 i = lanePartial s n rn rmu rm2 i := by
  simp only [Machine.lanePartial, h.regLane]

theorem length_partialsOf (a b c : List Word) : (partialsOf a b c).length = 64 := by simp [partialsOf]

theorem getD_partialsOf (a b c : List Word) {i : Nat} (hi : i < 64) :
    (partialsOf a b c).getD i default = { n := a.getD i 0#32, mu := b.getD i 0#32, m2 := c.getD i 0#32 } := getD_map_range _ hi _

/-- Only the three registers of the partials can differ, and the count of invalid results. -/
theorem State.putPartials_frame (ps : List Partial) (clean : List Bool) : onlyNib s (s.putPartials n rn rmu rm2 ps clean) n
    ∧ ∀ r, r % 64 ≠ rn % 64 → r % 64 ≠ rmu % 64 → r % 64 ≠ rm2 % 64 → (s.putPartials n rn rmu rm2 ps clean).vreg n r = s.vreg n r := by
  unfold State.putPartials
  dsimp only
  refine ⟨onlyNib_modNib (onlyNib_setVreg (onlyNib_setVreg (onlyNib_setVreg onlyNib_refl _ _) _ _) _ _) _, fun r hn hmu hm2 => ?_⟩
  rw [State.sameVregs_count _ n _ n r, State.vreg_setVreg_other _ _ hm2, State.vreg_setVreg_other _ _ hmu, State.vreg_setVreg_other _ _ hn]

/-- In registers that differ the partials read back. -/
theorem State.lanePartial_putPartials {ps : List Partial} (hps : ps.length = 64) (clean : List Bool)
    (hapart : rn % 64 ≠ rmu % 64 ∧ rn % 64 ≠ rm2 % 64 ∧ rmu % 64 ≠ rm2 % 64) {i : Nat} (hi : i < 64) :
    lanePartial (s.putPartials n rn rmu rm2 ps clean) n rn rmu rm2 i = ps.getD i default := by
  obtain ⟨hnmu, hnm2, hmum2⟩ := hapart
  have hlen : ∀ f : Partial → Word, (ps.map f).length = 64 := fun f => by rw [List.length_map, hps]
  have hget : ∀ f : Partial → Word, (ps.map f).getD i 0#32 = f (ps.getD i default) := fun f => by
    rw [List.getD_eq_getElem _ _ (by rw [hlen]; exact hi), List.getD_eq_getElem _ _ (by rw [hps]; exact hi), List.getElem_map]
  refine ((State.sameVregs_count _ n _).lanePartial n rn rmu rm2 i).trans ?_
  unfold lanePartial
  rw [State.regLane_setVreg_other _ _ _ hnm2, State.regLane_setVreg_other _ _ _ hnmu, State.regLane_setVreg _ _ _ _ (hlen _),
    State.regLane_setVreg_other _ _ _ hmum2, State.regLane_setVreg _ _ _ _ (hlen _), State.regLane_setVreg _ _ _ _ (hlen _), hget, hget, hget]

/-- Where each lane's partial is a function of the old one and a free word. -/
theorem State.lanePartial_each (g : Partial → Nat → Word → Partial) (fr : List Word) (clean : List Bool)
    (hapart : rn % 64 ≠ rmu % 64 ∧ rn % 64 ≠ rm2 % 64 ∧ rmu % 64 ≠ rm2 % 64) {i : Nat} (hi : i < 64) :
    ∃ w, lanePartial (s.putPartials n rn rmu rm2 ((List.range 64).map fun j =>
      g ((partialsOf (s.vreg n rn) (s.vreg n rmu) (s.vreg n rm2)).getD j default) j (fr.getD j 0#32)) clean) n rn rmu rm2 i
        = g (lanePartial s n rn rmu rm2 i) i w := by
  refine ⟨fr.getD i 0#32, ?_⟩
  rw [State.lanePartial_putPartials _ _ _ _ _ (by simp) _ hapart hi, getD_map_range _ hi, getD_partialsOf _ _ _ hi]
  rfl

end Sys2Proof.Machine

namespace Sys2Proof.Proofs
open Sys2Proof.Machine Sys2Proof.Claims

/-- Settles O6: every form stores its partials through the same three registers; the free words are those that the model draws, and that a fold leaves its
partial in lane 0 is the model's choice (log entry 22). -/
theorem rowStatisticsFollowTheirSteps : Obligations.RowStatisticsFollowTheirSteps := by
  unfold Obligations.RowStatisticsFollowTheirSteps
  intro s n rn rmu rm2 x bn bmu bm2 k h
  refine ⟨exists_of_onNib h (o := execVwelf n rn rmu rm2 x s) rfl ⟨s.putPartials_frame n rn rmu rm2 _ _, fun hapart i hi => ?_⟩,
    exists_of_onNib h (o := execVwmerge n rn rmu rm2 (.each bn) bmu bm2 s) rfl ⟨s.putPartials_frame n rn rmu rm2 _ _, fun hapart i hi => ?_⟩,
    exists_of_onNib h (o := execVwmerge n rn rmu rm2 (.fold bn k) bmu bm2 s) rfl ?_⟩
  · exact s.lanePartial_each n rn rmu rm2 (fun p i => welf p (laneOf s n x i)) _ _ hapart hi
  · obtain ⟨w, hw⟩ := s.lanePartial_each n rn rmu rm2
      (fun p i => wmerge p ((partialsOf (s.vsrc n bn) (s.vsrc n bmu) (s.vsrc n bm2)).getD i default)) _ _ hapart hi
    exact ⟨w, hw.trans (congrArg (wmerge _ · w) (getD_partialsOf _ _ _ hi))⟩
  · have hframe := s.putPartials_frame n rn rmu rm2
    refine ⟨⟨onlyNib_modNib (hframe _ _).1 _, fun r hn hmu hm2 => (State.sameVregs_count _ n _ n r).trans ((hframe _ _).2 r hn hmu hm2)⟩,
      fun hapart => ⟨_, ((State.sameVregs_count _ n _).lanePartial n rn rmu rm2 0).trans
        (s.lanePartial_putPartials n rn rmu rm2 ?_ [] hapart (by decide))⟩⟩
    rw [List.length_cons, List.length_take, length_partialsOf]
    decide

end Sys2Proof.Proofs
end

section
/-! PROOF. The special-function unit (R138, R141, R144, R147, R162): one code an element with its counters, and the results that the spec fixes. -/
namespace Sys2Proof.Machine
open Sys2Proof.Claims

/-! ### Codes and counters (R138, R147, R162) -/

section
variable (s : State) (n dst : Nat)

/-- Results change their register, the next one and the two counters. -/
theorem State.putSfu_frame (out : WideFmt) (rs : List SfuOut) : onlyNib s (s.putSfu n dst out rs) n
    ∧ ∀ r, r % 64 ≠ dst % 64 → r % 64 ≠ (dst + 1) % 64 → (s.putSfu n dst out rs).vreg n r = s.vreg n r := by
  obtain ⟨honly, hregs⟩ := s.putCodes_frame n dst out (rs.map (·.code))
  have hsame : SameVregs (s.putCodes n dst out (rs.map (·.code))) (s.putSfu n dst out rs) := .modNib _ n fun _ => rfl
  exact ⟨onlyNib_modNib honly _, fun r hr hr' => (hsame n r).trans (hregs r hr hr')⟩

/-- One result a lane, in a format that holds one element a lane: the codes fill the destination alone. -/
theorem State.putSfu_lanes {out : WideFmt} (hout : out ≠ .bf16) (src : VSrc) (f : Word → SfuOut) :
    let t := s.putSfu n dst out ((s.vsrc n src).map f)
    onlyNib s t n ∧ (∀ r, r % 64 ≠ dst % 64 → t.vreg n r = s.vreg n r)
      ∧ (∀ i, i < 64 → regLane t n dst i = w32 (f (laneOf s n src i)).code)
      ∧ t.nib n = { s.nib n with
          vregs := (t.nib n).vregs,
          sfuovf := satAdd (s.nib n).sfuovf (((s.vsrc n src).filter fun w => (f w).ovf).length),
          vinvalid := satAdd (s.nib n).vinvalid (((s.vsrc n src).filter fun w => (f w).invalid).length) } := by
  dsimp only
  have hcodes : (((s.vsrc n src).map f).map (·.code)).length = 64 := by simp [State.length_vsrc]
  have hcount : ∀ p : SfuOut → Bool, (((s.vsrc n src).map f).filter p).length = ((s.vsrc n src).filter fun w => p (f w)).length := fun p => by
    rw [List.filter_map, List.length_map]; rfl
  have hsame : SameVregs (s.setVreg n dst ((((s.vsrc n src).map f).map (·.code)).map w32)) (s.putSfu n dst out ((s.vsrc n src).map f)) := by
    unfold State.putSfu
    rw [s.putCodes_one n dst hout hcodes]
    exact .modNib _ n fun _ => rfl
  refine ⟨(s.putSfu_frame n dst out _).1, fun r hr => (hsame n r).trans (s.vreg_setVreg_other _ hr), fun i hi => ?_, ?_⟩
  · rw [hsame.regLane, State.regLane_setVreg _ _ _ _ (by rw [List.length_map, hcodes]), List.map_map, List.map_map, getD_map_vsrc s n src _ hi]
    rfl
  · unfold State.putSfu
    rw [s.putCodes_one n dst hout hcodes, State.nib_modNib, State.nib_setVreg, hcount, hcount]

end

/-- The command of a function. -/
def sfuCmd (n dst : Nat) (form : VForm) (src : VSrc) (out : WideFmt) : SfuFn → Instr
  | .exp => .exp n dst form src out
  | .exp2 => .exp2 n dst form src out
  | .log => .log n dst form src out
  | .log2 => .log2 n dst form src out
  | .rcp => .rcp n dst form src out
  | .rsqrt => .rsqrt n dst form src out
  | .gelu => .gelu n dst form src out
  | .silu => .silu n dst form src out
  | .tanh => .tanh n dst form src out

section
variable {s : State} {n : Nat} (h : nibRuns s n) (dst : Nat) (form : VForm) (src : VSrc) (out : WideFmt)
include h

theorem exec_sfuCmd (g : SfuFn) : exec (sfuCmd n dst form src out g) s =
    .next (s.putSfu n dst out ((sfuOperands form (s.vsrc n src)).map (sfuEval g out))) := by
  refine exec_of_onNib (f := fun u => u.sfu g n dst form src out) h ?_
  cases g <;> rfl

theorem exec_microProgram {prog : Nat} {p : List Word} (hp : (upSplit 8 (s.nib n).image)[prog]? = some p) :
    exec (.microProgram n prog dst form src out) s = .next (s.putSfu n dst out ((sfuOperands form (s.vsrc n src)).map (upEval p out))) := by
  have he : exec (.microProgram n prog dst form src out) s = execMicroProgram n prog dst form src out s := rfl
  rw [he, execMicroProgram, State.onNib_of_runs h, hp]

end

/-! ### Results that the spec fixes (R141, R144) -/

/-- A basic function gives its fixed result in every output format. -/
theorem sfuEval_code_of_fixed {f : SfuFn} {w : Word} {x v : FV} (hlib : sfuLibrary f = false) (hw : dec32 w = x) (hv : sfuFixed f x = some v)
    (out : WideFmt) : (sfuEval f out w).code = fmtEncode out v := by
  have h32 : sfu32 f w = enc32 v := by rw [sfu32, hw, hv]
  unfold sfuEval
  dsimp only
  by_cases hout : out = .f32
  · rw [if_pos hout, h32, hout]; rfl
  · rw [if_neg hout, hlib, hw, hv]; rfl

/-- A NaN gives the canonical NaN in every function and format. -/
theorem sfuEval_code_nan (f : SfuFn) (out : WideFmt) {w : Word} (h : isNan32 w = true) : (sfuEval f out w).code = fmtEncode out .nan := by
  have hfixed : sfuFixed f .nan = some .nan := by cases f <;> rfl
  by_cases hlib : sfuLibrary f = true
  · have h32 : sfu32 f w = 0x7FC00000#32 := by rw [sfu32, eq_nan_of_isNan h, hfixed]; rfl
    unfold sfuEval
    dsimp only
    by_cases hout : out = .f32
    · rw [if_pos hout, h32, hout]; rfl
    · rw [if_neg hout, if_pos hlib, h32]; rfl
  · exact sfuEval_code_of_fixed (by simpa using hlib) (eq_nan_of_isNan h) hfixed out

theorem upEval_code_nan (prog : List Word) (out : WideFmt) {w : Word} (h : isNan32 w = true) : (upEval prog out w).code = fmtEncode out .nan := by
  have hrun : upRun prog w = 0x7FC00000#32 := by rw [upRun, if_pos h]
  rw [upEval, hrun]; rfl

theorem dec32_zero : dec32 0#32 = .num false 0 := by simp [dec32, Layout.decode, Layout.magOf]
theorem dec32_negZero : dec32 0x80000000#32 = .num true 0 := by simp [dec32, Layout.decode, Layout.magOf, lay32]
theorem dec32_inf : dec32 0x7F800000#32 = .inf false := rfl
theorem dec32_negInf : dec32 0xFF800000#32 = .inf true := rfl

/-- A negative finite value other than zero is a number below zero. -/
theorem exists_num_of_isNeg {v : FV} (hneg : v.isNeg = true) (hfin : v.isFinite = true) (hzero : v.isZero = false) : ∃ m, v = .num true m ∧ m ≠ 0 := by
  cases v with
  | nan | inf => cases hfin
  | num neg m => exact ⟨m, by rw [show neg = true from hneg], of_decide_eq_false hzero⟩

theorem Layout.magOf_nonneg (f : Layout) (code : Nat) : 0 ≤ f.magOf code := by
  unfold magOf
  dsimp only
  split <;> exact mul_nonneg (Nat.cast_nonneg _) (pow2_pos _).le

theorem nonneg_of_dec32 {w : Word} {neg : Bool} {m : Rat} (h : dec32 w = .num neg m) : 0 ≤ m := by
  unfold dec32 Layout.decode at h
  dsimp only at h
  split at h
  · obtain ⟨-, rfl⟩ := FV.num.inj h
    exact lay32.magOf_nonneg _
  · split at h <;> cases h

/-- At or below -`c`: minus infinity, or a negative number of at least that magnitude. -/
theorem dec32_of_le {w : Word} {c : Rat} (hc : 0 < c) (h : condHolds .le (dec32 w) (.num true c) = true) :
    dec32 w = .inf true ∨ ∃ m, dec32 w = .num true m ∧ c ≤ m := by
  cases hd : dec32 w with
  | nan => rw [hd] at h; cases h
  | inf neg => cases neg with
    | true => exact .inl rfl
    | false => rw [hd] at h; cases h
  | num neg m =>
    have hm := nonneg_of_dec32 hd
    have hle : (FV.num neg m).toRat ≤ -c := by
      rw [hd] at h
      simpa [condHolds, FV.isNan, FV.lt, FV.eq, FV.toRat, le_iff_lt_or_eq] using h
    cases neg with
    | true => exact .inr ⟨m, rfl, neg_le_neg_iff.mp hle⟩
    | false => exact absurd (show m ≤ -c from hle) (by linarith)

section
variable (out : WideFmt)

/-- EXP and EXP2 of the infinities and of the zeros. -/
theorem sfuEval_exp_specials {f : SfuFn} (hf : f = .exp ∨ f = .exp2) : (sfuEval f out 0xFF800000#32).code = fmtEncode out (.num false 0)
    ∧ (sfuEval f out 0x7F800000#32).code = fmtEncode out (.inf false)
    ∧ (sfuEval f out 0#32).code = fmtEncode out (.num false 1) ∧ (sfuEval f out 0x80000000#32).code = fmtEncode out (.num false 1) := by
  rcases hf with rfl | rfl
  all_goals exact ⟨sfuEval_code_of_fixed rfl dec32_negInf rfl out, sfuEval_code_of_fixed rfl dec32_inf rfl out,
    sfuEval_code_of_fixed rfl dec32_zero rfl out, sfuEval_code_of_fixed rfl dec32_negZero rfl out⟩

/-- EXP and EXP2 underflow to +0 below their bounds. -/
theorem sfuEval_exp_underflow {f : SfuFn} {w : Word}
    (h : f = .exp ∧ condHolds .le (dec32 w) (.num true 104) = true ∨ f = .exp2 ∧ condHolds .le (dec32 w) (.num true 150) = true) :
    (sfuEval f out w).code = fmtEncode out (.num false 0) := by
  have hbelow : ∀ {c : Rat}, 0 < c → condHolds .le (dec32 w) (.num true c) = true → dec32 w = .inf true
      ∨ ∃ m, dec32 w = .num true m ∧ m ≠ 0 ∧ c ≤ m :=
    fun hc h => (dec32_of_le hc h).imp_right fun ⟨m, hm, hcm⟩ => ⟨m, hm, (hc.trans_le hcm).ne', hcm⟩
  obtain ⟨rfl, hle⟩ | ⟨rfl, hle⟩ := h
  all_goals
    obtain hinf | ⟨m, hm, h0, hcm⟩ := hbelow (by norm_num) hle
    · exact sfuEval_code_of_fixed rfl hinf rfl out
    · exact sfuEval_code_of_fixed rfl hm (by simp [sfuFixed, h0, hcm]) out

/-- The logarithms of the infinities, of the zeros and of negative values. -/
theorem sfuEval_log_specials {f : SfuFn} (hf : f = .log ∨ f = .log2) : (sfuEval f out 0xFF800000#32).code = fmtEncode out .nan
    ∧ (sfuEval f out 0#32).code = fmtEncode out (.inf true) ∧ (sfuEval f out 0x80000000#32).code = fmtEncode out (.inf true)
    ∧ (sfuEval f out 0x7F800000#32).code = fmtEncode out (.inf false)
    ∧ ∀ w, (dec32 w).isNeg = true → (dec32 w).isFinite = true → (dec32 w).isZero = false → (sfuEval f out w).code = fmtEncode out .nan := by
  rcases hf with rfl | rfl
  all_goals
    refine ⟨sfuEval_code_of_fixed rfl dec32_negInf rfl out, sfuEval_code_of_fixed rfl dec32_zero rfl out,
      sfuEval_code_of_fixed rfl dec32_negZero rfl out, sfuEval_code_of_fixed rfl dec32_inf rfl out, fun w hneg hfin hzero => ?_⟩
    obtain ⟨m, hm, h0⟩ := exists_num_of_isNeg hneg hfin hzero
    refine sfuEval_code_of_fixed rfl hm ?_ out
    exact if_neg h0

/-- The reciprocals of the infinities and of the zeros keep their sign. -/
theorem sfuEval_rcp_specials :
    (sfuEval .rcp out 0xFF800000#32).code = fmtEncode out (.num true 0) ∧ (sfuEval .rcp out 0x7F800000#32).code = fmtEncode out (.num false 0)
    ∧ (sfuEval .rcp out 0#32).code = fmtEncode out (.inf false) ∧ (sfuEval .rcp out 0x80000000#32).code = fmtEncode out (.inf true) :=
  ⟨sfuEval_code_of_fixed rfl dec32_negInf rfl out, sfuEval_code_of_fixed rfl dec32_inf rfl out,
    sfuEval_code_of_fixed rfl dec32_zero rfl out, sfuEval_code_of_fixed rfl dec32_negZero rfl out⟩

/-- RSQRT of the zeros, of the infinities and of negative values. -/
theorem sfuEval_rsqrt_specials :
    (sfuEval .rsqrt out 0#32).code = fmtEncode out (.inf false) ∧ (sfuEval .rsqrt out 0x80000000#32).code = fmtEncode out (.inf true)
    ∧ (sfuEval .rsqrt out 0x7F800000#32).code = fmtEncode out (.num false 0) ∧ (sfuEval .rsqrt out 0xFF800000#32).code = fmtEncode out .nan
    ∧ ∀ w, (dec32 w).isNeg = true → (dec32 w).isFinite = true → (dec32 w).isZero = false → (sfuEval .rsqrt out w).code = fmtEncode out .nan := by
  refine ⟨sfuEval_code_of_fixed rfl dec32_zero rfl out, sfuEval_code_of_fixed rfl dec32_negZero rfl out,
    sfuEval_code_of_fixed rfl dec32_inf rfl out, sfuEval_code_of_fixed rfl dec32_negInf rfl out, fun w hneg hfin hzero => ?_⟩
  obtain ⟨m, hm, h0⟩ := exists_num_of_isNeg hneg hfin hzero
  refine sfuEval_code_of_fixed rfl hm ?_ out
  exact if_neg h0

end

end Sys2Proof.Machine

namespace Sys2Proof.Proofs
open Sys2Proof.Machine Sys2Proof.Claims

/-- Settles O7: every command of the unit puts the codes of its results and counts them; a result that the spec fixes is encoded in the output format. -/
theorem sfuWritesItsFunctionOfEachElement : Obligations.SfuWritesItsFunctionOfEachElement := by
  unfold Obligations.SfuWritesItsFunctionOfEachElement
  refine ⟨fun s n dst src out h hout => ?_, fun out => ?_⟩
  · have hdone := fun g => And.intro (exec_sfuCmd h dst .f32 src out g) (s.putSfu_lanes n dst hout src (sfuEval g out))
    refine ⟨⟨_, hdone .exp⟩, ⟨_, hdone .exp2⟩, ⟨_, hdone .log⟩, ⟨_, hdone .log2⟩, ⟨_, hdone .rcp⟩, ⟨_, hdone .rsqrt⟩, ⟨_, hdone .gelu⟩,
      ⟨_, hdone .silu⟩, ⟨_, hdone .tanh⟩, fun prog p hp => ⟨⟨_, exec_microProgram h dst .f32 src out hp, s.putSfu_lanes n dst hout src (upEval p out)⟩,
      fun form o cmd hcmd => ?_⟩⟩
    have hcmds : cmd ∈ [SfuFn.exp, .exp2, .log, .log2, .rcp, .rsqrt, .gelu, .silu, .tanh].map (sfuCmd n dst form src o)
        ++ [.microProgram n prog dst form src o] := hcmd
    rw [List.mem_append, List.mem_map, List.mem_singleton] at hcmds
    obtain ⟨g, -, rfl⟩ | rfl := hcmds
    · exact ⟨_, exec_sfuCmd h dst form src o g, s.putSfu_frame n dst o _⟩
    · exact ⟨_, exec_microProgram h dst form src o hp, s.putSfu_frame n dst o _⟩
  · obtain ⟨hrcp, hrcp', hrcp0, hrcp0'⟩ := sfuEval_rcp_specials out
    obtain ⟨hrsqrt0, hrsqrt0', hrsqrt, hrsqrt', hrsqrtNeg⟩ := sfuEval_rsqrt_specials out
    exact ⟨fun f w hw => sfuEval_code_nan f out hw, fun f hf => sfuEval_exp_specials out hf, fun f hf => sfuEval_log_specials out hf,
      hrcp, hrcp', hrcp0, hrcp0', hrsqrt0, hrsqrt0', hrsqrt, hrsqrt', hrsqrtNeg, fun f w hw => sfuEval_exp_underflow out hw,
      fun prog w hw => upEval_code_nan prog out hw⟩

end Sys2Proof.Proofs
end

section
/-! PROOF. The KV block table (R183 to R187, R190): the counts of an entry, what reads and writes of lines leave of the table, what a block-list slot names, and
a mover's read of a block. -/
namespace Sys2Proof.Machine
open Sys2Proof.Claims

/-! ### Entries of the table -/

/-- An entry that has lost one reference; without any it is PENDING (R186). -/
def KvEntry.lessOne (e : KvEntry) : KvEntry := { e with refcnt := e.refcnt - 1, state := if e.refcnt = 1 then 3 else e.state }

theorem State.kv_of_kvt {s t : State} (h : t.kvt = s.kvt) (k : Nat) : t.kv k = s.kv k := by rw [State.kv, State.kv, h]

theorem onlyKv_setKv (s : State) (i : Nat) (e : KvEntry) : onlyKv s (s.setKv i e) i := ⟨rfl, fun k hk => s.setKv_kv_other i e k hk⟩

/-- A flag of the table's registers changes them and what is told of it. -/
theorem State.raiseKvt_kvt (s : State) (f i : Nat) :
    (s.raiseKvt f i).kvt = { s.kvt with err := s.kvt.err.raise f, errIndex := BitVec.ofNat 18 i, errFlag := BitVec.ofNat 2 f } := by
  obtain ⟨h, p, e⟩ := s.raiseKvt_frame f i
  rw [e]

theorem State.raiseKvt_mem (s : State) (f i : Nat) : (s.raiseKvt f i).mem = s.mem := by
  obtain ⟨h, p, e⟩ := s.raiseKvt_frame f i
  rw [e]

theorem mem_insertNat (x : Nat) (l : List Nat) : x ∈ insertNat x l := by
  induction l with
  | nil => exact List.mem_singleton.mpr rfl
  | cons y rest ih =>
    unfold insertNat
    split
    · exact List.mem_cons_self
    · split
      · next h => exact h ▸ List.mem_cons_self
      · exact List.mem_cons_of_mem y ih

/-! ### REF and DEREF (R186, R190) -/

section
variable {s : State} {i : Nat} (hi : i ≠ 0) (hlt : i < 262144)
include hi hlt

theorem State.kvRef_held (hheld : (s.kv i).state = 1 ∨ (s.kv i).state = 2) :
    s.kvRef i = if (s.kv i).refcnt = 0xFFFF then { s.raiseKvt 1 i with kvt := { (s.raiseKvt 1 i).kvt with stuck := insertNat i (s.raiseKvt 1 i).kvt.stuck } }
      else s.setKv i { s.kv i with refcnt := (s.kv i).refcnt + 1 } := by
  have hused : (262144 ≤ i || (s.kv i).state = 0 || (s.kv i).state = 3) = false := by
    rcases hheld with h | h <;> simp [h, hlt]
  simp only [State.kvRef, if_neg hi, hused]
  rfl

theorem State.kvDeref_counted (hcnt : (s.kv i).refcnt ≠ 0) : s.kvDeref i = s.setKv i (s.kv i).lessOne := by
  rw [State.kvDeref, if_neg hi, if_neg (by omega), if_neg hcnt]
  rfl

theorem State.kvDeref_zero (hcnt : (s.kv i).refcnt = 0) : s.kvDeref i = s.raiseKvt 2 i := by
  rw [State.kvDeref, if_neg hi, if_neg (by omega), if_pos hcnt]

end

theorem State.kvRef_unheld {s : State} {i : Nat} (hi : i ≠ 0) (hfree : (s.kv i).state = 0 ∨ (s.kv i).state = 3) : s.kvRef i = s.kvBad i := by
  have hbad : (262144 ≤ i || (s.kv i).state = 0 || (s.kv i).state = 3) = true := by
    rcases hfree with h | h <;> simp [h]
  simp only [State.kvRef, if_neg hi, hbad, if_true]

theorem exec_ref {s : State} (h : s.live = true) (i : Nat) : exec (.ref i) s = .next (s.kvRef i) := by
  have he : exec (.ref i) s = execRef i s := rfl
  rw [he, execRef, if_pos h]

theorem exec_deref {s : State} (h : s.live = true) (i : Nat) : exec (.deref i) s = .next (s.kvDeref i) := by
  have he : exec (.deref i) s = execDeref i s := rfl
  rw [he, execDeref, if_pos h]

/-! ### What leaves the table as it is -/

/-- The block table is as it was, and so are the movers and every byte outside `P`. -/
structure Stores (P : Nat → Prop) (s t : State) : Prop where
  kvt : t.kvt = s.kvt
  writes : WritesOnly P s t

section
variable {P : Nat → Prop} {s t u : State}

theorem Stores.refl : Stores P s s := ⟨rfl, .refl⟩

theorem Stores.trans (h : Stores P s t) (h' : Stores P t u) : Stores P s u := ⟨h'.kvt.trans h.kvt, h.writes.trans h'.writes⟩

theorem Stores.mono {Q : Nat → Prop} (h : Stores P s t) (hPQ : ∀ x, P x → Q x) : Stores Q s t := ⟨h.kvt, h.writes.mono hPQ⟩

theorem Stores.ite {c : Prop} [Decidable c] (ht : Stores P s t) (hu : Stores P s u) : Stores P s (if c then t else u) := by
  split
  · exact ht
  · exact hu

theorem Stores.foldl {α : Type} (ht : Stores P s t) (f : State → α → State) (l : List α) (h : ∀ u, Stores P s u → ∀ a ∈ l, Stores P u (f u a)) :
    Stores P s (l.foldl f t) := by
  induction l generalizing t with
  | nil => exact ht
  | cons a l ih => exact ih (ht.trans (h t ht a List.mem_cons_self)) fun u hu b hb => h u hu b (List.mem_cons_of_mem a hb)

theorem Reads.mem (h : Reads s u) : u.mem = s.mem := by
  obtain ⟨_, _, _, _, _, _, _, _, _, _, rfl⟩ := h.frame
  rfl

theorem Reads.movers (h : Reads s u) : u.movers = s.movers := by
  obtain ⟨_, _, _, _, _, _, _, _, _, _, rfl⟩ := h.frame
  rfl

theorem Reads.kvPool (h : Reads s u) (k : Nat) : u.kvPool k = s.kvPool k := by
  obtain ⟨_, _, _, _, _, _, _, _, _, _, rfl⟩ := h.frame
  rfl

theorem Stores.of_reads (h : Reads s u) (hkvt : u.kvt = s.kvt) : Stores P s u := ⟨hkvt, .of_read h.movers h.mem⟩

end

section
variable {P : Nat → Prop} (s : State)

theorem State.kvt_askLine (key idx line : Nat) (hold : Bool) (dst : Place) : (s.askLine key idx line hold dst).kvt = s.kvt := by
  have hawait : ∀ w page tag, (s.awaitLines w page tag).kvt = s.kvt := fun w page tag => by
    obtain ⟨k, e⟩ := State.sendRecord_frame { s with loan := { s.loan with reads := s.loan.reads ++ [w] } } w.rank 0x37
      [page, w.first, w.count, tag, if w.home then 1 else 0] false
    rw [State.awaitLines, e]
  unfold State.askLine
  dsimp only
  split
  · exact hawait _ _ _
  · exact hawait _ _ _
  · rfl

theorem State.kvt_lineNow (a : Nat) : (s.lineNow a).1.kvt = s.kvt := by
  have hread : (s.t2Read a).1.kvt = s.kvt := by
    obtain ⟨n, k, h, o, c, e⟩ := s.t2Read_frame a
    rw [e]
  unfold State.lineNow
  dsimp only
  split
  · split
    · exact s.kvt_askLine _ _ _ _ _
    · exact hread
  · exact hread

theorem State.kvt_moverNowOf (die a : Nat) : (s.moverNowOf die a).1.kvt = s.kvt := by
  have hline := s.kvt_lineNow a
  have hwell : ∀ u : State, (u.raiseWell die 1).kvt = u.kvt := fun u => by
    obtain ⟨c, h, p, e⟩ := u.raiseWell_frame die 1
    rw [e]
    rfl
  unfold State.moverNowOf
  dsimp only
  split
  · exact hline
  · split
    · exact (hwell _).trans hline
    · exact hline

theorem State.stores_moverNowOf (die a : Nat) : Stores P s (s.moverNowOf die a).1 := .of_reads (s.reads_moverNowOf die a) (s.kvt_moverNowOf die a)

theorem State.stores_moverNow (a : Nat) : Stores P s (s.moverNow a).1 := s.stores_moverNowOf _ a

theorem State.stores_blockLines (die e : Option Nat) (first n : Nat) : Stores P s (s.blockLines die e first n).1 := by
  induction n generalizing s first with
  | zero => exact .refl
  | succ n ih =>
    refine Stores.trans ?_ (ih _ _)
    cases e with
    | none => exact .refl
    | some i => exact s.stores_moverNowOf _ _

theorem State.stores_moverWrite (m : MoverRef) (p : Place) (l : Line) : Stores (inRun (addrOf p) 72) s (s.moverWrite m p l) := by
  refine ⟨?_, s.writesOnly_moverWrite m p l⟩
  unfold State.moverWrite
  split
  · obtain ⟨h, o, e⟩ := s.raiseLoan_frame 5 (p.at_ / 2 ^ 24)
    rw [State.pmapBad, e]
  · obtain ⟨_, _, _, _, _, _, _, e⟩ := s.placeWrite_frame p l (writerOf m)
    rw [e]

/-- A job's write of a line of T2: a compute die's mover writes it so. -/
theorem State.stores_t2Write (a : Nat) (l : Line) : Stores (inRun (t2At (lineIdx a) (72 * lineFld a)) 72) s (s.t2Write a l .job) :=
  s.stores_moverWrite { die := 0, num := 0 } { space := .line, at_ := a } l

theorem State.stores_moverPut (m : MoverRef) (p : Place) (i : Nat) (ls : List Line) : Stores (fun _ => True) s (s.moverPut m p i ls) := by
  induction ls generalizing s i with
  | nil => exact .refl
  | cons l ls ih => exact ((s.stores_moverWrite m _ l).mono fun _ _ => trivial).trans (ih _ _)

end

/-! ### Reads of lines are free of the movers and of the table -/

section
variable (s : State) (m : Sparse Nat) (k : Kvt)

theorem State.t2Read_snd_with (a : Nat) : ({ s with movers := m, kvt := k }.t2Read a).2 = (s.t2Read a).2 := by
  have hsrc : ({ s with movers := m, kvt := k } : State).sourceOf (lineIdx a) = s.sourceOf (lineIdx a) := rfl
  unfold State.t2Read
  dsimp only
  rw [hsrc]
  split
  · rfl
  · split
    · rfl
    · simp only [State.homeRead, State.homeLine, apply_ite Prod.snd]
      rfl
    all_goals rfl

theorem State.lineNow_snd_with (a : Nat) : ({ s with movers := m, kvt := k }.lineNow a).2 = (s.lineNow a).2 := by
  have hsrc : ({ s with movers := m, kvt := k } : State).sourceOf (lineIdx a) = s.sourceOf (lineIdx a) := rfl
  have hread := congrArg (·.getD poisonedLine) (s.t2Read_snd_with m k a)
  unfold State.lineNow
  dsimp only
  rw [hsrc]
  split
  · split
    · rfl
    · exact hread
  · exact hread

theorem State.moverNow_snd (a : Nat) : (s.moverNow a).2 = if lineOk (s.lineNow a).2 then (s.lineNow a).2 else poisonLine (s.lineNow a).2 := by
  simp only [State.moverNow, State.moverNowOf, apply_ite Prod.snd, ite_self]

theorem State.listWord_snd (t : ListSlot) : (s.listWord t).2 =
    let l := (s.moverNow (lineStep t.list (t.slot / 16))).2
    let q := t.slot % 16 / 4
    if tagOf l q = 0xFF then none else if tagOf l q = 0 then some 0 else some (leAt l (4 * (t.slot % 16)) 4) := by
  simp only [State.listWord, apply_ite Prod.snd]

theorem State.listWord_snd_with (t : ListSlot) : ({ s with movers := m, kvt := k }.listWord t).2 = (s.listWord t).2 := by
  simp only [State.listWord_snd, State.moverNow_snd, State.lineNow_snd_with]

end

/-! ### The block that a slot names (R185) -/

/-- A slot that gives a word raises nothing in the table. -/
theorem State.listWord_given {s : State} {target : ListSlot} {w : Nat} (h : (s.listWord target).2 = some w) :
    ∃ u, s.listWord target = (u, some w) ∧ Reads s u ∧ u.kvt = s.kvt := by
  have hreads := s.reads_moverNow (lineStep target.list (target.slot / 16))
  have hkvt : (s.moverNow (lineStep target.list (target.slot / 16))).1.kvt = s.kvt := s.kvt_moverNowOf _ _
  unfold State.listWord at h ⊢
  generalize s.moverNow (lineStep target.list (target.slot / 16)) = r at hreads hkvt h ⊢
  obtain ⟨u, l⟩ := r
  dsimp only at h ⊢
  refine ⟨u, ?_, hreads, hkvt⟩
  by_cases hbad : tagOf l (target.slot % 16 / 4) = 0xFF
  · rw [if_pos hbad] at h
    cases h
  · rw [if_neg hbad, apply_ite Prod.snd] at h
    rw [if_neg hbad, ← h]
    split <;> rfl

theorem State.slotEntry_of_word {s u : State} {target : ListSlot} {w : Nat} (h : s.listWord target = (u, some w)) : s.slotEntry target = u.named w := by
  rw [State.slotEntry, h]

section
variable {s : State} {w i : Nat} (hw : w % 2 ^ 18 = i)
include hw

theorem State.named_zero (hi : i = 0) : s.named w = (s, none) := by
  rw [State.named, if_pos (hw.trans hi)]

theorem State.named_stale (hi : i ≠ 0) (h : (s.kv i).state = 0 ∨ (s.kv i).gen.toNat ≠ w / 2 ^ 18 % 256) : s.named w = (s.kvBad i, none) := by
  subst hw
  rw [State.named, if_neg hi, if_pos (by simpa using h)]

theorem State.named_live (hi : i ≠ 0) (hused : (s.kv i).state ≠ 0) (hgen : (s.kv i).gen.toNat = w / 2 ^ 18 % 256) : s.named w = (s, some i) := by
  subst hw
  rw [State.named, if_neg hi, if_neg (by simp only [hused, hgen]; simp)]

end

/-! ### A mover's read of a block (R183, R185 to R187) -/

theorem exec_lease {s : State} {d : LeaseDesc} (h : jobRuns s) (hpres : moverPresent d.mover = true) (hdst : placeOfField (fieldOfPlace d.dst) = some d.dst)
    (hidle : s.moverBusy d.mover = false) (prefetch : Bool) : exec (.lease d prefetch) s = .next ((s.setMover d.mover 1).readBlock d prefetch) := by
  have he : exec (.lease d prefetch) s = execLease d prefetch s := rfl
  obtain ⟨hlive, hrun⟩ := h
  have hnone : s.strk.run.isNone = false := by rw [← Option.not_isSome, hrun]; rfl
  rw [he, execLease, hlive, hnone, State.onMover_of_starts ⟨hlive, hpres, hidle⟩ (decide_eq_true hdst)]
  rfl

section
variable (s : State) (d : LeaseDesc) (prefetch : Bool)

theorem State.stores_readBlock : Stores (fun _ => True) (s.readListSlot d.target prefetch).1 (s.readBlock d prefetch) :=
  (State.stores_blockLines _ _ _ _ _).trans (State.stores_moverPut _ _ _ _ _)

theorem State.moverBusy_readBlock : (s.readBlock d prefetch).moverBusy d.mover = s.moverBusy d.mover := by
  rw [(s.stores_readBlock d prefetch).writes.moverBusy, State.moverBusy, State.moverBusy, (s.reads_readListSlot d.target prefetch).movers]

/-- Lines that a mover writes alike into a well. -/
theorem State.stamps_moverPut (m : MoverRef) {p : Place} {c : Nat} (hp : p.space = .well c) {l : Line} (hl : l.length = 72) (i n : Nat)
    (hin : p.at_ + i + n ≤ wellLines) : Stamps (wellAt c 0) l (inRun (p.at_ + i) n) s (s.moverPut m p i (List.replicate n l)) := by
  induction n generalizing s i with
  | zero => exact Stamps.refl.congr fun a => ⟨False.elim, fun h => by unfold inRun at h; omega⟩
  | succ n ih =>
    have hline : s.moverWrite m (placeStep p i) l = s.wellWrite c (p.at_ + i) l := by
      obtain ⟨space, at_⟩ := p
      cases hp
      rfl
    rw [List.replicate_succ, State.moverPut, hline]
    refine ((s.stamps_wellWrite hl c (by omega)).trans (ih _ (i + 1) (by omega))).congr fun a => ?_
    unfold inRun
    omega

end

/-- What a lease makes of the table is a matter of the table alone. -/
theorem State.kvt_kvLease {s u : State} (h : u.kvt = s.kvt) (i stroke next : Nat) : (u.kvLease i stroke next).kvt = (s.kvLease i stroke next).kvt := by
  have hset : (u.kvLease i stroke next).kvt = (State.kvLease { s with kvt := u.kvt } i stroke next).kvt := rfl
  rw [hset, h]

/-- A lease ends with the stroke that it is for, or with the next one where it already does. -/
theorem State.kv_kvLease (s : State) (i stroke next : Nat) : (s.kvLease i stroke next).kv i = { s.kv i with
    leased := true
    leaseEnd := if (s.kv i).leased = true ∧ (s.kv i).leaseEnd = BitVec.ofNat 16 next then BitVec.ofNat 16 next else BitVec.ofNat 16 stroke } := by
  rw [State.kvLease, State.setKv_kv]
  simp only [Bool.and_eq_true, decide_eq_true_eq]

section
variable {s u : State} {d : LeaseDesc} {prefetch : Bool}

theorem State.readListSlot_of_slotEntry {target : ListSlot} {e : Option Nat} (h : s.slotEntry target = (u, e)) : s.readListSlot target prefetch =
    e.elim (u, none) fun i => (u.kvLease i (if prefetch then s.strokeNum + 1 else s.strokeNum) (s.strokeNum + 1), some i) := by
  rw [State.readListSlot, h]
  cases e <;> rfl

theorem State.blockLines_none (die : Option Nat) (first n : Nat) : u.blockLines die none first n = (u, List.replicate n poisonedLine) := by
  induction n generalizing first with
  | zero => rfl
  | succ n ih => rw [State.blockLines]; simp only [ih, List.replicate_succ]

theorem State.readBlock_none (h : s.readListSlot d.target prefetch = (u, none)) :
    s.readBlock d prefetch = u.moverPut d.mover d.dst 0 (List.replicate d.count poisonedLine) := by
  rw [State.readBlock, h]
  dsimp only
  rw [State.blockLines_none]

/-- A block served as the poison block fills its place in a well with poisoned lines. -/
theorem State.wellRead_readBlock (h : s.readListSlot d.target prefetch = (u, none)) {c k : Nat} (hdst : d.dst = { space := .well c, at_ := k })
    (hin : k + d.count ≤ wellLines) {j : Nat} (hj : j < d.count) : (s.readBlock d prefetch).wellRead c (k + j) = poisonedLine := by
  rw [State.readBlock_none h, hdst]
  exact (u.stamps_moverPut d.mover rfl (length_mkLine List.length_replicate List.length_replicate) 0 d.count hin).wellRead
    ⟨Nat.le_add_right k j, Nat.add_lt_add_left hj k⟩ (by omega)

end

section
variable {s u : State} {d : LeaseDesc} {w i : Nat} (hword : s.listWord d.target = (u, some w)) (hw : w % 2 ^ 18 = i) (prefetch : Bool)
include hword hw

/-- The poison block is read without a lease and without a flag. -/
theorem State.readListSlot_zero (hi : i = 0) : s.readListSlot d.target prefetch = (u, none) :=
  State.readListSlot_of_slotEntry ((State.slotEntry_of_word hword).trans (State.named_zero hw hi))

variable (hkvt : u.kvt = s.kvt)
include hkvt

/-- So is a block that the word does not name, with BAD_INDEX. -/
theorem State.readListSlot_stale (hi : i ≠ 0) (h : (s.kv i).state = 0 ∨ (s.kv i).gen.toNat ≠ w / 2 ^ 18 % 256) :
    s.readListSlot d.target prefetch = (u.kvBad i, none) := by
  rw [← State.kv_of_kvt hkvt] at h
  exact State.readListSlot_of_slotEntry ((State.slotEntry_of_word hword).trans (State.named_stale hw hi h))

theorem State.kvt_readBlock_live (hi : i ≠ 0) (hused : (s.kv i).state ≠ 0) (hgen : (s.kv i).gen.toNat = w / 2 ^ 18 % 256) :
    (s.readBlock d prefetch).kvt = (s.kvLease i (if prefetch then s.strokeNum + 1 else s.strokeNum) (s.strokeNum + 1)).kvt := by
  rw [← State.kv_of_kvt hkvt] at hused hgen
  have hread := State.readListSlot_of_slotEntry (prefetch := prefetch) ((State.slotEntry_of_word hword).trans (State.named_live hw hi hused hgen))
  rw [(s.stores_readBlock d prefetch).kvt, hread]
  exact State.kvt_kvLease hkvt i _ _

end

end Sys2Proof.Machine

namespace Sys2Proof.Proofs
open Sys2Proof.Machine Sys2Proof.Claims

/-- Settles O13: REF and DEREF by their cases; the lease by what the slot's word names, of which the mover's lines change nothing more. -/
theorem referencesAndLeasesAreCounted : Obligations.ReferencesAndLeasesAreCounted := by
  unfold Obligations.ReferencesAndLeasesAreCounted
  refine ⟨fun s i hlive hpos hlt => ?_, fun s d prefetch w hrun hpres hdst hidle hword => ?_⟩
  · have hi : i ≠ 0 := hpos.ne'
    rw [exec_ref hlive, exec_deref hlive]
    refine ⟨fun hheld hcnt => ⟨_, rfl, ?_⟩, fun hheld hcnt => ⟨_, rfl, ?_⟩, fun hfree => ⟨_, rfl, ?_⟩, fun hcnt => ⟨_, rfl, ?_⟩, fun hcnt => ⟨_, rfl, ?_⟩⟩
    · rw [State.kvRef_held hi hlt hheld, if_neg hcnt]
      exact ⟨onlyKv_setKv s i _, s.setKv_kv i _⟩
    · rw [State.kvRef_held hi hlt hheld, if_pos hcnt, State.raiseKvt_kvt]
      exact ⟨rfl, rfl, rfl, mem_insertNat i _⟩
    · rw [State.kvRef_unheld hi hfree, State.kvBad, State.raiseKvt_kvt]
      exact ⟨rfl, rfl⟩
    · rw [State.kvDeref_counted hi hlt hcnt]
      exact ⟨onlyKv_setKv s i _, s.setKv_kv i _⟩
    · rw [State.kvDeref_zero hi hlt hcnt, State.raiseKvt_kvt]
      exact ⟨rfl, rfl, rfl⟩
  · obtain ⟨u, hgiven, -, hkvt⟩ := State.listWord_given (s := s.setMover d.mover 1) (target := d.target) (w := w)
      ((s.listWord_snd_with (s.setMover d.mover 1).movers s.kvt d.target).trans (by rw [hword]))
    have hstores := ((s.setMover d.mover 1).stores_readBlock d prefetch).kvt
    have hzero := State.readListSlot_zero hgiven rfl prefetch
    have hstale := State.readListSlot_stale hgiven rfl prefetch hkvt
    intro i
    refine ⟨_, exec_lease hrun hpres hdst hidle prefetch, ?_, fun hi hused hgen => ?_, fun hi hbad => ?_, fun hi => ?_, fun hbad c k hd hin j hj => ?_⟩
    · rw [State.moverBusy_readBlock, State.moverBusy_setMover_one]
    · have hlease := State.kvt_readBlock_live hgiven rfl prefetch hkvt hi hused hgen
      have hentry := (State.kv_of_kvt hlease i).trans (State.kv_kvLease _ i _ _)
      refine ⟨by rw [hlease]; rfl, fun k hk => ?_, by rw [hentry]; rfl, fun hleased hnext => ?_, fun hnot => ?_⟩
      · rw [State.kv_of_kvt hlease]
        exact State.setKv_kv_other _ _ _ _ hk
      · rw [hentry]
        exact if_pos ⟨hleased, hnext⟩
      · rw [hentry]
        exact if_neg hnot
    · rw [hstores, hstale hi hbad, State.kvBad, State.raiseKvt_kvt, hkvt]
      exact ⟨rfl, rfl, rfl⟩
    · rw [hstores, hzero hi]
      exact hkvt
    · by_cases hi : i = 0
      · exact State.wellRead_readBlock (hzero hi) hd hin hj
      · exact State.wellRead_readBlock (hstale hi (hbad.resolve_left hi)) hd hin hj

end Sys2Proof.Proofs
end

section
/-! PROOF. ALLOC, FREEZE, REPLACE and COW (R186, R188 to R190): the entry that an allocation takes, and what each command leaves of the table and of the changes
that wait for the boundary. -/
namespace Sys2Proof.Machine
open Sys2Proof.Claims

/-! ### Commands of a job's stage program -/

theorem State.inJob_of_runs {s : State} (h : jobRuns s) (f : State → State) : s.inJob f = .next (f s) := by
  obtain ⟨hlive, hrun⟩ := h
  rw [State.inJob, hlive, hrun]
  rfl

theorem exec_freeze {s : State} {i : Nat} (h : jobRuns s) (hlt : i < 262144) (hopen : (s.kv i).state = 1)
    (hnew : s.kvt.pending.contains (.freeze i) = false) : exec (.freeze i) s = .next ((s.kvCount 1).kvChange (.freeze i)) := by
  have he : exec (.freeze i) s = execFreeze i s := rfl
  have hgo : ((s.kv i).state = 1 && !s.kvt.pending.contains (.freeze i)) = true := by rw [hnew, hopen]; rfl
  rw [he, execFreeze, State.inJob_of_runs h, if_neg (by omega), if_pos hgo]

theorem exec_alloc {s : State} {k : Nat} {p : KvPool} (h : jobRuns s) (hp : s.kvPool k = some p) (target : ListSlot) (sc : KvScales) :
    exec (.alloc target k sc) s = .next ((s.kvCount 1).kvFresh target k p sc).1 := by
  have he : exec (.alloc target k sc) s = execAlloc target k sc s := rfl
  rw [he, execAlloc, State.inJob_of_runs h, hp]

theorem exec_replace (target : ListSlot) (sc : KvScales) (s : State) : exec (.replace target sc) s =
    s.inJob fun s => s.onBlock target fun s k p i => ((s.kvCount 1).kvReplace target k p sc i).1 := rfl

theorem exec_cow (target : ListSlot) (sc : KvScales) (s : State) : exec (.cow target sc) s =
    s.inJob fun s => s.onBlock target fun s k p i => ((s.kvCount 1).kvCow target k p sc i).1 := rfl

/-! ### The entry of a new block (R186) -/

/-- A new block of pool `k` at line `ln` of page `pg`, in an entry that stood under generation `gen`. -/
def KvEntry.fresh (k pg ln : Nat) (gen : BitVec 8) : KvEntry :=
  { KvEntry.reset with page := BitVec.ofNat 17 pg, line := BitVec.ofNat 18 ln, pool := BitVec.ofNat 4 k, state := 1, refcnt := 1, gen := gen + 1 }

theorem State.freeEntry_spec {s : State} {i : Nat} (h : s.freeEntry = some i) : i ≠ 0 ∧ (s.kv i).state = 0 := by
  obtain ⟨j, hfind, hj⟩ := Option.bind_eq_some_iff.mp h
  have hji : j = i := by
    split at hj
    · exact Option.some.inj hj
    · cases hj
  subst hji
  obtain ⟨a, -, rfl⟩ := List.mem_map.mp (List.mem_of_find?_eq_some hfind)
  exact ⟨Nat.succ_ne_zero a, by simpa using List.find?_some hfind⟩

section
variable (s : State)

theorem State.stores_kvHeaders (p : KvPool) (sc : KvScales) (e : KvEntry) : Stores (fun _ => True) s (s.kvHeaders p sc e) := by
  have hline : ∀ (u : State) a l, Stores (fun _ => True) u (u.t2Write a l .job) := fun u a l => (u.stores_t2Write a l).mono fun _ _ => trivial
  exact .foldl .refl _ _ fun u _ h _ => (hline u _ _).trans (hline _ _ _)

/-- An allocation takes the free entry, whose header lines it writes; nothing else of the table changes. -/
theorem State.kvAlloc_taken {i k pg ln : Nat} {p : KvPool} (hentry : s.freeEntry = some i) (hslot : s.freeSlot k p = some (pg, ln)) (sc : KvScales)
    (ctx : Nat) : ∃ t : State, s.kvAlloc k p sc ctx = (t, some i)
      ∧ t.kvt = { (s.setKv i (.fresh k pg ln (s.kv i).gen)).kvt with allocs := satAdd s.kvt.allocs 1 }
      ∧ t.kv i = .fresh k pg ln (s.kv i).gen ∧ ∀ j, j ≠ i → t.kv j = s.kv j := by
  have hhdr := ((s.setKv i (.fresh k pg ln (s.kv i).gen)).stores_kvHeaders p sc (.fresh k pg ln (s.kv i).gen)).kvt
  unfold State.kvAlloc
  rw [hentry, hslot]
  refine ⟨_, rfl, ?_, ?_, fun j hj => ?_⟩
  · dsimp only
    rw [← KvEntry.fresh, hhdr]
    rfl
  · exact (State.kv_of_kvt hhdr i).trans (s.setKv_kv i _)
  · exact (State.kv_of_kvt hhdr j).trans (s.setKv_kv_other i _ j hj)

theorem State.kvAlloc_failed {k : Nat} {p : KvPool} (h : s.freeEntry = none ∨ s.freeSlot k p = none) (sc : KvScales) (ctx : Nat) :
    s.kvAlloc k p sc ctx = (s.raiseKvt 0 ctx, none) := by
  unfold State.kvAlloc
  split
  · next hentry hslot =>
    rcases h with h | h
    · rw [hentry] at h
      cases h
    · rw [hslot] at h
      cases h
  · rfl

/-- ALLOC retargets its slot to the new block. -/
theorem State.kvFresh_taken {i k pg ln : Nat} {p : KvPool} (hentry : s.freeEntry = some i) (hslot : s.freeSlot k p = some (pg, ln)) (target : ListSlot)
    (sc : KvScales) : (s.kvFresh target k p sc).1.kvt = { (s.setKv i (.fresh k pg ln (s.kv i).gen)).kvt with
      allocs := satAdd s.kvt.allocs 1, pending := s.kvt.pending ++ [.retarget target (i + ((s.kv i).gen + 1).toNat * 2 ^ 18)] } := by
  obtain ⟨u, halloc, hkvt, hui, -⟩ := s.kvAlloc_taken hentry hslot sc 0
  rw [State.kvFresh, halloc]
  dsimp only
  rw [State.retarget, State.kvWord, if_neg (State.freeEntry_spec hentry).1, hui, State.kvChange, hkvt]
  rfl

theorem State.kvFresh_failed {k : Nat} {p : KvPool} (h : s.freeEntry = none ∨ s.freeSlot k p = none) (target : ListSlot) (sc : KvScales) :
    (s.kvFresh target k p sc).1 = (s.raiseKvt 0 0).kvChange (.retarget target 0) := by
  rw [State.kvFresh, s.kvAlloc_failed h]
  rfl

/-! ### COW copies lines (R188) -/

theorem State.stores_kvCopy (src dst : Nat → Nat) (i n : Nat) : Stores (fun _ => True) s (s.kvCopy src dst i n) := by
  induction n generalizing s i with
  | zero => exact .refl
  | succ n ih => exact ((s.stores_moverNow _).trans ((State.stores_t2Write _ _ _).mono fun _ _ => trivial)).trans (ih _ _)

theorem State.stores_cowCopy (p : KvPool) (old new : KvEntry) (fill : Nat) : Stores (fun _ => True) s (s.cowCopy p old new fill) := by
  have hheads : ∀ f : State → Nat → State, (∀ u h, Stores (fun _ => True) u (f u h)) → Stores (fun _ => True) s ((List.range p.heads).foldl f s) :=
    fun f hf => .foldl .refl f _ fun u _ h _ => hf u h
  unfold State.cowCopy
  dsimp only
  refine .ite (hheads _ fun u h => ?_) ((hheads _ fun u h => ?_).trans (State.stores_kvCopy _ _ _ _ _)) <;>
    exact .foldl (u.stores_kvCopy _ _ _ _) _ _ fun v _ c _ => v.stores_kvCopy _ _ _ _

end

/-! ### A block that takes the place of another (R186, R188) -/

/-- DEREF of the old block, and the retarget of its slot to another one. -/
theorem State.kvt_handOver {u : State} {i j : Nat} (hi : i ≠ 0) (hlt : i < 262144) (hcnt : (u.kv i).refcnt ≠ 0) (hj : j ≠ 0) (hji : j ≠ i) (target : ListSlot) :
    ((u.kvDeref i).retarget target j).kvt = { (u.setKv i (u.kv i).lessOne).kvt with
      pending := u.kvt.pending ++ [.retarget target (j + (u.kv j).gen.toNat * 2 ^ 18)] } := by
  rw [State.kvDeref_counted hi hlt hcnt, State.retarget, State.kvWord, if_neg hj, State.setKv_kv_other _ _ _ _ hji]
  rfl

/-- Entries `i` and `j` are `old` and `new`, and every other one is as in `s`. -/
structure Handed (s t : State) (i j : Nat) (old new : KvEntry) : Prop where
  old : t.kv i = old
  new : t.kv j = new
  others : ∀ k, k ≠ i → k ≠ j → t.kv k = s.kv k

theorem Handed.of_table {s t : State} {i j : Nat} {old new : KvEntry} (hji : j ≠ i)
    (h : t.kvt.table = ((s.setKv j new).setKv i old).kvt.table) : Handed s t i j old new := by
  have hkv : ∀ k, t.kv k = ((s.setKv j new).setKv i old).kv k := fun k => by rw [State.kv, State.kv, h]
  refine ⟨?_, ?_, fun k hi hj => ?_⟩
  · rw [hkv, State.setKv_kv]
  · rw [hkv, State.setKv_kv_other _ _ _ _ hji, State.setKv_kv]
  · rw [hkv, State.setKv_kv_other _ _ _ _ hi, State.setKv_kv_other _ _ _ _ hj]

section
variable {s : State} {i j k pg ln : Nat} {p : KvPool} (hi : i ≠ 0) (hlt : i < 262144) (hcnt : (s.kv i).refcnt ≠ 0) (hj : j ≠ 0) (hji : j ≠ i)
  (hentry : s.freeEntry = some j) (hslot : s.freeSlot k p = some (pg, ln)) (target : ListSlot) (sc : KvScales)
include hi hlt hcnt hj hji hentry hslot

theorem State.kvReplace_taken : ∃ t : State, s.kvReplace target k p sc i = (t, some j) ∧ Handed s t i j (s.kv i).lessOne (.fresh k pg ln (s.kv j).gen)
    ∧ t.kvt.allocs = satAdd s.kvt.allocs 1
    ∧ t.kvt.pending = s.kvt.pending ++ [.retarget target (j + ((s.kv j).gen + 1).toNat * 2 ^ 18)] := by
  obtain ⟨u, halloc, hkvt, huj, hothers⟩ := s.kvAlloc_taken hentry hslot sc i
  have hui : u.kv i = s.kv i := hothers i (Ne.symm hji)
  have hover := State.kvt_handOver (u := u) hi hlt (hui ▸ hcnt) hj hji target
  rw [hui, huj] at hover
  refine ⟨_, by rw [State.kvReplace, halloc], .of_table hji ?_, ?_, ?_⟩
  · simp only [hover, State.setKv, hkvt]
  · simp only [hover, State.setKv, hkvt]
  · simp only [hover, State.setKv, hkvt]
    rfl

theorem State.kvCow_taken (htail : (s.kv i).tail = 0xFFF) : ∃ t : State, s.kvCow target k p sc i = (t, some j)
    ∧ Handed s t i j (s.kv i).lessOne (.fresh k pg ln (s.kv j).gen)
    ∧ t.kvt.allocs = satAdd s.kvt.allocs 1 ∧ t.kvt.cows = satAdd s.kvt.cows 1
    ∧ t.kvt.pending = s.kvt.pending ++ [.fill j (s.kv i).fill.toNat, .retarget target (j + ((s.kv j).gen + 1).toNat * 2 ^ 18)] := by
  obtain ⟨u, halloc, hkvt, huj, hothers⟩ := s.kvAlloc_taken hentry hslot sc i
  have hui : u.kv i = s.kv i := hothers i (Ne.symm hji)
  have hcopy := (u.stores_cowCopy p (s.kv i) (u.kv j) (s.kv i).fill.toNat).kvt
  generalize hcow : u.cowCopy p (s.kv i) (u.kv j) (s.kv i).fill.toNat = v at hcopy
  have hvi : (v.kvChange (.fill j (s.kv i).fill.toNat)).kv i = s.kv i := (State.kv_of_kvt hcopy i).trans hui
  have hvj : (v.kvChange (.fill j (s.kv i).fill.toNat)).kv j = .fresh k pg ln (s.kv j).gen := (State.kv_of_kvt hcopy j).trans huj
  have hover := State.kvt_handOver (u := v.kvChange (.fill j (s.kv i).fill.toNat)) hi hlt (hvi ▸ hcnt) hj hji target
  rw [hvi, hvj] at hover
  have hdone : s.kvCow target k p sc i = (let x := ((v.kvChange (.fill j (s.kv i).fill.toNat)).kvDeref i).retarget target j
      ({ x with kvt := { x.kvt with cows := satAdd x.kvt.cows 1 } }, some j)) := by
    rw [State.kvCow, halloc]
    simp only [htail, if_true, hcow]
    rfl
  generalize ((v.kvChange (.fill j (s.kv i).fill.toNat)).kvDeref i).retarget target j = x at hover hdone
  have hv : (v.kvChange (.fill j (s.kv i).fill.toNat)).kvt = { u.kvt with pending := u.kvt.pending ++ [.fill j (s.kv i).fill.toNat] } := by
    rw [State.kvChange, hcopy]
  refine ⟨_, hdone, .of_table hji ?_, ?_, ?_, ?_⟩
  · simp only [hover, State.setKv, hv, hkvt]
  · simp only [hover, State.setKv, hv, hkvt]
  · simp only [hover, State.setKv, hv, hkvt]
  · simp only [hover, hv, hkvt, List.append_assoc]
    rfl

end

/-! ### The block that a slot names (R185) -/

theorem State.onBlock_of_word {s u : State} {target : ListSlot} {w : Nat} (h : s.listWord target = (u, some w)) (f : State → Nat → KvPool → Nat → State) :
    s.onBlock target f = u.onWord w f := by
  rw [State.onBlock, h]

theorem State.onWord_of_named {s : State} {w i : Nat} {p : KvPool} (hw : w % 2 ^ 18 = i) (hi : i ≠ 0) (hheld : (s.kv i).state = 1 ∨ (s.kv i).state = 2)
    (hgen : (s.kv i).gen.toNat = w / 2 ^ 18 % 256) (hp : s.kvPool (s.kv i).pool.toNat = some p) (f : State → Nat → KvPool → Nat → State) :
    s.onWord w f = f s (s.kv i).pool.toNat p i := by
  have hused : (s.kv i).state ≠ 0 := by rcases hheld with h | h <;> rw [h] <;> decide
  have hnamed := State.named_live hw hi hused hgen
  have hready : (s.kv i).state ≠ 3 := by rcases hheld with h | h <;> rw [h] <;> decide
  unfold State.onWord
  rw [hnamed]
  dsimp only
  rw [if_neg hready, hp]

/-- What an operation leaves that finds no block to read: every entry, the changes that wait, and memory. -/
def SameBlocks (s t : State) : Prop := t.kvt.table = s.kvt.table ∧ t.kvt.pending = s.kvt.pending ∧ t.mem = s.mem

theorem SameBlocks.refl {s : State} : SameBlocks s s := ⟨rfl, rfl, rfl⟩

theorem SameBlocks.trans {s t u : State} (h : SameBlocks s t) (h' : SameBlocks t u) : SameBlocks s u := by
  obtain ⟨htable, hpending, hmem⟩ := h
  obtain ⟨htable', hpending', hmem'⟩ := h'
  exact ⟨htable'.trans htable, hpending'.trans hpending, hmem'.trans hmem⟩

theorem SameBlocks.of_kvt {s t : State} (hkvt : t.kvt = s.kvt) (hmem : t.mem = s.mem) : SameBlocks s t := ⟨by rw [hkvt], by rw [hkvt], hmem⟩

theorem State.sameBlocks_kvBad (s : State) (i : Nat) : SameBlocks s (s.kvBad i) := by
  refine ⟨?_, ?_, s.raiseKvt_mem 3 i⟩ <;> rw [State.kvBad, State.raiseKvt_kvt]

theorem State.sameBlocks_listWord (s : State) (t : ListSlot) : SameBlocks s (s.listWord t).1 := by
  have hline : SameBlocks s (s.moverNow (lineStep t.list (t.slot / 16))).1 :=
    .of_kvt (s.kvt_moverNowOf _ _) (s.reads_moverNow _).mem
  unfold State.listWord
  dsimp only
  split
  · exact hline.trans (State.sameBlocks_kvBad _ 0)
  · split <;> exact hline

theorem State.sameBlocks_named (s : State) (w : Nat) : SameBlocks s (s.named w).1 := by
  unfold State.named
  dsimp only
  split
  · exact .refl
  · split
    · exact s.sameBlocks_kvBad _
    · exact .refl

/-- Of a block that cannot be read nothing is done. -/
theorem State.sameBlocks_onBlock {s : State} {target : ListSlot} (h : (s.slotEntry target).2 = none) (f : State → Nat → KvPool → Nat → State) :
    SameBlocks s (s.onBlock target f) := by
  have hword := s.sameBlocks_listWord target
  unfold State.slotEntry at h
  unfold State.onBlock
  generalize s.listWord target = r at h hword ⊢
  obtain ⟨u, _ | w⟩ := r
  · exact hword
  · refine hword.trans ?_
    have hnamed := u.sameBlocks_named w
    dsimp only at h ⊢
    unfold State.onWord
    generalize u.named w = r at h hnamed ⊢
    obtain ⟨v, _ | i⟩ := r
    · dsimp only at hnamed ⊢
      split
      · exact hnamed.trans (v.sameBlocks_kvBad 0)
      · exact hnamed
    · cases h

/-- REPLACE and COW complete; they do nothing without a running job or a block that can be read. -/
theorem State.inJob_onBlock (s : State) (target : ListSlot) (f : State → Nat → KvPool → Nat → State) :
    ∃ t : State, s.inJob (fun s => s.onBlock target f) = .next t
      ∧ (s.strk.run.isSome = false ∨ (s.slotEntry target).2 = none → SameBlocks s t) := by
  refine ⟨_, rfl, fun h => ?_⟩
  split
  · next hruns =>
    rcases h with hstopped | hunread
    · simp [hstopped] at hruns
    · exact State.sameBlocks_onBlock hunread f
  · exact .refl

end Sys2Proof.Machine

namespace Sys2Proof.Proofs
open Sys2Proof.Machine Sys2Proof.Claims

/-- Settles O14: FREEZE and ALLOC append their change to those that wait; an allocation takes the free entry, or raises its flag. -/
theorem allocAndFreezeWaitForTheBoundary : Obligations.AllocAndFreezeWaitForTheBoundary := by
  unfold Obligations.AllocAndFreezeWaitForTheBoundary
  refine ⟨fun s i hrun hlt hopen hnew => ⟨_, exec_freeze hrun hlt hopen hnew, rfl⟩, fun s target k p sc i pg ln hrun hp _ hentry hslot _ _ => ?_,
    fun s target k p sc hrun hp hnone => ?_⟩
  · have hkvt := State.kvFresh_taken (s := s.kvCount 1) hentry hslot target sc
    refine ⟨_, exec_alloc hrun hp target sc, fun j hj => ?_, ?_, ?_, ?_, ?_⟩
    · rw [State.kv, hkvt]
      exact State.setKv_kv_other s i _ j hj
    · rw [State.kv, hkvt]
      exact State.setKv_kv s i _
    all_goals rw [hkvt]; rfl
  · refine ⟨_, exec_alloc hrun hp target sc, ?_⟩
    rw [State.kvFresh_failed (s := s.kvCount 1) hnone]
    refine ⟨?_, ?_, ?_, State.raiseKvt_mem _ 0 0⟩
    all_goals
      rw [State.kvChange, State.raiseKvt_kvt]
      rfl

/-- Settles O15: both end by handing the slot from the old block to the new one. -/
theorem copiesTakeANewBlock : Obligations.CopiesTakeANewBlock := by
  unfold Obligations.CopiesTakeANewBlock
  refine ⟨fun s target sc => ⟨s.inJob_onBlock target _, s.inJob_onBlock target _⟩, ?_⟩
  intro s target sc w i j pg ln p hrun hword hw hi hheld hgen hcnt hp hentry hslot
  obtain ⟨hj, hfree⟩ := State.freeEntry_spec hentry
  have hji : j ≠ i := by
    rintro rfl
    rcases hheld with h | h <;> rw [hfree] at h <;> cases h
  have hlt : i < 262144 := by omega
  have hblock := fun f => (State.onBlock_of_word hword f).trans (State.onWord_of_named hw hi hheld hgen hp f)
  constructor
  · obtain ⟨t, hdone, ⟨hold, hnew, hothers⟩, hallocs, hpending⟩ := State.kvReplace_taken (s := s.kvCount 1) hi hlt hcnt hj hji hentry hslot target sc
    refine ⟨t, ?_, hold, by rw [hnew]; rfl, by rw [hnew]; rfl, by rw [hnew]; rfl, by rw [hnew]; rfl, hothers, hallocs, hpending⟩
    rw [exec_replace, State.inJob_of_runs hrun, hblock, hdone]
  · intro htail
    obtain ⟨t, hdone, ⟨hold, hnew, hothers⟩, hallocs, hcows, hpending⟩ :=
      State.kvCow_taken (s := s.kvCount 1) hi hlt hcnt hj hji hentry hslot target sc htail
    refine ⟨t, ?_, hold, by rw [hnew]; rfl, by rw [hnew]; rfl, by rw [hnew]; rfl, by rw [hnew]; rfl, hothers, hallocs, hcows, hpending⟩
    rw [exec_cow, State.inJob_of_runs hrun, hblock, hdone]

end Sys2Proof.Proofs
end

section
/-! PROOF. A scatter in place (R188, R189, R191): the lines of a block's slot, which of them a scatter of whole groups writes, and what it leaves of the table. -/
namespace Sys2Proof.Machine
open Sys2Proof.Claims

/-! ### The lines of a slot (R182, R183) -/

/-- The bytes of a block's slot. -/
def inSlot (e : KvEntry) (p : KvPool) : Nat → Prop := inRun (t2At e.page.toNat (72 * e.line.toNat)) (72 * slotLines p)

theorem inSlot_iff {e : KvEntry} {p : KvPool} {x : Nat} : inSlot e p x ↔
    t2At e.page.toNat (72 * e.line.toNat) ≤ x ∧ x < t2At e.page.toNat (72 * (e.line.toNat + slotLines p)) := by
  unfold inSlot inRun t2At
  omega

/-- The lines of head `h` lie in the slot. -/
theorem head_fits {p : KvPool} {h i : Nat} (hh : h < p.heads) (hi : i ≤ headLines p) : h * headLines p + i ≤ slotLines p :=
  calc h * headLines p + i ≤ h * headLines p + headLines p := Nat.add_le_add_left hi _
    _ = (h + 1) * headLines p := (Nat.succ_mul _ _).symm
    _ ≤ slotLines p := Nat.mul_le_mul_right _ hh

/-- Of a head's lines, those of channel `c` of its value tile lie among them. -/
theorem channel_fits {p : KvPool} {c i : Nat} (hc : c < p.headDim) (hi : i ≤ valueLines p) :
    keyTileLines p + 1 + c * valueLines p + i ≤ headLines p := by
  have hlast : (c + 1) * valueLines p ≤ p.headDim * valueLines p := Nat.mul_le_mul_right _ hc
  rw [Nat.succ_mul] at hlast
  unfold headLines
  omega

/-- So do those of a run of positions of its key tile. -/
theorem positions_fit {p : KvPool} {first count : Nat} (h : first + count ≤ 256) : 1 + first * keyLines p + count * keyLines p ≤ headLines p := by
  have hlast : (first + count) * keyLines p ≤ 256 * keyLines p := Nat.mul_le_mul_right _ h
  rw [Nat.add_mul] at hlast
  unfold headLines keyTileLines
  omega

theorem State.stores_countQuant {P : Nat → Prop} (s : State) (nib : Nat) (bs : List QBlk) : Stores P s (s.countQuant nib bs) := ⟨rfl, .of_read rfl rfl⟩

section
variable (s : State) {e : KvEntry} {p : KvPool} (hfit : e.line.toNat + slotLines p ≤ pageLines)
include hfit

theorem State.stores_slotLine {i : Nat} (hi : i < slotLines p) (l : Line) : Stores (inSlot e p) s (s.t2Write (slotAddr e i) l .job) := by
  have hpage := e.page.isLt
  have hline : e.line.toNat + i < 2 ^ 18 := by unfold pageLines at hfit; omega
  have hidx : lineIdx (slotAddr e i) = e.page.toNat := by unfold lineIdx slotAddr lineAddr; omega
  have hfld : lineFld (slotAddr e i) = e.line.toNat + i := by unfold lineFld slotAddr lineAddr; omega
  have hwrite := s.stores_t2Write (slotAddr e i) l
  rw [hidx, hfld] at hwrite
  exact hwrite.mono fun x hx => by unfold inSlot inRun t2At at *; omega

theorem State.stores_slotWrite {i : Nat} {ls : List Line} (hi : i + ls.length ≤ slotLines p) : Stores (inSlot e p) s (s.slotWrite e i ls) := by
  induction ls generalizing s i with
  | nil => exact .refl
  | cons l ls ih =>
    rw [List.length_cons] at hi
    exact (s.stores_slotLine hfit (by omega) l).trans (ih _ (by omega))

/-! ### A completed group (R182, R191) -/

/-- A group that no nib counts is written into one line of its channel, or into two of INT8. -/
theorem State.stores_putGroup_uncounted {h c g : Nat} (hh : h < p.heads) (hc : c < p.headDim) (hg : g < 8) (t : Rat) (vs : List FV) :
    Stores (inSlot e p) s (s.putGroup none p e h c g t vs) := by
  have hput : ∀ (u : State) (i : Nat) (l : Line), i < valueLines p →
      let a := slotAddr e (h * headLines p + keyTileLines p + 1 + c * valueLines p + i)
      Stores (inSlot e p) u ((u.moverNow a).1.t2Write a l .job) := fun u i l hi => by
    have hline := head_fits hh (channel_fits (i := i + 1) hc hi)
    exact (u.stores_moverNow _).trans (State.stores_slotLine _ hfit (by omega) l)
  unfold State.putGroup
  dsimp only
  by_cases hnibble : p.form ≤ 1
  · have hlines : valueLines p = 2 := if_pos hnibble
    rw [if_pos hnibble]
    exact hput s (g / 4) _ (by omega)
  · have hlines : valueLines p = 4 := if_neg hnibble
    rw [if_neg hnibble]
    by_cases hint8 : p.form = 2
    · rw [if_pos hint8]
      exact (hput s (g / 4 * 2) _ (by omega)).trans (hput _ (g / 4 * 2 + 1) _ (by omega))
    · rw [if_neg hint8]
      exact (hput s (g / 2) _ (by omega)).trans (hput _ (g / 2) _ (by omega))

theorem State.stores_putGroup (nib : Nat) {h c g : Nat} (hh : h < p.heads) (hc : c < p.headDim) (hg : g < 8) (t : Rat) (vs : List FV) :
    Stores (inSlot e p) s (s.putGroup (some nib) p e h c g t vs) :=
  (s.stores_countQuant nib _).trans (State.stores_putGroup_uncounted _ hfit hh hc hg t vs)

end

/-! ### The staging area (R191) -/

section
variable {P : Nat → Prop} (s : State)

theorem State.stores_stagingLine (nib line : Nat) : Stores P s (s.stagingLine nib line).1 := by
  have hread : Stores P s (s.readWellLine (nib / 2048) line).1 := by
    obtain ⟨w, h, o, c, e⟩ := s.eccWell_frame (nib / 2048) 1 (s.wellEcc (nib / 2048) line)
    exact ⟨by rw [State.readWellLine, e], .of_read (by rw [State.readWellLine, e]) (by rw [State.readWellLine, e])⟩
  unfold State.stagingLine
  dsimp only
  split
  · exact hread
  · exact hread.trans ⟨rfl, .of_read rfl rfl⟩

theorem State.stores_stagingLines (nib line n : Nat) : Stores P s (s.stagingLines nib line n).1 := by
  induction n generalizing s line with
  | zero => exact .refl
  | succ n ih => exact (s.stores_stagingLine nib line).trans (ih _ _)

theorem State.length_stagingLines (nib line n : Nat) : (s.stagingLines nib line n).2.length = n := by
  induction n generalizing s line with
  | zero => rfl
  | succ n ih => rw [State.stagingLines, List.length_cons, ih]

end

/-! ### A scatter of whole groups -/

/-- Positions of whole groups of one block. -/
structure WholeGroups (d : ScatterDesc) : Prop where
  first : d.first % 32 = 0
  last : (d.first + d.count) % 32 = 0
  within : d.first + d.count ≤ 256

section
variable (s : State) {d : ScatterDesc} (hd : WholeGroups d) {e : KvEntry} {p : KvPool}
  (hfit : e.line.toNat + slotLines p ≤ pageLines)
include hd hfit

theorem State.stores_scatterGroup (written : Nat) (t : Rat) (new : List FV) {h c k : Nat} (hh : h < p.heads) (hc : c < p.headDim)
    (hk : k < ceilDiv (d.first + d.count) 32 - d.first / 32) :
    Stores (inSlot e p) s (s.scatterGroup d p e written t new h c (d.first / 32 + k)) := by
  obtain ⟨hfirst, hlast, hwithin⟩ := hd
  unfold ceilDiv at hk
  have hwhole : 32 * (d.first / 32 + k) + 32 ≤ d.first + d.count := by omega
  have hnew : d.first ≤ 32 * (d.first / 32 + k) := by omega
  unfold State.scatterGroup State.groupValues
  dsimp only
  rw [if_pos hwhole, if_pos hnew]
  exact s.stores_putGroup hfit d.nib hh hc (by omega) t _

theorem State.stores_scatterHead {i : Nat} (he : s.kv i = e) (written : Nat) {h : Nat} (hh : h < p.heads) :
    Stores (inSlot e p) s (s.scatterHead d p i written h) := by
  unfold State.scatterHead
  dsimp only
  rw [he]
  refine .foldl ?_ _ _ fun u _ c hc => .foldl .refl _ _ fun v _ k hk =>
    v.stores_scatterGroup hd hfit written _ _ hh (List.mem_range.mp hc) (List.mem_range.mp hk)
  refine Stores.trans (.trans (.trans (s.stores_stagingLines _ _ _) (State.stores_slotWrite _ hfit ?_)) (State.stores_stagingLines _ _ _ _))
    (State.stores_moverNow _ _)
  rw [State.length_stagingLines, Nat.add_assoc, Nat.add_assoc]
  exact head_fits hh (by have := positions_fit (p := p) hd.within; omega)

theorem State.scatterInto_inPlace {k i : Nat} (he : s.kv i = e) :
    ∃ u, Stores (inSlot e p) s u ∧ s.scatterInto d k p i = u.kvChange (.fill i (d.first + d.count)) := by
  have hheads : ∀ written, Stores (inSlot e p) s ((List.range p.heads).foldl (fun u h => u.scatterHead d p i written h) s) := by
    exact fun written => .foldl .refl _ _ fun u hu h hh => u.stores_scatterHead hd hfit ((State.kv_of_kvt hu.kvt i).trans he) written (List.mem_range.mp hh)
  unfold State.scatterInto
  dsimp only
  rw [if_pos hd.last]
  exact ⟨_, hheads _, rfl⟩

end

section
variable {s : State} {d : ScatterDesc}

/-- Above the published FILL of an OPEN block with one reference a scatter writes in place (R188). -/
theorem State.scatterPath_inPlace {k i : Nat} {p : KvPool} (hreplace : d.replace = false) (hfill : (s.kv i).fill.toNat ≤ d.first)
    (hopen : (s.kv i).state = 1) (hone : (s.kv i).refcnt = 1) : State.scatterPath d s k p i = s.scatterInto d k p i := by
  have hwritable : ((s.kv i).state = 1 && (s.kv i).refcnt = 1) = true := by rw [hopen, hone]; rfl
  unfold State.scatterPath
  dsimp only
  rw [hreplace, if_neg Bool.false_ne_true, if_neg (by omega), if_pos hwritable]

theorem exec_scatter (h : jobRuns s) (hnib : s.nibPresent d.nib = true) (hcount : 1 ≤ d.count) (hwithin : d.first + d.count ≤ 256) :
    exec (.scatter d) s = .next (s.scatter d) := by
  have he : exec (.scatter d) s = execScatter d s := rfl
  have hsome : (d.count = 0 || 256 < d.first + d.count) = false := by simp; omega
  rw [he, execScatter, hnib, Bool.not_true, Bool.and_false, if_neg Bool.false_ne_true, State.inJob_of_runs h, hsome]
  rfl

end
end Sys2Proof.Machine

namespace Sys2Proof.Proofs
open Sys2Proof.Machine Sys2Proof.Claims

/-- Settles O16: the scatter's path leads into the block that the slot names, every line that it writes lies in the block's slot, and its new FILL waits for the
boundary. -/
theorem scatterInPlaceStaysInItsSlot : Obligations.ScatterInPlaceStaysInItsSlot := by
  unfold Obligations.ScatterInPlaceStaysInItsSlot
  intro s d w i p hrun hnib hcount hwithin hlast hfirst hfresh hword hw hi hopen hgen hone hfill hreplace hp _ _ hfit
  obtain ⟨u, hgiven, hreads, hkvt⟩ := State.listWord_given (s := s.kvCount 2) (target := d.target) (w := w)
    ((s.listWord_snd_with s.movers (s.kvCount 2).kvt d.target).trans (by rw [hword]))
  have hentry : u.kv i = s.kv i := State.kv_of_kvt hkvt i
  have hpool : u.kvPool (s.kv i).pool.toNat = some p := (hreads.kvPool _).trans hp
  obtain ⟨v, hstores, hinto⟩ := u.scatterInto_inPlace (d := d) ⟨hfirst, hlast, hwithin⟩ hfit (k := (s.kv i).pool.toNat) hentry
  have hpath : s.scatter d = v.kvChange (.fill i (d.first + d.count)) := by
    rw [← hentry] at hopen hgen hone hfill hpool hinto
    have hnone : (s.kvCount 2).retargeted d.target = none := hfresh
    rw [State.scatter, hnone]
    dsimp only
    rw [State.onBlock_of_word hgiven, State.onWord_of_named hw hi (.inl hopen) hgen hpool, State.scatterPath_inPlace hreplace hfill hopen hone, hinto]
  refine ⟨_, exec_scatter hrun hnib hcount hwithin, ?_, fun x hx => ?_⟩
  · rw [hpath, State.kvChange, hstores.kvt, hkvt]
    rfl
  · refine inSlot_iff.mp (not_not.mp fun hout => hx ?_)
    rw [hpath]
    exact (hstores.writes.2 x hout).trans (by rw [hreads.mem]; rfl)

end Sys2Proof.Proofs
end

section
/-! PROOF. Lines moved one after another (R221, R223, R224, R234, R235, R237, R246): what each step of a well port or of a mover's descriptor stores, what the reads
of the later steps still meet, and how ZERO, COPY and the well port follow from it. -/
namespace Sys2Proof.Machine
open Sys2Proof.Claims

/-! ### A run of line writes -/

/-- A line has been stored at `a`, and no other byte of memory has changed. -/
def PutsLine (a : Nat) (l : Line) (s t : State) : Prop := t.readBytes a 72 = l ∧ ∀ x, ¬ inRun a 72 x → memGet t.mem x = memGet s.mem x

/-- Lines at `a` and at `b` share no byte. -/
def LinesApart (a b : Nat) : Prop := a + 72 ≤ b ∨ b + 72 ≤ a

theorem readBytes_congr {s t : State} {a n : Nat} (h : ∀ x, inRun a n x → memGet t.mem x = memGet s.mem x) : t.readBytes a n = s.readBytes a n := by
  refine List.ext_getElem (by simp [State.readBytes]) fun i h₁ h₂ => ?_
  have hi : i < n := by simpa [State.readBytes] using h₁
  simp only [State.readBytes, memRead_getElem]
  exact h _ ⟨Nat.le_add_right a i, by omega⟩

theorem readBytes_congr_mem {s t : State} (h : t.mem = s.mem) (a n : Nat) : t.readBytes a n = s.readBytes a n := by
  rw [State.readBytes, State.readBytes, h]

theorem PutsLine.readBytes_apart {s t : State} {a b : Nat} {l : Line} (h : PutsLine a l s t) (hab : LinesApart b a) :
    t.readBytes b 72 = s.readBytes b 72 :=
  readBytes_congr fun x hx => h.2 x fun hx' => by unfold LinesApart inRun at *; omega

theorem PutsLine.congr {s s' t t' : State} {a : Nat} {l : Line} (h : PutsLine a l s t) (hs : s'.mem = s.mem) (ht : t'.mem = t.mem) : PutsLine a l s' t' :=
  ⟨by rw [readBytes_congr_mem ht]; exact h.1, fun x hx => by rw [hs, ht]; exact h.2 x hx⟩

/-- Bytes outside the first `k` destinations are as they were. -/
def KeptOutside (dst : Nat → Nat) (k : Nat) (s t : State) : Prop := ∀ x, (∀ j < k, ¬ inRun (dst j) 72 x) → memGet t.mem x = memGet s.mem x

/-- Steps that each store one line, at places that share no byte or get the same line, leave every line where it was stored and no other byte changed. `I` is what
the steps keep besides: each may rest on it and on the bytes outside the places written so far. -/
theorem foldl_putsLines {F : State → Nat → State} {s : State} {n : Nat} {dst : Nat → Nat} {val : Nat → Line} (I : Nat → State → Prop) (h0 : I 0 s)
    (hstep : ∀ k < n, ∀ t, I k t → KeptOutside dst k s t → I (k + 1) (F t k) ∧ PutsLine (dst k) (val k) t (F t k))
    (hapart : ∀ j < n, ∀ k < n, LinesApart (dst j) (dst k) ∨ (dst j = dst k ∧ val j = val k)) :
    I n ((List.range n).foldl F s) ∧ KeptOutside dst n s ((List.range n).foldl F s)
      ∧ ∀ k < n, ((List.range n).foldl F s).readBytes (dst k) 72 = val k := by
  induction n with
  | zero => exact ⟨h0, fun _ _ => rfl, fun k hk => absurd hk (Nat.not_lt_zero k)⟩
  | succ n ih =>
    obtain ⟨hI, hkept, hlines⟩ := ih (fun k hk => hstep k (Nat.lt_succ_of_lt hk)) fun j hj k hk => hapart j (Nat.lt_succ_of_lt hj) k (Nat.lt_succ_of_lt hk)
    obtain ⟨hI', hput⟩ := hstep n (Nat.lt_succ_self n) _ hI hkept
    rw [List.range_succ, List.foldl_append, List.foldl_cons, List.foldl_nil]
    refine ⟨hI', fun x hx => ?_, fun k hk => ?_⟩
    · rw [hput.2 x (hx n (Nat.lt_succ_self n)), hkept x fun j hj => hx j (Nat.lt_succ_of_lt hj)]
    · rcases hapart k hk n (Nat.lt_succ_self n) with hne | ⟨hd, hv⟩
      · have hkn : k < n := by
          rcases Nat.lt_or_ge k n with h | h
          · exact h
          · rw [show k = n by omega] at hne
            unfold LinesApart at hne
            omega
        rw [hput.readBytes_apart hne, hlines k hkn]
      · rw [hd, hv, hput.1]

/-! ### Stored errors (R223, R224) -/

/-- A table without some of its keys reads as before at the others. -/
theorem sget_filter_key {α : Type} (d : Nat → α) (m : Sparse α) (p : Nat → Bool) (a : Nat) :
    sget d (m.filter fun e => p e.1) a = if p a then sget d m a else d a := by
  induction m with
  | nil => simp [sget]
  | cons e rest ih =>
    obtain ⟨k, v⟩ := e
    by_cases hk : a = k
    · subst hk
      cases hp : p a <;> simp [hp, sget, ih]
    · cases hp : p k <;> simp [hp, sget, hk, ih]

/-- A line written anew has no error, every other line the error that it had. -/
theorem State.eccOf_writeBytes_line (s : State) (a : Nat) {l : Line} (hl : l.length = 72) (b : Nat) :
    (s.writeBytes a l).eccOf b = if b = a then .clean else s.eccOf b := by
  have hfilter := sget_filter_key (fun _ => EccResult.clean) s.upset (fun k => !(decide (a ≤ k) && decide (k + 72 ≤ a + l.length))) b
  have hiff : (!(decide (a ≤ b) && decide (b + 72 ≤ a + l.length))) = !decide (b = a) := by
    rw [hl, ← Bool.decide_and]
    congr 2
    exact propext (by omega)
  rw [hiff] at hfilter
  refine hfilter.trans ?_
  by_cases h : b = a <;> simp [h, State.eccOf]

theorem State.eccOf_congr {s t : State} (h : t.upset = s.upset) (a : Nat) : t.eccOf a = s.eccOf a := by rw [State.eccOf, State.eccOf, h]

theorem State.readAs_congr {s t : State} {a : Nat} (hecc : t.eccOf a = s.eccOf a) (hmem : t.readBytes a 72 = s.readBytes a 72) :
    readAs t a = readAs s a := by rw [readAs, readAs, hecc, hmem]

theorem State.length_readBytes (s : State) (a n : Nat) : (s.readBytes a n).length = n := memRead_length _ _ _

theorem length_poisonLine {l : Line} (h : l.length = 72) : (poisonLine l).length = 72 := length_mkLine (by simp [h]) (by simp)

theorem lineOk_poisonLine {l : Line} (h : l.length = 72) : lineOk (poisonLine l) = true := lineOk_mkLine (by simp [h]) (by simp)

theorem length_eccLine (e : EccResult) {l : Line} (h : l.length = 72) : (eccLine e l).length = 72 := by
  unfold eccLine
  split
  · exact length_poisonLine h
  · exact h

theorem length_checkedLine {l : Line} (h : l.length = 72) : (checkedLine l).length = 72 := by
  unfold checkedLine
  split
  · exact h
  · exact length_poisonLine h

theorem State.length_readAs (s : State) (a : Nat) : (readAs s a).length = 72 := length_eccLine _ (s.length_readBytes a 72)

/-- What a verifying reader gets of a stored line: poisoned where the code cannot correct it, checked otherwise. -/
theorem checkedLine_eccLine (e : EccResult) {l : Line} (h : l.length = 72) :
    checkedLine (eccLine e l) = if e = .uncorrectable then poisonLine l else checkedLine l := by
  unfold eccLine
  split
  · rw [checkedLine, lineOk_poisonLine h, if_pos rfl]
  · rfl

theorem worseEcc_eq_uncorrectable (a b : EccResult) : worseEcc a b = .uncorrectable ↔ a = .uncorrectable ∨ b = .uncorrectable := by
  cases a <;> cases b <;> decide

theorem worseEcc_clean (a : EccResult) : worseEcc a .clean = a := by cases a <;> rfl

theorem State.addUpset_frame (s : State) (a : Nat) (e : EccResult) : ∃ u, s.addUpset a e = { s with upset := u } := by
  unfold State.addUpset
  split <;> exact ⟨_, rfl⟩

theorem State.eccOf_addUpset (s : State) (a : Nat) (e : EccResult) (b : Nat) :
    (s.addUpset a e).eccOf b = if b = a then worseEcc (s.eccOf a) e else s.eccOf b := by
  unfold State.addUpset
  split
  · rename_i he
    subst he
    rw [worseEcc_clean]
    split
    · rename_i h; rw [h]
    · rfl
  · exact sget_sset_if a b _

/-! ### One line stored -/

/-- A line has been stored at `a`, no other byte of memory has changed, and every other stored line has the error that it had. -/
structure StoresLine (a : Nat) (l : Line) (s t : State) : Prop where
  put : PutsLine a l s t
  ecc : ∀ b, b ≠ a → t.eccOf b = s.eccOf b

theorem State.storesLine_writeBytes (s : State) (a : Nat) {l : Line} (hl : l.length = 72) : StoresLine a l s (s.writeBytes a (l.take 72)) := by
  have htake : l.take 72 = l := List.take_of_length_le (by omega)
  rw [htake]
  refine ⟨⟨?_, fun x hx => memGet_memWrite_outside _ _ (by unfold inRun at hx; omega)⟩, fun b hb => ?_⟩
  · rw [State.readBytes, State.writeBytes, ← hl, memRead_memWrite]
  · rw [s.eccOf_writeBytes_line a hl, if_neg hb]

theorem StoresLine.congr {a : Nat} {l : Line} {s s' t t' : State} (h : StoresLine a l s t) (hsm : s'.mem = s.mem) (hsu : s'.upset = s.upset)
    (htm : t'.mem = t.mem) (htu : t'.upset = t.upset) : StoresLine a l s' t' :=
  ⟨h.put.congr hsm htm, fun b hb => by rw [State.eccOf_congr htu, State.eccOf_congr hsu, h.ecc b hb]⟩

theorem State.storesLine_t0Write (s : State) (nib : Nat) {line : Nat} (hline : line < t0Lines) {l : Line} (hl : l.length = 72) :
    StoresLine (t0At nib line) l s (s.t0Write nib line l) := by
  rw [State.t0Write, if_pos hline]
  exact s.storesLine_writeBytes _ hl

theorem State.storesLine_wellWrite (s : State) (die : Nat) {line : Nat} (hline : line < wellLines) {l : Line} (hl : l.length = 72) :
    StoresLine (wellAt die line) l s (s.wellWrite die line l) := by
  rw [State.wellWrite, if_pos hline]
  exact s.storesLine_writeBytes _ hl

theorem State.readT0_snd (s : State) (nib : Nat) {line : Nat} (hline : line < t0Lines) : (s.readT0 nib line).2 = readAs s (t0At nib line) := by
  rw [State.readT0, State.t0Ecc, State.t0Read, if_pos hline, if_pos hline]
  rfl

theorem State.readWellLine_snd (s : State) (die : Nat) {line : Nat} (hline : line < wellLines) :
    (s.readWellLine die line).2 = readAs s (wellAt die line) := by
  rw [State.readWellLine, State.wellEcc, State.wellRead, if_pos hline, if_pos hline]
  rfl

theorem State.readT0_fst_frame (s : State) (nib line : Nat) :
    ∃ w h o c, (s.readT0 nib line).1 = { s with wells := w, host := h, pcieOut := o, scr := c } := s.eccWell_frame _ _ _

theorem State.readWellLine_fst_frame (s : State) (die line : Nat) :
    ∃ w h o c, (s.readWellLine die line).1 = { s with wells := w, host := h, pcieOut := o, scr := c } := s.eccWell_frame _ _ _

/-! ### The well port (R83, R221) -/

/-- One line through the well port. -/
def State.portLine (s : State) (nib : Nat) (toWell : Bool) (a b : Nat) : State :=
  let t0 : Place := { space := .t0 nib, at_ := a }
  let well : Place := { space := .well (nib / 2048), at_ := b }
  if toWell then ((s.readT0 nib a).1.wellWrite (nib / 2048) b (s.readT0 nib a).2).followHdr t0 well
  else ((s.readWellLine (nib / 2048) b).1.t0Write nib a (s.readWellLine (nib / 2048) b).2).followHdr well t0

theorem State.portLines_eq_foldl (s : State) (nib : Nat) (toWell : Bool) (t0 well i n : Nat) :
    s.portLines nib toWell t0 well i n = (List.range n).foldl (fun s k => s.portLine nib toWell (t0 + (i + k)) (well + (i + k))) s := by
  induction n generalizing s i with
  | zero => rfl
  | succ n ih =>
    rw [List.range_succ_eq_map, List.foldl_cons, List.foldl_map]
    refine (ih _ (i + 1)).trans ?_
    have hnext : ∀ k, i + 1 + k = i + (k + 1) := fun k => by omega
    simp only [hnext]
    rfl

theorem State.storesLine_portLine_toWell (s : State) (nib : Nat) {a b : Nat} (ha : a < t0Lines) (hb : b < wellLines) :
    StoresLine (wellAt (nib / 2048) b) (readAs s (t0At nib a)) s (s.portLine nib true a b) := by
  obtain ⟨w, h, o, c, e⟩ := s.readT0_fst_frame nib a
  rw [State.portLine, if_pos rfl, e, s.readT0_snd nib ha]
  exact (State.storesLine_wellWrite { s with wells := w, host := h, pcieOut := o, scr := c } _ hb (s.length_readAs _)).congr rfl rfl rfl rfl

theorem State.storesLine_portLine_toT0 (s : State) (nib : Nat) {a b : Nat} (ha : a < t0Lines) (hb : b < wellLines) :
    StoresLine (t0At nib a) (readAs s (wellAt (nib / 2048) b)) s (s.portLine nib false a b) := by
  obtain ⟨w, h, o, c, e⟩ := s.readWellLine_fst_frame (nib / 2048) b
  rw [State.portLine, if_neg Bool.false_ne_true, e, s.readWellLine_snd _ hb]
  exact (State.storesLine_t0Write { s with wells := w, host := h, pcieOut := o, scr := c } _ ha (s.length_readAs _)).congr rfl rfl rfl rfl

/-- Steps that store `f` of what a read delivers of a line elsewhere leave `f` of what a read delivered of it before the first of them. `I` is what the steps keep
besides. -/
theorem foldl_movesLines {F : State → Nat → State} {s : State} {n : Nat} {src dst : Nat → Nat} (f : Line → Line) (I : State → Prop) (h0 : I s)
    (hstep : ∀ k < n, ∀ t, I t → I (F t k) ∧ StoresLine (dst k) (f (readAs t (src k))) t (F t k))
    (hdst : ∀ j < n, ∀ k < n, j ≠ k → LinesApart (dst j) (dst k)) (hsrc : ∀ j < n, ∀ k < n, LinesApart (src j) (dst k)) :
    I ((List.range n).foldl F s) ∧ KeptOutside dst n s ((List.range n).foldl F s)
      ∧ ∀ k < n, ((List.range n).foldl F s).readBytes (dst k) 72 = f (readAs s (src k)) := by
  suffices h : (I ((List.range n).foldl F s) ∧ ∀ j < n, ((List.range n).foldl F s).eccOf (src j) = s.eccOf (src j)) ∧ _ from ⟨h.1.1, h.2⟩
  refine foldl_putsLines (fun _ t => I t ∧ ∀ j < n, t.eccOf (src j) = s.eccOf (src j)) ⟨h0, fun _ _ => rfl⟩ ?_ fun j hj k hk => ?_
  · rintro k hk t ⟨hIt, hecc⟩ hkept
    have hread : readAs t (src k) = readAs s (src k) := State.readAs_congr (hecc k hk) (readBytes_congr fun x hx => hkept x fun j hj hx' => by
      have := hsrc k hk j (by omega)
      unfold LinesApart inRun at *
      omega)
    obtain ⟨hI', hstores⟩ := hread ▸ hstep k hk t hIt
    refine ⟨⟨hI', fun j hj => (hstores.ecc _ fun heq => ?_).trans (hecc j hj)⟩, hstores.put⟩
    have := hsrc j hj k hk
    unfold LinesApart at this
    omega
  · by_cases h : j = k
    · exact .inr ⟨by rw [h], by rw [h]⟩
    · exact .inl (hdst j hj k hk h)

/-- The bytes of `n` lines on end are the lines. -/
theorem KeptOutside.memOutside {dst : Nat → Nat} {a n : Nat} {s t : State} (h : KeptOutside dst n s t) (hdst : ∀ k, dst k = a + 72 * k) :
    memOutside s t a (72 * n) := fun x hx => h x fun j hj hx' => by
  rw [hdst] at hx'
  unfold inRun at hx'
  omega

theorem exec_wellPortTransfer {s : State} {n : Nat} (h : nibRuns s n) (toWell : Bool) (t0 w c : Nat) :
    exec (.wellPortTransfer n toWell t0 w c) s = .next (s.portLines n toWell t0 w 0 c) := by
  have he : exec (.wellPortTransfer n toWell t0 w c) s = execWellPortTransfer n toWell t0 w c s := rfl
  rw [he, execWellPortTransfer, h.1, h.2]
  rfl

theorem nib_lt_of_present {s : State} {n : Nat} (h : s.nibPresent n = true) : n < 4096 := by
  simp only [State.nibPresent, State.quillPresent, Bool.and_eq_true, decide_eq_true_eq] at h
  omega

end Sys2Proof.Machine

namespace Sys2Proof.Proofs
open Sys2Proof.Machine Sys2Proof.Claims

/-- Settles O20: T0 and the wells share no byte, so each line that the port stores is what a read delivered of its source at the start. -/
theorem wellPortMovesLinesBitForBit : Obligations.WellPortMovesLinesBitForBit := by
  unfold Obligations.WellPortMovesLinesBitForBit
  intro s n t0 w c hrun ht0 hw
  have hn := nib_lt_of_present hrun.2
  have hT0 : t0Lines = 3640 := rfl
  have hWell : wellLines = 7456512 := rfl
  have hshift : ∀ a k, a + (0 + k) = a + k := fun a k => by omega
  refine ⟨⟨_, exec_wellPortTransfer hrun true t0 w c, ?_⟩, ⟨_, exec_wellPortTransfer hrun false t0 w c, ?_⟩⟩
  · obtain ⟨-, hkept, hlines⟩ := foldl_movesLines id (fun _ => True) trivial (s := s) (n := c) (src := fun k => t0At n (t0 + k))
      (dst := fun k => wellAt (n / 2048) (w + k))
      (F := fun s k => s.portLine n true (t0 + k) (w + k))
      (fun k hk t _ => ⟨trivial, t.storesLine_portLine_toWell n (by omega) (by omega)⟩)
      (fun j hj k hk hjk => by simp only [LinesApart, wellAt]; omega) (fun j hj k hk => by simp only [LinesApart, wellAt, t0At]; omega)
    simp only [State.portLines_eq_foldl, hshift]
    refine ⟨hkept.memOutside fun k => by simp only [wellAt]; omega, fun i hi => ?_⟩
    rw [State.wellRead, if_pos (by omega)]
    exact hlines i hi
  · obtain ⟨-, hkept, hlines⟩ := foldl_movesLines id (fun _ => True) trivial (s := s) (n := c) (src := fun k => wellAt (n / 2048) (w + k))
      (dst := fun k => t0At n (t0 + k))
      (F := fun s k => s.portLine n false (t0 + k) (w + k))
      (fun k hk t _ => ⟨trivial, t.storesLine_portLine_toT0 n (by omega) (by omega)⟩)
      (fun j hj k hk hjk => by simp only [LinesApart, t0At]; omega) (fun j hj k hk => by simp only [LinesApart, wellAt, t0At]; omega)
    simp only [State.portLines_eq_foldl, hshift]
    refine ⟨hkept.memOutside fun k => by simp only [t0At]; omega, fun i hi => ?_⟩
    rw [State.t0Read, if_pos (by omega)]
    exact hlines i hi

end Sys2Proof.Proofs
end

section
/-! PROOF. ZERO, COPY and ADD of a mover (R234, R235, R237, R246, R255 to R258): the lines of a descriptor by one number, where they lie, what a mover reads and stores
there, and what the three operations leave. -/
namespace Sys2Proof.Machine
open Sys2Proof.Claims

/-! ### The lines of a descriptor by number (R234) -/

/-- Source and destination of line `k` of a descriptor, rows ascending and lines ascending within a row. -/
def lineSrc (d : MoverDesc) (k : Nat) : Place := srcAt d (k / d.lines) (k % d.lines)
def lineDst (d : MoverDesc) (k : Nat) : Place := dstAt d (k / d.lines) (k % d.lines)

/-- Two nested loops are one over the numbers of their pairs. -/
theorem foldl_range_mul {α : Type} (f : α → Nat → Nat → α) (a b : Nat) (s : α) :
    (List.range a).foldl (fun s r => (List.range b).foldl (fun s i => f s r i) s) s = (List.range (a * b)).foldl (fun s k => f s (k / b) (k % b)) s := by
  induction a with
  | zero => simp
  | succ a ih =>
    rw [List.range_succ, List.foldl_append, ih, Nat.succ_mul, List.range_add, List.foldl_append, List.foldl_map, List.foldl_cons, List.foldl_nil]
    refine List.foldl_ext _ _ _ fun u i hi => ?_
    have hib : i < b := List.mem_range.mp hi
    rw [Nat.mul_comm a b, Nat.mul_add_div (by omega), Nat.div_eq_of_lt hib, Nat.add_zero, Nat.mul_add_mod, Nat.mod_eq_of_lt hib]

theorem eachLine_eq_foldl (d : MoverDesc) (f : State → Nat → Place → Place → State) (s : State) :
    eachLine d f s = (List.range (d.rows * d.lines)).foldl (fun s k => f s k (lineSrc d k) (lineDst d k)) s := by
  refine (foldl_range_mul (fun s r i => f s (r * d.lines + i) (srcAt d r i) (dstAt d r i)) d.rows d.lines s).trans ?_
  simp only [Nat.div_add_mod', lineSrc, lineDst]

/-- Line numbers below ROWS × LINES are those of the descriptor's rows and lines. -/
theorem inDesc_of_lt {d : MoverDesc} {k : Nat} (h : k < d.rows * d.lines) : inDesc d (k / d.lines) (k % d.lines) := by
  have hpos : 0 < d.lines := Nat.pos_of_ne_zero fun h0 => by simp [h0] at h
  exact ⟨Nat.div_lt_of_lt_mul (by rwa [Nat.mul_comm]), Nat.mod_lt _ hpos⟩

theorem number_of_inDesc {d : MoverDesc} {r i : Nat} (h : inDesc d r i) :
    r * d.lines + i < d.rows * d.lines ∧ lineSrc d (r * d.lines + i) = srcAt d r i ∧ lineDst d (r * d.lines + i) = dstAt d r i := by
  obtain ⟨hr, hi⟩ := h
  have hdiv : (r * d.lines + i) / d.lines = r := by
    rw [Nat.mul_comm, Nat.mul_add_div (by omega), Nat.div_eq_of_lt hi, Nat.add_zero]
  have hmod : (r * d.lines + i) % d.lines = i := by rw [Nat.mul_comm, Nat.mul_add_mod, Nat.mod_eq_of_lt hi]
  refine ⟨?_, by rw [lineSrc, hdiv, hmod], by rw [lineDst, hdiv, hmod]⟩
  calc r * d.lines + i < r * d.lines + d.lines := by omega
    _ = (r + 1) * d.lines := by rw [Nat.succ_mul]
    _ ≤ d.rows * d.lines := Nat.mul_le_mul_right _ hr

theorem mem_sourcesOf {d : MoverDesc} {p : Place} (h : p ∈ sourcesOf d) : ∃ r i, inDesc d r i ∧ p = srcAt d r i := by
  simp only [sourcesOf, List.mem_flatMap, List.mem_map, List.mem_range] at h
  obtain ⟨r, hr, i, hi, rfl⟩ := h
  exact ⟨r, i, ⟨hr, hi⟩, rfl⟩

/-! ### Places of this module (R227, R228) -/

theorem plain_congr {s t : State} (h : t.pmap = s.pmap) {p : Place} : plain t p ↔ plain s p := by
  unfold plain State.page
  rw [h]

theorem writable_congr {s t : State} (h : t.pmap = s.pmap) {p : Place} : writable t p ↔ writable s p := by
  unfold writable
  rw [plain_congr h]
  unfold State.page
  rw [h]

/-- Lines of units that are `stride` bytes apart, each of which holds `n` lines, share no byte. -/
theorem linesApart_grid {base stride n i j a b : Nat} (hn : 72 * n ≤ stride) (ha : a < n) (hb : b < n)
    (hne : base + i * stride + 72 * a ≠ base + j * stride + 72 * b) : LinesApart (base + i * stride + 72 * a) (base + j * stride + 72 * b) := by
  unfold LinesApart
  rcases Nat.lt_trichotomy i j with h | rfl | h
  · have := Nat.mul_le_mul_right stride (Nat.succ_le_of_lt h)
    rw [Nat.succ_mul] at this
    omega
  · omega
  · have := Nat.mul_le_mul_right stride (Nat.succ_le_of_lt h)
    rw [Nat.succ_mul] at this
    omega

/-- Lines of this module at different addresses share no byte. -/
theorem linesApart_of_plain {s : State} {p q : Place} (hp : plain s p) (hq : plain s q) (hne : addrOf p ≠ addrOf q) :
    LinesApart (addrOf p) (addrOf q) := by
  obtain ⟨space, a⟩ := p
  obtain ⟨space', b⟩ := q
  have hwell : wellLines = 7456512 := rfl
  have hpage : pageLines = 233016 := rfl
  cases space with
  | t0 n => exact hp.elim
  | raw => exact hp.elim
  | well d =>
    cases space' with
    | t0 n => exact hq.elim
    | raw => exact hq.elim
    | well e => exact linesApart_grid (stride := 2 ^ 30) (n := wellLines) (by decide) hp.2 hq.2 hne
    | line =>
      simp only [plain] at hq
      simp only [LinesApart, addrOf, wellAt, t2At]
      omega
  | line =>
    cases space' with
    | t0 n => exact hq.elim
    | raw => exact hq.elim
    | well e =>
      simp only [plain] at hp
      simp only [LinesApart, addrOf, wellAt, t2At]
      omega
    | line =>
      obtain ⟨-, -, hfld, -, -⟩ := hp
      obtain ⟨-, -, hfld', -, -⟩ := hq
      have hgrid := linesApart_grid (base := 0) (stride := 2 ^ 24) (n := pageLines) (i := lineIdx a) (j := lineIdx b) (by decide) hfld hfld'
      simp only [Nat.zero_add] at hgrid
      exact hgrid hne

theorem linesApart_or_eq {s : State} {p q : Place} (hp : plain s p) (hq : plain s q) : LinesApart (addrOf p) (addrOf q) ∨ addrOf p = addrOf q := by
  by_cases h : addrOf p = addrOf q
  · exact .inr h
  · exact .inl (linesApart_of_plain hp hq h)

theorem State.sourceOf_plain {s : State} {p : Place} (h : plain s p) (hspace : p.space = .line) : s.sourceOf (lineIdx p.at_) = .local_ (lineIdx p.at_) := by
  obtain ⟨space, a⟩ := p
  subst hspace
  obtain ⟨-, hidx, -, hkind, hshadow⟩ := h
  simp [State.sourceOf, hkind, hshadow, Nat.not_le.mpr hidx]

theorem State.isRemote_plain {s : State} {p : Place} (h : plain s p) : s.isRemote p = false := by
  by_cases hspace : p.space = .line
  · rw [State.isRemote, State.sourceOf_plain h hspace]
    simp
  · simp [State.isRemote, hspace]

/-- A command that reads only lines of this module does not wait. -/
theorem State.withLines_plain {s : State} {ps : List Place} (h : ∀ p ∈ ps, plain s p) (key : Nat) (c : Instr) (f : State → State) :
    s.withLines key c ps f = (f s).dropFetched ps := by
  have hnone : ps.filter s.isRemote = [] := List.filter_eq_nil_iff.mpr fun p hp => by simp [State.isRemote_plain (h p hp)]
  simp [State.withLines, hnone]

theorem State.dropFetched_frame (s : State) (ps : List Place) : ∃ l, s.dropFetched ps = { s with loan := l } := by
  refine foldl_keeps (fun t => ∃ l, t = { s with loan := l }) _ _ s ?_ ⟨_, rfl⟩
  rintro _ p ⟨l, rfl⟩
  dsimp only
  split <;> exact ⟨_, rfl⟩

/-! ### A mover's read and write (R237) -/

section
variable (s : State) {p : Place}

theorem State.placeRead_snd_plain (h : plain s p) : (s.placeRead p).2 = some (readAs s (addrOf p)) := by
  obtain ⟨space, a⟩ := p
  cases space with
  | t0 n => exact h.elim
  | raw => exact h.elim
  | well d => exact congrArg some (s.readWellLine_snd d h.2)
  | line =>
    have hsource := State.sourceOf_plain h rfl
    obtain ⟨-, -, hfld, -, -⟩ := h
    have hfld' : ¬ pageLines ≤ lineFld a := Nat.not_le.mpr hfld
    simp only [State.placeRead, State.t2Read, if_neg hfld', hsource]
    rfl

/-- What a mover reads of a line of this module, verified. -/
theorem State.moverLine_snd_plain (m : MoverRef) (h : plain s p) : (s.moverLine m p).2 = some (checkedLine (readAs s (addrOf p))) := by
  have hraw : p.space ≠ .raw := fun hr => by unfold plain at h; rw [hr] at h; exact h
  have hline : s.moverLine m p = s.moverRead (chkDie m) p := by
    obtain ⟨space, a⟩ := p
    cases space <;> first | rfl | exact absurd rfl hraw
  rw [hline, State.moverRead, s.placeRead_snd_plain h, checkedLine]
  dsimp only
  split
  · rfl
  · split <;> rfl

theorem State.moverLine_frame (m : MoverRef) (p : Place) :
    ∃ n w k h o c, (s.moverLine m p).1 = { s with loan := n, wells := w, stackRegs := k, host := h, pcieOut := o, scr := c } := by
  unfold State.moverLine
  split
  · obtain ⟨h, o, e⟩ := s.raiseLoan_frame 5 (p.at_ / 2 ^ 24)
    exact ⟨_, s.wells, s.stackRegs, h, o, s.scr, e⟩
  · exact s.moverRead_frame _ _

/-- A mover's write of a line that this module may write stores it; besides, at most the dirty regions change (R343). -/
theorem State.moverWrite_writable (m : MoverRef) (h : writable s p) (l : Line) :
    ∃ d, s.moverWrite m p l = { (s.writeBytes (addrOf p) (l.take 72)) with mir := d } := by
  obtain ⟨space, a⟩ := p
  obtain ⟨hplain, hpin⟩ := h
  cases space with
  | t0 n => exact hplain.elim
  | raw => exact hplain.elim
  | well d => exact ⟨s.mir, if_pos hplain.2⟩
  | line =>
    obtain ⟨-, hidx, hfld, hkind, -⟩ := hplain
    obtain ⟨d, e⟩ := State.markDirty_frame (s.writeBytes (t2At (lineIdx a) (72 * lineFld a)) (l.take 72)) (lineIdx a) (lineFld a)
    refine ⟨d, Eq.trans ?_ e⟩
    simp [State.moverWrite, State.placeWrite, State.t2Write, Nat.not_le.mpr hidx, Nat.not_le.mpr hfld, hkind, hpin rfl]

theorem State.moverWrite_stores (m : MoverRef) (h : writable s p) {l : Line} (hl : l.length = 72) :
    StoresLine (addrOf p) l s (s.moverWrite m p l) ∧ (s.moverWrite m p l).movers = s.movers ∧ (s.moverWrite m p l).pmap = s.pmap
      ∧ (s.moverWrite m p l).strk = s.strk := by
  obtain ⟨d, e⟩ := s.moverWrite_writable m h l
  rw [e]
  exact ⟨(s.storesLine_writeBytes (addrOf p) hl).congr rfl rfl rfl rfl, rfl, rfl, rfl⟩

/-- The error that the read of a line of this module is to meet. -/
theorem State.upsetAt_plain (h : plain s p) (e : EccResult) : s.upsetAt p e = s.addUpset (addrOf p) e := by
  obtain ⟨space, a⟩ := p
  cases space with
  | t0 n => exact h.elim
  | raw => exact h.elim
  | well d => simp [State.upsetAt, h.2, addrOf]
  | line =>
    have hsource := State.sourceOf_plain h rfl
    dsimp only at hsource
    simp [State.upsetAt, hsource, addrOf]

end

/-! ### A mover that starts -/

theorem State.moverBusy_congr {s t : State} (h : t.movers = s.movers) (m : MoverRef) : t.moverBusy m = s.moverBusy m := by
  rw [State.moverBusy, State.moverBusy, h]

section
variable {s : State} {m : MoverRef} {d : MoverDesc} (h : moverStarts s m) (hf : moveFields d = true)
include h

theorem exec_nop : exec (.nop m) s = .next (s.setMover m 1) := State.onMover_of_starts h (ok := true) rfl id

include hf

theorem exec_zero (hsp : spelled .zero d = true) :
    exec (.zero m d) s = .next (eachLine d (fun s _ _ dst => s.moverWrite m dst zeroLine) (s.setMover m 1)) :=
  State.onMover_of_starts h (ok := spelled .zero d && moveFields d) (by rw [hsp, hf]; rfl) _

theorem exec_copy (hsp : spelled .copy d = true) (ecc : List (Nat × EccResult)) :
    exec (.copy m d ecc) s = .next ((s.setMover m 1).runCopy m d ecc) :=
  State.onMover_of_starts h (ok := spelled .copy d && moveFields d) (by rw [hsp, hf]; rfl) fun s => s.runCopy m d ecc

theorem exec_add (hsp : spelled .add d = true) (hreach : addReach m d = true) : exec (.add m d) s = .next ((s.setMover m 1).runAdd m d) :=
  State.onMover_of_starts h (ok := spelled .add d && moveFields d && addReach m d) (by rw [hsp, hf, hreach]; rfl) fun s => s.runAdd m d

end

theorem exec_moverDescriptorDone {s : State} {m : MoverRef} (h : moverPresent m = true) :
    exec (.moverDescriptorDone m) s = if s.isParked (moverKey m) then .next s else .next (s.setMover m 0) := by
  have he : exec (.moverDescriptorDone m) s = execMoverDescriptorDone m s := rfl
  rw [he, execMoverDescriptorDone, h]
  rfl

/-! ### What the movers keep of their queues -/

section
variable {P : Nat → Prop}

theorem State.writesOnly_upsetAt (s : State) (p : Place) (e : EccResult) : WritesOnly P s (s.upsetAt p e) := by
  have hadd : ∀ a, WritesOnly P s (s.addUpset a e) := fun a => by
    obtain ⟨u, h⟩ := s.addUpset_frame a e
    exact .of_read (by rw [h]) (by rw [h])
  unfold State.upsetAt
  split
  · exact .ite (hadd _) .refl
  · exact .ite (hadd _) .refl
  · exact .ite .refl (hadd _)
  · split
    · exact hadd _
    · exact hadd _
    · exact .refl

theorem State.writesOnly_copyLine (s : State) (m : MoverRef) (e : EccResult) (src dst : Place) :
    WritesOnly (inRun (addrOf dst) 72) s (s.copyLine m e src dst) :=
  ((s.writesOnly_upsetAt src e).trans ((State.writesOnly_moverLine _ m src).trans (State.writesOnly_moverWrite _ m dst _))).trans (.of_read rfl rfl)

end

/-- The mover stays at the descriptor while its lines are worked on. -/
theorem movers_eachLine {s : State} (d : MoverDesc) {f : State → Nat → Place → Place → State}
    (hf : ∀ u k src dst, (f u k src dst).movers = u.movers) : (eachLine d f s).movers = s.movers := by
  rw [eachLine_eq_foldl]
  exact foldl_keeps (fun t => t.movers = s.movers) _ _ _ (fun t k h => (hf t k _ _).trans h) rfl

theorem moverBusy_of_movers {s t : State} (m : MoverRef) (h : t.movers = (s.setMover m 1).movers) : t.moverBusy m = true :=
  (State.moverBusy_congr h m).trans (s.moverBusy_setMover_one m)

theorem State.movers_runCopy (s : State) (m : MoverRef) (d : MoverDesc) (ecc : List (Nat × EccResult)) : (s.runCopy m d ecc).movers = s.movers :=
  (s.writesOnly_withLines (P := fun _ => True) _ _ _ _
    ⟨movers_eachLine d fun u _ src dst => (u.writesOnly_copyLine m _ src dst).1, fun _ hx => absurd trivial hx⟩).1

/-! ### ZERO and COPY -/

theorem onlyDst_of_keptOutside {s t : State} {d : MoverDesc} (h : KeptOutside (fun k => addrOf (lineDst d k)) (d.rows * d.lines) s t) : onlyDst s t d :=
  fun x hx => h x fun k hk hx' => by
    have hout : x < addrOf (lineDst d k) ∨ addrOf (lineDst d k) + 72 ≤ x := hx _ _ (inDesc_of_lt hk)
    simp only [inRun] at hx'
    omega

theorem zero_stores {s : State} {m : MoverRef} {d : MoverDesc} (hw : ∀ r i, inDesc d r i → writable s (dstAt d r i)) :
    let t := eachLine d (fun s _ _ dst => s.moverWrite m dst zeroLine) s
    t.movers = s.movers ∧ onlyDst s t d ∧ ∀ r i, inDesc d r i → lineAt t (dstAt d r i) = zeroLine := by
  have hzero : zeroLine.length = 72 := List.length_replicate
  have hdst : ∀ k < d.rows * d.lines, writable s (lineDst d k) := fun k hk => hw _ _ (inDesc_of_lt hk)
  rw [eachLine_eq_foldl]
  obtain ⟨⟨hmovers, -⟩, hkept, hlines⟩ := foldl_putsLines (s := s) (n := d.rows * d.lines) (dst := fun k => addrOf (lineDst d k)) (val := fun _ => zeroLine)
    (F := fun s k => s.moverWrite m (lineDst d k) zeroLine) (fun _ t => t.movers = s.movers ∧ t.pmap = s.pmap) ⟨rfl, rfl⟩
    (fun k hk t ⟨hmovers, hpmap⟩ _ => by
      obtain ⟨hstores, hm, hp, -⟩ := t.moverWrite_stores m ((writable_congr hpmap).mpr (hdst k hk)) hzero
      exact ⟨⟨hm.trans hmovers, hp.trans hpmap⟩, hstores.put⟩)
    fun j hj k hk => (linesApart_or_eq (hdst j hj).1 (hdst k hk).1).imp_right fun h => ⟨h, rfl⟩
  refine ⟨hmovers, onlyDst_of_keptOutside hkept, fun r i hri => ?_⟩
  obtain ⟨hlt, -, hd⟩ := number_of_inDesc hri
  rw [lineAt, ← hd]
  exact hlines _ hlt

/-- The source of line `k` meets an error that cannot be corrected: one that it had, or one that the operand gives at a line up to `k`. -/
def LostAt (s : State) (d : MoverDesc) (ecc : List (Nat × EccResult)) (k j : Nat) : Prop :=
  s.eccOf (addrOf (lineSrc d j)) = .uncorrectable ∨ ∃ i < k, addrOf (lineSrc d i) = addrOf (lineSrc d j) ∧ eccAt ecc i = .uncorrectable

theorem lostLine_iff {s : State} {d : MoverDesc} (ecc : List (Nat × EccResult)) {r i : Nat} (h : inDesc d r i) :
    lostLine s d ecc r i ↔ LostAt s d ecc (r * d.lines + i + 1) (r * d.lines + i) := by
  obtain ⟨hlt, hsrc, -⟩ := number_of_inDesc h
  unfold lostLine LostAt
  rw [hsrc]
  refine or_congr_right ⟨fun ⟨q, j, hqj, hle, haddr, hecc⟩ => ?_, fun ⟨k, hk, haddr, hecc⟩ => ?_⟩
  · exact ⟨q * d.lines + j, by omega, by rw [(number_of_inDesc hqj).2.1]; exact haddr, hecc⟩
  · exact ⟨k / d.lines, k % d.lines, inDesc_of_lt (by omega), by rw [Nat.div_add_mod']; omega, haddr, by rw [Nat.div_add_mod']; exact hecc⟩

/-- One line of a COPY from and to lines of this module: the stored line goes on, poisoned or checked, and its error is noted at its source. -/
theorem State.copyLine_stores {s : State} {m : MoverRef} {src dst : Place} (hsrc : plain s src) (hdst : writable s dst) (e : EccResult) :
    let u := s.addUpset (addrOf src) e
    let t := s.copyLine m e src dst
    StoresLine (addrOf dst) (if u.eccOf (addrOf src) = .uncorrectable then poisonLine (lineAt s src) else checkedLine (lineAt s src)) u t
      ∧ t.movers = s.movers ∧ t.pmap = s.pmap := by
  intro u t
  obtain ⟨x, hu⟩ := s.addUpset_frame (addrOf src) e
  have hpmap : u.pmap = s.pmap := by show (s.addUpset _ e).pmap = _; rw [hu]
  have hmovers : u.movers = s.movers := by show (s.addUpset _ e).movers = _; rw [hu]
  have hmem : u.mem = s.mem := by show (s.addUpset _ e).mem = _; rw [hu]
  obtain ⟨n, w, k, h, o, c, hread⟩ := u.moverLine_frame m src
  have hval : (u.moverLine m src).2 = some (if u.eccOf (addrOf src) = .uncorrectable then poisonLine (lineAt s src) else checkedLine (lineAt s src)) := by
    rw [u.moverLine_snd_plain m ((plain_congr hpmap).mpr hsrc), readAs, checkedLine_eccLine _ (u.length_readBytes _ 72), readBytes_congr_mem hmem]
    rfl
  have hlen : (if u.eccOf (addrOf src) = .uncorrectable then poisonLine (lineAt s src) else checkedLine (lineAt s src)).length = 72 := by
    have hl := s.length_readBytes (addrOf src) 72
    split
    · exact length_poisonLine hl
    · exact length_checkedLine hl
  generalize (if u.eccOf (addrOf src) = .uncorrectable then poisonLine (lineAt s src) else checkedLine (lineAt s src)) = l at *
  obtain ⟨hstores, hm, hp, -⟩ :=
    State.moverWrite_stores (u.moverLine m src).1 m (p := dst) ((writable_congr (by rw [hread]; exact hpmap)).mpr hdst) hlen
  have ht : t = (((u.moverLine m src).1.moverWrite m dst l)).followHdr src dst := by
    show s.copyLine m e src dst = _
    rw [State.copyLine, s.upsetAt_plain hsrc, hval]
    rfl
  rw [ht]
  exact ⟨hstores.congr (by rw [hread]) (by rw [hread]) rfl rfl, hm.trans (by rw [hread]; exact hmovers), hp.trans (by rw [hread]; exact hpmap)⟩

/-- One more line read: its error is lost at every line that reads the same place. -/
theorem lostAt_succ {s u : State} {d : MoverDesc} {ecc : List (Nat × EccResult)} {k j : Nat}
    (h : ∀ i, i = j ∨ i = k → (u.eccOf (addrOf (lineSrc d i)) = .uncorrectable ↔ LostAt s d ecc k i)) :
    (u.addUpset (addrOf (lineSrc d k)) (eccAt ecc k)).eccOf (addrOf (lineSrc d j)) = .uncorrectable ↔ LostAt s d ecc (k + 1) j := by
  have hnext : LostAt s d ecc (k + 1) j ↔ LostAt s d ecc k j ∨ (addrOf (lineSrc d k) = addrOf (lineSrc d j) ∧ eccAt ecc k = .uncorrectable) := by
    unfold LostAt
    rw [or_assoc]
    refine or_congr_right ⟨fun ⟨i, hi, hsame, hecc⟩ => ?_, ?_⟩
    · rcases Nat.lt_or_eq_of_le (Nat.le_of_lt_succ hi) with h | rfl
      · exact .inl ⟨i, h, hsame, hecc⟩
      · exact .inr ⟨hsame, hecc⟩
    · rintro (⟨i, hi, hsame, hecc⟩ | ⟨hsame, hecc⟩)
      · exact ⟨i, Nat.lt_succ_of_lt hi, hsame, hecc⟩
      · exact ⟨k, Nat.lt_succ_self k, hsame, hecc⟩
  rw [hnext, State.eccOf_addUpset, ← h j (.inl rfl)]
  split
  · rename_i hsame
    rw [worseEcc_eq_uncorrectable, ← hsame]
    simp
  · rename_i hother
    simp [Ne.symm hother]

/-- What a COPY leaves at the destination of line `k`. -/
def CopiedLine (s : State) (d : MoverDesc) (ecc : List (Nat × EccResult)) (k : Nat) (l : Line) : Prop :=
  (LostAt s d ecc (k + 1) k → l = poisonLine (lineAt s (lineSrc d k))) ∧ (¬ LostAt s d ecc (k + 1) k → l = checkedLine (lineAt s (lineSrc d k)))

theorem exists_copiedLine (s : State) (d : MoverDesc) (ecc : List (Nat × EccResult)) (k : Nat) : ∃ l, CopiedLine s d ecc k l := by
  by_cases h : LostAt s d ecc (k + 1) k
  · exact ⟨_, fun _ => rfl, fun hn => absurd h hn⟩
  · exact ⟨_, fun hl => absurd hl h, fun _ => rfl⟩

theorem CopiedLine.eq_of {s : State} {d : MoverDesc} {ecc : List (Nat × EccResult)} {k : Nat} {l : Line} (h : CopiedLine s d ecc k l) {e : EccResult}
    (he : e = .uncorrectable ↔ LostAt s d ecc (k + 1) k) :
    (if e = .uncorrectable then poisonLine (lineAt s (lineSrc d k)) else checkedLine (lineAt s (lineSrc d k))) = l := by
  split
  · rename_i hu
    exact (h.1 (he.mp hu)).symm
  · rename_i hu
    exact (h.2 fun hl => hu (he.mpr hl)).symm

section
variable {s : State} {m : MoverRef} {d : MoverDesc} (hapart : apart d) (hfrom : fromElsewhere d)
  (hplaces : ∀ r i, inDesc d r i → writable s (dstAt d r i) ∧ plain s (srcAt d r i))
include hplaces

theorem plain_lineSrc {k : Nat} (hk : k < d.rows * d.lines) : plain s (lineSrc d k) := (hplaces _ _ (inDesc_of_lt hk)).2

theorem writable_lineDst {k : Nat} (hk : k < d.rows * d.lines) : writable s (lineDst d k) := (hplaces _ _ (inDesc_of_lt hk)).1

theorem plain_sourcesOf {p : Place} (h : p ∈ sourcesOf d) : plain s p := by
  obtain ⟨r, i, hri, rfl⟩ := mem_sourcesOf h
  exact (hplaces r i hri).2

include hfrom in
theorem src_apart_dst {j k : Nat} (hj : j < d.rows * d.lines) (hk : k < d.rows * d.lines) : LinesApart (addrOf (lineSrc d j)) (addrOf (lineDst d k)) :=
  linesApart_of_plain (plain_lineSrc hplaces hj) (writable_lineDst hplaces hk).1 (hfrom _ _ _ _ (inDesc_of_lt hk) (inDesc_of_lt hj)).symm

include hapart in
theorem dst_apart_dst {j k : Nat} (hj : j < d.rows * d.lines) (hk : k < d.rows * d.lines) (hjk : j ≠ k) :
    LinesApart (addrOf (lineDst d j)) (addrOf (lineDst d k)) :=
  linesApart_of_plain (writable_lineDst hplaces hj).1 (writable_lineDst hplaces hk).1 fun heq => hjk (by
    obtain ⟨hdiv, hmod⟩ := hapart _ _ _ _ (inDesc_of_lt hj) (inDesc_of_lt hk) heq
    rw [← Nat.div_add_mod' j d.lines, ← Nat.div_add_mod' k d.lines, hdiv, hmod])

include hfrom in
/-- While the lines are worked on, the sources read as they did. -/
theorem lineAt_lineSrc_kept {t : State} {k n : Nat} (hn : n ≤ d.rows * d.lines) (hkept : KeptOutside (fun k => addrOf (lineDst d k)) n s t)
    (hk : k < d.rows * d.lines) : lineAt t (lineSrc d k) = lineAt s (lineSrc d k) :=
  readBytes_congr fun x hx => hkept x fun j hj hx' => by
    have := src_apart_dst hfrom hplaces hk (Nat.lt_of_lt_of_le hj hn)
    simp only [LinesApart, inRun] at *
    omega

theorem State.runCopy_plain (ecc : List (Nat × EccResult)) :
    ∃ l, s.runCopy m d ecc = { eachLine d (fun s k src dst => s.copyLine m (eccAt ecc k) src dst) s with loan := l } := by
  rw [State.runCopy, State.withLines_plain fun p hp => plain_sourcesOf hplaces hp]
  exact State.dropFetched_frame _ _

include hapart hfrom

theorem copy_stores (ecc : List (Nat × EccResult)) :
    let t := eachLine d (fun s k src dst => s.copyLine m (eccAt ecc k) src dst) s
    onlyDst s t d ∧ ∀ k < d.rows * d.lines, CopiedLine s d ecc k (lineAt t (lineDst d k)) := by
  choose val hval using exists_copiedLine s d ecc
  rw [eachLine_eq_foldl]
  obtain ⟨-, hkept, hlines⟩ := foldl_putsLines (s := s) (n := d.rows * d.lines) (dst := fun k => addrOf (lineDst d k)) (val := val)
    (F := fun s k => s.copyLine m (eccAt ecc k) (lineSrc d k) (lineDst d k))
    (fun k t => t.pmap = s.pmap ∧ ∀ j < d.rows * d.lines, (t.eccOf (addrOf (lineSrc d j)) = .uncorrectable ↔ LostAt s d ecc k j))
    ⟨rfl, fun j _ => by simp [LostAt]⟩
    (fun k hk t ⟨hpmap, hecc⟩ hkept => by
      obtain ⟨hstores, -, hp⟩ := State.copyLine_stores (m := m) ((plain_congr hpmap).mpr (plain_lineSrc hplaces hk))
        ((writable_congr hpmap).mpr (writable_lineDst hplaces hk)) (eccAt ecc k)
      have hlost : ∀ j < d.rows * d.lines, _ := fun j hj => lostAt_succ (s := s) (u := t) (d := d) (ecc := ecc) (k := k) (j := j)
        fun i hi => hecc i (by rcases hi with rfl | rfl <;> assumption)
      rw [lineAt_lineSrc_kept hfrom hplaces (Nat.le_of_lt hk) hkept hk, (hval k).eq_of (hlost k hk)] at hstores
      refine ⟨⟨hp.trans hpmap, fun j hj => ?_⟩, hstores.put.congr ?_ rfl⟩
      · rw [hstores.ecc _ fun heq => ?_, hlost j hj]
        have := src_apart_dst hfrom hplaces hj hk
        unfold LinesApart at this
        omega
      · obtain ⟨x, e⟩ := t.addUpset_frame (addrOf (lineSrc d k)) (eccAt ecc k)
        rw [e])
    fun j hj k hk => by
      by_cases hjk : j = k
      · exact .inr ⟨by rw [hjk], by rw [hjk]⟩
      · exact .inl (dst_apart_dst hapart hplaces hj hk hjk)
  exact ⟨onlyDst_of_keptOutside hkept, fun k hk => by rw [lineAt, hlines k hk]; exact hval k⟩

end

end Sys2Proof.Machine

namespace Sys2Proof.Proofs
open Sys2Proof.Machine Sys2Proof.Claims

/-- Settles O17: each line of ZERO and COPY is stored at its own place, and the sources, which no destination meets, read at their turn as they did at the start but
for the errors that the reads before them met. -/
theorem moversMoveWholeLines : Obligations.MoversMoveWholeLines := by
  unfold Obligations.MoversMoveWholeLines
  intro s m hstart
  have hpresent : moverPresent m = true := hstart.2.1
  have hdone := exec_moverDescriptorDone (s := s) hpresent
  have hbusy := fun {t : State} (h : t.movers = (s.setMover m 1).movers) => moverBusy_of_movers m h
  refine ⟨⟨exec_nop hstart, s.moverBusy_setMover_one m⟩, fun hparked => ?_, fun hfree => ⟨?_, ?_, ?_⟩, fun d hf hsp hw => ?_,
    fun d ecc hf hsp hapart hfrom hplaces => ?_, fun d ecc hf => ⟨fun hsp => ?_, fun hsp => ?_⟩⟩
  · rw [hdone, if_pos hparked]
  · rw [hdone, hfree]
    rfl
  · rw [exec_moverDescriptorDone hpresent]
    exact if_neg (by rw [show (s.setMover m 1).isParked (moverKey m) = s.isParked (moverKey m) from rfl, hfree]; exact Bool.false_ne_true)
  · simp [State.moverBusy, State.setMover]
  · obtain ⟨hmovers, honly, hlines⟩ := zero_stores (s := s.setMover m 1) (m := m) hw
    exact ⟨_, exec_zero hstart hf hsp, hbusy hmovers, honly, hlines⟩
  · have hmovers := (s.setMover m 1).movers_runCopy m d ecc
    obtain ⟨honly, hlines⟩ := copy_stores (s := s.setMover m 1) (m := m) hapart hfrom hplaces ecc
    obtain ⟨l, e⟩ := State.runCopy_plain (s := s.setMover m 1) (m := m) hplaces ecc
    refine ⟨_, exec_copy hstart hf hsp ecc, hbusy hmovers, ?_⟩
    rw [e]
    refine ⟨honly, fun r i hri => ?_⟩
    obtain ⟨hlt, hsrc, hdst⟩ := number_of_inDesc hri
    have hline := hlines _ hlt
    rw [CopiedLine, hsrc, hdst] at hline
    rw [lostLine_iff ecc hri]
    exact hline
  · exact ⟨_, exec_zero hstart hf hsp, hbusy (movers_eachLine d fun u _ _ dst => (u.writesOnly_moverWrite m dst zeroLine).1)⟩
  · exact ⟨_, exec_copy hstart hf hsp ecc, hbusy (State.movers_runCopy _ m d ecc)⟩

end Sys2Proof.Proofs
end

section
/-! PROOF. Atomic adds (R255 to R258): the line that an add leaves, what it changes besides, and the add log. -/
namespace Sys2Proof.Machine
open Sys2Proof.Claims

/-! ### The line that an add leaves (R255) -/

theorem length_tagLine_f32 (es : List (Nat × Word)) : (tagLine 8 es).length = 72 := by
  have hn : elemsPerLine 8 = 16 := rfl
  refine length_mkLine ?_ (by simp)
  simp [hn, List.length_flatMap]

theorem length_addLines (src dst : Line) : (addLines src dst).length = 72 := length_tagLine_f32 _

/-! ### Reads of a mover and of a die's nib -/

section
variable {s u : State}

theorem Reads.upset (h : Reads s u) : u.upset = s.upset := by
  obtain ⟨_, _, _, _, _, _, _, _, _, _, rfl⟩ := h.frame
  rfl

theorem Reads.pmap (h : Reads s u) : u.pmap = s.pmap := by
  obtain ⟨_, _, _, _, _, _, _, _, _, _, rfl⟩ := h.frame
  rfl

theorem Reads.strk (h : Reads s u) : u.strk = s.strk := by
  obtain ⟨_, _, _, _, _, _, _, _, _, _, rfl⟩ := h.frame
  rfl

theorem Reads.addlog (h : Reads s u) (d : Nat) : (u.well d).addlog = (s.well d).addlog := by
  obtain ⟨_, _, e⟩ := h.wells d
  rw [e]

theorem Reads.atomadds (h : Reads s u) (d : Nat) : (u.well d).atomadds = (s.well d).atomadds := by
  obtain ⟨_, _, e⟩ := h.wells d
  rw [e]

theorem Reads.readAs (h : Reads s u) (a : Nat) : readAs u a = readAs s a := State.readAs_congr (State.eccOf_congr h.upset a) (readBytes_congr_mem h.mem a 72)

/-- A line stored after some reads is one stored. -/
theorem StoresLine.after_reads {t : State} {a : Nat} {l : Line} (h : StoresLine a l u t) (hr : Reads s u) : StoresLine a l s t :=
  h.congr hr.mem.symm hr.upset.symm rfl rfl

end

section
variable (s : State)

theorem State.reads_raiseWell (d i : Nat) : Reads s (s.raiseWell d i) := (s.tries_raiseWell (q := 0) d i).reads

theorem State.reads_readWellLine (d line : Nat) : Reads s (s.readWellLine d line).1 := s.reads_eccWell _ _ _

theorem State.reads_readPage (page line : Nat) : Reads s (s.readPage page line).1 := by
  obtain ⟨k, h, o, c, e⟩ := s.readPage_frame page line
  exact .of_eq e

theorem State.reads_moverLine (m : MoverRef) (p : Place) : Reads s (s.moverLine m p).1 := by
  have hplace := s.reads_placeRead p
  unfold State.moverLine
  split
  · exact s.reads_pmapBad _
  · unfold State.moverRead
    dsimp only
    split
    · exact hplace
    · split
      · exact hplace
      · split
        · exact hplace.trans (State.reads_raiseWell _ _ _)
        · exact hplace.trans (.of_eq rfl)

end

/-! ### An add at its target (R255) -/

theorem State.ordered_congr {s t : State} (h : t.strk = s.strk) : t.ordered = s.ordered := by rw [State.ordered, State.ordered, h]

/-- What an add at a well's line, or at a line of T2 that this module may write, leaves: the sum in the line, and every other byte and error as it was. -/
structure Adds (a : Nat) (l : Line) (s t : State) : Prop where
  stores : StoresLine a l s t
  movers : t.movers = s.movers
  pmap : t.pmap = s.pmap
  strk : t.strk = s.strk

/-- The target as it is read, and the report of a line that fails its check (R52, R255). -/
def addRead (die : Nat) (src : Line) (r : State × Line) : State := if lineOk src && lineOk r.2 then r.1 else r.1.raiseWell die 1

theorem reads_addRead {s : State} (die : Nat) (src : Line) {r : State × Line} (h : Reads s r.1) : Reads s (addRead die src r) := by
  unfold addRead
  split
  · exact h
  · exact h.trans (State.reads_raiseWell _ _ _)

theorem State.applyAdd_well (s : State) (src : Line) (d : Nat) {b : Nat} (hb : b < wellLines) :
    s.applyAdd src { space := .well d, at_ := b }
      = ((addRead d src (s.readWellLine d b)).wellWrite d b (addLines src (readAs s (wellAt d b)))).modWell d
          fun w => { w with atomadds := satAdd w.atomadds 1 } := by
  rw [← s.readWellLine_snd d hb]
  rfl

theorem State.adds_applyAdd_well (s : State) (src : Line) (d : Nat) {b : Nat} (hb : b < wellLines) :
    Adds (wellAt d b) (addLines src (readAs s (wellAt d b))) s (s.applyAdd src { space := .well d, at_ := b }) := by
  rw [s.applyAdd_well src d hb]
  have hreads := reads_addRead d src (s.reads_readWellLine d b)
  have hstores := (State.storesLine_wellWrite (addRead d src (s.readWellLine d b)) d hb
    (length_addLines src (readAs s (wellAt d b)))).after_reads hreads
  obtain ⟨x, y, e⟩ := State.wellWrite_frame (addRead d src (s.readWellLine d b)) d b (addLines src (readAs s (wellAt d b)))
  refine ⟨hstores.congr rfl rfl rfl rfl, ?_, ?_, ?_⟩ <;> simp only [State.modWell_eq, State.setWell_movers, State.setWell_pmap, State.setWell_strk, e]
  · exact hreads.movers
  · exact hreads.pmap
  · exact hreads.strk

theorem State.movers_t2Write (s : State) (a : Nat) (l : Line) (who : Writer) : (s.t2Write a l who).movers = s.movers := by
  rcases s.t2Write_cases a l who with ⟨_, _, _, _, e⟩ | ⟨-, -, -, -, _, e⟩
  · rw [e]
  · rw [e]
    rfl

theorem State.movers_wellWrite (s : State) (die line : Nat) (l : Line) : (s.wellWrite die line l).movers = s.movers := by
  obtain ⟨m, u, e⟩ := s.wellWrite_frame die line l
  rw [e]

theorem State.applyAdd_movers (s : State) (src : Line) (dst : Place) : (s.applyAdd src dst).movers = s.movers := by
  obtain ⟨space, a⟩ := dst
  have hbad : ∀ i, (s.pmapBad i).movers = s.movers := fun i => (s.reads_pmapBad i).movers
  cases space with
  | t0 n => rfl
  | raw => exact hbad _
  | well d =>
    exact (State.movers_wellWrite _ _ _ _).trans (reads_addRead d src (s.reads_readWellLine d a)).movers
  | line =>
    unfold State.applyAdd
    dsimp only
    split
    · exact hbad _
    · split
      · obtain ⟨_, _, _, _, e⟩ := s.roWrite_frame (lineIdx a) .job
        rw [e]
      · have hreads := reads_addRead (placeDie { space := .line, at_ := a }) src (s.reads_readPage (lineIdx a) (lineFld a))
        exact (State.movers_t2Write _ _ _ _).trans hreads.movers

/-- An add at a target that this module may write. -/
theorem State.adds_applyAdd {s : State} {dst : Place} (h : writable s dst) (src : Line) :
    Adds (addrOf dst) (addLines src (readAs s (addrOf dst))) s (s.applyAdd src dst) := by
  obtain ⟨space, a⟩ := dst
  cases space with
  | t0 n => exact h.1.elim
  | raw => exact h.1.elim
  | well d => exact s.adds_applyAdd_well src d h.1.2
  | line =>
    obtain ⟨-, hidx, hfld, hkind, -⟩ := h.1
    have hpin : (s.page (lineIdx a)).pinned = false := h.2 rfl
    have hreads := reads_addRead (placeDie { space := .line, at_ := a }) src (s.reads_readPage (lineIdx a) (lineFld a))
    have hadd : s.applyAdd src { space := .line, at_ := a }
        = ((addRead (placeDie { space := .line, at_ := a }) src (s.readPage (lineIdx a) (lineFld a))).moverWrite { die := 0, num := 0 } { space := .line, at_ := a }
            (addLines src (readAs s (addrOf { space := .line, at_ := a })))).modStack (lineIdx a / 6144) fun x => { x with atomadds := satAdd x.atomadds 1 } := by
      unfold State.applyAdd
      dsimp only
      rw [if_neg (by simp [Nat.not_le.mpr hidx, Nat.not_le.mpr hfld, hkind]), if_neg (by simp [hpin])]
      rfl
    obtain ⟨hstores, hm, hp, hk⟩ := State.moverWrite_stores (addRead (placeDie { space := .line, at_ := a }) src (s.readPage (lineIdx a) (lineFld a)))
      { die := 0, num := 0 } ((writable_congr hreads.pmap).mpr h) (length_addLines src (readAs s (addrOf { space := .line, at_ := a })))
    rw [hadd]
    exact ⟨(hstores.after_reads hreads).congr rfl rfl rfl rfl, hm.trans hreads.movers, hp.trans hreads.pmap, hk.trans hreads.strk⟩

/-! ### Issue (R257, R258) -/

theorem State.issueAdd_fast {s : State} (h : s.ordered = false) (die : Nat) (r : AddRec) : s.issueAdd die r = s.applyAdd r.src r.dst := by
  rw [State.issueAdd, h]
  rfl

theorem State.issueAdd_ordered {s : State} (h : s.ordered = true) (die : Nat) (r : AddRec) :
    s.issueAdd die r = s.setWell die { s.well die with addlog := (s.well die).addlog ++ [r] } := by
  rw [State.issueAdd, h]
  rfl

theorem exec_atomicAdd {s : State} {nib : Nat} (h : nibRuns s nib) (a b : Nat) :
    exec (.atomicAdd nib a b) s = .next ((s.readWellLine (nib / 2048) a).1.issueAdd (nib / 2048)
      { mover := false, unit := nib / 8, sub := nib % 8 / 2 ^ (s.quill (nib / 8)).gang.toNat, dst := { space := .well (nib / 2048), at_ := b },
        src := (s.readWellLine (nib / 2048) a).2 }) := by
  have he : exec (.atomicAdd nib a b) s = execAtomicAdd nib a b s := rfl
  rw [he, execAtomicAdd, h.1, h.2]
  rfl

/-! ### The account of errors of a well (R262) -/

theorem State.memerr_eccWell {s : State} {die n : Nat} {e : EccResult} (h : e ≠ .uncorrectable) (d : Nat) :
    ((s.eccWell die n e).well d).memerr = (s.well d).memerr := by
  cases e with
  | clean => rfl
  | uncorrectable => exact absurd rfl h
  | corrected =>
    show ((s.modWell die fun w => { w with eccce := satAdd w.eccce n }).well d).memerr = _
    by_cases hd : d = die
    · rw [hd, State.modWell_eq, State.setWell_well]
    · rw [State.modWell_eq, State.setWell_well_other _ _ _ _ hd]

theorem State.memerr_raiseWell (s : State) (d i : Nat) : ((s.raiseWell d i).well d).memerr = (s.well d).memerr.raise i := by
  obtain ⟨c, h, p, e⟩ := s.raiseWell_frame d i
  have hwell : (s.raiseWell d i).well d = (s.modWell d fun x => { x with memerr := x.memerr.raise i }).well d := by
    rw [e]
    rfl
  rw [hwell, State.modWell_eq, State.setWell_well]

theorem State.readWellLine_ecc (s : State) (die : Nat) {line : Nat} (h : line < wellLines) :
    (s.readWellLine die line).1 = s.eccWell die 1 (s.eccOf (wellAt die line)) := by
  rw [State.readWellLine, State.wellEcc, if_pos h]

theorem State.memerr_readWellLine {s : State} {die line : Nat} (hline : line < wellLines) (h : s.eccOf (wellAt die line) ≠ .uncorrectable) (d : Nat) :
    ((s.readWellLine die line).1.well d).memerr = (s.well d).memerr := by
  rw [s.readWellLine_ecc die hline, State.memerr_eccWell h]

theorem State.well_applyAdd {s : State} {src : Line} {d b : Nat} (hb : b < wellLines) :
    (s.applyAdd src { space := .well d, at_ := b }).well d
      = { (addRead d src (s.readWellLine d b)).well d with atomadds := satAdd ((addRead d src (s.readWellLine d b)).well d).atomadds 1 } := by
  rw [s.applyAdd_well src d hb, State.modWell_eq, State.setWell_well]
  obtain ⟨x, y, e⟩ := State.wellWrite_frame (addRead d src (s.readWellLine d b)) d b (addLines src (readAs s (wellAt d b)))
  rw [e]
  rfl

/-- A nib's add in fast mode. -/
theorem fastAdd_lands {s : State} {die a b : Nat} (hord : s.ordered = false) (ha : a < wellLines) (hb : b < wellLines) (r : AddRec)
    (hsrc : r.src = (s.readWellLine die a).2) (hdst : r.dst = { space := .well die, at_ := b }) :
    let x := readAs s (wellAt die a)
    let y := readAs s (wellAt die b)
    let t := (s.readWellLine die a).1.issueAdd die r
    t.wellRead die b = addLines x y ∧ memOutside s t (wellAt die b) 72 ∧ (t.well die).atomadds = satAdd (s.well die).atomadds 1
      ∧ (s.eccOf (wellAt die a) ≠ .uncorrectable → s.eccOf (wellAt die b) ≠ .uncorrectable →
          (t.well die).memerr = if lineOk x && lineOk y then (s.well die).memerr else (s.well die).memerr.raise 1) := by
  intro x y t
  have hreads := s.reads_readWellLine die a
  have hread : readAs (s.readWellLine die a).1 (wellAt die b) = y := hreads.readAs _
  have ht : t = (s.readWellLine die a).1.applyAdd x { space := .well die, at_ := b } := by
    show (s.readWellLine die a).1.issueAdd die r = _
    rw [State.issueAdd_fast ((State.ordered_congr hreads.strk).trans hord), hsrc, hdst, s.readWellLine_snd die ha]
  have hadds := (s.readWellLine die a).1.adds_applyAdd_well x die hb
  rw [← ht, hread] at hadds
  have hwell : t.well die = _ := ht ▸ State.well_applyAdd hb
  have hstores := hadds.stores.after_reads hreads
  refine ⟨?_, fun z hz => hstores.put.2 z (by unfold inRun; omega), ?_, fun hcleanA hcleanB => ?_⟩
  · rw [State.wellRead, if_pos hb]
    exact hstores.put.1
  · rw [hwell]
    exact congrArg (satAdd · 1) ((hreads.trans (reads_addRead die x (State.reads_readWellLine _ die b))).atomadds die)
  · have herr : (((s.readWellLine die a).1.readWellLine die b).1.well die).memerr = (s.well die).memerr := by
      rw [State.memerr_readWellLine hb (by rw [State.eccOf_congr hreads.upset]; exact hcleanB), State.memerr_readWellLine ha hcleanA]
    rw [hwell]
    show (State.well (addRead _ _ _) die).memerr = _
    rw [addRead, State.readWellLine_snd _ die hb, hread]
    split
    · exact herr
    · rw [State.memerr_raiseWell, herr]

/-! ### Adds of a mover -/

/-- One line of a mover's ADD. -/
def State.addLine (s : State) (m : MoverRef) (src dst : Place) : State :=
  (s.moverLine m src).1.issueAdd m.die { mover := true, unit := m.die, sub := m.num, dst := dst, src := (s.moverLine m src).2.getD poisonedLine }

theorem State.movers_addLine (s : State) (m : MoverRef) (src dst : Place) : (s.addLine m src dst).movers = s.movers := by
  unfold State.addLine State.issueAdd
  split
  · exact (s.reads_moverLine m src).movers
  · rw [State.applyAdd_movers]
    exact (s.reads_moverLine m src).movers

theorem State.movers_runAdd (s : State) (m : MoverRef) (d : MoverDesc) : (s.runAdd m d).movers = s.movers :=
  (s.writesOnly_withLines (P := fun _ => True) _ _ _ _ ⟨movers_eachLine d fun u _ src dst => u.movers_addLine m src dst, fun _ hx => absurd trivial hx⟩).1

/-- In ordered mode every line is recorded, and none is written. -/
theorem add_records {s : State} {m : MoverRef} {d : MoverDesc} (hord : s.ordered = true) :
    let t := eachLine d (fun s _ src dst => s.addLine m src dst) s
    t.mem = s.mem ∧ (t.well m.die).addlog.length = (s.well m.die).addlog.length + d.rows * d.lines := by
  rw [eachLine_eq_foldl]
  suffices h : ∀ n, let t := (List.range n).foldl (fun s k => s.addLine m (lineSrc d k) (lineDst d k)) s
      t.strk = s.strk ∧ t.mem = s.mem ∧ (t.well m.die).addlog.length = (s.well m.die).addlog.length + n from (h _).2
  intro n
  induction n with
  | zero => exact ⟨rfl, rfl, rfl⟩
  | succ n ih =>
    rw [List.range_succ, List.foldl_append, List.foldl_cons, List.foldl_nil]
    generalize (List.range n).foldl (fun s k => s.addLine m (lineSrc d k) (lineDst d k)) s = t at ih ⊢
    obtain ⟨hstrk, hmem, hlog⟩ := ih
    have hreads := t.reads_moverLine m (lineSrc d n)
    dsimp only
    rw [State.addLine, State.issueAdd_ordered ((State.ordered_congr (hreads.strk.trans hstrk)).trans hord), State.setWell_well]
    refine ⟨hreads.strk.trans hstrk, hreads.mem.trans hmem, ?_⟩
    simp only [List.length_append, hreads.addlog, hlog, List.length_singleton]
    omega

section
variable {s : State} {m : MoverRef} {d : MoverDesc} (hplaces : ∀ r i, inDesc d r i → writable s (dstAt d r i) ∧ plain s (srcAt d r i))
include hplaces

theorem State.runAdd_plain : ∃ l, s.runAdd m d = { eachLine d (fun s _ src dst => s.addLine m src dst) s with loan := l } := by
  rw [State.runAdd, State.withLines_plain fun p hp => plain_sourcesOf hplaces hp]
  exact State.dropFetched_frame _ _

/-- In fast mode every sum is in its line. -/
theorem add_stores (hapart : apart d) (hfrom : fromElsewhere d) (hord : s.ordered = false) :
    let t := eachLine d (fun s _ src dst => s.addLine m src dst) s
    onlyDst s t d ∧ ∀ k < d.rows * d.lines,
      lineAt t (lineDst d k) = addLines (checkedLine (readAs s (addrOf (lineSrc d k)))) (readAs s (addrOf (lineDst d k))) := by
  rw [eachLine_eq_foldl]
  obtain ⟨-, hkept, hlines⟩ := foldl_putsLines (s := s) (n := d.rows * d.lines) (dst := fun k => addrOf (lineDst d k))
    (val := fun k => addLines (checkedLine (readAs s (addrOf (lineSrc d k)))) (readAs s (addrOf (lineDst d k))))
    (F := fun s k => s.addLine m (lineSrc d k) (lineDst d k))
    (fun k t => t.pmap = s.pmap ∧ t.strk = s.strk ∧ ∀ b, (∀ j < k, b ≠ addrOf (lineDst d j)) → t.eccOf b = s.eccOf b)
    ⟨rfl, rfl, fun _ _ => rfl⟩
    (fun k hk t ⟨hpmap, hstrk, hecc⟩ hkept => by
      have hreads := t.reads_moverLine m (lineSrc d k)
      have hsrc : readAs t (addrOf (lineSrc d k)) = readAs s (addrOf (lineSrc d k)) := State.readAs_congr
        (hecc _ fun j hj heq => hfrom _ _ _ _ (inDesc_of_lt (by omega : j < d.rows * d.lines)) (inDesc_of_lt hk) heq.symm)
        (lineAt_lineSrc_kept hfrom hplaces (Nat.le_of_lt hk) hkept hk)
      have hdst : readAs t (addrOf (lineDst d k)) = readAs s (addrOf (lineDst d k)) := by
        have hne : ∀ j < k, LinesApart (addrOf (lineDst d k)) (addrOf (lineDst d j)) := fun j hj =>
          dst_apart_dst hapart hplaces hk (by omega) (by omega)
        refine State.readAs_congr (hecc _ fun j hj heq => ?_) (readBytes_congr fun x hx => hkept x fun j hj hx' => ?_)
        · have := hne j hj
          unfold LinesApart at this
          omega
        · have := hne j hj
          simp only [LinesApart, inRun] at *
          omega
      have hadds := State.adds_applyAdd (s := (t.moverLine m (lineSrc d k)).1) ((writable_congr (hreads.pmap.trans hpmap)).mpr (writable_lineDst hplaces hk))
        (checkedLine (readAs t (addrOf (lineSrc d k))))
      have hstep : t.addLine m (lineSrc d k) (lineDst d k)
          = (t.moverLine m (lineSrc d k)).1.applyAdd (checkedLine (readAs t (addrOf (lineSrc d k)))) (lineDst d k) := by
        rw [State.addLine, State.issueAdd_fast ((State.ordered_congr (hreads.strk.trans hstrk)).trans hord),
          t.moverLine_snd_plain m ((plain_congr hpmap).mpr (plain_lineSrc hplaces hk))]
        rfl
      rw [hreads.readAs, hsrc, hdst] at hadds
      rw [hstep, hsrc]
      have hstores := hadds.stores.after_reads hreads
      refine ⟨⟨hadds.pmap.trans (hreads.pmap.trans hpmap), hadds.strk.trans (hreads.strk.trans hstrk), fun b hb => ?_⟩, hstores.put⟩
      rw [hstores.ecc b (hb k (Nat.lt_succ_self k)), hecc b fun j hj => hb j (Nat.lt_succ_of_lt hj)])
    fun j hj k hk => by
      by_cases hjk : j = k
      · exact .inr ⟨by rw [hjk], by rw [hjk]⟩
      · exact .inl (dst_apart_dst hapart hplaces hj hk hjk)
  exact ⟨onlyDst_of_keptOutside hkept, hlines⟩

end

end Sys2Proof.Machine

namespace Sys2Proof.Proofs
open Sys2Proof.Machine Sys2Proof.Claims

/-- Settles O18: in fast mode an add stores its sum at its target alone (`State.adds_applyAdd`), in ordered mode it goes to the log of the die that issues it. -/
theorem atomicAddsLandOrAreLogged : Obligations.AtomicAddsLandOrAreLogged := by
  unfold Obligations.AtomicAddsLandOrAreLogged
  refine ⟨fun s nib a b hrun ha hb => ⟨fun hord => ?_, fun hord => ?_⟩, 
    fun s m d hstart hf hsp hreach => ⟨?_, fun hapart hfrom hplaces => ⟨fun hord => ?_, fun hord => ?_⟩⟩⟩
  · exact ⟨_, exec_atomicAdd hrun a b, fastAdd_lands hord ha hb _ rfl rfl⟩
  · have hreads := s.reads_readWellLine (nib / 2048) a
    refine ⟨_, exec_atomicAdd hrun a b, ?_⟩
    rw [State.issueAdd_ordered ((State.ordered_congr hreads.strk).trans hord), s.readWellLine_snd _ ha, hreads.addlog]
    refine ⟨hreads.mem, by rw [State.setWell_well], fun hclean => ?_⟩
    rw [s.readWellLine_ecc _ ha, hclean]
    exact ⟨rfl, State.setWell_well _ _ _⟩
  · exact ⟨_, exec_add hstart hf hsp hreach, moverBusy_of_movers m (State.movers_runAdd _ m d)⟩
  · obtain ⟨l, e⟩ := State.runAdd_plain (s := s.setMover m 1) (m := m) hplaces
    obtain ⟨honly, hlines⟩ := add_stores (s := s.setMover m 1) (m := m) hplaces hapart hfrom hord
    refine ⟨_, exec_add hstart hf hsp hreach, ?_⟩
    rw [e]
    refine ⟨honly, fun r i hri => ?_⟩
    obtain ⟨hlt, hsrc, hdst⟩ := number_of_inDesc hri
    rw [← hsrc, ← hdst]
    exact hlines _ hlt
  · obtain ⟨l, e⟩ := State.runAdd_plain (s := s.setMover m 1) (m := m) hplaces
    refine ⟨_, exec_add hstart hf hsp hreach, ?_⟩
    rw [e]
    exact add_records (s := s.setMover m 1) hord

end Sys2Proof.Proofs
end

section
/-! PROOF. Stack controllers (R223 to R226, R261): what a scrub's read meets, counts and reports, and what refresh counts. -/
namespace Sys2Proof.Machine
open Sys2Proof.Claims

section
variable (s : State) {k p : Nat}

theorem State.stack_raiseStack (k i : Nat) : (s.raiseStack k i).stack k = { s.stack k with err := (s.stack k).err.raise i } := by
  obtain ⟨c, h, o, e⟩ := s.raiseStack_frame k i
  have hstack : (s.raiseStack k i).stack k = (s.modStack k fun x => { x with err := x.err.raise i }).stack k := by
    rw [e]
    rfl
  rw [hstack, State.modStack_eq, State.setStack_stack]

/-- What the stack of a page keeps of a read (R224, R261). -/
def Stack.afterRead (x : Stack) (page line : Nat) (e : EccResult) : Stack :=
  match e with
  | .clean => x
  | .corrected => { x with ce := satAdd x.ce 1 }
  | .uncorrectable => { x with err := x.err.raise 0, errPage := BitVec.ofNat 13 page, errLine := BitVec.ofNat 18 line }

theorem State.stack_eccStack (hp : p < 6144) (line : Nat) (e : EccResult) :
    (s.eccStack (6144 * k + p) line e).stack k = (s.stack k).afterRead p line e := by
  have hdiv : (6144 * k + p) / 6144 = k := by omega
  have hmod : (6144 * k + p) % 6144 = p := by omega
  unfold State.eccStack
  rw [hdiv, hmod]
  cases e with
  | clean => rfl
  | corrected => exact (congrArg (State.stack · k) (s.modStack_eq k _)).trans (State.setStack_stack _ _ _)
  | uncorrectable =>
    dsimp only
    rw [State.stack_raiseStack, State.modStack_eq, State.setStack_stack]
    rfl

/-- After a read that meets `e`: a corrected line's error is gone once the scrub has written it anew (R225). -/
def State.rewritten (a : Nat) (e : EccResult) : State := if e = .corrected then { s with upset := sset (fun _ => .clean) s.upset a .clean } else s

theorem State.eccOf_rewritten (a : Nat) (e : EccResult) (b : Nat) :
    (s.rewritten a e).eccOf b = if b = a ∧ e = .corrected then .clean else s.eccOf b := by
  unfold State.rewritten
  split
  · rename_i he
    rw [State.eccOf, sget_sset_if]
    simp [he, State.eccOf]
  · rename_i he
    simp [he]

theorem exec_patrolScrub (hlive : s.live = true) (hk : k < 12) (hp : p < 6144) {l : Nat} (hl : l < pageLines) (x : EccResult) :
    exec (.patrolScrub k p l x) s = .next (((s.addUpset (t2At (6144 * k + p) (72 * l)) x).eccStack (6144 * k + p) l
      ((s.addUpset (t2At (6144 * k + p) (72 * l)) x).eccOf (t2At (6144 * k + p) (72 * l)))).rewritten (t2At (6144 * k + p) (72 * l))
      ((s.addUpset (t2At (6144 * k + p) (72 * l)) x).eccOf (t2At (6144 * k + p) (72 * l)))) := by
  have he : exec (.patrolScrub k p l x) s = execPatrolScrub k p l x s := rfl
  have hstack : ¬ stackCount ≤ k := by unfold stackCount; omega
  have hrange : ¬ (!s.live || decide (6144 ≤ p) || decide (pageLines ≤ l)) = true := by simp [hlive, hp, hl]
  rw [he, execPatrolScrub, if_neg hstack, if_neg hrange]
  rfl

theorem exec_patrolScrub_beyond (hk : k < 12) {l : Nat} (hl : pageLines ≤ l) (x : EccResult) :
    exec (.patrolScrub k p l x) s = .next s := by
  have he : exec (.patrolScrub k p l x) s = execPatrolScrub k p l x s := rfl
  have hstack : ¬ stackCount ≤ k := by unfold stackCount; omega
  rw [he, execPatrolScrub, if_neg hstack, if_pos (by simp [hl])]

theorem exec_stackRefresh (hlive : s.live = true) (hk : k < 12) (n : Nat) {v : Int} (hv : s.reading (144 + k) = some v) :
    exec (.stackRefresh k n) s = .next (s.setStack k { s.stack k with refwait := satAdd (s.stack k).refwait n, hot := decide (340 < v) }) := by
  have he : exec (.stackRefresh k n) s = execStackRefresh k n s := rfl
  have hstack : ¬ stackCount ≤ k := by unfold stackCount; omega
  rw [he, execStackRefresh, if_neg hstack, if_neg (by simp [hlive]), hv]
  rfl

end

end Sys2Proof.Machine

namespace Sys2Proof.Proofs
open Sys2Proof.Machine Sys2Proof.Claims

/-- Settles O21: a scrub's read is accounted for in its stack by `State.stack_eccStack` and rewrites a corrected line; memory stays. -/
theorem stackControllersReport : Obligations.StackControllersReport := by
  unfold Obligations.StackControllersReport
  intro s k p l hlive hk hp hl
  refine ⟨fun x => ?_, fun l' x hl' => exec_patrolScrub_beyond s hk hl' x,
    fun n v hv => ⟨_, exec_stackRefresh s hlive hk n hv, rfl, State.setStack_stack _ _ _⟩⟩
  have hexec := exec_patrolScrub s hlive hk hp hl x
  generalize t2At (6144 * k + p) (72 * l) = a at hexec ⊢
  intro _ e
  have hecc : (s.addUpset a x).eccOf a = e := by rw [State.eccOf_addUpset, if_pos rfl]
  obtain ⟨u, hupset⟩ := s.addUpset_frame a x
  obtain ⟨r, h, o, c, hread⟩ := (s.addUpset a x).eccStack_frame (6144 * k + p) l e
  have heccRead : ∀ b, ((s.addUpset a x).eccStack (6144 * k + p) l e).eccOf b = (s.addUpset a x).eccOf b := fun b =>
    State.eccOf_congr (by rw [hread]) b
  have hstack : ((s.addUpset a x).eccStack (6144 * k + p) l e).stack k = (s.stack k).afterRead p l e := by
    rw [State.stack_eccStack _ hp, hupset]
    rfl
  rw [hecc] at hexec
  refine ⟨_, hexec, ?_, fun b hb => ?_, fun hx hclean => ?_, ?_, ?_⟩
  · unfold State.rewritten
    rw [hread, hupset]
    split <;> rfl
  · rw [State.eccOf_rewritten, if_neg fun h => hb h.1, heccRead, State.eccOf_addUpset, if_neg hb]
  · have hsame : s.addUpset a x = s := by rw [hx, State.addUpset, if_pos rfl]
    rw [hclean, hsame]
    rfl
  · rw [State.eccOf_rewritten, heccRead, hecc]
    exact if_congr (and_iff_right rfl) rfl rfl
  · have hkept : ∀ w : State, (w.rewritten a e).stack k = w.stack k := fun w => by
      unfold State.rewritten
      split <;> rfl
    rw [hkept, hstack]
    rfl

end Sys2Proof.Proofs
end

section
/-! PROOF. The page map and the messages of loans (R230, R231, R242 to R253): the records of a list, what a change of an entry leaves while no job runs, and how
the messages that make, fill and end loans follow from it. -/
namespace Sys2Proof.Machine
open Sys2Proof.Claims

/-! ### Records taken and sent (R317) -/

section
variable {s t : State}

theorem State.takeList_frame {kind sender lead n : Nat} {es : List (List Nat)} (h : s.takeList kind sender lead n es = some t) :
    ∃ i k, t = { s with inbox := i, links := k } := by
  induction n generalizing s es with
  | zero => exact ⟨_, _, (Option.some.inj h).symm⟩
  | succ n ih =>
    obtain ⟨u, hu, hrest⟩ := Option.bind_eq_some_iff.mp h
    obtain ⟨r, k, -, -, -, -, e⟩ := s.takeRecord_cases kind sender _ hu
    obtain ⟨i', k', e'⟩ := ih hrest
    exact ⟨i', k', by rw [e', e]⟩

theorem State.takeRecord_frame {kind sender : Nat} {items : List Nat} (h : s.takeRecord kind sender items = some t) :
    ∃ i k, t = { s with inbox := i, links := k } := by
  obtain ⟨r, k, -, -, -, -, e⟩ := s.takeRecord_cases kind sender items h
  exact ⟨_, k, e⟩

end

theorem State.page_congr {s t : State} (h : t.pmap = s.pmap) (i : Nat) : t.page i = s.page i := by rw [State.page, State.page, h]

/-! ### Lines of own pages (R224, R237, R247) -/

theorem lineIdx_lineAddr {page line : Nat} (hpage : page < 2 ^ 17) (hline : line < 2 ^ 18) : lineIdx (lineAddr page line) = page := by
  unfold lineIdx lineAddr
  omega

theorem lineFld_lineAddr {line : Nat} (page : Nat) (hline : line < 2 ^ 18) : lineFld (lineAddr page line) = line := by
  unfold lineFld lineAddr
  omega

/-- A home page that is pinned under the tag serves the line. -/
theorem State.homeLine_served {s : State} {page tag : Nat} (hkind : (s.page page).kind = 0) (hpinned : (s.page page).pinned = true)
    (htag : (s.page page).homeTag.toNat = tag) (idx line : Nat) :
    s.homeLine idx page tag line = ((s.readPage page line).1, readAs s (t2At page (72 * line))) := by
  unfold State.homeLine
  simp [hkind, hpinned, htag]
  rfl

/-- An IO mover delivers the line checked, and counts a failure (R237). -/
theorem State.verified_io (s : State) {mover : Nat} (h : 128 ≤ mover) (l : Line) :
    ∃ n, s.verified mover l = ({ s with loan := { s.loan with iomovchk := n } }, checkedLine l) := by
  unfold State.verified checkedLine
  split
  · exact ⟨s.loan.iomovchk, rfl⟩
  · exact ⟨_, if_neg (Nat.not_lt.mpr h)⟩

/-- A line of an unpinned line page is stored; page map and loans stay. -/
theorem State.t2Write_stores {s : State} {page line : Nat} (hidx : page < 73728) (hline : line < pageLines) (hkind : (s.page page).kind = 0)
    (hpinned : (s.page page).pinned = false) {l : Line} (hl : l.length = 72) (who : Writer) :
    StoresLine (t2At page (72 * line)) l s (s.t2Write (lineAddr page line) l who) ∧ (s.t2Write (lineAddr page line) l who).pmap = s.pmap
      ∧ (s.t2Write (lineAddr page line) l who).loan = s.loan := by
  have hpageLines : pageLines = 233016 := rfl
  have hstores := s.storesLine_writeBytes (t2At page (72 * line)) hl
  have hpmap := s.writeBytes_pmap (t2At page (72 * line)) (l.take 72)
  have hloan := s.writeBytes_loan (t2At page (72 * line)) (l.take 72)
  have e : s.t2Write (lineAddr page line) l who = (s.writeBytes (t2At page (72 * line)) (l.take 72)).markDirty page line := by
    unfold State.t2Write
    rw [lineIdx_lineAddr (by omega) (by omega), lineFld_lineAddr page (by omega)]
    simp [hkind, hpinned, Nat.not_le.mpr hidx, Nat.not_le.mpr hline]
  generalize s.writeBytes (t2At page (72 * line)) (l.take 72) = w at *
  obtain ⟨d, e'⟩ := w.markDirty_frame page line
  rw [e, e']
  exact ⟨hstores.congr rfl rfl rfl rfl, hpmap, hloan⟩

/-! ### Changes while no job runs (R231) -/

section
variable (s : State)

theorem State.page_setPage (i : Nat) (e : PageEntry) (j : Nat) : (s.setPage i e).page j = if j = i then e else s.page j := by
  split
  · rename_i h
    rw [h, State.setPage_page]
  · rename_i h
    exact State.setPage_page_other _ _ _ _ h

theorem State.changePage_idle {s : State} (h : s.strk.run = none) (i : Nat) (op : PageOp) : s.changePage i op = s.makeChange { index := i, op := op } := by
  rw [State.changePage, h]
  rfl

/-- Without changes that wait an entry is what it will be. -/
theorem State.pageDue_of_none {s : State} (h : s.pmapPending = []) (i : Nat) : s.pageDue i = s.page i := by rw [State.pageDue, h]; rfl

/-- Entries differ in their shadows alone. -/
def SameButShadow (x y : PageEntry) : Prop := ∃ h e, y = { x with shadow := h, shadowEn := e }

theorem SameButShadow.refl (x : PageEntry) : SameButShadow x x := ⟨_, _, rfl⟩

theorem SameButShadow.trans {x y z : PageEntry} (h : SameButShadow x y) (h' : SameButShadow y z) : SameButShadow x z := by
  obtain ⟨_, _, rfl⟩ := h
  obtain ⟨_, _, rfl⟩ := h'
  exact ⟨_, _, rfl⟩

theorem SameButShadow.state {x y : PageEntry} (h : SameButShadow x y) : y.state = x.state := by
  obtain ⟨_, _, rfl⟩ := h
  rfl

theorem SameButShadow.setPage {pg : Nat} {e : PageEntry} (h : SameButShadow (s.page pg) e) (i : Nat) : SameButShadow (s.page i) ((s.setPage pg e).page i) := by
  rw [State.page_setPage]
  split
  · rename_i hi
    rw [hi]
    exact h
  · exact .refl _

theorem State.page_unshadowHome (t3 i : Nat) : SameButShadow (s.page i) ((s.unshadowHome t3).page i) := by
  unfold State.unshadowHome
  split
  · split
    · exact .setPage s ⟨_, _, rfl⟩ i
    · exact .refl _
  · exact .refl _

theorem State.page_shadowHome (t3 i : Nat) : SameButShadow (s.page i) ((s.shadowHome t3).page i) := by
  unfold State.shadowHome
  split
  · exact .setPage s ⟨_, _, rfl⟩ i
  · exact .refl _

/-! ### Loans granted and filled: the lender's pages (R244, R245) -/

theorem State.awaitLines_frame (w : ReadWait) (page tag : Nat) :
    ∃ k, s.awaitLines w page tag = { s with loan := { s.loan with reads := s.loan.reads ++ [w] }, links := k } :=
  State.sendRecord_frame { s with loan := { s.loan with reads := s.loan.reads ++ [w] } } _ _ _ _

theorem State.fillFrom_frame (g : Granted) (first fuel : Nat) : ∃ r k, s.fillFrom g first fuel = { s with loan := { s.loan with reads := r }, links := k } := by
  induction fuel generalizing s first with
  | zero => exact ⟨_, _, rfl⟩
  | succ fuel ih =>
    unfold State.fillFrom
    split
    · exact ⟨_, _, rfl⟩
    · dsimp only
      generalize ReadWait.mk _ _ _ _ _ _ _ _ = w
      obtain ⟨k, e⟩ := s.awaitLines_frame w g.homePage g.homeTag
      rw [e]
      obtain ⟨r', k', e'⟩ := ih _ (first + min 4096 (pageLines - first))
      exact ⟨r', k', e'⟩

theorem State.startFill_frame (page tag : Nat) : ∃ r k, s.startFill page tag = { s with loan := { s.loan with reads := r }, links := k } := by
  unfold State.startFill
  split
  · split
    · exact ⟨_, _, rfl⟩
    · exact s.fillFrom_frame _ 0 58
  · exact ⟨_, _, rfl⟩

/-- A page is lent: its entry carries LENT and the tag, and its fill starts. -/
theorem State.makeChange_lend (page tag : Nat) :
    ∃ r k, s.makeChange { index := page, op := .lend tag }
      = { s.setPage page { s.page page with lent := true, loanTag := BitVec.ofNat 16 tag } with loan := { s.loan with reads := r }, links := k } :=
  (s.setPage page { s.page page with lent := true, loanTag := BitVec.ofNat 16 tag }).startFill_frame page tag

/-- The loan that a grant makes. -/
def State.newLoan (borrower : Nat) (p : LoanPage) (page : Nat) : Granted :=
  { peer := borrower, t3 := p.t3, page := page, tag := s.loan.tagSeq % 65536, homeRank := p.homeRank, homePage := p.homePage, homeTag := p.homeTag,
    filled := false, recalled := false }

theorem State.grantOne_idle {s : State} (h : s.strk.run = none) (borrower : Nat) (p : LoanPage) (page : Nat) :
    ∃ r k, s.grantOne borrower p page = { s.setPage page { s.page page with lent := true, loanTag := BitVec.ofNat 16 (s.loan.tagSeq % 65536) } with
      loan := { s.loan with granted := s.loan.granted ++ [s.newLoan borrower p page], tagSeq := s.loan.tagSeq + 1, reads := r }, links := k } := by
  unfold State.grantOne
  dsimp only
  rw [State.changePage_idle (by exact h)]
  exact State.makeChange_lend _ _ _

theorem State.grantOne_facts {s : State} (h : s.strk.run = none) (borrower : Nat) (p : LoanPage) (page : Nat) :
    (s.grantOne borrower p page).strk.run = none ∧ (s.grantOne borrower p page).mem = s.mem
      ∧ (s.grantOne borrower p page).loan.granted = s.loan.granted ++ [s.newLoan borrower p page]
      ∧ (s.grantOne borrower p page).loan.tagSeq = s.loan.tagSeq + 1
      ∧ ∀ i, (s.grantOne borrower p page).page i
          = if i = page then { s.page page with lent := true, loanTag := BitVec.ofNat 16 (s.loan.tagSeq % 65536) } else s.page i := by
  obtain ⟨r, k, e⟩ := State.grantOne_idle h borrower p page
  rw [e]
  exact ⟨h, rfl, rfl, rfl, s.page_setPage page _⟩

end

end Sys2Proof.Machine
end

section
/-! PROOF. Loans from the offer to the filled page (R242, R244, R245): what a list of grants leaves, what a list of entries filled leaves, and the copy of a
home page into a lent one. -/
namespace Sys2Proof.Machine
open Sys2Proof.Claims

/-! ### REQUEST at the lender (R244) -/

/-- What the grants of requested pages on lendable ones leave: each page lent under its tag, every other entry as it was. -/
structure Grants (borrower : Nat) (s : State) (pairs : List (LoanPage × Nat)) (t : State) : Prop where
  mem : t.mem = s.mem
  kept : ∀ g ∈ s.loan.granted, g ∈ t.loan.granted
  lent : ∀ k p pg, pairs[k]? = some (p, pg) → (∃ g ∈ t.loan.granted, grantedAs borrower p pg ((s.loan.tagSeq + k) % 65536) g)
    ∧ (t.page pg).lent = true ∧ (t.page pg).loanTag = BitVec.ofNat 16 (s.loan.tagSeq + k)
  others : ∀ i, i ∉ pairs.map Prod.snd → t.page i = s.page i

theorem grants_foldl {s : State} (h : s.strk.run = none) (borrower : Nat) {pairs : List (LoanPage × Nat)} (hnodup : (pairs.map Prod.snd).Nodup) :
    Grants borrower s pairs (pairs.foldl (fun s e => s.grantOne borrower e.1 e.2) s) := by
  induction pairs generalizing s with
  | nil => exact ⟨rfl, fun _ hg => hg, fun _ _ _ hk => by simp at hk, fun _ _ => rfl⟩
  | cons e rest ih =>
    obtain ⟨p, pg⟩ := e
    obtain ⟨hpg, hnodup⟩ := List.nodup_cons.mp hnodup
    obtain ⟨hrun, hmem, hgranted, htag, hpage⟩ := State.grantOne_facts h borrower p pg
    rw [List.foldl_cons]
    generalize s.grantOne borrower p pg = u at *
    obtain ⟨imem, ikept, ilent, iothers⟩ := ih hrun hnodup
    refine ⟨imem.trans hmem, fun g hg => ikept g (by rw [hgranted]; exact List.mem_append_left _ hg), fun k p' pg' hk => ?_, fun i hi => ?_⟩
    · cases k with
      | zero =>
        obtain ⟨rfl, rfl⟩ : p = p' ∧ pg = pg' := by simpa using hk
        refine ⟨⟨s.newLoan borrower p pg, ikept _ (by rw [hgranted]; simp), rfl, rfl, rfl, rfl, rfl, rfl⟩, ?_⟩
        rw [iothers pg hpg, hpage, if_pos rfl]
        exact ⟨rfl, BitVec.eq_of_toNat_eq (by simp)⟩
      | succ k =>
        have hk' := ilent k p' pg' (by simpa using hk)
        rw [htag, show s.loan.tagSeq + 1 + k = s.loan.tagSeq + (k + 1) by omega] at hk'
        exact hk'
    · obtain ⟨hne, hi⟩ : i ≠ pg ∧ i ∉ rest.map Prod.snd := by simpa using hi
      rw [iothers i hi, hpage, if_neg hne]

theorem map_snd_zip_initial {α β : Type} (l : List α) (l' : List β) : (l.zip l').map Prod.snd <+: l' := by
  induction l generalizing l' with
  | nil => simp
  | cons a l ih =>
    cases l' with
    | nil => simp
    | cons b l' => simpa using ih l'

section
variable {s u : State} {peer notice : Nat} {pages : List LoanPage}

/-- Pages whose homes are elsewhere are all pinned there: a lender grants as many as it offers and has. -/
theorem State.grants_grantPages (hrun : s.strk.run = none) {o : Offer} (hoffer : s.loan.offersOut.find? (fun o => o.rank = peer) = some o)
    (hnotice : o.notice ≤ notice) (hhome : ∀ p ∈ pages, p.homeRank ≠ s.grp.rank.toNat) (hnodup : s.boot.config.lendable.Nodup) :
    Grants peer s ((pages.take o.pages).zip s.lendable) (s.grantPages peer notice pages) := by
  have hpinnable : pages.filter s.pinnable = pages := List.filter_eq_self.mpr fun p hp => by simp [State.pinnable, hhome p hp]
  have hgrants := grants_foldl hrun peer (pairs := (pages.take o.pages).zip s.lendable) ((map_snd_zip_initial _ _).sublist.nodup (hnodup.filter _))
  have hroom : ¬ notice < o.notice := Nat.not_lt.mpr hnotice
  unfold State.grantPages
  simp only [hoffer, hpinnable, if_neg hroom]
  generalize ((pages.take o.pages).zip s.lendable).foldl (fun s e => s.grantOne peer e.1 e.2) s = t at *
  generalize List.map _ t.loan.offersOut = offers
  obtain ⟨k, e⟩ := State.sendList_frame { t with loan := { t.loan with offersOut := offers } } peer 0x32 0
    (recordsFor (grantsOf s.loan.tagSeq ((pages.take o.pages).zip s.lendable)).length)
    ((grantsOf s.loan.tagSeq ((pages.take o.pages).zip s.lendable)).map grantItems)
  rw [e]
  exact ⟨hgrants.mem, hgrants.kept, hgrants.lent, hgrants.others⟩

/-- Outside any offer nothing is granted. -/
theorem State.grantPages_unoffered (hoffer : s.loan.offersOut.find? (fun o => o.rank = peer) = none) (notice : Nat) (pages : List LoanPage) :
    ∃ k, s.grantPages peer notice pages = { s with links := k } := by
  have hnone : ∀ q ∈ s.loan.offersOut, q.rank ≠ peer := by simpa using List.find?_eq_none.mp hoffer
  have hoffers : s.loan.offersOut.map (fun q => if q.rank = peer then { q with pages := q.pages - 0 } else q) = s.loan.offersOut :=
    (List.map_congr_left fun q hq => if_neg (hnone q hq)).trans (List.map_id _)
  unfold State.grantPages
  simp only [hoffer, List.take_zero, List.zip_nil_left, List.foldl_nil, List.length_nil, hoffers]
  exact s.sendList_frame _ _ _ _ _

/-! ### REQUEST at the home module (R245) -/

/-- The home pages among the requested ones are pinned. -/
def State.pinHomes (s : State) (borrower : Nat) (pages : List LoanPage) : State :=
  if s.boot.life = .operational then pages.foldl (fun s p => s.pinHome borrower p) s else s

theorem State.pinHome_frame (s : State) (borrower : Nat) (p : LoanPage) :
    ∃ m w q, s.pinHome borrower p = { s with pmap := m, pmapPending := w, loan := { s.loan with pins := q } } := by
  unfold State.pinHome
  split
  · obtain ⟨m, w, e⟩ := s.changePage_frame p.homePage (.pin p.homeTag) (by simp) (by simp)
    rw [e]
    exact ⟨_, _, _, rfl⟩
  · exact ⟨_, _, _, rfl⟩

theorem State.pinHomes_frame (s : State) (borrower : Nat) (pages : List LoanPage) :
    ∃ m w q, s.pinHomes borrower pages = { s with pmap := m, pmapPending := w, loan := { s.loan with pins := q } } := by
  unfold State.pinHomes
  split
  · refine foldl_keeps (fun t => ∃ m w q, t = { s with pmap := m, pmapPending := w, loan := { s.loan with pins := q } }) _ _ s ?_ ⟨_, _, _, rfl⟩
    rintro _ p ⟨m, w, q, rfl⟩
    obtain ⟨m', w', q', e⟩ := State.pinHome_frame { s with pmap := m, pmapPending := w, loan := { s.loan with pins := q } } borrower p
    exact ⟨m', w', q', e⟩
  · exact ⟨_, _, _, rfl⟩

/-- Pages whose homes are elsewhere are none of this module's concern. -/
theorem State.pinHomes_elsewhere (h : ∀ p ∈ pages, p.homeRank ≠ s.grp.rank.toNat) : s.pinHomes peer pages = s := by
  unfold State.pinHomes
  split
  · exact List.foldlRecOn (motive := fun t => t = s) pages _ rfl fun t ht p hp => by subst ht; simp [State.pinHome, h p hp]
  · rfl

/-- A home page that can be pinned is pinned under the request's tag, for the borrower's index. -/
theorem State.pinHomes_own (hrun : s.strk.run = none) {p : LoanPage} (hrank : p.homeRank = s.grp.rank.toNat) (hlife : s.boot.life = .operational)
    (hcan : s.canPin p.homePage = true) (hpin : (s.page p.homePage).pinned = false) :
    (s.pinHomes peer [p]).page p.homePage = { s.page p.homePage with pinned := true, homeTag := BitVec.ofNat 16 p.homeTag }
      ∧ (p.homePage, peer, p.t3) ∈ (s.pinHomes peer [p]).loan.pins := by
  have hpinnable : s.pinnable p = true := by simp [State.pinnable, hcan]
  have hpins : s.pinHomes peer [p] = s.pinHome peer p := by rw [State.pinHomes, if_pos hlife]; rfl
  have hchange : s.changePage p.homePage (.pin p.homeTag) = s.setPage p.homePage ((s.page p.homePage).apply (.pin p.homeTag)) := State.changePage_idle hrun _ _
  rw [hpins, State.pinHome, if_pos (by simp [hrank, hpinnable]), hchange]
  refine ⟨(s.setPage_page p.homePage _).trans ?_, by simp⟩
  rw [PageEntry.apply, hpin]
  rfl

theorem exec_request (h : s.takeList 0x31 peer notice (recordsFor pages.length) (pages.map requestItems) = some u) :
    exec (.request peer notice pages) s = .next (if notice = 0 then u.pinHomes peer pages else (u.pinHomes peer pages).grantPages peer notice pages) := by
  have he : exec (.request peer notice pages) s = execRequest peer notice pages s := rfl
  rw [he, execRequest, h]
  rfl

end

/-! ### GRANT at the borrower (R244) -/

/-- One page of a GRANT. -/
def State.takeGrant (s : State) (sender : Nat) (g : LoanGrant) : State :=
  let e := s.pageDue g.t3
  if 73728 ≤ g.t3 && g.t3 < 131072 && e.kind = 2 && e.state = 1 && e.lenderRank.toNat = sender then
    let h : Granted := { peer := sender, t3 := g.t3, page := g.page, tag := g.tag, homeRank := e.homeRank.toNat, homePage := e.homePage.toNat,
                         homeTag := e.homeTag.toNat, filled := false, recalled := false }
    ({ s with loan := { s.loan with held := s.loan.held ++ [h] } }).changePage g.t3 (.granted g.page g.tag)
  else s

theorem exec_grant {s u : State} {peer : Nat} {pages : List LoanGrant} (h : s.takeList 0x32 peer 0 (recordsFor pages.length) (pages.map grantItems) = some u) :
    exec (.grant peer pages) s = .next ((pages.foldl (fun s g => s.takeGrant peer g) u).answerRequest peer pages.length) := by
  have he : exec (.grant peer pages) s = execGrant peer pages s := rfl
  rw [he, execGrant, h]
  rfl

/-- An entry waits for a page of the sender. -/
def AwaitsGrant (s : State) (sender t3 : Nat) : Prop :=
  73728 ≤ t3 ∧ t3 < 131072 ∧ (s.page t3).kind = 2 ∧ (s.page t3).state = 1 ∧ (s.page t3).lenderRank.toNat = sender

/-- The same entries wait, nothing else has come but loans: what pages of a GRANT leave besides the entries they name. -/
structure TakesGrants (s t : State) (named : List Nat) : Prop where
  mem : t.mem = s.mem
  run : t.strk.run = s.strk.run
  pending : t.pmapPending = s.pmapPending
  held : ∀ g ∈ s.loan.held, g ∈ t.loan.held
  others : ∀ i, i ∉ named → t.page i = s.page i

theorem State.takeGrant_cases {s : State} (hrun : s.strk.run = none) (hpending : s.pmapPending = []) (sender : Nat) (g : LoanGrant) :
    TakesGrants s (s.takeGrant sender g) [g.t3] ∧ (AwaitsGrant s sender g.t3 →
      (s.takeGrant sender g).page g.t3 = { s.page g.t3 with lenderPage := BitVec.ofNat 17 g.page, loanTag := BitVec.ofNat 16 g.tag }
        ∧ borrows (s.takeGrant sender g) sender g.t3) := by
  unfold State.takeGrant
  rw [State.pageDue_of_none hpending]
  dsimp only
  split
  · rename_i hif
    simp only [Bool.and_eq_true, decide_eq_true_eq] at hif
    obtain ⟨⟨⟨-, hkind⟩, hstate⟩, -⟩ := hif
    rw [State.changePage_idle (by exact hrun)]
    refine ⟨⟨rfl, rfl, rfl, fun x hx => List.mem_append_left _ hx, fun i hi => State.setPage_page_other _ _ _ _ (by simpa using hi)⟩,
      fun _ => ⟨(State.setPage_page _ _ _).trans ?_, ?_⟩⟩
    · exact if_pos (Bool.and_eq_true_iff.mpr ⟨decide_eq_true hkind, decide_eq_true hstate⟩)
    · simp [borrows, State.makeChange]
  · rename_i hif
    refine ⟨⟨rfl, rfl, rfl, fun _ hx => hx, fun _ _ => rfl⟩, fun hw => absurd ?_ hif⟩
    obtain ⟨hlo, hhi, hkind, hstate, hsender⟩ := hw
    simp [hlo, hhi, hkind, hstate, hsender]

theorem takeGrants_foldl {s : State} (hrun : s.strk.run = none) (hpending : s.pmapPending = []) (sender : Nat) {pages : List LoanGrant}
    (hnodup : (pages.map (·.t3)).Nodup) :
    TakesGrants s (pages.foldl (fun s g => s.takeGrant sender g) s) (pages.map (·.t3)) ∧ ∀ g ∈ pages, AwaitsGrant s sender g.t3 →
      (pages.foldl (fun s g => s.takeGrant sender g) s).page g.t3
          = { s.page g.t3 with lenderPage := BitVec.ofNat 17 g.page, loanTag := BitVec.ofNat 16 g.tag }
        ∧ borrows (pages.foldl (fun s g => s.takeGrant sender g) s) sender g.t3 := by
  induction pages generalizing s with
  | nil => exact ⟨⟨rfl, rfl, rfl, fun _ hx => hx, fun _ _ => rfl⟩, fun _ hg => absurd hg List.not_mem_nil⟩
  | cons g rest ih =>
    obtain ⟨hg, hnodup⟩ := List.nodup_cons.mp hnodup
    obtain ⟨⟨hmem, hrun', hpend', hheld, hothers⟩, htaken⟩ := State.takeGrant_cases hrun hpending sender g
    rw [List.foldl_cons]
    generalize s.takeGrant sender g = u at *
    obtain ⟨⟨imem, irun, ipend, iheld, iothers⟩, itaken⟩ := ih (hrun'.trans hrun) (hpend'.trans hpending) hnodup
    generalize rest.foldl (fun s g => s.takeGrant sender g) u = t at *
    refine ⟨⟨imem.trans hmem, irun.trans hrun', ipend.trans hpend', fun x hx => iheld x (hheld x hx), fun i hi => ?_⟩, fun x hx hwait => ?_⟩
    · obtain ⟨hne, hi⟩ : i ≠ g.t3 ∧ i ∉ rest.map (·.t3) := by simpa using hi
      exact (iothers i hi).trans (hothers i (by simpa using hne))
    · rcases List.mem_cons.mp hx with rfl | hx
      · obtain ⟨hpage, hborrows⟩ := htaken hwait
        refine ⟨(iothers _ hg).trans hpage, ?_⟩
        obtain ⟨y, hy, hyp⟩ := List.any_eq_true.mp hborrows
        exact List.any_eq_true.mpr ⟨y, iheld y hy, hyp⟩
      · have hne : x.t3 ≠ g.t3 := fun h => hg (List.mem_map.mpr ⟨x, hx, h⟩)
        have hsame : u.page x.t3 = s.page x.t3 := hothers _ (by simpa using hne)
        have hx' := itaken x hx (by rw [AwaitsGrant, hsame]; exact hwait)
        rw [hsame] at hx'
        exact hx'

theorem State.answerRequest_frame (s : State) (lender n : Nat) : ∃ c, s.answerRequest lender n = { s with scr := c } := by
  unfold State.answerRequest State.answerWait
  split
  · rename_i c _
    obtain ⟨f, a, m, e⟩ := State.answerCmd_frame { s with scr := { s.scr with wait := s.scr.wait.erase c } } c 0 [w32 n] []
    exact ⟨_, e⟩
  · exact ⟨_, rfl⟩

/-! ### FILLED at the borrower (R245) -/

/-- One entry of FILLED. -/
def State.takeFilled (s : State) (sender i : Nat) : State :=
  if s.loan.held.any fun g => g.peer = sender && g.t3 = i then
    ({ s with loan := { s.loan with held := s.loan.held.map fun (g : Granted) => if g.t3 = i then { g with filled := true } else g } }).changePage i .loaned
  else s

theorem exec_filled {s u : State} {peer : Nat} {t3 : List Nat} (h : s.takeList 0x33 peer 0 (recordsFor t3.length) (t3.map fun i => [i]) = some u) :
    exec (.filled peer t3) s = .next (t3.foldl (fun s i => s.takeFilled peer i) u) := by
  have he : exec (.filled peer t3) s = execFilled peer t3 s := rfl
  rw [he, execFilled, h]
  rfl

/-- What entries of FILLED leave: the entries that they do not name keep all but a shadow, LOANED entries stay so, and no shadow ends. -/
structure TakesFilled (sender : Nat) (s t : State) (named : List Nat) : Prop where
  mem : t.mem = s.mem
  run : t.strk.run = s.strk.run
  grp : t.grp = s.grp
  held : ∀ i, borrows t sender i ↔ borrows s sender i
  others : ∀ i, i ∉ named → SameButShadow (s.page i) (t.page i)
  loaned : ∀ i, (s.page i).state = 2 → (t.page i).state = 2
  shadows : ∀ i, (s.page i).shadowEn = true → (t.page i).shadowEn = true

/-- An entry is LOANED, and its home page, where it is an own one, is shadowed. -/
def LoanedEntry (s : State) (i : Nat) (home : Option Nat) : Prop := (s.page i).state = 2 ∧ ∀ pg, home = some pg → (s.page pg).shadowEn = true

theorem State.ownHome_congr {s t : State} (hgrp : t.grp = s.grp) {i : Nat} (h : SameButShadow (s.page i) (t.page i)) : t.ownHome i = s.ownHome i := by
  obtain ⟨_, _, e⟩ := h
  unfold State.ownHome
  rw [e, hgrp]

theorem State.shadowHome_shadowEn {s : State} {t3 : Nat} : (∀ i, (s.page i).shadowEn = true → ((s.shadowHome t3).page i).shadowEn = true)
    ∧ ∀ pg, s.ownHome t3 = some pg → ((s.shadowHome t3).page pg).shadowEn = true := by
  unfold State.shadowHome
  split
  · rename_i pg hpg
    refine ⟨fun i hi => ?_, fun q hq => ?_⟩
    · rw [State.page_setPage]
      split
      · rfl
      · exact hi
    · obtain rfl : pg = q := by simpa [hpg] using hq
      rw [State.setPage_page]
      rfl
  · rename_i hnone
    exact ⟨fun _ hi => hi, fun pg hpg => absurd hpg (by simp [hnone])⟩

/-- The change that makes a FILLING entry LOANED. -/
theorem State.makeChange_loaned {s : State} {i : Nat} (h : (s.page i).state = 1) :
    s.makeChange { index := i, op := .loaned } = (s.setPage i { s.page i with state := 2 }).shadowHome i := by
  have happly : (s.page i).apply .loaned = { s.page i with state := 2 } := if_pos h
  rw [← happly]
  exact if_pos h

theorem State.makeChange_loaned_otherwise {s : State} {i : Nat} (h : (s.page i).state ≠ 1) : s.makeChange { index := i, op := .loaned } = s := if_neg h

theorem TakesFilled.refl (sender : Nat) (s : State) (named : List Nat) : TakesFilled sender s s named :=
  ⟨rfl, rfl, rfl, fun _ => .rfl, fun _ _ => .refl _, fun _ h => h, fun _ h => h⟩

theorem TakesFilled.trans {sender : Nat} {s t u : State} {l l' : List Nat} (h : TakesFilled sender s t l) (h' : TakesFilled sender t u l') :
    TakesFilled sender s u (l ++ l') where
  mem := h'.mem.trans h.mem
  run := h'.run.trans h.run
  grp := h'.grp.trans h.grp
  held i := (h'.held i).trans (h.held i)
  others i hi := (h.others i fun hm => hi (List.mem_append_left _ hm)).trans (h'.others i fun hm => hi (List.mem_append_right _ hm))
  loaned i hi := h'.loaned i (h.loaned i hi)
  shadows i hi := h'.shadows i (h.shadows i hi)

theorem takesFilled_loaned (s : State) (sender i : Nat) :
    TakesFilled sender s ((s.setPage i { s.page i with state := 2 }).shadowHome i) [i]
      ∧ LoanedEntry ((s.setPage i { s.page i with state := 2 }).shadowHome i) i (s.ownHome i) := by
  have hset := s.page_setPage i { s.page i with state := 2 }
  have hhome : (s.setPage i { s.page i with state := 2 }).ownHome i = s.ownHome i := by unfold State.ownHome; rw [hset, if_pos rfl]; rfl
  obtain ⟨hkeep, hown⟩ := State.shadowHome_shadowEn (s := s.setPage i { s.page i with state := 2 }) (t3 := i)
  have hsame := (s.setPage i { s.page i with state := 2 }).page_shadowHome i
  obtain ⟨m, e⟩ := (s.setPage i { s.page i with state := 2 }).shadowHome_frame i
  refine ⟨⟨by rw [e]; rfl, by rw [e]; rfl, by rw [e]; rfl, fun j => by rw [e]; exact .rfl, fun j hj => ?_, fun j hj => ?_, fun j hj => hkeep j ?_⟩, ?_, ?_⟩
  · have hj' := hsame j
    rwa [hset, if_neg (by simpa using hj)] at hj'
  · rw [(hsame j).state, hset]
    split
    · rfl
    · exact hj
  · rw [hset]
    split
    · rename_i hji
      rw [← hji]
      exact hj
    · exact hj
  · rw [(hsame i).state, hset, if_pos rfl]
  · exact fun pg hpg => hown pg (hhome.trans hpg)

theorem State.takeFilled_facts {s : State} (hrun : s.strk.run = none) (sender i : Nat) : TakesFilled sender s (s.takeFilled sender i) [i]
    ∧ (borrows s sender i → (s.page i).state = 1 → LoanedEntry (s.takeFilled sender i) i (s.ownHome i)) := by
  unfold State.takeFilled
  split
  · rw [State.changePage_idle (by exact hrun)]
    have hheld : ∀ j, borrows { s with loan := { s.loan with held := s.loan.held.map fun g => if g.t3 = i then { g with filled := true } else g } } sender j
        ↔ borrows s sender j := fun j => by
      simp only [borrows, List.any_map]
      refine iff_of_eq (congrArg (· = true) (congrArg _ (funext fun g => ?_)))
      by_cases hg : g.t3 = i <;> simp [hg]
    generalize s.loan.held.map _ = held at *
    have hu : TakesFilled sender s { s with loan := { s.loan with held := held } } [] :=
      ⟨rfl, rfl, rfl, hheld, fun _ _ => .refl _, fun _ h => h, fun _ h => h⟩
    by_cases hstate : (s.page i).state = 1
    · rw [State.makeChange_loaned (by exact hstate)]
      obtain ⟨htakes, hloaned⟩ := takesFilled_loaned { s with loan := { s.loan with held := held } } sender i
      exact ⟨hu.trans htakes, fun _ _ => hloaned⟩
    · rw [State.makeChange_loaned_otherwise (by exact hstate)]
      exact ⟨hu.trans (.refl _ _ [i]), fun _ h => absurd h hstate⟩
  · rename_i hnone
    exact ⟨.refl _ _ _, fun h => absurd h hnone⟩

theorem takeFilled_foldl {s : State} (hrun : s.strk.run = none) (sender : Nat) (t3 : List Nat) :
    TakesFilled sender s (t3.foldl (fun s i => s.takeFilled sender i) s) t3 ∧ ∀ i ∈ t3, borrows s sender i → (s.page i).state = 1 →
      LoanedEntry (t3.foldl (fun s i => s.takeFilled sender i) s) i (s.ownHome i) := by
  induction t3 generalizing s with
  | nil => exact ⟨.refl _ _ _, fun _ hi => absurd hi List.not_mem_nil⟩
  | cons j rest ih =>
    obtain ⟨htakes, hloaned⟩ := State.takeFilled_facts hrun sender j
    rw [List.foldl_cons]
    generalize s.takeFilled sender j = u at *
    obtain ⟨irest, iloaned⟩ := ih (htakes.run.trans hrun)
    refine ⟨htakes.trans irest, fun i hi hborrows hstate => ?_⟩
    by_cases hij : i = j
    · subst hij
      obtain ⟨htwo, hshadow⟩ := hloaned hborrows hstate
      exact ⟨irest.loaned i htwo, fun pg hpg => irest.shadows pg (hshadow pg hpg)⟩
    · have hsame := htakes.others i (by simpa using hij)
      rw [← State.ownHome_congr htakes.grp hsame]
      exact iloaned i ((List.mem_cons.mp hi).resolve_left hij) ((htakes.held i).mpr hborrows) (hsame.state.trans hstate)

/-! ### LOAN_FILL_DONE: a home page of the lender itself is copied (R237, R245) -/

/-- One line of the copy. -/
def State.fillLine (s : State) (g : Granted) (line : Nat) : State :=
  let h := s.homeLine g.t3 g.homePage g.homeTag line
  let r := h.1.verified fillKey h.2
  r.1.t2Write (lineAddr g.page line) r.2 .host

theorem State.fillLocal_eq_foldl (s : State) (g : Granted) (line n : Nat) :
    s.fillLocal g line n = (List.range n).foldl (fun s k => s.fillLine g (line + k)) s := by
  induction n generalizing s line with
  | zero => rfl
  | succ n ih =>
    rw [List.range_succ_eq_map, List.foldl_cons, List.foldl_map]
    refine (ih _ (line + 1)).trans ?_
    have hnext : ∀ k, line + 1 + k = line + (k + 1) := fun k => by omega
    simp only [hnext]
    rfl

/-- What the copy of a page of this module into a lent one rests on, and keeps. -/
structure CanFill (g : Granted) (s : State) : Prop where
  idx : g.page < 73728
  kind : (s.page g.page).kind = 0
  unpinned : (s.page g.page).pinned = false
  homeKind : (s.page g.homePage).kind = 0
  homePinned : (s.page g.homePage).pinned = true
  homeTag : (s.page g.homePage).homeTag.toNat = g.homeTag

theorem CanFill.congr {g : Granted} {s t : State} (h : CanFill g s) (hpmap : t.pmap = s.pmap) : CanFill g t := by
  obtain ⟨hidx, hkind, hunpinned, hhomeKind, hhomePinned, hhomeTag⟩ := h
  rw [← State.page_congr hpmap] at hkind hunpinned hhomeKind hhomePinned hhomeTag
  exact ⟨hidx, hkind, hunpinned, hhomeKind, hhomePinned, hhomeTag⟩

/-- The page map and the loans granted are the same. -/
structure SameGrants (s t : State) : Prop where
  pmap : t.pmap = s.pmap
  granted : t.loan.granted = s.loan.granted

theorem SameGrants.refl (s : State) : SameGrants s s := ⟨rfl, rfl⟩

theorem SameGrants.trans {s t u : State} (h : SameGrants s t) (h' : SameGrants t u) : SameGrants s u :=
  ⟨h'.pmap.trans h.pmap, h'.granted.trans h.granted⟩

theorem State.fillLine_stores {s : State} {g : Granted} (h : CanFill g s) {line : Nat} (hline : line < pageLines) :
    SameGrants s (s.fillLine g line)
      ∧ StoresLine (t2At g.page (72 * line)) (checkedLine (readAs s (t2At g.homePage (72 * line)))) s (s.fillLine g line) := by
  have hlength := length_checkedLine (s.length_readAs (t2At g.homePage (72 * line)))
  have hread := State.homeLine_served h.homeKind h.homePinned h.homeTag g.t3 line
  have hu : ∃ u, (s.readPage g.homePage line).1 = u ∧ u.pmap = s.pmap ∧ u.mem = s.mem ∧ u.upset = s.upset ∧ u.loan = s.loan := by
    obtain ⟨k, o, p, c, e⟩ := s.readPage_frame g.homePage line
    exact ⟨_, e, rfl, rfl, rfl, rfl⟩
  obtain ⟨u, eu, hpmap, hmem, hupset, hloan⟩ := hu
  obtain ⟨n, ev⟩ := u.verified_io (mover := fillKey) (by decide) (readAs s (t2At g.homePage (72 * line)))
  rw [eu] at hread
  generalize readAs s (t2At g.homePage (72 * line)) = x at *
  have hpage := State.page_congr (s := s) (t := { u with loan := { u.loan with iomovchk := n } }) hpmap g.page
  obtain ⟨hstores, hpmap', hloan'⟩ := State.t2Write_stores (s := { u with loan := { u.loan with iomovchk := n } }) h.idx hline (hpage ▸ h.kind)
    (hpage ▸ h.unpinned) hlength .host
  have e : s.fillLine g line = State.t2Write { u with loan := { u.loan with iomovchk := n } } (lineAddr g.page line) (checkedLine x) .host := by
    rw [State.fillLine, hread, ev]
  rw [e]
  refine ⟨⟨hpmap'.trans hpmap, ?_⟩, hstores.congr hmem.symm hupset.symm rfl rfl⟩
  rw [hloan', ← hloan]

theorem State.fillLocal_fills {s : State} {g : Granted} (h : CanFill g s) (hne : g.page ≠ g.homePage) {n : Nat} (hn : n ≤ pageLines) :
    SameGrants s (s.fillLocal g 0 n)
      ∧ (∀ l, l < n → (s.fillLocal g 0 n).t2Line g.page l = checkedLine (readAs s (t2At g.homePage (72 * l))))
      ∧ ∀ x, x < t2At g.page 0 ∨ t2At g.page 0 + 72 * n ≤ x → memGet (s.fillLocal g 0 n).mem x = memGet s.mem x := by
  have hpage : pageLines = 233016 := rfl
  have hfold : s.fillLocal g 0 n = (List.range n).foldl (fun s l => s.fillLine g l) s := by simp only [State.fillLocal_eq_foldl, Nat.zero_add]
  have hmoves := foldl_movesLines checkedLine (SameGrants s) (.refl s) (s := s) (n := n) (src := fun l => t2At g.homePage (72 * l))
    (dst := fun l => t2At g.page (72 * l)) (F := fun s l => s.fillLine g l)
    (fun l hl t ht => by
      obtain ⟨hsame, hstores⟩ := State.fillLine_stores (h.congr ht.pmap) (Nat.lt_of_lt_of_le hl hn)
      exact ⟨ht.trans hsame, hstores⟩)
    (fun i hi j hj hij => by simp only [LinesApart, t2At]; omega) (fun i hi j hj => by simp only [LinesApart, t2At]; omega)
  rw [← hfold] at hmoves
  obtain ⟨hsame, hkept, hlines⟩ := hmoves
  exact ⟨hsame, hlines, hkept.memOutside fun l => by simp only [t2At]; omega⟩

theorem exec_loanFillDone {s : State} {peer : Nat} {g : Granted} (hlive : s.live = true)
    (h : (s.loan.granted.filter fun g => g.peer = peer && !g.filled && s.fillReady g) = [g]) (hrank : g.homeRank = s.grp.rank.toNat) {t : State}
    (ht : s.fillLocal g 0 pageLines = t) :
    ∃ v, exec (.loanFillDone peer) s = .next v ∧ v.mem = t.mem
      ∧ v.loan.granted = t.loan.granted.map fun x => if x = g then { x with filled := true } else x := by
  have he : exec (.loanFillDone peer) s = execLoanFillDone peer s := rfl
  rw [he, execLoanFillDone, hlive, h]
  simp only [Bool.not_true, Bool.false_eq_true, if_false, List.isEmpty_cons, List.foldl_cons, List.foldl_nil, if_pos hrank, ht, List.contains_cons,
    List.contains_nil, Bool.or_false, beq_iff_eq]
  obtain ⟨k, e⟩ := State.sendList_frame { t with loan := { t.loan with granted := t.loan.granted.map fun x => if x = g then { x with filled := true } else x } }
    peer 0x33 0 (recordsFor [g].length) ([g].map fun g => [g.t3])
  rw [e]
  exact ⟨_, rfl, rfl, rfl⟩

end Sys2Proof.Machine

namespace Sys2Proof.Proofs
open Sys2Proof.Machine Sys2Proof.Claims

/-- Settles O23: a grant changes the entry of one lendable page, a GRANT and a FILLED the entries that they name, and the copy of a home page
stores each checked line. -/
theorem loansAreGrantedAndFilled : Obligations.LoansAreGrantedAndFilled := by
  unfold Obligations.LoansAreGrantedAndFilled
  refine ⟨fun s u peer hrun hpending => ⟨?_, ?_, ?_, ?_, ?_⟩, ?_⟩
  · intro pages notice share htake
    have he : exec (.offer peer pages notice share) s = execOffer peer pages notice share s := rfl
    rw [he, execOffer, htake]
    refine ⟨_, rfl, rfl, ?_⟩
    have hothers : (u.loan.offersIn.filter fun o => o.rank ≠ peer).find? (fun o => o.rank = peer) = none := by
      rw [List.find?_eq_none]
      simp
    rw [List.find?_append, hothers]
    simp
  · intro notice pages o htake hoffer hnotice hzero hnodup hhome
    obtain ⟨i, k, rfl⟩ := State.takeList_frame htake
    rw [exec_request htake, if_neg hzero, State.pinHomes_elsewhere (by exact hhome)]
    obtain ⟨hmem, -, hlent, hothers⟩ := State.grants_grantPages (s := { s with inbox := i, links := k }) hrun hoffer hnotice hhome hnodup
    refine ⟨_, rfl, hmem, hlent, fun i hi => hothers i fun hmem => hi ((map_snd_zip_initial _ _).subset hmem)⟩
  · intro notice pages htake hoffer
    obtain ⟨i, k, rfl⟩ := State.takeList_frame htake
    have hgrant : ∃ l, exec (.request peer notice pages) s = .next { (State.pinHomes { s with inbox := i, links := k } peer pages) with links := l } := by
      rw [exec_request htake]
      split
      · exact ⟨_, rfl⟩
      · obtain ⟨m, w, q, e⟩ := State.pinHomes_frame { s with inbox := i, links := k } peer pages
        obtain ⟨l, e'⟩ := State.grantPages_unoffered (s := State.pinHomes { s with inbox := i, links := k } peer pages) (by rw [e]; exact hoffer) notice pages
        exact ⟨l, congrArg _ e'⟩
    obtain ⟨l, e⟩ := hgrant
    obtain ⟨m, w, q, ep⟩ := State.pinHomes_frame { s with inbox := i, links := k } peer pages
    refine ⟨_, e, by rw [ep], by rw [ep], fun hhome => ?_, ?_⟩
    · rw [State.pinHomes_elsewhere (by exact hhome)]
      exact ⟨rfl, rfl⟩
    · rintro p rfl hrank hlife hcan hpin
      exact State.pinHomes_own (s := { s with inbox := i, links := k }) hrun hrank hlife hcan hpin
  · intro pages htake hnodup
    obtain ⟨i, k, rfl⟩ := State.takeList_frame htake
    obtain ⟨⟨hmem, -, -, -, -⟩, hpages⟩ := takeGrants_foldl (s := { s with inbox := i, links := k }) hrun hpending peer hnodup
    rw [exec_grant htake]
    obtain ⟨c, e⟩ := State.answerRequest_frame (pages.foldl (fun s g => State.takeGrant s peer g) { s with inbox := i, links := k }) peer pages.length
    rw [e]
    exact ⟨_, rfl, hmem, fun g hg hlo hhi hkind hstate hlender => hpages g hg ⟨hlo, hhi, hkind, hstate, hlender⟩⟩
  · intro t3 htake
    obtain ⟨i, k, rfl⟩ := State.takeList_frame htake
    obtain ⟨htakes, hloaned⟩ := takeFilled_foldl (s := { s with inbox := i, links := k }) hrun peer t3
    rw [exec_filled htake]
    refine ⟨_, rfl, htakes.mem, fun j hj hborrows hstate => ?_⟩
    obtain ⟨htwo, hshadow⟩ := hloaned j hj hborrows hstate
    refine ⟨htwo, fun hlo hkind hrank hvalid => hshadow _ (if_pos ?_)⟩
    simp only [Bool.and_eq_true, decide_eq_true_eq]
    exact ⟨⟨⟨hlo, hkind⟩, hrank⟩, hvalid⟩
  · intro s peer g hlive htodo hrank hidx _ hne hkind hunpinned hhomeKind hhomeTag
    have hg : g ∈ s.loan.granted.filter fun g => g.peer = peer && !g.filled && s.fillReady g := htodo ▸ List.mem_singleton_self g
    obtain ⟨hmem, hready⟩ := List.mem_filter.mp hg
    have hpinned : (s.page g.homePage).pinned = true := by
      simp only [State.fillReady, hrank, if_pos, Bool.and_eq_true] at hready
      exact hready.2.2
    have hfills := State.fillLocal_fills ⟨hidx, hkind, hunpinned, hhomeKind, hpinned, hhomeTag⟩ hne (Nat.le_refl pageLines)
    generalize ht : s.fillLocal g 0 pageLines = t at hfills
    obtain ⟨hsame, hlines, hkept⟩ := hfills
    obtain ⟨v, e, hmem', hgranted⟩ := exec_loanFillDone hlive htodo hrank ht
    refine ⟨v, e, ?_, fun l hl => (readBytes_congr_mem hmem' _ _).trans (hlines l hl), fun x hx => by rw [hmem']; exact hkept x hx⟩
    exact hgranted ▸ List.mem_map.mpr ⟨g, hsame.granted ▸ hmem, if_pos rfl⟩

end Sys2Proof.Proofs
end

section
/-! PROOF. The end of loans (R249 to R253): the entries that a RECALL marks and switches, the pages that a lender takes back, and the home pages that no T3 index
names any longer. -/
namespace Sys2Proof.Machine
open Sys2Proof.Claims

/-! ### RECALL at the borrower (R249) -/

/-- An entry that is FILLING or LOANED becomes RECALLING. -/
def State.markRecalling (s : State) (i : Nat) : State :=
  if (s.page i).state = 1 || (s.page i).state = 2 then s.setPage i { s.page i with state := 3 } else s

/-- The named entries that this module borrows from the lender. -/
def State.recalled (s : State) (lender : Nat) (t3 : List Nat) : List Nat := t3.filter fun i => s.loan.held.any fun g => g.peer = lender && g.t3 = i

theorem mem_recalled {s : State} {lender i : Nat} {t3 : List Nat} : i ∈ s.recalled lender t3 ↔ i ∈ t3 ∧ borrows s lender i := List.mem_filter

/-- A RECALL noted: its flag, the entries and the record that waits for its notice. -/
def State.noteRecall (s : State) (lender notice : Nat) (t3 : List Nat) : State :=
  let u := (s.recalled lender t3).foldl State.markRecalling (s.raiseLoan 0 (t3.headD 0))
  { u with loan := { u.loan with recalls := u.loan.recalls ++ [{ lender := lender, t3 := s.recalled lender t3, wait := max 1 notice, unasked := false }] } }

/-- Which state an entry has after a RECALL that names some. -/
def recallState (named : List Nat) (i : Nat) (x : BitVec 3) : BitVec 3 := if i ∈ named ∧ (x = 1 ∨ x = 2) then 3 else x

theorem State.markRecalling_cases (s : State) (j : Nat) :
    ∃ m, s.markRecalling j = { s with pmap := m } ∧ ∀ i, ((s.markRecalling j).page i).state = recallState [j] i (s.page i).state := by
  unfold State.markRecalling
  split
  · rename_i h
    refine ⟨_, rfl, fun i => ?_⟩
    rw [State.page_setPage, recallState]
    by_cases hij : i = j
    · subst hij
      simpa using fun h1 h2 => absurd h (by simp [h1, h2])
    · simp [hij]
  · rename_i h
    refine ⟨_, rfl, fun i => ?_⟩
    rw [recallState, if_neg]
    rintro ⟨hij, hstate⟩
    rw [List.mem_singleton] at hij
    subst hij
    exact h (by simpa using hstate)

theorem recallState_cons (j i : Nat) (rest : List Nat) (x : BitVec 3) : recallState (j :: rest) i x = recallState rest i (recallState [j] i x) := by
  grind [recallState]

theorem State.markRecalling_foldl (s : State) (l : List Nat) :
    ∃ m, l.foldl State.markRecalling s = { s with pmap := m } ∧ ∀ i, ((l.foldl State.markRecalling s).page i).state = recallState l i (s.page i).state := by
  induction l generalizing s with
  | nil => exact ⟨s.pmap, rfl, fun i => by simp [recallState]⟩
  | cons j rest ih =>
    obtain ⟨m, e, hstate⟩ := s.markRecalling_cases j
    obtain ⟨m', e', hstate'⟩ := ih (s.markRecalling j)
    refine ⟨m', by rw [List.foldl_cons, e', e], fun i => ?_⟩
    rw [List.foldl_cons, hstate', hstate]
    exact (recallState_cons j i rest _).symm

theorem State.noteRecall_frame (s : State) (lender notice : Nat) (t3 : List Nat) :
    ∃ m h p i f, s.noteRecall lender notice t3 = { s with pmap := m, host := h, pcieOut := p, loan := { s.loan with
        err := s.loan.err.raise 0, errIndex := i, errFlag := f,
        recalls := s.loan.recalls ++ [{ lender := lender, t3 := s.recalled lender t3, wait := max 1 notice, unasked := false }] } }
      ∧ ∀ i, ((s.noteRecall lender notice t3).page i).state = recallState (s.recalled lender t3) i (s.page i).state := by
  obtain ⟨h, p, e⟩ := s.raiseLoan_frame 0 (t3.headD 0)
  obtain ⟨m, e', hstate⟩ := (s.raiseLoan 0 (t3.headD 0)).markRecalling_foldl (s.recalled lender t3)
  have hpage : ∀ i, (s.raiseLoan 0 (t3.headD 0)).page i = s.page i := fun i => by rw [e]; rfl
  refine ⟨m, h, p, BitVec.ofNat 17 (t3.headD 0), BitVec.ofNat 3 0, ?_, fun i => ?_⟩
  · unfold State.noteRecall
    rw [e', e]
  · rw [← hpage]
    exact hstate i

theorem exec_recall {s u : State} {peer notice : Nat} {t3 : List Nat}
    (h : s.takeList 0x34 peer notice (recordsFor t3.length) (t3.map fun i => [i]) = some u) :
    exec (.recall peer notice t3) s
      = .next (if (u.noteRecall peer notice t3).strk.run.isSome then u.noteRecall peer notice t3 else (u.noteRecall peer notice t3).pagesIdle) := by
  have he : exec (.recall peer notice t3) s = execRecall peer notice t3 s := rfl
  rw [he, execRecall, h]
  rfl

/-! ### Entries that switch to their home copies (R231, R249) -/

/-- One entry switches. -/
def State.switchHome (s : State) (i : Nat) : State := if (s.pageDue i).state = 0 || (s.pageDue i).state = 4 then s else s.changePage i .home

/-- Which state an entry has after some have switched. -/
def homeState (named : List Nat) (i : Nat) (x : BitVec 3) : BitVec 3 := if i ∈ named ∧ x ≠ 4 then 0 else x

theorem homeState_cons (j i : Nat) (rest : List Nat) (x : BitVec 3) : homeState (j :: rest) i x = homeState rest i (homeState [j] i x) := by
  grind [homeState]

theorem homeState_ne_three {named : List Nat} {i : Nat} (hi : i ∈ named) (x : BitVec 3) : homeState named i x ≠ 3 := by
  unfold homeState
  by_cases hx : x = 4
  · rw [if_neg fun h => h.2 hx, hx]
    decide
  · rw [if_pos ⟨hi, hx⟩]
    decide

/-- A recalled entry that switches is HOME, unless it was LOST. -/
theorem homeState_recallState {named : List Nat} {i : Nat} (hi : i ∈ named) (x : BitVec 3) :
    homeState named i (recallState named i x) = if x = 4 then 4 else 0 := by
  grind [homeState, recallState]

theorem State.switchHome_cases {s : State} (hrun : s.strk.run = none) (hpending : s.pmapPending = []) (j : Nat) :
    ∃ m, s.switchHome j = { s with pmap := m } ∧ ∀ i, ((s.switchHome j).page i).state = homeState [j] i (s.page i).state := by
  unfold State.switchHome
  rw [State.pageDue_of_none hpending]
  split
  · rename_i h
    refine ⟨s.pmap, rfl, fun i => ?_⟩
    rw [homeState]
    split
    · rename_i hij
      obtain ⟨hij, hne⟩ := hij
      rw [List.mem_singleton] at hij
      subst hij
      simp only [Bool.or_eq_true, decide_eq_true_eq] at h
      exact h.resolve_right hne
    · rfl
  · rename_i h
    rw [State.changePage_idle hrun]
    have hchange : s.makeChange { index := j, op := .home } = (s.unshadowHome j).setPage j { (s.unshadowHome j).page j with state := 0 } := rfl
    obtain ⟨m, e⟩ := s.unshadowHome_frame j
    rw [hchange]
    refine ⟨_, by rw [e]; rfl, fun i => ?_⟩
    rw [State.page_setPage, homeState]
    by_cases hij : i = j
    · subst hij
      have hne : (s.page i).state ≠ 4 := fun h4 => h (by simp [h4])
      rw [if_pos rfl, if_pos ⟨List.mem_singleton_self i, hne⟩]
    · rw [if_neg hij, if_neg (fun hin => hij (List.mem_singleton.mp hin.1))]
      exact (s.page_unshadowHome j i).state

theorem State.goHome_idle {s : State} (hrun : s.strk.run = none) (hpending : s.pmapPending = []) (l : List Nat) :
    ∃ m, s.goHome l = { s with pmap := m } ∧ ∀ i, ((s.goHome l).page i).state = homeState l i (s.page i).state := by
  have hfold : s.goHome l = l.foldl State.switchHome s := rfl
  rw [hfold]
  clear hfold
  induction l generalizing s with
  | nil => exact ⟨s.pmap, rfl, fun i => by simp [homeState]⟩
  | cons j rest ih =>
    obtain ⟨m, e, hstate⟩ := State.switchHome_cases hrun hpending j
    obtain ⟨m', e', hstate'⟩ := ih (s := s.switchHome j) (by rw [e]; exact hrun) (by rw [e]; exact hpending)
    refine ⟨m', by rw [List.foldl_cons, e', e], fun i => ?_⟩
    rw [List.foldl_cons, hstate', hstate]
    exact (homeState_cons j i rest _).symm

/-- A recall whose entries have all switched is finished: RELEASED is sent, and the loans are forgotten. -/
theorem State.finishRecalls_one {s : State} {r : RecallDue} (hrecalls : s.loan.recalls = [r]) (hswitched : s.switched r = true) (hasked : r.unasked = false) :
    ∃ k, s.finishRecalls = { s with links := k, loan := { s.loan with recalls := [], held := s.loan.held.filter fun g => !r.t3.contains g.t3 } } := by
  obtain ⟨k, e⟩ := State.sendList_frame { s with loan := { s.loan with recalls := [] } } r.lender 0x35 0 (recordsFor r.t3.length) (r.t3.map fun i => [i])
  refine ⟨k, ?_⟩
  unfold State.finishRecalls
  rw [hrecalls, List.foldl_cons, List.foldl_nil, if_pos hswitched]
  simp only [hrecalls, List.erase_cons_head, hasked, Bool.false_eq_true, if_false]
  rw [e]
  rfl

/-- With no job and no other recall, a recall takes effect at once. -/
theorem State.pagesIdle_one {s : State} {r : RecallDue} (hrun : s.strk.run = none) (hpending : s.pmapPending = []) (hrecalls : s.loan.recalls = [r])
    (hwait : r.wait ≠ 0) (hasked : r.unasked = false) :
    ∃ m k, s.pagesIdle = { s with pmap := m, links := k, loan := { s.loan with recalls := [], held := s.loan.held.filter fun g => !r.t3.contains g.t3 } }
      ∧ ∀ i, (s.pagesIdle.page i).state = homeState r.t3 i (s.page i).state := by
  obtain ⟨m, e, hstate⟩ := State.goHome_idle (s := { s with loan := { s.loan with recalls := [{ r with wait := 0 }] } }) hrun hpending r.t3
  have hidle : s.pagesIdle = (State.goHome { s with loan := { s.loan with recalls := [{ r with wait := 0 }] } } r.t3).finishRecalls := by
    have hdue : [r].filter (fun r => r.wait ≠ 0) = [r] := by simp [hwait]
    unfold State.pagesIdle
    simp only [hrecalls, hdue, List.map_cons, List.map_nil, List.foldl_cons, List.foldl_nil]
    rw [e]
    simp [State.dueChanges, hpending]
  have hswitched : (State.goHome { s with loan := { s.loan with recalls := [{ r with wait := 0 }] } } r.t3).switched { r with wait := 0 } = true := by
    simp only [State.switched, decide_true, Bool.true_and, List.all_eq_true]
    intro i hi
    have hpend : (State.goHome { s with loan := { s.loan with recalls := [{ r with wait := 0 }] } } r.t3).pmapPending = [] := by rw [e]; exact hpending
    rw [hstate, hpend, decide_eq_true (homeState_ne_three hi _)]
    rfl
  obtain ⟨k, ef⟩ := State.finishRecalls_one (by rw [e]) hswitched hasked
  rw [hidle, ef]
  refine ⟨m, k, by rw [e], fun i => hstate i⟩

/-! ### Pages taken back (R250) -/

/-- A byte lies on the page of one of some loans. -/
def OnPages (gs : List Granted) (x : Nat) : Prop := ∃ g ∈ gs, t2At g.page 0 ≤ x ∧ x < t2At g.page 0 + 72 * pageLines

theorem memGet_zeroPage (s : State) (page x : Nat) :
    memGet (s.zeroPage page).mem x = if t2At page 0 ≤ x ∧ x < t2At page 0 + 72 * pageLines then 0#8 else memGet s.mem x := by
  have h := sget_filter_key memDefault s.mem (fun a => a < t2At page 0 || t2At page 0 + 72 * pageLines ≤ a) x
  refine Eq.trans h ?_
  by_cases hx : t2At page 0 ≤ x ∧ x < t2At page 0 + 72 * pageLines
  · rw [if_pos hx, if_neg (by simp; omega)]
    rfl
  · rw [if_neg hx, if_pos (by simp; omega)]
    rfl

theorem sets_unlend_idle {s : State} (hrun : s.strk.run = none) (page : Nat) :
    s.changePage page .unlend = (s.setPage page { s.page page with lent := false }).zeroPage page := State.changePage_idle hrun _ _

theorem State.zeroPage_frame (s : State) (page : Nat) : ∃ m u, s.zeroPage page = { s with mem := m, upset := u } := ⟨_, _, rfl⟩

/-- Pages that are taken back are not lent and read zero; nothing else in memory changes. -/
theorem State.unlend_foldl {s : State} (hrun : s.strk.run = none) (gs : List Granted) :
    ∃ m u p, gs.foldl (fun s g => s.changePage g.page .unlend) s = { s with mem := m, upset := u, pmap := p }
      ∧ (∀ i, (s.page i).lent = false ∨ (∃ g ∈ gs, g.page = i) → (State.page { s with pmap := p } i).lent = false)
      ∧ (∀ x, OnPages gs x → memGet m x = 0#8) ∧ ∀ x, ¬ OnPages gs x → memGet m x = memGet s.mem x := by
  induction gs generalizing s with
  | nil =>
    refine ⟨s.mem, s.upset, s.pmap, rfl, fun i hi => hi.resolve_right fun ⟨g, hg, _⟩ => absurd hg List.not_mem_nil,
      fun x ⟨g, hg, _⟩ => absurd hg List.not_mem_nil,
      fun _ _ => rfl⟩
  | cons g rest ih =>
    have hget := memGet_zeroPage (s.setPage g.page { s.page g.page with lent := false }) g.page
    have hlent := s.page_setPage g.page { s.page g.page with lent := false }
    obtain ⟨m, u, e⟩ := (s.setPage g.page { s.page g.page with lent := false }).zeroPage_frame g.page
    obtain ⟨m', u', p', e', ilent, izero, ikept⟩ := ih (s := s.changePage g.page .unlend) (by rw [sets_unlend_idle hrun, e]; exact hrun)
    rw [sets_unlend_idle hrun, e] at e' ilent ikept
    rw [e] at hget
    rw [List.foldl_cons, sets_unlend_idle hrun, e]
    refine ⟨m', u', p', e', fun i hi => ilent i ?_, fun x hx => ?_, fun x hx => ?_⟩
    · by_cases hig : i = g.page
      · refine .inl ((congrArg PageEntry.lent (hlent i)).trans ?_)
        rw [if_pos hig]
      · rcases hi with hi | ⟨y, hy, hyi⟩
        · refine .inl ((congrArg PageEntry.lent (hlent i)).trans ?_)
          rw [if_neg hig]
          exact hi
        · refine .inr ⟨y, (List.mem_cons.mp hy).resolve_left fun hyg => hig ?_, hyi⟩
          rw [← hyi, hyg]
    · by_cases hrest : OnPages rest x
      · exact izero x hrest
      · obtain ⟨y, hy, hyx⟩ := hx
        have hyg : y = g := (List.mem_cons.mp hy).resolve_right fun hyr => hrest ⟨y, hyr, hyx⟩
        rw [ikept x hrest]
        refine (hget x).trans (if_pos ?_)
        rw [← hyg]
        exact hyx
    · rw [ikept x fun ⟨y, hy, hyx⟩ => hx ⟨y, List.mem_cons_of_mem g hy, hyx⟩]
      exact (hget x).trans (if_neg fun h => hx ⟨g, List.mem_cons_self, h⟩)

theorem State.releaseNext_eq {s : State} (h : s.mir.releaseStep ≠ 4) : s.releaseNext = s := by
  unfold State.releaseNext
  rw [if_neg (by simp [h])]

/-- What the lender's pages are once it has taken loans back, while no release waits for that. -/
theorem State.takeBack_ends {s : State} (hrun : s.strk.run = none) (hstep : s.mir.releaseStep ≠ 4) (gs : List Granted) :
    wipedPages s (s.takeBack gs).releaseNext gs ∧ takenBack (s.takeBack gs).releaseNext gs := by
  have hfold : ∃ r v, s.takeBack gs = gs.foldl (fun s g => s.changePage g.page .unlend)
      { s with loan := { s.loan with granted := s.loan.granted.filter fun g => !gs.contains g, reads := r, served := v } } := ⟨_, _, rfl⟩
  obtain ⟨r, v, e⟩ := hfold
  obtain ⟨m, u, p, e', hlent, hzero, hkept⟩ := State.unlend_foldl
    (s := { s with loan := { s.loan with granted := s.loan.granted.filter fun g => !gs.contains g, reads := r, served := v } }) hrun gs
  rw [e'] at e
  rw [State.releaseNext_eq (by rw [e]; exact hstep), e]
  refine ⟨⟨fun g hg b hb => hzero _ ⟨g, hg, ?_⟩, fun x hx => hkept x ?_⟩, fun g hg => ⟨?_, hlent _ (.inr ⟨g, hg, rfl⟩)⟩⟩
  · unfold t2At
    omega
  · rintro ⟨g, hg, hlo, hhi⟩
    have := hx g hg
    omega
  · simp [hg]

theorem exec_released {s u : State} {peer : Nat} {t3 : List Nat} (hfirst : s.readFirst peer t3 = false)
    (h : s.takeList 0x35 peer 0 (recordsFor t3.length) (t3.map fun i => [i]) = some u) :
    exec (.released peer t3) s = .next (u.takeBack (u.loansOf peer t3)).releaseNext := by
  have he : exec (.released peer t3) s = execReleased peer t3 s := rfl
  rw [he, execReleased, hfirst, h]
  rfl

theorem exec_return {s u : State} {peer : Nat} {t3 : List Nat} (h : s.takeList 0x36 peer 0 (recordsFor t3.length) (t3.map fun i => [i]) = some u) :
    exec (.return peer t3) s = .next (u.takeBack (u.loansOf peer t3)).releaseNext := by
  have he : exec (.return peer t3) s = execReturn peer t3 s := rfl
  rw [he, execReturn, h]
  rfl

theorem exec_recallTimeout {s : State} (hlive : s.live = true) (peer : Nat) :
    exec (.recallTimeout peer) s = .next (s.takeBack (s.loan.granted.filter fun g => g.peer = peer && g.recalled)).releaseNext := by
  have he : exec (.recallTimeout peer) s = execRecallTimeout peer s := rfl
  rw [he, execRecallTimeout, hlive]
  rfl

/-! ### Home pages that no T3 index names any longer (R251) -/

theorem mem_insertNat_of_mem {x y : Nat} {l : List Nat} (h : x ∈ l) : x ∈ insertNat y l := by
  induction l with
  | nil => exact absurd h List.not_mem_nil
  | cons z rest ih =>
    unfold insertNat
    split
    · exact List.mem_cons_of_mem y h
    · split
      · exact h
      · rcases List.mem_cons.mp h with rfl | hrest
        · exact List.mem_cons_self
        · exact List.mem_cons_of_mem z (ih hrest)

theorem mem_foldl_insertNat {α : Type} (f : α → Nat) {x : Nat} {l : List α} {acc : List Nat} (h : x ∈ acc ∨ ∃ a ∈ l, f a = x) :
    x ∈ l.foldl (fun acc a => insertNat (f a) acc) acc := by
  induction l generalizing acc with
  | nil => exact h.resolve_right fun ⟨_, ha, _⟩ => absurd ha List.not_mem_nil
  | cons a rest ih =>
    refine ih ?_
    rcases h with h | ⟨b, hb, rfl⟩
    · exact .inl (mem_insertNat_of_mem h)
    · rcases List.mem_cons.mp hb with rfl | hrest
      · exact .inl (mem_insertNat _ _)
      · exact .inr ⟨b, hrest, rfl⟩

/-- The pins that are left when indices of a borrower name their home pages no longer. -/
def State.pinsLeft (s : State) (borrower : Nat) (t3 : List Nat) : List (Nat × Nat × Nat) := s.loan.pins.filter fun p => !(p.2.1 = borrower && t3.contains p.2.2)

/-- A home page that no index names any longer is unpinned. -/
def State.unpinUnnamed (left : List (Nat × Nat × Nat)) (s : State) (page : Nat) : State := if left.any (fun p => p.1 = page) then s else s.changePage page .unpin

theorem State.unpinUnnamed_foldl {s : State} (hrun : s.strk.run = none) (left : List (Nat × Nat × Nat)) (pages : List Nat) :
    ∃ m, pages.foldl (State.unpinUnnamed left) s = { s with pmap := m }
      ∧ ∀ i, (s.page i).pinned = false ∨ (i ∈ pages ∧ left.any (fun p => p.1 = i) = false) →
        ((pages.foldl (State.unpinUnnamed left) s).page i).pinned = false := by
  induction pages generalizing s with
  | nil => exact ⟨s.pmap, rfl, fun i hi => hi.resolve_right fun h => absurd h.1 List.not_mem_nil⟩
  | cons j rest ih =>
    have hstep : ∃ m, s.unpinUnnamed left j = { s with pmap := m }
        ∧ ∀ i, (s.page i).pinned = false ∨ (i = j ∧ left.any (fun p => p.1 = i) = false) → ((State.unpinUnnamed left s j).page i).pinned = false := by
      unfold State.unpinUnnamed
      split
      · rename_i hany
        refine ⟨s.pmap, rfl, fun i hi => hi.resolve_right ?_⟩
        rintro ⟨rfl, hnone⟩
        rw [hnone] at hany
        cases hany
      · rw [State.changePage_idle hrun]
        refine ⟨_, rfl, fun i hi => ?_⟩
        have hset : s.makeChange { index := j, op := .unpin } = s.setPage j { s.page j with pinned := false } := rfl
        rw [hset, State.page_setPage]
        split
        · rfl
        · rename_i hij
          exact hi.resolve_right fun h => hij h.1
    obtain ⟨m, e, hunpinned⟩ := hstep
    obtain ⟨m', e', hunpinned'⟩ := ih (s := s.unpinUnnamed left j) (by rw [e]; exact hrun)
    refine ⟨m', by rw [List.foldl_cons, e', e], fun i hi => hunpinned' i ?_⟩
    rcases hi with hi | ⟨hi, hnone⟩
    · exact .inl (hunpinned i (.inl hi))
    · rcases List.mem_cons.mp hi with rfl | hrest
      · exact .inl (hunpinned i (.inr ⟨rfl, hnone⟩))
      · exact .inr ⟨hrest, hnone⟩

theorem State.dropPins_idle {s : State} (hrun : s.strk.run = none) (borrower : Nat) (t3 : List Nat) :
    ∃ m, s.dropPins borrower t3 = { s with pmap := m, loan := { s.loan with pins := s.pinsLeft borrower t3 } }
      ∧ ∀ p ∈ s.loan.pins, p.2.1 = borrower → p.2.2 ∈ t3 → (∀ q ∈ s.pinsLeft borrower t3, q.1 ≠ p.1) →
        ((s.dropPins borrower t3).page p.1).pinned = false := by
  obtain ⟨m, e, hunpinned⟩ := State.unpinUnnamed_foldl (s := { s with loan := { s.loan with pins := s.pinsLeft borrower t3 } }) hrun (s.pinsLeft borrower t3)
    ((s.loan.pins.filter fun p => p.2.1 = borrower && t3.contains p.2.2).foldl (fun l p => insertNat p.1 l) [])
  refine ⟨m, e, fun p hp hborrower hnamed hleft => hunpinned p.1 (.inr ⟨mem_foldl_insertNat _ (.inr ⟨p, ?_, rfl⟩), ?_⟩)⟩
  · simp [hp, hborrower, hnamed]
  · simpa using fun a b c h => hleft (a, b, c) h

theorem exec_return_names {s u : State} {peer : Nat} {t3 : List Nat} (h0 : s.takeList 0x36 peer 0 (recordsFor t3.length) (t3.map fun i => [i]) = none)
    (h : s.takeList 0x36 peer 1 (recordsFor t3.length) (t3.map fun i => [i]) = some u) : exec (.return peer t3) s = .next (u.dropPins peer t3) := by
  have he : exec (.return peer t3) s = execReturn peer t3 s := rfl
  rw [he, execReturn, h0]
  dsimp only
  rw [h]

end Sys2Proof.Machine

namespace Sys2Proof.Proofs
open Sys2Proof.Machine Sys2Proof.Claims

/-- Settles O24: a recall marks the entries that it names and switches them while no job runs; pages taken back are zeroed with the end of LENT. -/
theorem loansEndWithZeroedPages : Obligations.LoansEndWithZeroedPages := by
  unfold Obligations.LoansEndWithZeroedPages
  intro s u peer
  refine ⟨?_, ?_, ?_, ?_⟩
  · intro notice t3 htake hrun
    obtain ⟨i, k, rfl⟩ := State.takeList_frame htake
    obtain ⟨m, h, p, x, f, e, hstate⟩ := State.noteRecall_frame { s with inbox := i, links := k } peer notice t3
    rw [exec_recall htake, if_pos (by rw [e]; exact hrun)]
    refine ⟨_, rfl, by rw [e], by rw [e], by rw [e]; rfl, fun j hj hborrows h12 => ?_⟩
    rw [hstate, recallState, if_pos ⟨mem_recalled.mpr ⟨hj, hborrows⟩, h12⟩]
  · intro notice t3 htake hrun hrecalls hpending
    obtain ⟨i, k, rfl⟩ := State.takeList_frame htake
    obtain ⟨m, h, p, x, f, e, hstate⟩ := State.noteRecall_frame { s with inbox := i, links := k } peer notice t3
    obtain ⟨m', k', e', hstate'⟩ := State.pagesIdle_one
      (s := State.noteRecall { s with inbox := i, links := k } peer notice t3)
      (r := { lender := peer, t3 := State.recalled { s with inbox := i, links := k } peer t3, wait := max 1 notice, unasked := false })
      (by rw [e]; exact hrun) (by rw [e]; exact hpending) (by rw [e]; simp [hrecalls]) (by simp) rfl
    rw [exec_recall htake, if_neg (by rw [e]; simp [hrun])]
    refine ⟨_, rfl, by rw [e', e], by rw [e', e], fun j hj hborrows => ?_⟩
    have hmine : j ∈ State.recalled { s with inbox := i, links := k } peer t3 := mem_recalled.mpr ⟨hj, hborrows⟩
    refine ⟨?_, ?_⟩
    · rw [hstate', hstate]
      exact homeState_recallState hmine _
    · rw [e', e]
      simp only [borrows, List.any_eq_true, List.mem_filter, Bool.and_eq_true, decide_eq_true_eq]
      rintro ⟨g, ⟨-, hg⟩, -, rfl⟩
      simp [hmine] at hg
  · intro t3 hrun hstep
    refine ⟨fun hfirst htake => ?_, fun htake => ?_, fun hnone htake => ?_⟩
    · obtain ⟨i, k, rfl⟩ := State.takeList_frame htake
      exact ⟨_, exec_released hfirst htake, State.takeBack_ends (s := { s with inbox := i, links := k }) hrun hstep _⟩
    · obtain ⟨i, k, rfl⟩ := State.takeList_frame htake
      exact ⟨_, exec_return htake, State.takeBack_ends (s := { s with inbox := i, links := k }) hrun hstep _⟩
    · obtain ⟨i, k, rfl⟩ := State.takeList_frame htake
      obtain ⟨m, e, hunpinned⟩ := State.dropPins_idle (s := { s with inbox := i, links := k }) hrun peer t3
      refine ⟨_, exec_return_names hnone htake, by rw [e], ?_, ?_⟩
      · rw [e]
        intro p hp
        simpa [State.pinsLeft, imp_iff_not_or] using hp
      · intro p hp hpeer hnamed hleft
        refine hunpinned p hp hpeer hnamed fun q hq => hleft q ?_
        rw [e]
        exact hq
  · intro hlive hrun hstep
    exact ⟨_, exec_recallTimeout hlive peer, State.takeBack_ends hrun hstep _⟩

end Sys2Proof.Proofs
end

section
/-! PROOF. Loaned reads (R246 to R248): the lines with which a lender or a home module answers, and what a read that is lost leaves of its entry before it goes to
the home copy. -/
namespace Sys2Proof.Machine
open Sys2Proof.Claims

/-! ### The lines of an answer (R237, R247) -/

/-- Counters and flags of reads have changed alone. -/
structure SameAccess (s t : State) : Prop where
  mem : t.mem = s.mem
  upset : t.upset = s.upset
  pmap : t.pmap = s.pmap
  strk : t.strk = s.strk
  grp : t.grp = s.grp
  coll : t.coll = s.coll
  links : t.links = s.links
  reads : t.loan.reads = s.loan.reads
  lentserved : t.loan.lentserved = s.loan.lentserved

theorem SameAccess.refl (s : State) : SameAccess s s := ⟨rfl, rfl, rfl, rfl, rfl, rfl, rfl, rfl, rfl⟩

theorem SameAccess.trans {s t u : State} (h : SameAccess s t) (h' : SameAccess t u) : SameAccess s u where
  mem := h'.mem.trans h.mem
  upset := h'.upset.trans h.upset
  pmap := h'.pmap.trans h.pmap
  strk := h'.strk.trans h.strk
  grp := h'.grp.trans h.grp
  coll := h'.coll.trans h.coll
  links := h'.links.trans h.links
  reads := h'.reads.trans h.reads
  lentserved := h'.lentserved.trans h.lentserved

section
variable {s t : State}

theorem State.sameAccess_raiseLoan (s : State) (i index : Nat) : SameAccess s (s.raiseLoan i index) := by
  obtain ⟨h, p, e⟩ := s.raiseLoan_frame i index
  rw [e]
  exact ⟨rfl, rfl, rfl, rfl, rfl, rfl, rfl, rfl, rfl⟩

theorem State.sameAccess_readPage (s : State) (page line : Nat) : SameAccess s (s.readPage page line).1 := by
  obtain ⟨k, h, p, c, e⟩ := s.readPage_frame page line
  rw [e]
  exact ⟨rfl, rfl, rfl, rfl, rfl, rfl, rfl, rfl, rfl⟩

theorem State.sameAccess_verified (s : State) (l : Line) : SameAccess s (s.verified fillKey l).1 := by
  obtain ⟨n, e⟩ := s.verified_io (mover := fillKey) (by decide) l
  rw [e]
  exact ⟨rfl, rfl, rfl, rfl, rfl, rfl, rfl, rfl, rfl⟩

theorem State.verified_io_snd (s : State) (l : Line) : (s.verified fillKey l).2 = checkedLine l := by
  obtain ⟨n, e⟩ := s.verified_io (mover := fillKey) (by decide) l
  rw [e]

section
variable {v : Served} {line : Nat}

theorem State.lineFor_wrong (h : ((s.page v.page).kind != 0 || pageLines ≤ line) = true) : s.lineFor v line = (s.pmapBad v.page, poisonedLine) := if_pos h

theorem State.lineFor_refused (h : ((s.page v.page).kind != 0 || pageLines ≤ line) = false) (href : v.refused = true) :
    s.lineFor v line = (s, poisonLine (s.t2Line v.page line)) := by
  rw [State.lineFor, h, href]
  rfl

theorem State.lineFor_read (h : ((s.page v.page).kind != 0 || pageLines ≤ line) = false) (href : v.refused = false) :
    s.lineFor v line = (s.readPage v.page line).1.verified fillKey (readAs s (t2At v.page (72 * line))) := by
  have hread : (s.readPage v.page line).2 = readAs s (t2At v.page (72 * line)) := rfl
  rw [State.lineFor, h, href, if_neg Bool.false_ne_true, if_neg Bool.false_ne_true, ← hread]

end

theorem State.sameAccess_lineFor (s : State) (v : Served) (line : Nat) : SameAccess s (s.lineFor v line).1 := by
  cases h : ((s.page v.page).kind != 0 || pageLines ≤ line) with
  | true =>
    rw [State.lineFor_wrong h]
    exact s.sameAccess_raiseLoan 5 v.page
  | false =>
    cases href : v.refused with
    | true =>
      rw [State.lineFor_refused h href]
      exact .refl s
    | false =>
      rw [State.lineFor_read h href]
      exact (s.sameAccess_readPage v.page line).trans (State.sameAccess_verified _ _)

/-- The line that an answer holds. -/
def State.servedLine (s : State) (v : Served) (line : Nat) : Line :=
  if (s.page v.page).kind != 0 || pageLines ≤ line then poisonedLine
  else if v.refused then poisonLine (s.t2Line v.page line) else checkedLine (readAs s (t2At v.page (72 * line)))

theorem State.servedLine_of_page {s : State} {v : Served} {line : Nat} (hkind : (s.page v.page).kind = 0) (hline : line < pageLines) :
    s.servedLine v line = if v.refused then poisonLine (s.t2Line v.page line) else checkedLine (readAs s (t2At v.page (72 * line))) := by
  rw [State.servedLine, if_neg (by simp [hkind, Nat.not_le.mpr hline])]

theorem State.lineFor_snd (s : State) (v : Served) (line : Nat) : (s.lineFor v line).2 = s.servedLine v line := by
  unfold State.servedLine
  cases h : ((s.page v.page).kind != 0 || pageLines ≤ line) with
  | true => rw [State.lineFor_wrong h, if_pos rfl]
  | false =>
    cases href : v.refused with
    | true => rw [State.lineFor_refused h href, if_neg Bool.false_ne_true, if_pos rfl]
    | false => rw [State.lineFor_read h href, State.verified_io_snd, if_neg Bool.false_ne_true, if_neg Bool.false_ne_true]

theorem SameAccess.page (h : SameAccess s t) (i : Nat) : t.page i = s.page i := State.page_congr h.pmap i

theorem SameAccess.readAs (h : SameAccess s t) (a : Nat) : readAs t a = readAs s a :=
  State.readAs_congr (State.eccOf_congr h.upset a) (readBytes_congr_mem h.mem a 72)

theorem SameAccess.servedLine (h : SameAccess s t) (v : Served) (line : Nat) : t.servedLine v line = s.servedLine v line := by
  have hline : t.t2Line v.page line = s.t2Line v.page line := readBytes_congr_mem h.mem _ 72
  rw [State.servedLine, h.page, hline, h.readAs]
  rfl

theorem State.linesFor_serves (s : State) (v : Served) (line n : Nat) :
    SameAccess s (s.linesFor v line n).1 ∧ (s.linesFor v line n).2 = (List.range n).map fun k => s.servedLine v (line + k) := by
  induction n generalizing s line with
  | zero => exact ⟨.refl s, rfl⟩
  | succ n ih =>
    have hfirst := s.sameAccess_lineFor v line
    obtain ⟨hsame, hlines⟩ := ih (s.lineFor v line).1 (line + 1)
    refine ⟨hfirst.trans hsame, ?_⟩
    have hcons : (s.linesFor v line (n + 1)).2 = (s.lineFor v line).2 :: ((s.lineFor v line).1.linesFor v (line + 1) n).2 := rfl
    rw [hcons, hlines, s.lineFor_snd, List.range_succ_eq_map, List.map_cons, List.map_map]
    refine congrArg _ (List.map_congr_left fun k _ => ?_)
    rw [hfirst.servedLine, Function.comp_apply]
    congr 1
    omega

end

/-! ### An answer sent (R246, R317) -/

theorem length_chunkSlots (h : ChunkHdr) (lines : List Line) : (chunkSlots h lines).length = lines.length + 2 := by simp [chunkSlots]

theorem getD_chunkSlots (h : ChunkHdr) {lines : List Line} {k : Nat} (hk : k < lines.length) : (chunkSlots h lines).getD (k + 1) [] = lines.getD k [] := by
  simp [chunkSlots, List.getElem?_append_left hk]

theorem State.vc2_enqueue (s : State) (l : Nat) (x : Slots) : ((s.enqueue l 2 x).link l).vc2 = (s.link l).vc2 ++ [x] :=
  congrArg LinkState.vc2 (s.setLink_link l ((s.link l).push 2 x))

theorem State.routePair_congr {s t : State} (hgrp : t.grp = s.grp) (hlinks : t.links = s.links) (hstrk : t.strk = s.strk) (hcoll : t.coll = s.coll) (r : Nat) :
    t.routePair r = s.routePair r := by
  have hmine : t.pairLinksTo r = s.pairLinksTo r := by unfold State.pairLinksTo State.myLinks; rw [hgrp]
  have husable : t.usable = s.usable := funext fun l => by
    unfold State.usable State.linkUp State.link
    rw [hlinks, hstrk, hcoll]
  rw [State.routePair, State.routePair, hmine, husable]

/-- A read answered for the first time: the answer goes out on the lowest pair link with the lines that it serves. -/
theorem State.serveFirst_sends (s : State) (v : Served) :
    (s.serveFirst v).mem = s.mem ∧ (s.serveFirst v).pmap = s.pmap ∧ (s.serveFirst v).loan.lentserved = s.loan.lentserved
      ∧ ∀ l rest, s.routePair v.rank = l :: rest → ∃ x : Slots, ((s.serveFirst v).link l).vc2 = (s.link l).vc2 ++ [x] ∧ x.slots.length = v.count + 2
        ∧ ∀ k, k < v.count → x.slots.getD (k + 1) [] = s.servedLine v (v.first + k) := by
  have hnote : SameAccess s { s with loan := { s.loan with served := (v :: s.loan.served).take 64 } } := ⟨rfl, rfl, rfl, rfl, rfl, rfl, rfl, rfl, rfl⟩
  obtain ⟨hsame, hlines⟩ := State.linesFor_serves { s with loan := { s.loan with served := (v :: s.loan.served).take 64 } } v v.first v.count
  have hserve : s.serveFirst v = State.sendLoanChunk (State.linesFor { s with loan := { s.loan with served := (v :: s.loan.served).take 64 } } v v.first v.count).1
      { s.loanHdr v.rank v.first v.count with step := if v.refused then 1 else 0, resend := false }
      (State.linesFor { s with loan := { s.loan with served := (v :: s.loan.served).take 64 } } v v.first v.count).2 := rfl
  replace hsame := hnote.trans hsame
  simp only [hnote.servedLine] at hlines
  rw [hserve, hlines]
  generalize (State.linesFor { s with loan := { s.loan with served := (v :: s.loan.served).take 64 } } v v.first v.count).1 = t at *
  have hroute := State.routePair_congr hsame.grp hsame.links hsame.strk hsame.coll v.rank
  have hlink : ∀ l, t.link l = s.link l := fun l => by rw [State.link, hsame.links]; rfl
  unfold State.sendLoanChunk
  dsimp only [State.loanHdr]
  rw [hroute]
  split
  · rename_i l rest hl
    refine ⟨hsame.mem, hsame.pmap, hsame.lentserved, fun l' rest' hl' => ?_⟩
    obtain ⟨rfl, -⟩ := List.cons.inj (hl.symm.trans hl')
    refine ⟨_, (t.vc2_enqueue l _).trans (by rw [hlink]), ?_, fun k hk => ?_⟩
    · rw [length_chunkSlots]
      simp
    · rw [getD_chunkSlots _ (by simpa using hk)]
      simp [hk]
  · rename_i hnil
    exact ⟨hsame.mem, hsame.pmap, hsame.lentserved, fun l rest hl => absurd (hnil.symm.trans hl) (by simp)⟩

/-! ### LOAN_READ (R247) -/

/-- A loaned read that the page's tag allows, or a home read that the pin's tag allows. -/
def State.tagServes (s : State) (page tag : Nat) (home : Bool) : Bool :=
  page < 73728 && if home then (s.page page).pinned && (s.page page).homeTag.toNat = tag else (s.page page).lent && (s.page page).loanTag.toNat = tag

/-- The answer to a LOAN_READ whose record has been taken. -/
def State.answerRead (s : State) (sender page line count tag : Nat) (home : Bool) : State :=
  let v : Served := { rank := sender, page := page, first := line, count := count, refused := !s.tagServes page tag home, resent := false }
  if home then s.serveFirst v
  else if s.tagServes page tag home then State.serveFirst { s with loan := { s.loan with lentserved := satAdd s.loan.lentserved count } } v
  else s.sendRecord sender 0x38 [page, line, count] false

section
variable {s u : State} {peer page line count tag : Nat} {home : Bool}

/-- The record of a read has been taken: of what a read meets, nothing has changed. -/
structure TookRead (s u : State) : Prop where
  mem : u.mem = s.mem
  upset : u.upset = s.upset
  pmap : u.pmap = s.pmap
  grp : u.grp = s.grp
  loan : u.loan = s.loan

theorem tookRead_of_takeRecord {kind sender : Nat} {items : List Nat} (h : s.takeRecord kind sender items = some u) : TookRead s u := by
  obtain ⟨i, k, rfl⟩ := State.takeRecord_frame h
  exact ⟨rfl, rfl, rfl, rfl, rfl⟩

theorem TookRead.samePage (h : TookRead s u) (i : Nat) : u.page i = s.page i := State.page_congr h.pmap i

theorem TookRead.readAs (h : TookRead s u) (a : Nat) : readAs u a = readAs s a :=
  State.readAs_congr (State.eccOf_congr h.upset a) (readBytes_congr_mem h.mem a 72)

theorem TookRead.t2Line (h : TookRead s u) (page line : Nat) : u.t2Line page line = s.t2Line page line := readBytes_congr_mem h.mem _ 72

theorem TookRead.tagServes (h : TookRead s u) (page tag : Nat) (home : Bool) : u.tagServes page tag home = s.tagServes page tag home := by
  rw [State.tagServes, State.tagServes, h.samePage]

theorem State.tagServes_loan (s : State) (page tag : Nat) :
    s.tagServes page tag false = true ↔ page < 73728 ∧ (s.page page).lent = true ∧ (s.page page).loanTag.toNat = tag := by
  simp only [State.tagServes, Bool.false_eq_true, if_false, Bool.and_eq_true, decide_eq_true_eq]

theorem State.tagServes_home (s : State) (page tag : Nat) :
    s.tagServes page tag true = true ↔ page < 73728 ∧ (s.page page).pinned = true ∧ (s.page page).homeTag.toNat = tag := by
  simp only [State.tagServes, if_true, Bool.and_eq_true, decide_eq_true_eq]

theorem State.answerRead_served (hserves : s.tagServes page tag false = true) (sender line count : Nat) :
    s.answerRead sender page line count tag false = State.serveFirst { s with loan := { s.loan with lentserved := satAdd s.loan.lentserved count } }
      { rank := sender, page := page, first := line, count := count, refused := false, resent := false } := by
  simp [State.answerRead, hserves]

theorem State.answerRead_home (s : State) (sender page line count tag : Nat) : s.answerRead sender page line count tag true
    = s.serveFirst { rank := sender, page := page, first := line, count := count, refused := !s.tagServes page tag true, resent := false } := rfl

theorem State.answerRead_notLent (hserves : s.tagServes page tag false = false) (sender line count : Nat) :
    s.answerRead sender page line count tag false = s.sendRecord sender 0x38 [page, line, count] false := by
  simp [State.answerRead, hserves]

theorem exec_loanRead (hwaits : (home && s.pinWaits page) = false)
    (htake : s.takeRecord 0x37 peer [page, line, count, tag, if home then 1 else 0] = some u) :
    exec (.loanRead peer page line count tag home) s = .next (u.answerRead peer page line count tag home) := by
  have he : exec (.loanRead peer page line count tag home) s = execLoanRead peer page line count tag home s := rfl
  rw [he, execLoanRead, hwaits, htake]
  unfold State.answerRead State.tagServes
  cases home with
  | true => simp [Bool.and_assoc]
  | false => 
    simp only [Bool.false_eq_true, if_false, ← Bool.and_assoc]
    split
    · rename_i hserves
      simp [hserves]
    · rfl

theorem State.answerRead_frame (s : State) (peer page line count tag : Nat) (home : Bool) :
    (s.answerRead peer page line count tag home).mem = s.mem ∧ (s.answerRead peer page line count tag home).pmap = s.pmap := by
  unfold State.answerRead
  dsimp only
  split
  · obtain ⟨hmem, hpmap, -, -⟩ := s.serveFirst_sends
      { rank := peer, page := page, first := line, count := count, refused := !s.tagServes page tag home, resent := false }
    exact ⟨hmem, hpmap⟩
  · split
    · obtain ⟨hmem, hpmap, -, -⟩ := State.serveFirst_sends { s with loan := { s.loan with lentserved := satAdd s.loan.lentserved count } }
        { rank := peer, page := page, first := line, count := count, refused := !s.tagServes page tag home, resent := false }
      exact ⟨hmem, hpmap⟩
    · obtain ⟨k, e⟩ := s.sendRecord_frame peer 0x38 [page, line, count] false
      rw [e]
      exact ⟨rfl, rfl⟩

/-- A LOAN_READ completes and changes neither memory nor the page map. -/
theorem exec_loanRead_frame (s : State) (peer page line count tag : Nat) (home : Bool) :
    ∃ t : State, exec (.loanRead peer page line count tag home) s = .next t ∧ t.mem = s.mem ∧ t.pmap = s.pmap := by
  have he : exec (.loanRead peer page line count tag home) s = execLoanRead peer page line count tag home s := rfl
  cases hwaits : home && s.pinWaits page with
  | true => exact ⟨s, by rw [he, execLoanRead, hwaits]; rfl, rfl, rfl⟩
  | false =>
    cases htake : s.takeRecord 0x37 peer [page, line, count, tag, if home then 1 else 0] with
    | none => exact ⟨s, by rw [he, execLoanRead, hwaits, htake]; rfl, rfl, rfl⟩
    | some u =>
      obtain ⟨hmem, hpmap⟩ := u.answerRead_frame peer page line count tag home
      obtain ⟨i, k, rfl⟩ := State.takeRecord_frame htake
      exact ⟨_, exec_loanRead hwaits htake, hmem, hpmap⟩

end

/-! ### A read that is lost (R248) -/

/-- The read is forgotten, and its entry is LOST with the flag. -/
def State.noteLost (s : State) (w : ReadWait) (flag : Nat) : State :=
  (State.setPage { s with loan := { s.loan with reads := s.loan.reads.erase w } } w.t3 { s.page w.t3 with state := 4 }).raiseLoan flag w.t3

/-- RETURN is sent besides, where the page is still borrowed. -/
def State.lost (s : State) (w : ReadWait) (flag : Nat) : State :=
  if (s.noteLost w flag).loan.held.any fun g => g.t3 = w.t3 then ((s.noteLost w flag).dropHeld [w.t3]).sendReturn w.rank [w.t3] else s.noteLost w flag

theorem State.loseRead_eq (s : State) (w : ReadWait) (flag : Nat) : s.loseRead w flag = (s.lost w flag).reissue w := rfl

/-- What a lost read leaves. -/
structure Lost (w : ReadWait) (flag : Nat) (s t : State) : Prop where
  mem : t.mem = s.mem
  upset : t.upset = s.upset
  grp : t.grp = s.grp
  err : t.loan.err = s.loan.err.raise flag
  reads : t.loan.reads = s.loan.reads.erase w
  homereads : t.loan.homereads = s.loan.homereads
  page : ∀ i, t.page i = if i = w.t3 then { s.page w.t3 with state := 4 } else s.page i

theorem Lost.of_noteLost (s : State) (w : ReadWait) (flag : Nat) : Lost w flag s (s.noteLost w flag) := by
  have hpage := State.page_setPage { s with loan := { s.loan with reads := s.loan.reads.erase w } } w.t3 { s.page w.t3 with state := 4 }
  obtain ⟨h, p, e⟩ := State.raiseLoan_frame (State.setPage { s with loan := { s.loan with reads := s.loan.reads.erase w } } w.t3 { s.page w.t3 with state := 4 })
    flag w.t3
  rw [State.noteLost, e]
  exact ⟨rfl, rfl, rfl, rfl, rfl, rfl, hpage⟩

theorem Lost.of_lost (s : State) (w : ReadWait) (flag : Nat) : Lost w flag s (s.lost w flag) := by
  have hlost := Lost.of_noteLost s w flag
  unfold State.lost
  generalize s.noteLost w flag = t at *
  split
  · obtain ⟨k, e⟩ := (t.dropHeld [w.t3]).sendList_frame w.rank 0x36 0 (recordsFor [w.t3].length) ([w.t3].map fun i => [i])
    rw [State.sendReturn, e]
    exact ⟨hlost.mem, hlost.upset, hlost.grp, hlost.err, hlost.reads, hlost.homereads, hlost.page⟩
  · exact hlost

/-! ### The home copy of this module serves (R248, R263) -/

theorem satAdd_satAdd (x : Word) (m n : Nat) : satAdd (satAdd x m) n = satAdd x (m + n) := by
  apply BitVec.eq_of_toNat_eq
  simp only [satAdd, BitVec.toNat_ofNat]
  omega

/-- This module's own home page of an entry serves its reads: a pinned line page under the entry's tag. -/
structure HomeServes (s : State) (t3 page : Nat) : Prop where
  home : (s.page t3).homePage.toNat = page
  kind : (s.page page).kind = 0
  pinned : (s.page page).pinned = true
  tag : (s.page page).homeTag = (s.page t3).homeTag

/-- Reads of a home copy have been counted, nothing else that a read meets has changed. -/
structure CountsReads (n : Nat) (s t : State) : Prop where
  mem : t.mem = s.mem
  upset : t.upset = s.upset
  pmap : t.pmap = s.pmap
  loan : t.loan = { s.loan with homereads := satAdd s.loan.homereads n }

theorem HomeServes.congr {s t : State} {t3 page : Nat} (h : HomeServes s t3 page) (hpmap : t.pmap = s.pmap) : HomeServes t t3 page := by
  obtain ⟨hhome, hkind, hpinned, htag⟩ := h
  rw [← State.page_congr hpmap t3] at hhome htag
  rw [← State.page_congr hpmap page] at hkind hpinned htag
  exact ⟨hhome, hkind, hpinned, htag⟩

theorem State.homeRead_serves {s : State} {t3 page : Nat} (h : HomeServes s t3 page) (line : Nat) :
    CountsReads 1 s (s.homeRead t3 page (s.page t3).homeTag.toNat line).1
      ∧ (s.homeRead t3 page (s.page t3).homeTag.toNat line).2 = readAs s (t2At page (72 * line)) := by
  have hserved := State.homeLine_served (s := { s with loan := { s.loan with homereads := satAdd s.loan.homereads 1 } }) (tag := (s.page t3).homeTag.toNat)
    h.kind h.pinned (congrArg BitVec.toNat h.tag) t3 line
  obtain ⟨k, o, p, c, e⟩ := State.readPage_frame { s with loan := { s.loan with homereads := satAdd s.loan.homereads 1 } } page line
  rw [State.homeRead, hserved, e]
  exact ⟨⟨rfl, rfl, rfl, rfl⟩, rfl⟩

theorem State.homeLines_serve {s : State} {w : ReadWait} {page : Nat} (h : HomeServes s w.t3 page) (j n : Nat) :
    CountsReads n s (s.homeLines w j n).1 ∧ (s.homeLines w j n).2 = (List.range n).map fun k => readAs s (t2At page (72 * (w.first + (j + k)))) := by
  induction n generalizing s j with
  | zero => exact ⟨⟨rfl, rfl, rfl, by rw [satAdd_right_zero]; rfl⟩, rfl⟩
  | succ n ih =>
    obtain ⟨hread, hline⟩ := State.homeRead_serves h (w.first + j)
    have hcons : s.homeLines w j (n + 1) = (((s.homeRead w.t3 page (s.page w.t3).homeTag.toNat (w.first + j)).1.homeLines w (j + 1) n).1,
        (s.homeRead w.t3 page (s.page w.t3).homeTag.toNat (w.first + j)).2
          :: ((s.homeRead w.t3 page (s.page w.t3).homeTag.toNat (w.first + j)).1.homeLines w (j + 1) n).2) := by
      rw [← h.home]
      rfl
    rw [hcons, hline]
    generalize (s.homeRead w.t3 page (s.page w.t3).homeTag.toNat (w.first + j)).1 = u at *
    obtain ⟨hrest, hlines⟩ := ih (h.congr hread.pmap) (j + 1)
    refine ⟨⟨hrest.mem.trans hread.mem, hrest.upset.trans hread.upset, hrest.pmap.trans hread.pmap, ?_⟩, ?_⟩
    · rw [hrest.loan, hread.loan, satAdd_satAdd, Nat.add_comm 1 n]
    · dsimp only
      rw [hlines, List.range_succ_eq_map, List.map_cons, List.map_map]
      refine congrArg _ (List.map_congr_left fun k _ => ?_)
      rw [State.readAs_congr (State.eccOf_congr hread.upset _) (readBytes_congr_mem hread.mem _ 72), Function.comp_apply]
      congr 2
      omega

section
variable {s : State} {w : ReadWait} {page : Nat}

/-- A read that has a home copy here and no command that waits for it: the copy is read, and the lines land. -/
theorem State.reissue_own (hrank : (s.page w.t3).homeRank = s.grp.rank) (hvalid : s.grp.rankValid = true) (hhold : w.hold = false) :
    s.reissue w = (s.homeLines w 0 w.count).1.landLines w (s.homeLines w 0 w.count).2 := by
  unfold State.reissue
  simp [hrank, hvalid, hhold]

/-- The answer to a reader that went on is counted alone. -/
theorem State.reissue_discard (hrank : (s.page w.t3).homeRank = s.grp.rank) (hvalid : s.grp.rankValid = true) (hhold : w.hold = false)
    (hmover : w.mover = discardKey) (h : HomeServes s w.t3 page) : CountsReads w.count s (s.reissue w) := by
  have hne : w.mover ≠ fillKey := by rw [hmover]; decide
  rw [State.reissue_own hrank hvalid hhold, State.landLines, if_neg hne]
  exact (State.homeLines_serve h 0 w.count).1

/-- A fill of one well line writes it, checked. -/
theorem State.reissue_fill (hrank : (s.page w.t3).homeRank = s.grp.rank) (hvalid : s.grp.rankValid = true) (hhold : w.hold = false)
    (hmover : w.mover = fillKey) (h : HomeServes s w.t3 page) (hcount : w.count = 1) {d : Nat} (hspace : w.dst.space = .well d) (hat : w.dst.at_ < wellLines) :
    PutsLine (addrOf w.dst) (checkedLine (readAs s (t2At page (72 * w.first)))) s (s.reissue w) ∧ (s.reissue w).pmap = s.pmap
      ∧ (s.reissue w).loan.err = s.loan.err ∧ (s.reissue w).loan.homereads = satAdd s.loan.homereads 1 := by
  obtain ⟨hcounts, hlines⟩ := State.homeLines_serve h 0 w.count
  have hline : (s.homeLines w 0 w.count).2 = [readAs s (t2At page (72 * w.first))] := by rw [hlines, hcount]; rfl
  rw [State.reissue_own hrank hvalid hhold, State.landLines, if_pos hmover, hline]
  generalize (s.homeLines w 0 w.count).1 = u at *
  rw [hcount] at hcounts
  obtain ⟨n, ev⟩ := u.verified_io (mover := fillKey) (by decide) (readAs s (t2At page (72 * w.first)))
  have hput : u.putLines w 0 [readAs s (t2At page (72 * w.first))]
      = State.wellWrite { u with loan := { u.loan with iomovchk := n } } d w.dst.at_ (checkedLine (readAs s (t2At page (72 * w.first)))) := by
    rw [State.putLines, State.putLines, hmover, ev]
    simp [State.placeWrite, placeStep, hspace]
  have haddr : addrOf w.dst = wellAt d w.dst.at_ := by rw [addrOf, hspace]
  have hstores := State.storesLine_wellWrite { u with loan := { u.loan with iomovchk := n } } d hat
    (length_checkedLine (s.length_readAs (t2At page (72 * w.first))))
  obtain ⟨m, p, e⟩ := State.wellWrite_frame { u with loan := { u.loan with iomovchk := n } } d w.dst.at_
    (checkedLine (readAs s (t2At page (72 * w.first))))
  rw [hput, haddr]
  refine ⟨hstores.put.congr hcounts.mem.symm rfl, ?_, ?_, ?_⟩
  · rw [e]
    exact hcounts.pmap
  · rw [e]
    exact congrArg (·.err) hcounts.loan
  · rw [e]
    exact congrArg (·.homereads) hcounts.loan

/-- A read whose home copy is another module's is asked for there. -/
theorem State.reissue_elsewhere (hrank : (s.page w.t3).homeRank ≠ s.grp.rank) :
    ∃ k, s.reissue w
      = { s with loan := { s.loan with reads := s.loan.reads ++ [{ w with rank := (s.page w.t3).homeRank.toNat, home := true }] }, links := k } := by
  unfold State.reissue
  simp only [hrank, decide_false, Bool.false_and, Bool.false_eq_true, if_false]
  exact s.awaitLines_frame _ _ _

end

/-! ### The two ways in which a loaned read is lost -/

/-- A command finds that a loaned read is lost, with a flag, in a state that has taken at most its record. -/
def FindsLost (s : State) (cmd : Instr) (w : ReadWait) (flag : Nat) : Prop :=
  ∃ i k, exec cmd s = .next (State.loseRead { s with inbox := i, links := k } w flag)

theorem findsLost_notLent {s v : State} {w : ReadWait} {peer page line count : Nat} (htake : s.takeRecord 0x38 peer [page, line, count] = some v)
    (hfind : s.loan.reads.find? (fun w => w.rank = peer && !w.home && w.first = line && w.count = count && (s.page w.t3).lenderPage.toNat = page) = some w) :
    FindsLost s (.notLent peer page line count) w 2 := by
  have he : exec (.notLent peer page line count) s = execNotLent peer page line count s := rfl
  obtain ⟨i, k, rfl⟩ := State.takeRecord_frame htake
  refine ⟨i, k, ?_⟩
  rw [he, execNotLent, htake]
  dsimp only
  split
  · rename_i w' hw
    obtain rfl : w' = w := Option.some.inj (hw.symm.trans hfind)
    rfl
  · rename_i hnone
    exact absurd (hfind.symm.trans hnone) (by simp)

theorem findsLost_timeout {s : State} {w : ReadWait} (hlive : s.live = true) (hfind : s.loan.reads.find? (fun r => r.t3 = w.t3 && !r.home) = some w) :
    FindsLost s (.loanReadTimeout w.t3) w 1 := by
  have he : exec (.loanReadTimeout w.t3) s = execLoanReadTimeout w.t3 s := rfl
  refine ⟨s.inbox, s.links, ?_⟩
  rw [he, execLoanReadTimeout, hlive, hfind]
  rfl

end Sys2Proof.Machine

namespace Sys2Proof.Proofs
open Sys2Proof.Machine Sys2Proof.Claims

/-- A read found lost goes to the home copy, whichever command found it: a reader that went on, a fill, and an entry whose home is another module. -/
theorem lostReads_fall_back {s : State} {cmd : Instr} {w : ReadWait} {flag : Nat} (h : FindsLost s cmd w flag) :
    let hp := (s.page w.t3).homePage.toNat
    ((s.page w.t3).homeRank = s.grp.rank → s.grp.rankValid = true → w.hold = false → w.mover = discardKey → w.t3 ≠ hp → (s.page hp).kind = 0
        → (s.page hp).pinned = true → (s.page hp).homeTag = (s.page w.t3).homeTag →
        ∃ t : State, exec cmd s = .next t ∧ (t.page w.t3).state = 4 ∧ t.loan.err = s.loan.err.raise flag
          ∧ t.loan.homereads = satAdd s.loan.homereads w.count ∧ t.mem = s.mem ∧ t.loan.reads = s.loan.reads.erase w)
      ∧ ((s.page w.t3).homeRank = s.grp.rank → s.grp.rankValid = true → w.hold = false → w.mover = fillKey → w.t3 ≠ hp → (s.page hp).kind = 0
        → (s.page hp).pinned = true → (s.page hp).homeTag = (s.page w.t3).homeTag
        → w.count = 1 → (∃ d, w.dst.space = .well d ∧ d < 2) → w.dst.at_ < wellLines →
        ∃ t : State, exec cmd s = .next t ∧ (t.page w.t3).state = 4 ∧ t.loan.err = s.loan.err.raise flag
          ∧ t.loan.homereads = satAdd s.loan.homereads 1 ∧ lineAt t w.dst = checkedLine (readAs s (t2At hp (72 * w.first)))
          ∧ memOutside s t (addrOf w.dst) 72)
      ∧ ((s.page w.t3).homeRank ≠ s.grp.rank →
        ∃ t : State, exec cmd s = .next t ∧ (t.page w.t3).state = 4 ∧ t.loan.err = s.loan.err.raise flag ∧ t.mem = s.mem
          ∧ t.loan.reads = s.loan.reads.erase w ++ [{ w with rank := (s.page w.t3).homeRank.toNat, home := true }]) := by
  intro hp
  obtain ⟨i, k, e⟩ := h
  rw [State.loseRead_eq] at e
  have hlost := Lost.of_lost { s with inbox := i, links := k } w flag
  generalize State.lost { s with inbox := i, links := k } w flag = u at *
  have hentry : u.page w.t3 = { s.page w.t3 with state := 4 } := (hlost.page w.t3).trans (if_pos rfl)
  have hgrp : u.grp = s.grp := hlost.grp
  have hrank : ∀ {r : BitVec 7}, (u.page w.t3).homeRank = r ↔ (s.page w.t3).homeRank = r := by rw [hentry]
  have hserves : w.t3 ≠ hp → (s.page hp).kind = 0 → (s.page hp).pinned = true → (s.page hp).homeTag = (s.page w.t3).homeTag → HomeServes u w.t3 hp := by
    intro hne hkind hpinned htag
    have hhome : u.page hp = s.page hp := (hlost.page hp).trans (if_neg (Ne.symm hne))
    exact ⟨by rw [hentry], by rw [hhome]; exact hkind, by rw [hhome]; exact hpinned, by rw [hhome, hentry]; exact htag⟩
  refine ⟨fun hown hvalid hhold hmover hne hkind hpinned htag => ?_, fun hown hvalid hhold hmover hne hkind hpinned htag hcount hdst hat => ?_, fun hother => ?_⟩
  · have hcounts := State.reissue_discard (by rw [hgrp]; exact hrank.mpr hown) (by rw [hgrp]; exact hvalid) hhold hmover (hserves hne hkind hpinned htag)
    refine ⟨_, e, ?_, ?_, ?_, hcounts.mem.trans hlost.mem, ?_⟩
    · rw [State.page_congr hcounts.pmap, hentry]
    · rw [hcounts.loan]
      exact hlost.err
    · rw [hcounts.loan]
      exact congrArg (satAdd · w.count) hlost.homereads
    · rw [hcounts.loan]
      exact hlost.reads
  · obtain ⟨d, hspace, -⟩ := hdst
    obtain ⟨hput, hpmap, herr, hreads⟩ := State.reissue_fill (by rw [hgrp]; exact hrank.mpr hown) (by rw [hgrp]; exact hvalid) hhold hmover
      (hserves hne hkind hpinned htag) hcount hspace hat
    have hline : readAs u (t2At hp (72 * w.first)) = readAs s (t2At hp (72 * w.first)) :=
      State.readAs_congr (State.eccOf_congr hlost.upset _) (readBytes_congr_mem hlost.mem _ 72)
    refine ⟨_, e, ?_, herr.trans hlost.err, hreads.trans (congrArg (satAdd · 1) hlost.homereads), hput.1.trans (congrArg checkedLine hline), fun x hx => ?_⟩
    · rw [State.page_congr hpmap, hentry]
    · rw [hput.2 x fun hx' => ?_, hlost.mem]
      unfold inRun at hx'
      omega
  · obtain ⟨k', e'⟩ := State.reissue_elsewhere (s := u) (w := w) (by rw [hgrp]; exact fun h => hother (hrank.mp h))
    rw [e'] at e
    refine ⟨_, e, ?_, hlost.err, hlost.mem, ?_⟩
    · exact congrArg PageEntry.state hentry
    · rw [hentry]
      exact congrArg (· ++ _) hlost.reads

/-- Settles O25: an answer holds the stored lines, which its reads leave alone, and a lost read goes to the home copy under the entry's own tag. -/
theorem loanedReadsAreServedOrFallBack : Obligations.LoanedReadsAreServedOrFallBack := by
  unfold Obligations.LoanedReadsAreServedOrFallBack
  intro s u peer page line count tag l rest
  refine ⟨fun home t3 => ⟨exec_loanRead_frame s peer page line count tag home, ?_, ?_⟩, fun home htake hroute => ?_, ?_⟩
  · have he : exec (.notLent peer page line count) s = execNotLent peer page line count s := rfl
    rw [he]
    unfold execNotLent
    split
    · exact ⟨_, rfl⟩
    · split <;> exact ⟨_, rfl⟩
  · have he : exec (.loanReadTimeout t3) s = execLoanReadTimeout t3 s := rfl
    rw [he]
    unfold execLoanReadTimeout
    split
    · exact ⟨_, rfl⟩
    · split <;> exact ⟨_, rfl⟩
  · have htook := tookRead_of_takeRecord htake
    intro stored
    refine ⟨?_, ?_, ?_⟩
    · rintro rfl hidx hlent htag
      have hserves : u.tagServes page tag false = true := (htook.tagServes page tag false).trans ((s.tagServes_loan page tag).mpr ⟨hidx, hlent, htag⟩)
      obtain ⟨-, -, hcount, hsends⟩ := State.serveFirst_sends { u with loan := { u.loan with lentserved := satAdd u.loan.lentserved count } }
        { rank := peer, page := page, first := line, count := count, refused := false, resent := false }
      obtain ⟨x, hqueue, hlength, hlines⟩ := hsends l rest hroute
      rw [exec_loanRead rfl htake, State.answerRead_served hserves]
      refine ⟨_, x, rfl, hqueue, hcount.trans (congrArg (fun a => satAdd a.lentserved count) htook.loan), hlength, fun hkind j hj hline => ?_⟩
      exact (hlines j hj).trans ((State.servedLine_of_page ((htook.samePage page).symm ▸ hkind) hline).trans (congrArg checkedLine (htook.readAs _)))
    · rintro rfl hnot
      have hserves : u.tagServes page tag false = false := by
        rw [htook.tagServes, Bool.eq_false_iff, ne_eq, State.tagServes_loan]
        rintro ⟨hidx, hlent, htag⟩
        rcases hnot with h | h | h
        · omega
        · rw [hlent] at h
          cases h
        · exact h htag
      rw [exec_loanRead rfl htake, State.answerRead_notLent hserves, State.sendRecord, hroute]
      refine ⟨_, rfl, htook.loan, (State.vc2_enqueue u l _).trans ?_⟩
      rw [State.recordSlot, State.recordSlot, htook.grp]
    · rintro rfl hwaits
      rw [exec_loanRead (by rw [hwaits]; rfl) htake, State.answerRead_home]
      obtain ⟨-, -, -, hsends⟩ := u.serveFirst_sends
        { rank := peer, page := page, first := line, count := count, refused := !u.tagServes page tag true, resent := false }
      obtain ⟨x, hqueue, hlength, hlines⟩ := hsends l rest hroute
      refine ⟨_, x, rfl, hqueue, hlength, fun hkind j hj hline => (hlines j hj).trans ?_⟩
      rw [State.servedLine_of_page ((htook.samePage page).symm ▸ hkind) hline]
      by_cases hpin : page < 73728 ∧ (s.page page).pinned = true ∧ (s.page page).homeTag.toNat = tag
      · rw [if_pos hpin, htook.tagServes, (s.tagServes_home page tag).mpr hpin, htook.readAs, Bool.not_true, if_neg Bool.false_ne_true]
      · rw [if_neg hpin, htook.tagServes, Bool.eq_false_iff.mpr (mt (s.tagServes_home page tag).mp hpin), htook.t2Line, Bool.not_false, if_pos rfl]
  · rintro w cmd v flag (⟨rfl, rfl, htake, hfind⟩ | ⟨rfl, rfl, rfl, hlive, hfind⟩)
    · exact lostReads_fall_back (findsLost_notLent htake hfind)
    · exact lostReads_fall_back (findsLost_timeout hlive hfind)

end Sys2Proof.Proofs
end

section
/-! PROOF. A LOAN_REQUEST that gives a T3 index a new home page (R245, R251): the index first names its old home page no longer, and with that name the new page can
lose the pin on which the request was accepted. -/
namespace Sys2Proof.Machine
open Sys2Proof.Claims

/-- The request: one page from rank 1, with a notice of 255 strokes. -/
def renamingCmd : CmdReq := { ch := .mailbox, op := 0x31, tag := 3, args := [1, 1, 255] }

/-- Rank 0 with one pair link to rank 1, which offers a page. Its lendable page 73,727 is pinned for its own T3 index 73,728, whose entry names home page 5; the
request in the mailbox names 73,727 for that index. -/
def renamedAsk : State :=
  { State.reset with
    boot := { Boot.reset with code := 1, life := .operational, config := { Boot.reset.config with lendable := [73727] } }
    grp := { Grp.reset with
      rankValid := true
      linkMap := some { groupTag := 0, members := [{ rank := 0, rack := 0, slot := 0, mirror := none }, { rank := 1, rack := 0, slot := 1, mirror := none }],
                        pairLinks := 1, masters := [0], links := [{ rank := 0, link := 0, role := 1, peerRank := 1, peerLink := 0, delay := 0, asym := 0 }] } }
    links := [(0, { LinkState.reset with st := .up })]
    loan := { Loan.reset with offersIn := [{ rank := 1, pages := 1, notice := 4, share := 4 }], pins := [(73727, 0, 73728)] }
    pmap := [(73727, { PageEntry.ownLine with pinned := true }), (73728, { PageEntry.ownLine with kind := 2, homePage := 5 })]
    scr := { Scribe.reset with queue := [renamingCmd], mbx := { Mbx.reset with data := putData [] 0 ([73728, 0, 73727, 9].flatMap (leBytes 4)) } } }

theorem renamedAsk_runs : runs renamedAsk 0x31 renamingCmd [] := by unfold runs; decide +kernel

theorem renamedAsk_route : renamedAsk.routePair (renamingCmd.arg 0) = [0] := by decide +kernel

/-- The request meets every condition of LOAN_REQUEST: the page is pinned, so that it may be asked for. -/
theorem renamedAsk_asks : renamedAsk.strk.run = none ∧ renamingCmd.arg 1 = 1
    ∧ renamedAsk.askedPage 0 = { t3 := 73728, homeRank := 0, homePage := 73727, homeTag := 9 }
    ∧ renamedAsk.askable (renamedAsk.askedPage 0) = true
    ∧ renamedAsk.loan.offersIn.find? (fun o => o.rank = renamingCmd.arg 0) = some { rank := 1, pages := 1, notice := 4, share := 4 }
    ∧ 4 ≤ renamingCmd.arg 2 ∧ renamingCmd.arg 2 ≤ 255 := by decide +kernel

/-- Whether a command leaves a page pinned. -/
def leavesPinned (o : Out State) (page : Nat) : Bool := match o with | .next t => (t.page page).pinned | _ => false

/-- The old name goes with its pin, and a lendable page is not pinned again (R242). -/
theorem renamedAsk_unpins : leavesPinned (exec .loanRequest renamedAsk) 73727 = false := by decide +kernel

end Sys2Proof.Machine

namespace Sys2Proof.Proofs
open Sys2Proof.Machine Sys2Proof.Claims

/-- Refutes O52: a LOAN_REQUEST that renames a T3 index drops the index's pins before it pins the new home page. In `renamedAsk` the new page is pinned by that name
alone, as a page that is lendable; the request is accepted, and page 73,727 ends unpinned where the statement has it pinned. -/
theorem not_loanCommandsMoveTheTables : ¬ Obligations.LoanCommandsMoveTheTables := by
  unfold Obligations.LoanCommandsMoveTheTables
  intro h
  obtain ⟨hrun, hone, hpage, hask, hoffer, hnotice, hmost⟩ := renamedAsk_asks
  obtain ⟨-, hrequest, -⟩ := h renamedAsk renamingCmd [] 0 [] renamedAsk_route
  obtain ⟨t, e, -, -, -, -, hpinned, -⟩ := hrequest _ _ renamedAsk_runs hrun hone rfl hask hoffer (by decide) hnotice hmost
  have hunpins := renamedAsk_unpins
  rw [hpage] at hpinned
  rw [e, leavesPinned, hpinned rfl] at hunpins
  cases hunpins

end Sys2Proof.Proofs
end

section
/-! PROOF. A boot whose boot state record wraps SEQ (R398 to R401): the record that carries the trial on is older than every other by its number, and where its
region was full and has been erased, an old record of the other flash decides the lifecycle state. -/
namespace Sys2Proof.Machine
open Sys2Proof.Claims

/-- The public key of the secret number 1: the base point itself. -/
def unitKey : List Byte := 4#8 :: (beBytes 48 Point.base.x ++ beBytes 48 Point.base.y)

/-- A provisioning record without keys of its own, under that root key, up to its signature (R394). -/
def unsignedRecord : List Byte :=
  leBytes 4 0x44565250 ++ leBytes 2 1 ++ leBytes 2 0x0E03 ++ [1#8, 0xA1#8] ++ List.replicate 38 0#8 ++ unitKey ++ List.replicate 399 0#8

/-- Its ECDSA signature under the secret number 1 with nonce 1: r is the base point's x, s the digest plus r. -/
def unitSignature : List Byte := beBytes 48 Point.base.x ++ beBytes 48 ((beNat (sha384 unsignedRecord) + Point.base.x) % p384Order)

def signedRecord : List Byte := unsignedRecord ++ unitSignature

/-- The record with the last SEQ, on which a trial of slot A has one attempt left. -/
def lastBootRec : BootRec :=
  { seq := 0xFFFFFFFF, active := false, trial := some false, trialLeft := 1, state := .operational, rbPending := false, bootCount := 0 }

/-- A record from before the module was provisioned. -/
def oldBootRec : BootRec := { lastBootRec with seq := 1, trial := none, trialLeft := 0, state := .blank }

/-- The module at power-good: flash 0 holds the record and a full region whose newest boot state record is the last of SEQ, flash 1 an old one alone. -/
def wrapping : State :=
  { State.reset with
    fuses := { Fuses.reset with rootHash := sha384 unitKey }
    flash0 := { bytes := (signedRecord.zipIdx).map fun e => (e.2, e.1), boot := lastBootRec :: List.replicate 255 { lastBootRec with crcOk := false }, log := [] }
    flash1 := { Flash.erased with boot := [oldBootRec] } }

/-- An environment in which nothing fails. -/
def plainEnv : BootEnv :=
  { rackId := 0, slotId := 0, failSites := [], stackFail := [], fabricFail := false, ioFail := false, readBackOk := true, wipeUs := 0, timeMs := 0, trained := [] }

/-! ### The record of a flash (R394, R395) -/

theorem Flash.read_eq {f : Flash} {a : Nat} {bs : List Byte} (h : ∀ i (hi : i < bs.length), sget erasedByte f.bytes (a + i) = bs[i]) :
    f.read a bs.length = bs := by
  induction bs generalizing a with
  | nil => rfl
  | cons b bs ih =>
    rw [List.length_cons, Flash.read, ih fun i hi => ?_]
    · exact congrArg (· :: bs) (h 0 (by simp))
    · rw [show a + 1 + i = a + (i + 1) by omega]
      exact h (i + 1) (Nat.succ_lt_succ hi)

/-- Bytes listed one after another are found at their places. -/
theorem sget_zipIdx (bs : List Byte) (a : Nat) {i : Nat} (hi : i < bs.length) : sget erasedByte ((bs.zipIdx a).map fun e => (e.2, e.1)) (a + i) = bs[i] := by
  induction bs generalizing a i with
  | nil => simp at hi
  | cons b bs ih =>
    cases i with
    | zero => simp [sget]
    | succ i =>
      have h := ih (a + 1) (i := i) (by simpa using hi)
      simpa [sget, Nat.add_assoc, Nat.add_comm 1 i] using h

theorem read_signedRecord {f : Flash} (h : f.bytes = signedRecord.zipIdx.map fun e => (e.2, e.1)) : f.read 0 recordSize = signedRecord := by
  have hlength : signedRecord.length = recordSize := by decide +kernel
  rw [← hlength]
  exact Flash.read_eq fun i hi => by rw [h]; exact sget_zipIdx signedRecord 0 hi

theorem signedRecord_valid {s : State} (hroot : s.fuses.rootHash = sha384 unitKey) (hgrade : s.fuses.f512 = true) : s.recordValid signedRecord = true := by
  have hkey : rootKeyOf signedRecord = unitKey := by decide +kernel
  have hbody : signedRecord.take 544 = unsignedRecord ∧ (signedRecord.drop 544).take 96 = unitSignature := by decide +kernel
  have hverifies : signatureVerifies unitKey unsignedRecord unitSignature = true := by decide +kernel
  have hhead : leAt signedRecord 0 4 = 0x44565250 ∧ leAt signedRecord 4 2 = 1 ∧ leAt signedRecord 6 2 = 0x0E03 ∧ byteAt signedRecord 8 = 1
      ∧ byteAt signedRecord 9 = 0xA1 := by decide +kernel
  obtain ⟨hmagic, hversion, hproduct, hbyte8, hbyte9⟩ := hhead
  simp [State.recordValid, State.recordSigned, State.grade, hmagic, hversion, hproduct, hbyte8, hbyte9, hkey, hbody.1, hbody.2, hverifies, hroot, hgrade]

/-- An erased device holds no record. -/
theorem erased_notValid (s : State) {f : Flash} (h : f.bytes = []) : s.recordValid (f.read 0 recordSize) = false := by
  have hread : f.read 0 recordSize = List.replicate recordSize 0xFF#8 := by
    have hbytes := Flash.read_eq (f := f) (a := 0) (bs := List.replicate recordSize 0xFF#8) fun i hi => by rw [h, List.getElem_replicate]; rfl
    rwa [List.length_replicate] at hbytes
  have hmagic : leAt (List.replicate recordSize 0xFF#8) 0 4 ≠ 0x44565250 := by decide +kernel
  rw [hread]
  simp [State.recordValid, hmagic]

/-! ### Boot up to the choice of a slot (R399, R401) -/

/-- Boot once fuses, straps and the boot state record are read. -/
def State.bootStart (s : State) (env : BootEnv) : State :=
  State.noteBootRec { s with
    power := { s.power with good := true, rampDone := true, ref100 := true, standby := false, tripped := false, latchedOpen := false },
    grp := { s.grp with rackId := env.rackId, slotId := env.slotId },
    boot := { Boot.reset with fullSelfTest := s.boot.fullSelfTest },
    flash0 := { s.flash0 with bad := env.flashFail.contains 0 }, flash1 := { s.flash1 with bad := env.flashFail.contains 1 } }

/-- What the provisioning record says stands in the registers. -/
def State.noteRecord (s : State) (r : List Byte) : State :=
  { s with boot := { s.boot with
      keys := recordKeys r, revoked := BitVec.ofNat 4 (recordRevoked r), serial := BitVec.ofNat 64 (leAt r 12 8), recordSeq := w32 (recordSeqOf r) } }

theorem State.stopBoot_life (s : State) (code phase : Nat) : (s.stopBoot code phase).boot.life = s.boot.life := by
  have hlog : ∀ (u : State) (l : List Word), (u.logEvent 0x0001 3 l).boot = u.boot := fun u l => by
    obtain ⟨c, h, p, e⟩ := u.logEvent_frame 0x0001 3 l
    rw [e]
  have hvio : (if s.power.vio then s else s.vioOn).boot = s.boot := by split <;> rfl
  rw [State.stopBoot, hlog]
  change (if s.power.vio then s else s.vioOn).boot.life = s.boot.life
  rw [hvio]

/-- The steps of boot from there on. -/
def State.bootFrom (s : State) (env : BootEnv) : State :=
  if s.fuses.ret || s.boot.life = .retired then
    let s := s.eraseOwner
    { s with boot := { s.boot with life := .retired, keys := 0, revoked := 0, serial := BitVec.ofNat 64 (leAt (s.flash0.read 0 recordSize) 12 8) } }.stopBoot 0x40 1
  else match s.record with
    | none => s.stopBoot 0x11 2
    | some r =>
      if s.fuses.prov && !((s.recordCopies.filter s.recordValid).any fun r => recordKeys r ≠ 0) then (s.noteRecord r).stopBoot 0x11 2
      else match ((s.noteRecord r).selectSlot r).2 with
        | none => ((s.noteRecord r).selectSlot r).1.noteBootRec.stopBoot 0x10 2
        | some slot =>
          ((((s.noteRecord r).selectSlot r).1.writeBootRec fun r => { r with bootCount := r.bootCount + 1 }).noteBootRec.loadScroll slot).bootMain slot env

theorem State.bootUp_eq (s : State) (env : BootEnv) : s.bootUp env = (s.bootStart env).bootFrom env := by
  unfold State.bootUp State.bootFrom State.bootStart
  rfl

theorem State.noteBootRec_life (s : State) : s.noteBootRec.boot.life = s.bootRec.state := rfl

/-- Where no slot verifies, the lifecycle state is that of the boot state record as the choice of a slot has left it. -/
theorem State.bootFrom_life {s : State} {env : BootEnv} {r : List Byte} (hret : s.fuses.ret = false) (hlife : s.boot.life ≠ .retired) (hrecord : s.record = some r)
    (hprov : s.fuses.prov = false) (hslot : ((s.noteRecord r).selectSlot r).2 = none) :
    (s.bootFrom env).boot.life = ((s.noteRecord r).selectSlot r).1.bootRec.state := by
  have hfrom : s.bootFrom env = ((s.noteRecord r).selectSlot r).1.noteBootRec.stopBoot 0x10 2 := by
    unfold State.bootFrom
    simp only [hret, hlife, hrecord, hprov, hslot, decide_false, Bool.or_self, Bool.false_and, Bool.false_eq_true, if_false]
  rw [hfrom, State.stopBoot_life, State.noteBootRec_life]

/-! ### The boot of the wrapping module -/

theorem wrapping_start : startsBoot wrapping plainEnv (.powerGood plainEnv) := .inl ⟨rfl, rfl⟩

theorem wrapping_rec : wrapping.bootRec.state = .operational ∧ wrapping.fuses.ret = false := by decide +kernel

theorem exec_powerGood {s : State} (h : s.atPowerGood = true) (env : BootEnv) :
    exec (.powerGood env) s = .next ((s.restart.bootStart env).bootFrom env) := by
  have he : exec (.powerGood env) s = execPowerGood env s := rfl
  rw [he, execPowerGood, if_pos h, State.bootUp_eq]

/-- What boot reads first. -/
theorem wrapping_read : (wrapping.restart.bootStart plainEnv).fuses.ret = false ∧ (wrapping.restart.bootStart plainEnv).boot.life ≠ .retired
    ∧ (wrapping.restart.bootStart plainEnv).fuses.prov = false := by decide +kernel

theorem State.flushLog_empty {s : State} (hqueue : s.scr.logQueue = []) (hgap : s.scr.gap = 0) : s.flushLog = s := by
  simp [State.flushLog, State.writeLogs, State.writeLog, hqueue, hgap]

theorem wrapping_record : (wrapping.restart.bootStart plainEnv).record = some signedRecord := by
  have hrestart : (wrapping.restart.bootStart plainEnv).flash0.bytes = wrapping.flash0.bytes
      ∧ (wrapping.restart.bootStart plainEnv).flash1.bytes = [] := by
    rw [State.restart, State.flushLog_empty rfl rfl]
    exact ⟨rfl, rfl⟩
  have hcopies : (wrapping.restart.bootStart plainEnv).recordCopies
      = [(wrapping.restart.bootStart plainEnv).flash0.read 0 recordSize, (wrapping.restart.bootStart plainEnv).flash1.read 0 recordSize] := rfl
  rw [State.record, hcopies, read_signedRecord hrestart.1, List.filter_cons, signedRecord_valid rfl rfl, List.filter_cons, erased_notValid _ hrestart.2]
  rfl

/-- The trial's record has SEQ 0: it is alone on flash 0, and the old record of flash 1 comes after it. -/
theorem wrapping_chooses : (((wrapping.restart.bootStart plainEnv).noteRecord signedRecord).selectSlot signedRecord).2 = none
    ∧ (((wrapping.restart.bootStart plainEnv).noteRecord signedRecord).selectSlot signedRecord).1.bootRec.state = .blank := by decide +kernel

end Sys2Proof.Machine

namespace Sys2Proof.Proofs
open Sys2Proof.Machine Sys2Proof.Claims

/-- Refutes O41: in `wrapping` the record with which boot counts the trial's attempt has SEQ 0 and has erased the full region of flash 0; the old record of flash 1
then stands, and boot ends BLANK where the record that stood at power-good says OPERATIONAL. -/
theorem not_bootRunsItsSteps : ¬ Obligations.BootRunsItsSteps := by
  unfold Obligations.BootRunsItsSteps
  intro h
  obtain ⟨hstate, hret⟩ := wrapping_rec
  obtain ⟨hret', hlife, hprov⟩ := wrapping_read
  obtain ⟨hslot, hblank⟩ := wrapping_chooses
  obtain ⟨t, e, -, -, -, -, hboots⟩ := h wrapping plainEnv _ wrapping_start
  obtain ⟨hlife', -⟩ := hboots hret (by rw [hstate]; decide)
  rw [exec_powerGood rfl] at e
  have ht := State.bootFrom_life (env := plainEnv) hret' hlife wrapping_record hprov hslot
  rw [Host.Outcome.next.inj e, hlife', hstate, hblank] at ht
  cases ht

end Sys2Proof.Proofs
end

section
/-! PROOF. The order of a grid's tickets (R283, R284): the cells of one block by their rank in each order, the steps of the Hilbert curve, and the cells of a grid
block by block. -/
namespace Sys2Proof.Machine

/-! ### The blocks of row-major and Morton order (R284) -/

/-- The ranks of a block of side 2^n name cells of the block, each another one. -/
def FillsBlock (n : Nat) (f : Nat → Nat × Nat) : Prop :=
  (∀ d < 4 ^ n, (f d).1 < 2 ^ n ∧ (f d).2 < 2 ^ n) ∧ ∀ d < 4 ^ n, ∀ e < 4 ^ n, f d = f e → d = e

theorem four_pow_eq (n : Nat) : 4 ^ n = 2 ^ n * 2 ^ n := by rw [← Nat.mul_pow]

theorem blockCell_rowMajor_fills (n : Nat) : FillsBlock n (blockCell 0 n) := by
  have hpos : 0 < 2 ^ n := Nat.two_pow_pos n
  refine ⟨fun d hd => ⟨Nat.mod_lt d hpos, Nat.div_lt_of_lt_mul (four_pow_eq n ▸ hd)⟩, fun d _ e _ h => ?_⟩
  obtain ⟨hmod, hdiv⟩ := Prod.mk.inj h
  rw [← Nat.div_add_mod d (2 ^ n), ← Nat.div_add_mod e (2 ^ n), hmod, hdiv]

theorem evenBits_lt (d n : Nat) : evenBits d n < 2 ^ n := by
  induction n generalizing d with
  | zero => exact Nat.zero_lt_one
  | succ n ih =>
    have := ih (d / 4)
    rw [evenBits, Nat.pow_succ]
    omega

/-- The even and the odd bits give the number back. -/
theorem eq_of_evenBits {d e n : Nat} (hd : d < 4 ^ n) (he : e < 4 ^ n) (heven : evenBits d n = evenBits e n)
    (hodd : evenBits (d / 2) n = evenBits (e / 2) n) : d = e := by
  induction n generalizing d e with
  | zero => rw [Nat.pow_zero] at hd he; omega
  | succ n ih =>
    rw [evenBits, evenBits] at heven hodd
    rw [Nat.div_right_comm d, Nat.div_right_comm e] at hodd
    have hhigh : d / 4 = e / 4 := ih (by omega) (by omega) (by omega) (by omega)
    omega

theorem blockCell_morton_fills (n : Nat) : FillsBlock n (blockCell 1 n) :=
  ⟨fun d _ => ⟨evenBits_lt d n, evenBits_lt (d / 2) n⟩, fun _ hd _ he h => eq_of_evenBits hd he (Prod.mk.inj h).1 (Prod.mk.inj h).2⟩

/-! ### The Hilbert curve (R284) -/

/-- A curve through a block of side `w` in the place that the base-4 digit `q` gives it in a block of twice the side. -/
def hilbertPlace (w q : Nat) (p : Nat × Nat) : Nat × Nat :=
  match q % 4 with
  | 0 => (p.2, p.1)
  | 1 => (p.1, p.2 + w)
  | 2 => (p.1 + w, p.2 + w)
  | _ => (w - 1 - p.2 + w, w - 1 - p.1)

section
variable {q : Nat} (w : Nat) (p : Nat × Nat)

theorem hilbertPlace_first (h : q % 4 = 0) : hilbertPlace w q p = (p.2, p.1) := by simp only [hilbertPlace, h]

theorem hilbertPlace_second (h : q % 4 = 1) : hilbertPlace w q p = (p.1, p.2 + w) := by simp only [hilbertPlace, h]

theorem hilbertPlace_third (h : q % 4 = 2) : hilbertPlace w q p = (p.1 + w, p.2 + w) := by simp only [hilbertPlace, h]

theorem hilbertPlace_last (h : q % 4 = 3) : hilbertPlace w q p = (w - 1 - p.2 + w, w - 1 - p.1) := by simp only [hilbertPlace, h]

end

theorem digit_cases (q : Nat) : q % 4 = 0 ∨ q % 4 = 1 ∨ q % 4 = 2 ∨ q % 4 = 3 := by omega

/-- One level of the curve, from the digit that its last two bits give. -/
theorem hilbert_one (t w x y : Nat) : hilbert t w x y 1 = hilbertPlace w t (x, y) := by
  have hry : (t ^^^ t / 2 % 2) % 2 = (t + t / 2) % 2 := by rw [Nat.xor_mod_two_eq]; omega
  rw [hilbert, hilbert, hry]
  rcases digit_cases t with h | h | h | h
  · have hrx : t / 2 % 2 = 0 := by omega
    have hlow : (t + t / 2) % 2 = 0 := by omega
    simp [hilbertPlace_first w _ h, hrx, hlow]
  · have hrx : t / 2 % 2 = 0 := by omega
    have hlow : (t + t / 2) % 2 = 1 := by omega
    simp [hilbertPlace_second w _ h, hrx, hlow]
  · have hrx : t / 2 % 2 = 1 := by omega
    have hlow : (t + t / 2) % 2 = 1 := by omega
    simp [hilbertPlace_third w _ h, hrx, hlow]
  · have hrx : t / 2 % 2 = 1 := by omega
    have hlow : (t + t / 2) % 2 = 0 := by omega
    simp [hilbertPlace_last w _ h, hrx, hlow]

theorem hilbert_add (t w x y m n : Nat) :
    hilbert t w x y (m + n) = hilbert (t / 4 ^ m) (w * 2 ^ m) (hilbert t w x y m).1 (hilbert t w x y m).2 n := by
  induction m generalizing t w x y with
  | zero => simp [hilbert]
  | succ m ih =>
    rw [Nat.succ_add, hilbert, ih, hilbert, Nat.div_div_eq_div_mul, Nat.mul_assoc w, ← Nat.pow_succ', ← Nat.pow_succ']

/-- The curve through a block of side 2^(n+1) is four curves through blocks of side 2^n. -/
theorem hilbertCell_succ (t n : Nat) : blockCell 2 (n + 1) t = hilbertPlace (2 ^ n) (t / 4 ^ n) (blockCell 2 n t) := by
  change hilbert t 1 0 0 (n + 1) = hilbertPlace _ _ (hilbert t 1 0 0 n)
  rw [hilbert_add, hilbert_one, Nat.one_mul]

theorem hilbertCell_lt (t n : Nat) : (blockCell 2 n t).1 < 2 ^ n ∧ (blockCell 2 n t).2 < 2 ^ n := by
  induction n with
  | zero => exact ⟨Nat.zero_lt_one, Nat.zero_lt_one⟩
  | succ n ih =>
    obtain ⟨hx, hy⟩ := ih
    rw [hilbertCell_succ, Nat.pow_succ, hilbertPlace]
    split <;> constructor <;> dsimp only <;> omega

/-- A rank of n + 1 digits is its last n digits and the first. -/
theorem mod_four_pow_succ (t n : Nat) : t % 4 ^ (n + 1) = t % 4 ^ n + 4 ^ n * (t / 4 ^ n % 4) := by rw [Nat.pow_succ, Nat.mod_mul]

/-- The quadrant and the place in it show in the cell. -/
theorem hilbertPlace_inj {w q r : Nat} {a b : Nat × Nat} (ha : a.1 < w ∧ a.2 < w) (hb : b.1 < w ∧ b.2 < w)
    (h : hilbertPlace w q a = hilbertPlace w r b) : q % 4 = r % 4 ∧ a = b := by
  obtain ⟨ax, ay⟩ := a
  obtain ⟨bx, bz⟩ := b
  dsimp only at ha hb
  rw [Prod.mk.injEq]
  rcases digit_cases q with hq | hq | hq | hq <;> rcases digit_cases r with hr | hr | hr | hr <;>
    simp only [hilbertPlace_first, hilbertPlace_second, hilbertPlace_third, hilbertPlace_last, hq, hr, Prod.mk.injEq] at h <;> omega

theorem hilbertCell_inj {t u n : Nat} (h : blockCell 2 n t = blockCell 2 n u) : t % 4 ^ n = u % 4 ^ n := by
  induction n with
  | zero => rw [Nat.pow_zero, Nat.mod_one, Nat.mod_one]
  | succ n ih =>
    rw [hilbertCell_succ, hilbertCell_succ] at h
    obtain ⟨hdigit, hcell⟩ := hilbertPlace_inj (hilbertCell_lt t n) (hilbertCell_lt u n) h
    rw [mod_four_pow_succ, mod_four_pow_succ, hdigit, ih hcell]

theorem blockCell_hilbert_fills (n : Nat) : FillsBlock n (blockCell 2 n) := by
  refine ⟨fun d _ => hilbertCell_lt d n, fun d hd e he h => ?_⟩
  rw [← Nat.mod_eq_of_lt hd, ← Nat.mod_eq_of_lt he, hilbertCell_inj h]

/-- Two cells side by side. -/
def Adjacent (p q : Nat × Nat) : Prop := ((p.1 : Int) - q.1).natAbs + ((p.2 : Int) - q.2).natAbs = 1

/-- The curve begins at the block's first cell. -/
theorem hilbertCell_first {t n : Nat} (h : t % 4 ^ n = 0) : blockCell 2 n t = (0, 0) := by
  induction n with
  | zero => rfl
  | succ n ih =>
    have hpos : 0 < 4 ^ n := Nat.pow_pos (by decide)
    rw [mod_four_pow_succ, Nat.add_eq_zero_iff, Nat.mul_eq_zero] at h
    obtain ⟨hlow, hdigit⟩ := h
    rw [hilbertCell_succ, ih hlow, hilbertPlace_first _ _ (hdigit.resolve_left hpos.ne')]

/-- The curve ends at the far end of the first row. -/
theorem hilbertCell_last {t n : Nat} (h : t % 4 ^ n + 1 = 4 ^ n) : blockCell 2 n t = (2 ^ n - 1, 0) := by
  induction n with
  | zero => rfl
  | succ n ih =>
    have hpos : 0 < 4 ^ n := Nat.pow_pos (by decide)
    have hlt : t % 4 ^ n < 4 ^ n := Nat.mod_lt t hpos
    have hdigit : t / 4 ^ n % 4 < 4 := Nat.mod_lt _ (by decide)
    rw [mod_four_pow_succ, Nat.pow_succ] at h
    have hlast : t / 4 ^ n % 4 = 3 := by
      by_contra hne
      have := Nat.mul_le_mul_left (4 ^ n) (show t / 4 ^ n % 4 ≤ 2 by omega)
      omega
    rw [hlast] at h
    rw [hilbertCell_succ, ih (by omega), hilbertPlace_last _ _ hlast]
    have : 0 < 2 ^ n := Nat.two_pow_pos n
    refine Prod.ext ?_ ?_ <;> dsimp only <;> omega

/-- A quadrant's curve has the steps of the curve that it places. -/
theorem adjacent_hilbertPlace {w q : Nat} {a b : Nat × Nat} (ha : a.1 < w ∧ a.2 < w) (hb : b.1 < w ∧ b.2 < w) (h : Adjacent a b) :
    Adjacent (hilbertPlace w q a) (hilbertPlace w q b) := by
  unfold Adjacent at h
  unfold hilbertPlace Adjacent
  split <;> dsimp only <;> omega

/-- Where one quadrant's curve ends the next one's begins, side by side. -/
theorem adjacent_quadrants {w q : Nat} (hw : 0 < w) (hq : q % 4 ≠ 3) :
    Adjacent (hilbertPlace w q (w - 1, 0)) (hilbertPlace w (q + 1) (0, 0)) := by
  unfold Adjacent
  rcases digit_cases q with h | h | h | h
  · rw [hilbertPlace_first w _ h, hilbertPlace_second w _ (by omega)]
    dsimp only
    omega
  · rw [hilbertPlace_second w _ h, hilbertPlace_third w _ (by omega)]
    dsimp only
    omega
  · rw [hilbertPlace_third w _ h, hilbertPlace_last w _ (by omega)]
    dsimp only
    omega
  · exact absurd h hq

/-- The curve steps from cell to adjacent cell. -/
theorem hilbertCell_adjacent {t n : Nat} (h : t % 4 ^ n + 1 < 4 ^ n) : Adjacent (blockCell 2 n t) (blockCell 2 n (t + 1)) := by
  induction n with
  | zero => rw [Nat.pow_zero] at h; omega
  | succ n ih =>
    have hpos : 0 < 4 ^ n := Nat.pow_pos (by decide)
    have hlt : t % 4 ^ n < 4 ^ n := Nat.mod_lt t hpos
    have ht := Nat.div_add_mod t (4 ^ n)
    rw [hilbertCell_succ, hilbertCell_succ]
    by_cases hin : t % 4 ^ n + 1 < 4 ^ n
    · have hsame : (t + 1) / 4 ^ n = t / 4 ^ n := by
        rw [← ht, Nat.add_assoc, Nat.mul_add_div hpos, Nat.div_eq_of_lt hin, Nat.mul_add_div hpos, Nat.div_eq_of_lt hlt]
      rw [hsame]
      exact adjacent_hilbertPlace (hilbertCell_lt t n) (hilbertCell_lt (t + 1) n) (ih hin)
    · have hend : t % 4 ^ n + 1 = 4 ^ n := by omega
      have hsum : t + 1 = 4 ^ n * (t / 4 ^ n + 1) := by rw [Nat.mul_succ]; omega
      have hnext : (t + 1) / 4 ^ n = t / 4 ^ n + 1 := by rw [hsum, Nat.mul_div_cancel_left _ hpos]
      rw [hnext, hilbertCell_last hend, hilbertCell_first (show (t + 1) % 4 ^ n = 0 by rw [hsum, Nat.mul_mod_right])]
      refine adjacent_quadrants (Nat.two_pow_pos n) fun hdigit => ?_
      rw [mod_four_pow_succ, hdigit, Nat.pow_succ] at h
      omega

/-! ### The grid (R283, R284) -/

theorem blockCell_fills {order : Nat} (horder : order ≤ 2) (n : Nat) : FillsBlock n (blockCell order n) := by
  match order, horder with
  | 0, _ => exact blockCell_rowMajor_fills n
  | 1, _ => exact blockCell_morton_fills n
  | 2, _ => exact blockCell_hilbert_fills n

/-- Every cell of a block has its rank, since there are as many ranks as cells. -/
theorem FillsBlock.exists_rank {n : Nat} {f : Nat → Nat × Nat} (hf : FillsBlock n f) {x y : Nat} (hx : x < 2 ^ n) (hy : y < 2 ^ n) :
    ∃ d < 4 ^ n, f d = (x, y) := by
  have hsurj : Set.SurjOn f (Finset.range (4 ^ n)) (Finset.range (2 ^ n) ×ˢ Finset.range (2 ^ n) : Finset (Nat × Nat)) := by
    refine Finset.surjOn_of_injOn_of_card_le f (fun d hd => ?_) (fun d hd e he => ?_) ?_
    · simpa using hf.1 d (by simpa using hd)
    · exact hf.2 d (by simpa using hd) e (by simpa using he)
    · simp [four_pow_eq]
  obtain ⟨d, hd, h⟩ := hsurj (show (x, y) ∈ _ by simpa using And.intro hx hy)
  exact ⟨d, by simpa using hd, h⟩

/-- The cells of the grid in the block at (bi, bj), by their rank. -/
def blockOfGrid (order block tr tc bi bj : Nat) : List (Nat × Nat) :=
  ((List.range (2 ^ block * 2 ^ block)).map fun d =>
    let c := blockCell order block d; (bi * 2 ^ block + c.2, bj * 2 ^ block + c.1)).filter fun c => c.1 < tr && c.2 < tc

theorem gridCells_eq (order block tr tc : Nat) : gridCells order block tr tc =
    (List.range (ceilDiv tr (2 ^ block))).flatMap fun bi => (List.range (ceilDiv tc (2 ^ block))).flatMap (blockOfGrid order block tr tc bi) := rfl

theorem lt_ceilDiv_of_lt {i n s : Nat} (hs : 0 < s) (h : i < n) : i / s < ceilDiv n s := by
  rw [ceilDiv, Nat.lt_iff_add_one_le, Nat.le_div_iff_mul_le hs, Nat.succ_mul]
  have := Nat.div_mul_le_self i s
  omega

section
variable {order block : Nat} (hf : FillsBlock block (blockCell order block)) (tr tc : Nat)
include hf

theorem mem_blockOfGrid (bi bj i j : Nat) :
    (i, j) ∈ blockOfGrid order block tr tc bi bj ↔ (i / 2 ^ block = bi ∧ j / 2 ^ block = bj) ∧ i < tr ∧ j < tc := by
  have hpos : 0 < 2 ^ block := Nat.two_pow_pos block
  simp only [blockOfGrid, List.mem_filter, List.mem_map, List.mem_range, Bool.and_eq_true, decide_eq_true_eq, and_congr_left_iff,
    ← four_pow_eq, Prod.mk.injEq]
  rintro -
  constructor
  · rintro ⟨d, hd, rfl, rfl⟩
    obtain ⟨hx, hy⟩ := hf.1 d hd
    simp [Nat.mul_comm _ (2 ^ block), Nat.mul_add_div hpos, Nat.div_eq_of_lt hx, Nat.div_eq_of_lt hy]
  · rintro ⟨rfl, rfl⟩
    obtain ⟨d, hd, h⟩ := hf.exists_rank (Nat.mod_lt j hpos) (Nat.mod_lt i hpos)
    exact ⟨d, hd, by rw [h, Nat.div_add_mod'], by rw [h, Nat.div_add_mod']⟩

theorem nodup_blockOfGrid (bi bj : Nat) : (blockOfGrid order block tr tc bi bj).Nodup := by
  refine List.Nodup.filter _ (List.Nodup.map_on (fun d hd e he h => ?_) List.nodup_range)
  obtain ⟨hrow, hcol⟩ := Prod.mk.inj h
  rw [List.mem_range, ← four_pow_eq] at hd he
  exact hf.2 d hd e he (Prod.ext (Nat.add_left_cancel hcol) (Nat.add_left_cancel hrow))

theorem mem_gridCells (i j : Nat) : (i, j) ∈ gridCells order block tr tc ↔ i < tr ∧ j < tc := by
  have hpos : 0 < 2 ^ block := Nat.two_pow_pos block
  simp only [gridCells_eq, List.mem_flatMap, List.mem_range, mem_blockOfGrid hf]
  constructor
  · rintro ⟨-, -, -, -, -, h⟩
    exact h
  · rintro ⟨hi, hj⟩
    exact ⟨_, lt_ceilDiv_of_lt hpos hi, _, lt_ceilDiv_of_lt hpos hj, ⟨rfl, rfl⟩, hi, hj⟩

theorem nodup_gridCells : (gridCells order block tr tc).Nodup := by
  rw [gridCells_eq, List.nodup_flatMap]
  refine ⟨fun bi _ => List.nodup_flatMap.mpr ⟨fun bj _ => nodup_blockOfGrid hf tr tc bi bj, ?_⟩, ?_⟩
  · refine List.nodup_range.imp fun {bj bj'} hne => List.disjoint_left.mpr ?_
    rintro ⟨i, j⟩ h h'
    exact hne (((mem_blockOfGrid hf tr tc bi bj i j).mp h).1.2.symm.trans ((mem_blockOfGrid hf tr tc bi bj' i j).mp h').1.2)
  · refine List.nodup_range.imp fun {bi bi'} hne => List.disjoint_left.mpr ?_
    rintro ⟨i, j⟩ h h'
    obtain ⟨bj, -, h⟩ := List.mem_flatMap.mp h
    obtain ⟨bj', -, h'⟩ := List.mem_flatMap.mp h'
    exact hne (((mem_blockOfGrid hf tr tc bi bj i j).mp h).1.1.symm.trans ((mem_blockOfGrid hf tr tc bi' bj' i j).mp h').1.1)

end

/-- A block of one cell. -/
theorem blockOfGrid_zero {order tr tc bi bj : Nat} (horder : order ≤ 2) (hi : bi < tr) (hj : bj < tc) :
    blockOfGrid order 0 tr tc bi bj = [(bi, bj)] := by
  have hcell : blockCell order 0 0 = (0, 0) := by
    match order, horder with
    | 0, _ => rfl
    | 1, _ => rfl
    | 2, _ => rfl
  simp [blockOfGrid, hcell, hi, hj]

/-- Rows one after another are the numbers below their product. -/
theorem flatMap_rows (tr tc : Nat) :
    ((List.range tr).flatMap fun i => (List.range tc).map fun j => (i, j)) = (List.range (tr * tc)).map fun t => (t / tc, t % tc) := by
  induction tr with
  | zero => simp
  | succ n ih =>
    rw [List.range_succ, List.flatMap_append, ih, Nat.succ_mul, List.range_add, List.map_append, List.map_map, List.flatMap_singleton]
    refine congrArg (_ ++ ·) (List.map_congr_left fun j hj => ?_)
    have hlt : j < tc := List.mem_range.mp hj
    have hpos : 0 < tc := Nat.zero_lt_of_lt hlt
    simp [Nat.mul_comm n, Nat.mul_add_div hpos, Nat.div_eq_of_lt hlt, Nat.mod_eq_of_lt hlt]

/-- With BLOCK 0 the cells run in row-major order. -/
theorem gridCells_zero {order : Nat} (horder : order ≤ 2) (tr tc : Nat) :
    gridCells order 0 tr tc = (List.range (tr * tc)).map fun t => (t / tc, t % tc) := by
  have hceil (n : Nat) : ceilDiv n (2 ^ 0) = n := by simp [ceilDiv]
  rw [gridCells_eq, hceil, hceil, ← flatMap_rows]
  refine List.flatMap_congr fun bi hi => ?_
  rw [← List.flatMap_pure_eq_map]
  exact List.flatMap_congr fun bj hj => blockOfGrid_zero horder (List.mem_range.mp hi) (List.mem_range.mp hj)

end Sys2Proof.Machine

namespace Sys2Proof.Proofs
open Sys2Proof.Machine

/-- Settles O27: each order's ranks fill a block without repeats, and the blocks of a grid are apart. -/
theorem everyCellHasOneTicket : Obligations.EveryCellHasOneTicket := by
  unfold Obligations.EveryCellHasOneTicket
  intro order block tr tc horder _
  have hf := blockCell_fills horder block
  refine ⟨nodup_gridCells hf tr tc, mem_gridCells hf tr tc, ?_, ?_⟩
  · rintro rfl t ht
    rw [gridCells_zero horder, List.getElem?_map, List.getElem?_range ht]
    rfl
  · rintro rfl d hd
    exact hilbertCell_adjacent ((Nat.mod_eq_of_lt (Nat.lt_of_succ_lt hd)).symm ▸ hd)

end Sys2Proof.Proofs
end

section
/-! PROOF. Takes of tickets (R279 to R281, R283): what a counter's home gives to a take, what a take that travels changes, and a gang's outstanding take. -/
namespace Sys2Proof.Machine

/-! ### The home of a counter (R279, R281) -/

section
variable (w : Well) (n quill gang : Nat) (tag : BitVec 8)

/-- The ticket of a new take and the well with its counter moved on; a counter that no entry sets gives none. -/
def takenFrom : Option Nat × Well := if (w.counter n).limit = 0 then (none, w) else newTicket w n quill gang

/-- The well as it counts a take without a ticket. -/
def countEmpty (r : Option Nat × Well) : Well := if r.1.isNone then { r.2 with tktempty := satAdd r.2.tktempty 1 } else r.2

/-- The record that the home keeps of a new take. -/
def takeRecordOf : TakerRec :=
  { counter := n, tag := tag, reply := (takenFrom w n quill gang).1, tile := (takenFrom w n quill gang).1.bind (tileOfTicket (w.counter n)) }

theorem serveNew_eq : serveNew w n quill gang tag =
    { countEmpty (takenFrom w n quill gang) with
      takers := sset (fun _ => none) (countEmpty (takenFrom w n quill gang)).takers (8 * quill + gang) (some (takeRecordOf w n quill gang tag)) } := rfl

variable {w n quill gang tag}

theorem serveTake_repeated {r : TakerRec} (hr : sget (fun _ => none) w.takers (8 * quill + gang) = some r) (htag : r.tag = tag) :
    serveTake w n quill gang tag = { w with tktretry := satAdd w.tktretry 1 } := by
  rw [serveTake, hr]
  exact if_pos htag

theorem serveTake_new (h : ∀ r, sget (fun _ => none) w.takers (8 * quill + gang) = some r → r.tag ≠ tag) :
    serveTake w n quill gang tag = serveNew w n quill gang tag := by
  unfold serveTake
  split
  · rename_i r hr
    exact if_neg (h r hr)
  · rfl

theorem serveNew_reply : sget (fun _ => none) (serveNew w n quill gang tag).takers (8 * quill + gang) = some (takeRecordOf w n quill gang tag) := by
  rw [serveNew_eq, sget_sset]

/-- In TAKE mode the next ticket, below the limit. -/
theorem takenFrom_next (hdeal : (w.counter n).deal = false) (h : (w.counter n).next.toNat < (w.counter n).limit.toNat) :
    takenFrom w n quill gang = (some (w.counter n).next.toNat,
      { w with counters := sset (fun _ => Counter.reset) w.counters n { w.counter n with next := (w.counter n).next + 1 } }) := by
  have hlimit : (w.counter n).limit ≠ 0 := fun h0 => by rw [h0] at h; exact Nat.not_lt_zero _ h
  rw [takenFrom, if_neg hlimit]
  exact (if_neg (Bool.eq_false_iff.mp hdeal)).trans (if_pos h)

/-- In TAKE mode nothing at the limit. -/
theorem takenFrom_empty (hdeal : (w.counter n).deal = false) (h : (w.counter n).limit.toNat ≤ (w.counter n).next.toNat) :
    takenFrom w n quill gang = (none, w) := by
  unfold takenFrom
  split
  · rfl
  · exact (if_neg (Bool.eq_false_iff.mp hdeal)).trans (if_neg (Nat.not_lt.mpr h))

/-- How many takes of a counter a taker has been dealt. -/
def dealtTo (w : Well) (n quill gang : Nat) : Nat := sget (fun _ => 0) w.dealt (2048 * n + 8 * quill + gang)

/-- Ticket r + j × Q of a taker (R281). -/
def dealTicket (w : Well) (n quill gang : Nat) : Nat :=
  ((w.counter n).takers.takeWhile (· ≠ (quill, gang))).length + dealtTo w n quill gang * (w.counter n).takers.length

/-- In DEAL mode the taker's own next ticket, below the limit. -/
theorem takenFrom_deal (hdeal : (w.counter n).deal = true) (hlimit : (w.counter n).limit ≠ 0) :
    (takenFrom w n quill gang).1 = (if dealTicket w n quill gang < (w.counter n).limit.toNat then some (dealTicket w n quill gang) else none)
      ∧ (takenFrom w n quill gang).2.dealt = sset (fun _ => 0) w.dealt (2048 * n + 8 * quill + gang) (dealtTo w n quill gang + 1) := by
  have hnew : takenFrom w n quill gang = newTicket w n quill gang := if_neg hlimit
  have hdeals : newTicket w n quill gang = _ := if_pos hdeal
  rw [hnew, hdeals]
  exact ⟨rfl, rfl⟩

theorem countEmpty_dealt (r : Option Nat × Well) : (countEmpty r).dealt = r.2.dealt := by unfold countEmpty; split <;> rfl

end

/-! ### A take that travels (R279, R280) -/

section
variable {u : State} {die quill gang : Nat} {a : Asked}

theorem Quill.gang_of_askedOf {x : Quill} (h : x.askedOf gang = some a) : a.gang = gang := by
  have := List.find?_some h
  simpa using this

theorem State.sendTake_frame (u : State) (die quill : Nat) (a : Asked) (loss : TakeLoss) : u.sendTake die quill a loss =
    { u with wells := (u.sendTake die quill a loss).wells, quills := (u.sendTake die quill a loss).quills } := by
  cases loss <;> rfl

theorem State.sendTake_quill_other (u : State) (die quill : Nat) (a : Asked) (loss : TakeLoss) {k : Nat} (hk : k ≠ 256 * die + quill) :
    (u.sendTake die quill a loss).quill k = u.quill k := by
  cases loss
  case none => exact State.setQuill_quill_other _ _ _ k hk
  case request => rfl
  case reply => rfl

theorem State.sendTake_well_other (u : State) (die quill : Nat) (a : Asked) (loss : TakeLoss) {d : Nat} (hd : d ≠ die) :
    (u.sendTake die quill a loss).well d = u.well d := by
  cases loss
  case request => rfl
  all_goals exact State.setWell_well_other _ _ _ d hd

/-- The home is reached unless the request is lost. -/
theorem State.sendTake_well {loss : TakeLoss} (h : loss ≠ .request) :
    (u.sendTake die quill a loss).well die = serveTake (u.well die) a.counter quill a.gang a.tag := by
  cases loss
  case request => exact absurd rfl h
  all_goals exact State.setWell_well _ _ _

/-- The take is outstanding until its reply arrives. -/
theorem State.sendTake_asked {loss : TakeLoss} (h : (u.quill (256 * die + quill)).askedOf a.gang = some a) :
    ((u.sendTake die quill a loss).quill (256 * die + quill)).askedOf a.gang = if loss = .none then none else some a := by
  cases loss
  case none =>
    change (State.quill (State.setQuill _ _ _) _).askedOf a.gang = none
    rw [State.setQuill_quill]
    exact List.find?_eq_none.mpr fun b hb => by simpa using (List.mem_filter.mp hb).2
  all_goals exact h

theorem State.sendTake_tags (u : State) (die quill : Nat) (a : Asked) (loss : TakeLoss) :
    ((u.sendTake die quill a loss).quill (256 * die + quill)).tags = (u.quill (256 * die + quill)).tags := by
  cases loss
  case none =>
    change (State.quill (State.setQuill _ _ _) _).tags = _
    rw [State.setQuill_quill]
    rfl
  all_goals rfl

/-- The ticket that arrives with the reply. -/
theorem State.sendTake_tickets {r : TakerRec}
    (h : sget (fun _ => none) ((u.sendTake die quill a .none).well die).takers (8 * quill + a.gang) = some r) :
    ((u.sendTake die quill a .none).quill (256 * die + quill)).tickets = (u.quill (256 * die + quill)).tickets
      ++ (r.reply.bind (ticketOfReply (((u.sendTake die quill a .none).well die).counter r.counter) a.gang r.counter)).toList := by
  change (State.quill (State.setQuill _ _ _) _).tickets = _
  rw [State.setQuill_quill]
  change _ ++ ((sget (fun _ => none) ((u.sendTake die quill a .none).well die).takers (8 * quill + a.gang)).bind _).toList = _
  rw [h]
  rfl

end

/-! ### The commands -/

/-- The gang's take with its next tag. -/
def State.nextTake (s : State) (die counter quill gang : Nat) : Asked :=
  { gang := gang, counter := counter, tag := sget (fun _ => 0#8) (s.quill (256 * die + quill)).tags gang }

/-- A new take is noted as outstanding, its tag used. -/
def State.noteTake (s : State) (die counter quill gang : Nat) : State :=
  s.modQuill (256 * die + quill) fun x =>
    { x with tags := sset (fun _ => 0#8) x.tags gang ((s.nextTake die counter quill gang).tag + 1), asked := x.asked ++ [s.nextTake die counter quill gang] }

section
variable {s : State} {die n q g : Nat} {loss : TakeLoss} (hlive : s.live = true) (hok : s.takerOk die n q g = true)
include hlive hok

theorem execTicketTake_outstanding (h : (s.quill (256 * die + q)).askedOf g ≠ none) : exec (.ticketTake die n q g loss) s = .next s := by
  obtain ⟨a, ha⟩ := Option.ne_none_iff_exists'.mp h
  change execTicketTake die n q g loss s = _
  simp [execTicketTake, hlive, hok, ha]

theorem execTicketTake_takes (h : (s.quill (256 * die + q)).askedOf g = none) (hmay : mayTake (s.well die) n q g = true) :
    exec (.ticketTake die n q g loss) s = .next (s.newTake die n q g loss) := by
  change execTicketTake die n q g loss s = _
  simp [execTicketTake, hlive, hok, h, hmay]

theorem execTicketTimeout_idle (h : (s.quill (256 * die + q)).askedOf g = none) : exec (.ticketTimeout die n q g loss) s = .next s := by
  change execTicketTimeout die n q g loss s = _
  simp [execTicketTimeout, hlive, hok, h]

theorem execTicketTimeout_resends {a : Asked} (h : (s.quill (256 * die + q)).askedOf g = some a) (hn : a.counter = n) :
    exec (.ticketTimeout die n q g loss) s = .next (s.sendTake die q a loss) := by
  change execTicketTimeout die n q g loss s = _
  simp [execTicketTimeout, hlive, hok, h, hn]

/-- A new take and one that is sent again alike: a take that is outstanding in a state that differs from `s` at most in that gang's own account travels to
its home. -/
theorem take_travels {a : Asked} {cmd : Instr}
    (h : (cmd = .ticketTake die n q g loss ∧ (s.quill (256 * die + q)).askedOf g = none ∧ mayTake (s.well die) n q g = true ∧ a = s.nextTake die n q g)
      ∨ (cmd = .ticketTimeout die n q g loss ∧ (s.quill (256 * die + q)).askedOf g = some a ∧ a.counter = n)) :
    ∃ u : State, exec cmd s = .next (u.sendTake die q a loss) ∧ u = { s with quills := u.quills } ∧ a.gang = g ∧ a.counter = n
      ∧ (u.quill (256 * die + q)).askedOf g = some a ∧ (u.quill (256 * die + q)).tickets = (s.quill (256 * die + q)).tickets
      ∧ (∀ k, k ≠ 256 * die + q → u.quill k = s.quill k)
      ∧ (cmd = .ticketTake die n q g loss → sget (fun _ => 0#8) (u.quill (256 * die + q)).tags g = a.tag + 1) := by
  rcases h with ⟨rfl, hasked, hmay, rfl⟩ | ⟨rfl, hasked, hn⟩
  · refine ⟨s.noteTake die n q g, execTicketTake_takes hlive hok hasked hmay, rfl, rfl, rfl, ?_, ?_, fun k hk => State.setQuill_quill_other _ _ _ k hk, ?_⟩
    all_goals
      unfold State.noteTake
      rw [State.modQuill_eq, State.setQuill_quill]
    · have hnone : (s.quill (256 * die + q)).asked.find? (fun a => a.gang = g) = none := hasked
      change List.find? _ (_ ++ [_]) = _
      rw [List.find?_append, hnone]
      simp [State.nextTake]
    · exact fun _ => sget_sset g _
  · exact ⟨s, execTicketTimeout_resends hlive hok hasked hn, rfl, Quill.gang_of_askedOf hasked, hn, hasked, rfl, fun _ _ => rfl, nofun⟩

end

end Sys2Proof.Machine

namespace Sys2Proof.Proofs
open Sys2Proof Sys2Proof.Machine Sys2Proof.Claims

/-- Settles O26: both commands send the gang's outstanding take to its home, which serves it by its tag and the counter's mode. -/
theorem takesFollowTheCounterMode : Obligations.TakesFollowTheCounterMode := by
  unfold Obligations.TakesFollowTheCounterMode
  intro s die n q g loss a cmd hlive hok
  refine ⟨execTicketTake_outstanding hlive hok, execTicketTimeout_idle hlive hok, fun h => ?_⟩
  obtain ⟨u, he, hu, rfl, rfl, hasked, htickets, hothers, htags⟩ := take_travels hlive hok h
  have hwell (d : Nat) : u.well d = s.well d := by rw [hu]; rfl
  refine ⟨_, he, ?_, ?_, ?_, State.sendTake_asked hasked, ?_, ?_, ?_, fun hloss => ?_⟩
  · rw [State.sendTake_frame, hu]
  · exact fun k hk => (u.sendTake_quill_other die q a loss hk).trans (hothers k hk)
  · exact fun d hd => (u.sendTake_well_other die q a loss hd).trans (hwell d)
  · exact fun hcmd => (congrArg (fun t => sget (fun _ => 0#8) t a.gang) (u.sendTake_tags die q a loss)).trans (htags hcmd)
  · rintro rfl
    exact (congrArg State.wells hu :)
  · rintro rfl r hr
    exact (State.sendTake_tickets hr).trans (htickets ▸ rfl)
  · have hserved := State.sendTake_well (u := u) (die := die) (quill := q) (a := a) hloss
    rw [hwell] at hserved
    simp only [replyOf, hserved]
    refine ⟨fun r => serveTake_repeated, fun hnew => ?_⟩
    rw [serveTake_new hnew, serveNew_reply]
    refine ⟨fun hdeal hlt => ?_, fun hdeal hle => ?_, fun hdeal hlimit => ?_⟩
    · rw [takeRecordOf, serveNew_eq, takenFrom_next hdeal hlt]
      exact ⟨sget_sset _ _, fun m hm => sget_sset_other _ hm, rfl, rfl⟩
    · rw [takeRecordOf, serveNew_eq, takenFrom_empty hdeal hle]
      exact ⟨rfl, rfl, rfl⟩
    · obtain ⟨hticket, hdealt⟩ := takenFrom_deal (quill := q) (gang := a.gang) hdeal hlimit
      refine ⟨?_, ?_⟩
      · rw [serveNew_eq, countEmpty_dealt, hdealt, sget_sset]
        rfl
      · rw [takeRecordOf, hticket]
        change _ = some (if dealTicket (s.well die) a.counter q a.gang < _ then _ else _)
        split <;> rfl

end Sys2Proof.Proofs
end

section
/-! PROOF. Mastership, holdover and steps of the GTC (R264 to R268, R402): what each command of the time discipline leaves. -/
namespace Sys2Proof.Machine

/-! ### Shared operations -/

theorem State.becomeReady_gtc (s : State) (now : Nat) : (s.becomeReady now).gtc = s.gtc := by
  unfold State.becomeReady
  dsimp only
  obtain ⟨c, h, p, e⟩ := State.logEvent_frame { s with
    boot := { s.boot with code := 1, phase := 12, timeMs := BitVec.ofNat 16 (min 0xFFFF (now / 1000000)) } } 0x0001 0 _
  rw [e]

theorem State.becomeReady_ready (s : State) (now : Nat) : (s.becomeReady now).ready = true := by
  unfold State.becomeReady
  dsimp only
  obtain ⟨c, h, p, e⟩ := State.logEvent_frame { s with
    boot := { s.boot with code := 1, phase := 12, timeMs := BitVec.ofNat 16 (min 0xFFFF (now / 1000000)) } } 0x0001 0 _
  rw [e]
  rfl

theorem State.raiseGtc_gtc (s : State) (i : Nat) : (s.raiseGtc i).gtc = { s.gtc with evt := s.gtc.evt.raise i } := by
  obtain ⟨c, h, p, e⟩ := s.raiseGtc_frame i
  rw [e]

/-- A new master is locked, at offset 0 (R266). -/
theorem State.takeMaster_gtc (s : State) : s.takeMaster.gtc =
    { s.gtc with locked := true, master := true, holdover := false, masterRank := s.grp.rank, offset := 0, window := [], slewPpm := 0, exch := none,
                 stepDue := false } := by rw [State.takeMaster, State.ownMaster]

theorem State.passMs_grp (s : State) (ms : Nat) : (s.passMs ms).grp = s.grp := by rw [State.passMs]

theorem State.raiseGtc_strk (s : State) (i : Nat) : (s.raiseGtc i).strk = s.strk := by
  obtain ⟨c, h, p, e⟩ := s.raiseGtc_frame i
  rw [e]

theorem State.raiseGtc_mem (s : State) (i : Nat) : (s.raiseGtc i).mem = s.mem := by
  obtain ⟨c, h, p, e⟩ := s.raiseGtc_frame i
  rw [e]

/-- LOCKED goes with its flag, the rest of the GTC stays. -/
theorem State.unlock_gtc {s : State} (h : s.gtc.locked = true) : s.unlock.gtc = { s.gtc with locked := false, evt := s.gtc.evt.raise 0 } := by
  have hg := State.raiseGtc_gtc { s with gtc := { s.gtc with locked := false } } 0
  rw [State.unlock, h, Bool.not_true, if_neg Bool.false_ne_true]
  dsimp only
  split <;> exact hg

/-- With LOCKED goes the running job's promise (R294, R295). -/
theorem State.unlock_isVoid {s : State} (h : s.gtc.locked = true) (hrun : s.strk.run.isSome = true) : s.unlock.strk.isVoid = true := by
  obtain ⟨j, hj⟩ := Option.isSome_iff_exists.mp hrun
  have hstrk := State.raiseGtc_strk { s with gtc := { s.gtc with locked := false } } 0
  rw [State.unlock, h, Bool.not_true, if_neg Bool.false_ne_true]
  dsimp only
  rw [hstrk, hj]

/-! ### The commands -/

section
variable {s : State}

theorem exec_gtcLock {g : BitVec 64} {m l : Nat} {rest : List Nat} (hwaits : s.awaitsMaster = true) (hm : s.candidates.contains m = true)
    (hself : m ≠ s.grp.rank.toNat) (hup : s.upPair m = l :: rest) : exec (.gtcLock g m) s = .next ((State.raiseGtc
      { s with gtc := { s.gtc with now := g, locked := true, master := false, masterRank := BitVec.ofNat 7 m, offset := 0 } } 2).becomeReady s.gtc.now.toNat) := by
  change execGtcLock g m s = _
  simp [execGtcLock, hwaits, List.contains_iff_mem.mp hm, hself, hup]

theorem exec_masterTakeover (hwaits : s.awaitsMaster = true) (hc : s.isCandidate = true) :
    exec .masterTakeover s = .next ((s.passMs 1000).takeMaster.becomeReady (s.passMs 1000).gtc.now.toNat) := by
  change execMasterTakeover s = _
  simp [execMasterTakeover, hwaits, hc]

/-- A candidate that hears no master succeeds it, by either silence. -/
theorem exec_silence {cmd : Instr} (hcmd : cmd = .masterSilenceTimeout ∨ (cmd = .holdoverEntry ∧ s.gtc.holdover = false)) (hlive : s.live = true)
    (hready : s.ready = true) (hc : s.isCandidate = true) (hm : s.gtc.master = false) : exec cmd s = .next s.succeed := by
  rcases hcmd with rfl | ⟨rfl, hh⟩
  · change execMasterSilenceTimeout s = _
    simp [execMasterSilenceTimeout, hlive, hready, hc, hm]
  · change execHoldoverEntry s = _
    simp [execHoldoverEntry, hlive, hready, hc, hm, hh]

theorem exec_holdoverEntry (hlive : s.live = true) (hready : s.ready = true) (hm : s.gtc.master = false) (hh : s.gtc.holdover = false)
    (hc : s.isCandidate = false) : exec .holdoverEntry s = .next { s with gtc := { s.gtc with holdover := true, exch := none } } := by
  change execHoldoverEntry s = _
  simp [execHoldoverEntry, hlive, hready, hc, hm, hh]

theorem exec_holdoverExpiry (hlive : s.live = true) (hh : s.gtc.holdover = true) : exec .holdoverExpiry s = .next s.unlock := by
  change execHoldoverExpiry s = _
  simp [execHoldoverExpiry, hlive, hh]

theorem exec_gtcStep {g : BitVec 64} (hlive : s.live = true) (hdue : s.gtc.stepDue = true) (hrun : s.strk.run = none) (hqueued : s.strk.queued = none) :
    exec (.gtcStep g) s =
      .next (State.raiseGtc { s with gtc := { s.gtc with now := g, stepDue := false, offset := 0, window := [], exch := none } } 2) := by
  change execGtcStep g s = _
  simp [execGtcStep, hlive, hdue, hrun, hqueued]

end

end Sys2Proof.Machine

namespace Sys2Proof.Proofs
open Sys2Proof Sys2Proof.Machine

/-- Settles O31: each command's one state after it, read at the GTC. -/
theorem mastershipAndHoldover : Obligations.MastershipAndHoldover := by
  unfold Obligations.MastershipAndHoldover
  intro s hlive
  refine ⟨fun g m l rest hwaits hm hself hup => ?_, fun hwaits hc => ?_, fun cmd hcmd hready hc hm => ?_, fun hready hm hh hc => ?_,
    fun hh hlocked => ?_, fun g hdue hrun hqueued => ?_⟩
  · exact ⟨_, exec_gtcLock hwaits hm hself hup, (State.becomeReady_gtc _ _).trans (State.raiseGtc_gtc _ 2), State.becomeReady_ready _ _⟩
  · refine ⟨_, exec_masterTakeover hwaits hc, State.becomeReady_ready _ _, ?_⟩
    rw [State.becomeReady_gtc, State.takeMaster_gtc, State.passMs_grp]
    exact ⟨rfl, rfl, rfl, rfl⟩
  · refine ⟨_, exec_silence hcmd hlive hready hc hm, ?_⟩
    rw [State.succeed, State.raiseGtc_gtc, State.takeMaster_gtc]
    exact ⟨rfl, rfl, rfl, rfl, rfl, rfl⟩
  · exact exec_holdoverEntry hlive hready hm hh hc
  · exact ⟨_, exec_holdoverExpiry hlive hh, State.unlock_gtc hlocked, State.unlock_isVoid hlocked⟩
  · exact ⟨_, exec_gtcStep hlive hdue hrun hqueued, State.raiseGtc_gtc _ 2, State.raiseGtc_mem _ 2⟩

end Sys2Proof.Proofs
end

section
/-! PROOF. Work beside the course of a job's strokes: what the units, the pages and the links do leaves the time, the group, the program sets, the rings and the
job's course as they are, and takes back nothing that was sent to the host. -/
namespace Sys2Proof.Machine

/-- The stroke registers and the jobs, apart from what a job's failures and references note in it. -/
def Strk.course (k : Strk) : Strk := { k with run := k.run.map fun j => { j with failure := none, noCommit := false, refs := [] } }

/-- From `s` to `t` the time, the group, the program sets and the rings stay, and of the jobs what `f` reads; what was sent to the host stays sent; no stroke is left
by a member and no chunk of a later stroke comes where there was none. -/
structure Aside {α : Type} (f : Strk → α) (s t : State) : Prop where
  gtc : t.gtc = s.gtc
  grp : t.grp = s.grp
  psets : t.psets = s.psets
  rings : t.rings = s.rings
  strk : f t.strk = f s.strk
  quiesced : t.host.quiesced = s.host.quiesced
  sent : s.pcieOut <+: t.pcieOut
  leaving : s.mir.leaving = none → t.mir.leaving = none
  early : s.coll.early = [] → t.coll.early = []

section
variable {α : Type} {f : Strk → α} {s t u : State}

/-- Registers of the units, memory, pages and links are beside a job's course. -/
theorem Aside.of_eq {me up cl pm pp lo sr we mo ni qu kv li pi cx sc}
    (e : t = { s with mem := me, upset := up, clamps := cl, pmap := pm, pmapPending := pp, loan := lo, stackRegs := sr, wells := we, movers := mo, nibs := ni,
                      quills := qu, kvt := kv, links := li, pipes := pi, ctxs := cx, scr := sc }) : Aside f s t := by
  subst e
  exact ⟨rfl, rfl, rfl, rfl, rfl, rfl, List.prefix_rfl, id, id⟩

theorem Aside.refl : Aside f s s := .of_eq rfl

theorem Aside.trans (h : Aside f s t) (h' : Aside f t u) : Aside f s u :=
  ⟨h'.gtc.trans h.gtc, h'.grp.trans h.grp, h'.psets.trans h.psets, h'.rings.trans h.rings, h'.strk.trans h.strk, h'.quiesced.trans h.quiesced,
    h.sent.trans h'.sent, h'.leaving ∘ h.leaving, h'.early ∘ h.early⟩

/-- What leaves the jobs altogether leaves their course. -/
theorem Aside.weaken (h : Aside id s t) : Aside f s t :=
  ⟨h.gtc, h.grp, h.psets, h.rings, congrArg f h.strk, h.quiesced, h.sent, h.leaving, h.early⟩

theorem Aside.ite {c : Prop} [Decidable c] (ht : Aside f s t) (hu : Aside f s u) : Aside f s (if c then t else u) := by
  split
  · exact ht
  · exact hu

theorem Aside.pair {β : Type} {x : β} (h : Aside f s t) : Aside f s (t, x).1 := h

theorem Aside.ite_fst {β : Type} {c : Prop} [Decidable c] {x y : State × β} (hx : Aside f s x.1) (hy : Aside f s y.1) :
    Aside f s (if c then x else y).1 := by
  split
  · exact hx
  · exact hy

theorem Aside.foldl {β : Type} (ht : Aside f s t) {g : State → β → State} (l : List β) (h : ∀ u a, Aside f u (g u a)) : Aside f s (l.foldl g t) :=
  foldl_keeps (Aside f s) g l t (fun u a hu => hu.trans (h u a)) ht

end

/-! ### Interrupts, the log and flags -/

section
variable {α : Type} {f : Strk → α} (s : State)

theorem State.aside_fire (v : Nat) : Aside f s (s.fire v) := by
  unfold State.fire State.deliver
  split_ifs <;> exact ⟨rfl, rfl, rfl, rfl, rfl, rfl, by simp, id, id⟩

theorem State.aside_raiseAlert (i : Nat) : Aside f s (s.raiseAlert i) := (Aside.of_eq rfl).trans (State.aside_fire _ 147)

theorem State.aside_logEvent (type severity : Nat) (payload : List Word) : Aside f s (s.logEvent type severity payload) := by
  unfold State.logEvent
  dsimp only
  split
  · exact .refl
  · obtain ⟨c, n, e⟩ := s.countEntry_frame type
    rw [e]
    dsimp only
    split
    · exact .of_eq rfl
    · split
      · exact (Aside.of_eq rfl).trans (State.aside_raiseAlert _ 6)
      · exact .of_eq rfl

theorem State.aside_raiseHost (i : Nat) : Aside f s (s.raiseHost i) :=
  (show Aside f s { s with host := { s.host with evt := s.host.evt.raise i } } from ⟨rfl, rfl, rfl, rfl, rfl, rfl, List.prefix_rfl, id, id⟩).trans
    (State.aside_fire _ _)

theorem State.aside_raiseLoan (i index : Nat) : Aside f s (s.raiseLoan i index) := (Aside.of_eq rfl).trans (State.aside_fire _ 144)

theorem State.aside_raiseKvt (i index : Nat) : Aside f s (s.raiseKvt i index) := (Aside.of_eq rfl).trans (State.aside_fire _ 144)

theorem State.aside_raiseWell (d i : Nat) : Aside f s (s.raiseWell d i) :=
  (Aside.of_eq rfl).trans ((State.aside_fire (s.modWell d fun x => { x with memerr := x.memerr.raise i }) 144).trans (State.aside_logEvent _ _ _ _))

theorem State.aside_raiseStack (k i : Nat) : Aside f s (s.raiseStack k i) :=
  (Aside.of_eq rfl).trans ((State.aside_fire (s.modStack k fun x => { x with err := x.err.raise i }) 144).trans (State.aside_logEvent _ _ _ _))

/-- A failure of the running job is noted in it beside its course. -/
theorem State.aside_failJob (status detail : Nat) : Aside Strk.course s (s.failJob status detail) := by
  refine ⟨rfl, rfl, rfl, rfl, ?_, rfl, List.prefix_rfl, id, id⟩
  simp [Strk.course, State.failJob, State.modRun, Function.comp_def]

/-! ### Reads of lines -/

theorem State.aside_pmapBad (i : Nat) : Aside f s (s.pmapBad i) := s.aside_raiseLoan 5 i

theorem State.aside_kvBad (i : Nat) : Aside f s (s.kvBad i) := s.aside_raiseKvt 3 i

theorem State.aside_eccWell (d n : Nat) (e : EccResult) : Aside f s (s.eccWell d n e) := by
  cases e
  · exact .refl
  · exact .of_eq rfl
  · exact Aside.refl.foldl _ fun u _ => u.aside_raiseWell d 0

theorem State.aside_eccStack (page line : Nat) (e : EccResult) : Aside f s (s.eccStack page line e) := by
  cases e
  · exact .refl
  · exact .of_eq rfl
  · exact (Aside.of_eq rfl).trans (State.aside_raiseStack (s.modStack (page / 6144) fun x =>
      { x with errPage := BitVec.ofNat 13 (page % 6144), errLine := BitVec.ofNat 18 line }) _ 0)

theorem State.aside_homeLine (idx page tag line : Nat) : Aside f s (s.homeLine idx page tag line).1 :=
  .ite_fst (s.aside_pmapBad _).pair (.ite_fst (s.aside_eccStack page line _).pair (s.aside_raiseLoan 3 idx).pair)

theorem State.aside_t2Read (a : Nat) : Aside f s (s.t2Read a).1 := by
  unfold State.t2Read
  dsimp only
  split
  · exact s.aside_pmapBad _
  · split
    · exact s.aside_eccStack _ _ _
    · exact (Aside.of_eq rfl).trans (State.aside_homeLine { s with loan := { s.loan with homereads := satAdd s.loan.homereads 1 } } _ _ _ _)
    · exact s.aside_pmapBad _
    · exact .refl
    · exact .refl

theorem State.aside_placeRead (p : Place) : Aside f s (s.placeRead p).1 := by
  unfold State.placeRead
  split
  · exact s.aside_eccWell _ _ _
  · exact s.aside_eccWell _ _ _
  · exact s.aside_t2Read _
  · exact .ite_fst (s.aside_pmapBad _).pair (Aside.refl.foldl _ fun u e => u.aside_eccStack _ _ e.2)

theorem State.aside_sendRecord (dest kind : Nat) (items : List Nat) (relay : Bool) : Aside f s (s.sendRecord dest kind items relay) := by
  obtain ⟨k, e⟩ := s.sendRecord_frame dest kind items relay
  exact .of_eq e

theorem State.aside_sendAll (kind : Nat) (items : List Nat) : Aside f s (s.sendAll kind items) := by
  obtain ⟨k, e⟩ := s.sendAll_frame kind items
  exact .of_eq e

theorem State.aside_sendList (dest kind lead n : Nat) (es : List (List Nat)) : Aside f s (s.sendList dest kind lead n es) := by
  obtain ⟨k, e⟩ := s.sendList_frame dest kind lead n es
  exact .of_eq e

theorem State.aside_awaitLines (w : ReadWait) (page tag : Nat) : Aside f s (s.awaitLines w page tag) :=
  (Aside.of_eq rfl).trans (State.aside_sendRecord { s with loan := { s.loan with reads := s.loan.reads ++ [w] } } _ _ _ _)

theorem State.aside_lineNow (a : Nat) : Aside f s (s.lineNow a).1 := by
  have hread : Aside f s (s.t2Read a).1 := s.aside_t2Read a
  unfold State.lineNow State.askLine
  dsimp only
  split
  · refine .ite_fst ?_ hread
    dsimp only
    split
    · exact s.aside_awaitLines _ _ _
    · exact s.aside_awaitLines _ _ _
    · exact .refl
  · exact hread

theorem State.aside_moverNow (a : Nat) : Aside f s (s.moverNow a).1 :=
  have hline := s.aside_lineNow a
  .ite_fst hline (.ite_fst (hline.trans (State.aside_raiseWell _ _ 1)).pair (hline.trans (.of_eq rfl)).pair)

/-! ### Writes of lines -/

theorem State.aside_markDirty (page line : Nat) : Aside f s (s.markDirty page line) := by
  unfold State.markDirty
  split
  · exact .ite ⟨rfl, rfl, rfl, rfl, rfl, rfl, List.prefix_rfl, id, id⟩ .refl
  · exact .refl

theorem State.aside_roWrite (idx : Nat) (who : Writer) : Aside Strk.course s (s.roWrite idx who) :=
  .ite ((s.aside_raiseLoan 4 idx).trans (State.aside_failJob _ _ _)) (s.aside_raiseLoan 4 idx)

theorem State.aside_t2Write (a : Nat) (l : Line) (who : Writer) : Aside Strk.course s (s.t2Write a l who) :=
  .ite (s.aside_pmapBad _) (.ite (s.aside_roWrite _ who) ((Aside.of_eq rfl).trans (State.aside_markDirty (s.writeBytes _ _) _ _)))

theorem State.aside_rawWrite (a : Nat) (bs : List Byte) (who : Writer) : Aside Strk.course s (s.rawWrite a bs who) :=
  .ite (s.aside_pmapBad _) (.ite (s.aside_roWrite _ who) (.of_eq rfl))

theorem State.aside_wellWrite (die line : Nat) (l : Line) : Aside f s (s.wellWrite die line l) := by
  obtain ⟨m, u, e⟩ := s.wellWrite_frame die line l
  exact .of_eq e

theorem State.aside_placeWrite (p : Place) (l : Line) (who : Writer) : Aside Strk.course s (s.placeWrite p l who) := by
  unfold State.placeWrite
  split
  · obtain ⟨m, u, e⟩ := s.t0Write_frame _ p.at_ l
    exact .of_eq e
  · exact s.aside_wellWrite _ _ _
  · exact s.aside_t2Write _ _ _
  · exact s.aside_rawWrite _ _ _

theorem State.aside_destLine (p : Place) (l : Line) : Aside Strk.course s (s.destLine p l) := by
  unfold State.destLine
  split
  · exact s.aside_pmapBad _
  · exact s.aside_placeWrite _ _ _

/-! ### Chunks and steps -/

theorem State.aside_freeSlots (l vc n : Nat) : Aside f s (s.freeSlots l vc n) := by
  obtain ⟨k, e⟩ := s.freeSlots_frame l vc n
  exact .of_eq e

theorem State.aside_drainRx (l vc : Nat) : Aside f s (s.drainRx l vc) := by
  unfold State.drainRx
  split
  · exact .refl
  · exact .ite .refl ((Aside.of_eq rfl).trans (State.aside_freeSlots (s.modLink l _) _ _ _))

theorem State.aside_drainAll : Aside f s s.drainAll := Aside.refl.foldl _ fun u l => (u.aside_drainRx l 0).trans (State.aside_drainRx _ l 1)

theorem State.aside_putStep (x : CollStep) : Aside f s (s.putStep x) := ⟨rfl, rfl, rfl, rfl, rfl, rfl, List.prefix_rfl, id, id⟩

theorem State.aside_drainStep (coll step : Nat) : Aside f s (s.drainStep coll step) := by
  unfold State.drainStep
  split
  · exact .refl
  · exact ((s.aside_putStep _).foldl _ fun u w => u.aside_freeSlots _ _ _).trans (State.aside_drainAll _)

theorem State.aside_poisonRest (x : CollStep) (k n : Nat) : Aside Strk.course s (s.poisonRest x k n) := by
  induction n generalizing s k with
  | zero => exact .refl
  | succ n ih => exact (Aside.ite .refl (s.aside_destLine _ _)).trans (ih _ _)

/-- A step has ended with its job: the lines that it has not completed are poisoned, its waiting lines are given up (R332). -/
def State.dropStep (s : State) (x : CollStep) : State :=
  let od := ownDest x.desc x.step (ranksOf x.desc).length (posOf (ranksOf x.desc) s.grp.rank.toNat)
  ((if hasDest x.desc s.grp.rank.toNat then s.poisonRest x od.1 od.2 else s).putStep { x with status := some 8 }).drainStep x.coll x.step

theorem State.aside_dropStep (x : CollStep) : Aside Strk.course s (s.dropStep x) :=
  (Aside.ite (s.aside_poisonRest x _ _) .refl).trans ((State.aside_putStep _ _).trans (State.aside_drainStep _ _ _))

theorem State.aside_failStep_ended (x : CollStep) (origin rank : Nat) : Aside Strk.course s (s.failStep x 8 origin rank) :=
  .ite .refl ((s.aside_dropStep x).trans ⟨rfl, rfl, rfl, rfl, rfl, rfl, List.prefix_rfl, id, id⟩)

end

end Sys2Proof.Machine
end

section
/-! PROOF. How a job ends (R332, R420, R425, R430, R431): what the end of its steps, units, streams and pages leaves, the completion record that goes out, and what
the end leaves of the stroke registers. -/
namespace Sys2Proof.Machine
open Sys2Proof.Claims

/-! ### Units, streams and pages -/

section
variable {α : Type} {f : Strk → α} (s : State)

/-- Open steps end with their job; no chunk waits any longer (R332). -/
theorem State.aside_endSteps : Aside Strk.course s s.endSteps := by
  refine Aside.trans (t := s.coll.steps.foldl (fun s x => match s.findStep x.coll x.step with
    | some y => s.failStep y 8 0 s.grp.rank.toNat
    | none => s) s) (Aside.refl.foldl _ fun u x => ?_) ⟨rfl, rfl, rfl, rfl, rfl, rfl, List.prefix_rfl, id, fun _ => rfl⟩
  split
  · exact u.aside_failStep_ended _ 0 _
  · exact .refl

theorem State.aside_kvDeref (i : Nat) : Aside f s (s.kvDeref i) :=
  .ite .refl (.ite (s.aside_kvBad i) (.ite (s.aside_raiseKvt 2 i) (.of_eq rfl)))

theorem State.aside_mapQuills (g : Nat → Quill → Quill) : Aside f s (s.mapQuills g) := by
  obtain ⟨q, e⟩ := s.mapQuills_frame g
  exact .of_eq e

theorem State.aside_endWells : Aside f s s.endWells := Aside.refl.foldl _ fun _ _ => .of_eq rfl

theorem State.aside_clearUnits : Aside f s s.clearUnits := by
  have hquills : Aside f s (s.idleQuills.mapQuills fun _ x =>
      { x with attempt := [], tags := [], asked := [], tickets := [], lineBuf := [], window := [], halo := none, convLast := none, hwaitNow := false }) :=
    (s.aside_mapQuills _).trans (State.aside_mapQuills _ _)
  exact (hquills.trans (State.aside_endWells _)).trans (.of_eq rfl)

theorem State.aside_closeStreams : Aside f s s.closeStreams :=
  (Aside.of_eq rfl).foldl _ fun _ _ => .of_eq rfl

theorem State.aside_unshadowHome (t3 : Nat) : Aside f s (s.unshadowHome t3) := by
  obtain ⟨m, e⟩ := s.unshadowHome_frame t3
  exact .of_eq e

theorem State.aside_fillFrom (g : Granted) (first fuel : Nat) : Aside f s (s.fillFrom g first fuel) := by
  induction fuel generalizing s first with
  | zero => exact .refl
  | succ n ih => exact .ite .refl ((s.aside_awaitLines _ _ _).trans (ih _ _))

/-- A change of the page map and what belongs to the same instant. -/
theorem State.aside_makeChange (c : PageChange) : Aside f s (s.makeChange c) := by
  unfold State.makeChange
  dsimp only
  split
  · exact (s.aside_unshadowHome _).trans (.of_eq rfl)
  · obtain ⟨m, e⟩ := (s.setPage c.index ((s.page c.index).apply c.op)).shadowHome_frame c.index
    exact .ite (.of_eq e) .refl
  · exact (s.aside_unshadowHome _).trans (.of_eq rfl)
  · exact .of_eq rfl
  · refine (Aside.of_eq rfl).trans (t := s.setPage c.index ((s.page c.index).apply c.op)) ?_
    unfold State.startFill
    split
    · exact .ite .refl (State.aside_fillFrom _ _ _ _)
    · exact .refl
  · exact .of_eq rfl

theorem State.aside_changePage (index : Nat) (op : PageOp) : Aside f s (s.changePage index op) := .ite (.of_eq rfl) (s.aside_makeChange _)

theorem State.aside_goHome (t3 : List Nat) : Aside f s (s.goHome t3) :=
  Aside.refl.foldl _ fun u i => .ite .refl (u.aside_changePage i .home)

theorem State.aside_finishRecalls : Aside f s s.finishRecalls := by
  refine Aside.refl.foldl _ fun u r => .ite (Aside.trans (t := { u with loan := { u.loan with recalls := u.loan.recalls.erase r } }) (.of_eq rfl) ?_) .refl
  exact (Aside.ite (State.aside_sendList _ _ _ _ _ _) (State.aside_sendList _ _ _ _ _ _)).trans (.of_eq rfl)

/-- What waits for a publication takes effect without one (R231, R249). -/
theorem State.aside_pagesIdle : Aside f s s.pagesIdle := by
  unfold State.pagesIdle
  dsimp only
  generalize hcounted : ({ s with loan := { s.loan with recalls := s.loan.recalls.map fun (r : RecallDue) => { r with wait := 0 } } } : State) = u
  generalize s.loan.recalls.filter (fun r => r.wait ≠ 0) = due
  have hu : Aside f s u := .of_eq hcounted.symm
  have hhome : Aside f s (due.foldl (fun s r => s.goHome r.t3) u) := hu.foldl _ fun v r => v.aside_goHome r.t3
  generalize due.foldl (fun s r => s.goHome r.t3) u = v at hhome ⊢
  exact ((hhome.trans (t := v) (.of_eq rfl)).foldl (t := { v with pmapPending := [] }) _ fun w c => w.aside_makeChange c).trans
    (State.aside_finishRecalls _)

theorem State.aside_giveBack (lender : Nat) (t3 : List Nat) : Aside f s (s.giveBack lender t3) :=
  ((s.aside_goHome t3).trans (t := s.goHome t3) (.of_eq rfl)).trans (State.aside_finishRecalls { s.goHome t3 with
    loan := { (s.goHome t3).loan with
      recalls := (s.goHome t3).loan.recalls ++ [({ lender := lender, t3 := t3, wait := 0, unasked := true } : RecallDue)] } })

theorem State.aside_startQuiesce : Aside f s s.startQuiesce :=
  (show Aside f s { s with host := { s.host with quiesceReq := true } } from ⟨rfl, rfl, rfl, rfl, rfl, rfl, List.prefix_rfl, id, id⟩).trans
    (State.aside_raiseHost _ 2)

theorem State.aside_sendRecall (borrower notice : Nat) (t3 : List Nat) : Aside f s (s.sendRecall borrower notice t3) :=
  (Aside.of_eq rfl).trans (t := { s with loan := { s.loan with
    granted := s.loan.granted.map fun (g : Granted) => if g.peer = borrower && t3.contains g.t3 then { g with recalled := true } else g } })
    (State.aside_sendList _ _ _ _ _ _)

theorem State.aside_releaseNext : Aside f s s.releaseNext := by
  refine .ite ?_ .refl
  have hlinks : Aside f s s.disableLinks := Aside.refl.foldl _ fun _ _ => .of_eq rfl
  have hq : Aside f s s.disableLinks.startQuiesce := hlinks.trans (State.aside_startQuiesce _)
  exact ⟨hq.gtc, hq.grp, hq.psets, hq.rings, hq.strk, hq.quiesced, hq.sent, id, hq.early⟩

/-- Loans end with RETURN and RECALL (R356 step 4). -/
theorem State.aside_releaseLoans : Aside f s s.releaseLoans := by
  unfold State.releaseLoans
  dsimp only
  refine Aside.trans ?_ (State.aside_releaseNext _)
  refine Aside.foldl (Aside.foldl ?_ _ fun u p => u.aside_giveBack _ _) _ fun u p => u.aside_sendRecall _ _ _
  exact ⟨rfl, rfl, rfl, rfl, rfl, rfl, List.prefix_rfl, id, id⟩

/-! ### Completion records (R420, R425, R431) -/

theorem Aside.withRings {s t : State} (h : Aside f s t) (r : Sparse Ring) : Aside f { s with rings := r } { t with rings := r } :=
  ⟨h.gtc, h.grp, h.psets, rfl, h.strk, h.quiesced, h.sent, h.leaving, h.early⟩

/-- Where the next record of a ring goes, and that the ring takes records at all. -/
def Ring.place (x : Ring) : BitVec 64 × BitVec 12 × Bool := (x.cqbase, x.cqtail, x.cleared)

theorem State.clearFeeds_cases (r : Nat) : ∃ x, s.clearFeeds r = { s with rings := x } ∧ ∀ k, ((s.clearFeeds r).ring k).place = (s.ring k).place := by
  unfold State.clearFeeds
  split
  · exact ⟨s.rings, rfl, fun _ => rfl⟩
  · refine ⟨_, rfl, fun k => ?_⟩
    rw [State.modRing_eq]
    by_cases hk : k = r
    · rw [hk, State.setRing_ring]
      rfl
    · rw [State.setRing_ring_other _ _ _ _ hk]

/-- The address of the next record of a ring. -/
def Ring.recordAt (x : Ring) : Nat := x.cqbase.toNat + 64 * x.cqtail.toNat

/-- The ring after a record: the next place, with the other phase where the queue wraps. -/
def Ring.moved (x : Ring) : Ring :=
  let last := x.cqtail.toNat + 1 = ringSize x
  { x with cqtail := if last then 0 else x.cqtail + 1, phase := if last then !x.phase else x.phase }

/-- A record written at its place, before its vector is signalled. -/
def State.recordPut (s : State) (c : CplRec) (held : Bool) : State :=
  let x := s.ring c.ring
  let u := s.setRing c.ring x.moved
  if u.host.quiesced then u else { u with pcieOut := u.pcieOut ++ [.dma x.recordAt (recordBytes c x.phase held)] }

theorem State.postRecord_eq (c : CplRec) (held : Bool) :
    s.postRecord c held = if c.notify then (s.recordPut c held).fire c.ring else s.recordPut c held := rfl

theorem State.aside_recordPut (c : CplRec) (held : Bool) : ∃ r, Aside f { s with rings := r } (s.recordPut c held) := by
  refine ⟨(s.setRing c.ring (s.ring c.ring).moved).rings, Aside.trans (t := s.setRing c.ring (s.ring c.ring).moved) .refl (.ite .refl ?_)⟩
  exact ⟨rfl, rfl, rfl, rfl, rfl, rfl, List.prefix_append _ _, id, id⟩

/-- A record moves its ring's queue on, and nothing that was sent before is taken back. -/
theorem State.aside_postRecord (c : CplRec) (held : Bool) : ∃ r, Aside f { s with rings := r } (s.postRecord c held) := by
  obtain ⟨r, h⟩ := s.aside_recordPut (f := f) c held
  exact ⟨r, h.trans (.ite (State.aside_fire _ _) .refl)⟩

theorem State.postRecord_sends (c : CplRec) (held : Bool) (hq : s.host.quiesced = false) :
    PcieOut.dma (s.ring c.ring).recordAt (recordBytes c (s.ring c.ring).phase held) ∈ (s.postRecord c held).pcieOut := by
  have hput : PcieOut.dma (s.ring c.ring).recordAt (recordBytes c (s.ring c.ring).phase held) ∈ (s.recordPut c held).pcieOut := by
    unfold State.recordPut
    dsimp only
    rw [State.setRing_host, hq, if_neg Bool.false_ne_true]
    exact List.mem_append_right _ (List.mem_singleton.mpr rfl)
  rw [State.postRecord_eq]
  split
  · exact (State.aside_fire (f := id) (s.recordPut c held) c.ring).sent.subset hput
  · exact hput

/-- Once a job has ended its record is written or held; rings and the endpoint apart nothing changes. -/
theorem State.aside_complete (c : CplRec) : ∃ r, Aside f { s with rings := r } (s.complete c) := by
  obtain ⟨x, hx, -⟩ := s.clearFeeds_cases c.ring
  unfold State.complete
  dsimp only
  generalize hlog : (s.clearFeeds c.ring).logEvent 0x0030 _ _ = u
  have hu : Aside f { s with rings := x } u := by
    rw [← hlog, hx]
    exact State.aside_logEvent _ _ _ _
  split
  · exact ⟨x, hu.trans ((show Aside f u { u with host := { u.host with held := (u.host.held ++ [c]).take 2 } } from
      ⟨rfl, rfl, rfl, rfl, rfl, rfl, List.prefix_rfl, id, id⟩).trans (State.aside_raiseHost _ 4))⟩
  · obtain ⟨r, h⟩ := u.aside_postRecord (f := f) c false
    exact ⟨r, (hu.withRings r).trans h⟩

/-- The record of a job goes out to its ring's queue. -/
theorem State.complete_sends (c : CplRec) (h : ringTakes s c.ring) : recordOut s (s.complete c) c.ring c.status := by
  obtain ⟨hcleared, hq⟩ := h
  obtain ⟨x, hx, hplace⟩ := s.clearFeeds_cases c.ring
  unfold State.complete
  dsimp only
  generalize hlog : (s.clearFeeds c.ring).logEvent 0x0030 _ _ = u
  have hu : Aside id (s.clearFeeds c.ring) u := by
    rw [← hlog]
    exact State.aside_logEvent _ _ _ _
  have hring : (u.ring c.ring).place = (s.ring c.ring).place := by
    rw [← hplace, State.ring, State.ring, hu.rings]
  obtain ⟨hbase, hrest⟩ := Prod.mk.inj hring
  obtain ⟨htail, hclear⟩ := Prod.mk.inj hrest
  rw [hclear, hcleared, if_neg Bool.false_ne_true]
  refine ⟨c, (u.ring c.ring).phase, rfl, rfl, ?_⟩
  have hquiet : u.host.quiesced = false := by
    rw [hu.quiesced, hx, hq]
  have := u.postRecord_sends c false hquiet
  rwa [Ring.recordAt, hbase, htail] at this

/-! ### The end of the running job -/

/-- A record that has gone out has gone out for every state before that has the ring's place, and for every state after. -/
theorem recordOut_mono {s s' t t' : State} {r status : Nat} (hplace : (s.ring r).place = (s'.ring r).place) (hsent : t.pcieOut <+: t'.pcieOut)
    (h : recordOut s t r status) : recordOut s' t' r status := by
  obtain ⟨c, phase, hring, hstatus, hmem⟩ := h
  obtain ⟨hbase, hrest⟩ := Prod.mk.inj hplace
  obtain ⟨htail, -⟩ := Prod.mk.inj hrest
  exact ⟨c, phase, hring, hstatus, hsent.subset (hbase ▸ htail ▸ hmem)⟩

theorem Strk.ended_congr {k l : Strk} (h : k.course = l.course) (a : Nat) :
    ({ k with run := none, lastEnd := a } : Strk) = { l with run := none, lastEnd := a } := by
  have hended := congrArg (fun k : Strk => ({ k with run := none, lastEnd := a } : Strk)) h
  exact hended

theorem Strk.evt_of_course {k l : Strk} (h : k.course = l.course) : k.evt = l.evt := by
  have hevt := congrArg Strk.evt h
  exact hevt

/-- The running job of a state whose jobs have the same course: it is another at most in its failures and references. -/
theorem Strk.run_of_course {k l : Strk} {j : Job} (h : k.course = l.course) (hrun : l.run = some j) :
    ∃ f n r, k.run = some { j with failure := f, noCommit := n, refs := r } := by
  have hmap := congrArg Strk.run h
  rw [Strk.course, Strk.course, hrun] at hmap
  obtain ⟨i, hi, hj⟩ := Option.map_eq_some_iff.mp hmap
  refine ⟨i.failure, i.noCommit, i.refs, hi.trans (congrArg some ?_)⟩
  have h' := congrArg (fun x : Job => { x with failure := i.failure, noCommit := i.noCommit, refs := i.refs }) hj
  exact h'

/-- What the end of a job leaves: no job runs, its last stroke has ended, and its record has gone out with the status. -/
structure Ended (s : State) (ring status at_ : Nat) (t : State) : Prop where
  gtc : t.gtc = s.gtc
  strk : t.strk = { s.strk with run := none, lastEnd := at_ }
  sent : s.pcieOut <+: t.pcieOut
  record : ringTakes s ring → recordOut s t ring status

variable {s} in
theorem State.endJob_ends {j : Job} (hrun : s.strk.run = some j) (status origin detail at_ : Nat) :
    Ended s j.ring status at_ (s.endJob status origin detail at_) := by
  have hsteps := s.aside_endSteps
  obtain ⟨fl, nc, rf, hj⟩ := Strk.run_of_course hsteps.strk hrun
  unfold State.endJob
  rw [hrun]
  dsimp only
  rw [hj]
  dsimp only
  generalize s.endSteps = u at hsteps
  have hunits : Aside Strk.course s (rf.foldl State.kvDeref u).clearUnits :=
    hsteps.trans ((Aside.refl.foldl rf fun v i => v.aside_kvDeref i).trans (State.aside_clearUnits _))
  generalize (rf.foldl State.kvDeref u).clearUnits = v at hunits
  let w : State := { v with
    strk := { v.strk with run := none, lastEnd := at_ }, mir := { v.mir with leaving := none },
    scr := { v.scr with throttle := v.scr.throttle.tookEffect } }
  let c : CplRec :=
    { ring := j.ring, status := status, origin := origin, flags := jobFlags { j with failure := fl, noCommit := nc, refs := rf }, detail := detail,
      jobId := j.desc.jobId, strokesRun := j.stroke - j.first, endGtc := at_, epoch := u.mir.ownEpoch.toNat, stretches := j.stretches,
      notify := j.desc.notify }
  change Ended s j.ring status at_ (w.complete c).closeStreams.pagesIdle
  obtain ⟨r, hcomplete⟩ := w.aside_complete (f := id) c
  have hafter : Aside id (w.complete c) (w.complete c).closeStreams.pagesIdle := (State.aside_closeStreams _).trans (State.aside_pagesIdle _)
  refine ⟨hafter.gtc.trans (hcomplete.gtc.trans hunits.gtc), hafter.strk.trans (hcomplete.strk.trans (Strk.ended_congr hunits.strk at_)),
    hunits.sent.trans (hcomplete.sent.trans hafter.sent), fun htakes => ?_⟩
  have hring : (w.ring j.ring) = (s.ring j.ring) := congrArg (sget (fun _ => Ring.reset) · j.ring) hunits.rings
  have hw : ringTakes w j.ring := ⟨(congrArg Ring.cleared hring).trans htakes.1, hunits.quiesced.trans htakes.2⟩
  exact recordOut_mono (congrArg Ring.place hring) hafter.sent (w.complete_sends c hw)

variable {s} in
theorem State.finishJob_ends {j : Job} (hrun : s.strk.run = some j) (status origin detail at_ : Nat) :
    Ended s j.ring status at_ (s.finishJob status origin detail at_) := by
  have hend := State.endJob_ends hrun status origin detail at_
  unfold State.finishJob
  dsimp only
  split
  · have hloans := State.aside_releaseLoans (f := id) (s.endJob status origin detail at_)
    exact ⟨hloans.gtc.trans hend.gtc, hloans.strk.trans hend.strk, hend.sent.trans hloans.sent,
      fun h => recordOut_mono rfl hloans.sent (hend.record h)⟩
  · exact hend

/-- Without a running job nothing ends. -/
theorem State.endJob_idle (hrun : s.strk.run = none) (status origin detail at_ : Nat) : s.endJob status origin detail at_ = s := by
  rw [State.endJob, hrun]

end
end Sys2Proof.Machine
end

section
/-! PROOF. Records to members (R312, R317): the queues of the links only grow as records are sent, the links that routes may use stay the same, and each member that a
usable pair link reaches has its record waiting there. -/
namespace Sys2Proof.Machine
open Sys2Proof.Claims

/-! ### Queues of a link -/

theorem LinkState.mem_queue_push (x : LinkState) (vc k : Nat) (e y : Slots) (h : y ∈ x.queue k) : y ∈ (x.push vc e).queue k := by
  have hgrows : (x.push vc e).queue k = x.queue k ∨ (x.push vc e).queue k = x.queue k ++ [e] := by
    rcases vc with _ | _ | _ | vc <;> rcases k with _ | _ | _ | k <;> simp [LinkState.push, LinkState.queue]
  rcases hgrows with hq | hq <;> simp [hq, h]

theorem LinkState.push_mem_queue (x : LinkState) (vc : Nat) (e : Slots) : e ∈ (x.push vc e).queue vc := by
  unfold LinkState.push LinkState.queue
  split <;> simp

theorem LinkState.push_st (x : LinkState) (vc : Nat) (e : Slots) : (x.push vc e).st = x.st := by
  unfold LinkState.push
  split <;> rfl

/-! ### Links as records are sent -/

/-- The links change only as entries are put into their queues. -/
structure Queues (s t : State) : Prop where
  frame : t = { s with links := t.links }
  st : ∀ l, (t.link l).st = (s.link l).st
  grow : ∀ l k e, e ∈ (s.link l).queue k → e ∈ (t.link l).queue k

section
variable {s t u : State}

theorem Queues.refl : Queues s s := ⟨rfl, fun _ => rfl, fun _ _ _ => id⟩

theorem Queues.trans (h : Queues s t) (h' : Queues t u) : Queues s u := by
  refine ⟨?_, fun l => (h'.st l).trans (h.st l), fun l k e => h'.grow l k e ∘ h.grow l k e⟩
  rw [h'.frame, h.frame]

theorem State.queues_enqueue (s : State) (l vc : Nat) (e : Slots) : Queues s (s.enqueue l vc e) := by
  have hlink (k : Nat) : (s.enqueue l vc e).link k = if k = l then (s.link l).push vc e else s.link k := sget_sset_if _ _ _
  refine ⟨rfl, fun k => ?_, fun k v y hy => ?_⟩
  · rw [hlink]
    split
    · rename_i h
      rw [h, LinkState.push_st]
    · rfl
  · rw [hlink]
    split
    · rename_i h
      exact LinkState.mem_queue_push _ _ _ _ _ (h ▸ hy)
    · exact hy

theorem State.queues_recordOn (s : State) (l dest kind : Nat) (items : List Nat) : Queues s (s.recordOn l dest kind items) := s.queues_enqueue _ _ _

theorem State.queues_sendRecord (s : State) (dest kind : Nat) (items : List Nat) (relay : Bool) : Queues s (s.sendRecord dest kind items relay) := by
  unfold State.sendRecord
  split
  · exact s.queues_recordOn _ _ _ _
  · split
    · split
      · split
        · exact s.queues_recordOn _ _ _ _
        · exact .refl
      · exact .refl
    · exact .refl

/-- Usable links depend on the link map, the links' states, and the stroke's account of them. -/
theorem State.routePair_of_st (hgrp : t.grp = s.grp) (hst : ∀ l, (t.link l).st = (s.link l).st) (hrun : t.strk.run.isNone = s.strk.run.isNone)
    (hpinned : t.coll.pinned = s.coll.pinned) (hlost : t.coll.lost = s.coll.lost) (r : Nat) : t.routePair r = s.routePair r := by
  have hmine : t.pairLinksTo r = s.pairLinksTo r := by
    unfold State.pairLinksTo State.myLinks
    rw [hgrp]
  have husable : t.usable = s.usable := by
    funext l
    rw [State.usable, State.usable, State.linkUp, State.linkUp, hst, hrun, hpinned, hlost]
  rw [State.routePair, State.routePair, hmine, husable]

theorem Queues.routePair (h : Queues s t) (r : Nat) : t.routePair r = s.routePair r := by
  refine State.routePair_of_st ?_ h.st ?_ ?_ ?_ r
  all_goals rw [h.frame]

theorem Queues.stillTold (h : Queues s t) {l dest kind : Nat} {items : List Nat} (ht : told s l dest kind items) : told t l dest kind items := by
  have hslot : t.recordSlot dest kind items = s.recordSlot dest kind items := by rw [h.frame]; rfl
  rw [told, hslot]
  exact h.grow l _ _ ht

/-! ### Records to members -/

theorem State.recordOn_told (s : State) (l dest kind : Nat) (items : List Nat) : told (s.recordOn l dest kind items) l dest kind items := by
  have hlink : ((s.recordOn l dest kind items).link l) = (s.link l).push (recordVc kind) _ := s.setLink_link l _
  rw [told, hlink]
  exact LinkState.push_mem_queue _ _ _

theorem State.sendRecord_told {dest l : Nat} {rest : List Nat} (h : s.routePair dest = l :: rest) (kind : Nat) (items : List Nat) (relay : Bool) :
    told (s.sendRecord dest kind items relay) l dest kind items := by
  rw [State.sendRecord, h]
  exact s.recordOn_told l dest kind items

/-- A record for each member of a list. -/
theorem State.foldl_sendRecord (s : State) (rs : List Nat) (kind : Nat) (items : List Nat) (relay : Bool) :
    Queues s (rs.foldl (fun s r => s.sendRecord r kind items relay) s)
      ∧ ∀ r l rest, r ∈ rs → s.routePair r = l :: rest → told (rs.foldl (fun s r => s.sendRecord r kind items relay) s) l r kind items := by
  induction rs generalizing s with
  | nil => exact ⟨.refl, fun _ _ _ h => absurd h List.not_mem_nil⟩
  | cons a rs ih =>
    have hfirst := s.queues_sendRecord a kind items relay
    obtain ⟨hq, htold⟩ := ih (s.sendRecord a kind items relay)
    refine ⟨hfirst.trans hq, fun r l rest hr hroute => ?_⟩
    rcases List.mem_cons.mp hr with rfl | hr
    · exact hq.stillTold (State.sendRecord_told hroute kind items relay)
    · exact htold r l rest hr ((hfirst.routePair r).trans hroute)

theorem State.sendAll_toldAll (s : State) (kind : Nat) (items : List Nat) : toldAll s (s.sendAll kind items) kind items :=
  (s.foldl_sendRecord s.others kind items true).2

/-! ### A record taken -/

theorem LinkState.release_st (x : LinkState) (vc n : Nat) : (x.release vc n).st = x.st := rfl

theorem State.freeSlots_st (s : State) (l vc n k : Nat) : ((s.freeSlots l vc n).link k).st = (s.link k).st := by
  unfold State.freeSlots
  split
  · have hlink : (s.modLink l fun x => x.release vc n).link k = if k = l then (s.link l).release vc n else s.link k := sget_sset_if _ _ _
    rw [hlink]
    split
    · rename_i h
      rw [h, LinkState.release_st]
    · rfl
  · rfl

/-- A record taken leaves the inbox, and its slot's credit is owed back; no link changes its state. -/
theorem State.takeRecord_links {kind sender : Nat} {items : List Nat} (h : s.takeRecord kind sender items = some u) :
    (∃ i k, u = { s with inbox := i, links := k }) ∧ ∀ l, (u.link l).st = (s.link l).st := by
  refine ⟨State.takeRecord_frame h, fun l => ?_⟩
  unfold State.takeRecord at h
  split at h
  · cases h
  · rename_i r _
    rw [← Option.some.inj h]
    exact State.freeSlots_st { s with inbox := s.inbox.erase r } _ _ _ l

theorem State.takeRecord_routePair {kind sender : Nat} {items : List Nat} (h : s.takeRecord kind sender items = some u) (r : Nat) :
    u.routePair r = s.routePair r := by
  obtain ⟨⟨i, k, hu⟩, hst⟩ := State.takeRecord_links h
  refine State.routePair_of_st ?_ hst ?_ ?_ ?_ r
  all_goals rw [hu]

end

end Sys2Proof.Machine
end

section
/-! PROOF. The stall point, stretched strokes and records too late (R272, R286 to R291, R430): what the instant of the stall point decides, the boundary of a stroke with
a STALL known, and the job's end at its limit or by a late record. -/
namespace Sys2Proof.Machine
open Sys2Proof.Claims

/-! ### The stall point (R272, R287) -/

section
variable {s : State} {j : Job}

/-- The stall lead of the running job decided, at some instant. -/
def State.withLead (s : State) (j : Job) (now : BitVec 64) (lead : Option Nat) : State :=
  { s with gtc := { s.gtc with now := now }, strk := { s.strk with run := some { j with lead := lead } } }

/-- The members whose M_READY a mirror point of the running job needs. -/
theorem State.readyFrom_running (hrun : s.strk.run = some j) : s.readyFrom = match s.psets.getD j.desc.pset none with
    | some x => if j.desc.standin then (s.grp.rank.toNat :: s.others).filter fun r => !x.set.standIn.contains r else s.grp.rank.toNat :: s.others
    | none => s.grp.rank.toNat :: s.others := by
  unfold State.readyFrom State.runSet
  rw [hrun]
  dsimp only
  cases s.psets.getD j.desc.pset none <;> rfl

theorem State.allReady_withLead (hrun : s.strk.run = some j) (now : BitVec 64) (lead : Option Nat) (e : Nat) :
    (s.withLead j now lead).allReady e = s.allReady e := by
  rw [State.allReady, State.allReady, State.readyFrom_running hrun, State.readyFrom_running (s := s.withLead j now lead) rfl]
  rfl

/-- Unfinished work does not depend on the stall lead. -/
theorem State.openWork_withLead (hrun : s.strk.run = some j) (now : BitVec 64) (lead : Option Nat) :
    (s.withLead j now lead).openWork { j with lead := lead } = s.openWork j := by
  have hready : (s.withLead j now lead).readyLate { j with lead := lead } = s.readyLate j := by
    unfold State.readyLate
    simp only [State.allReady_withLead hrun]
  unfold State.openWork
  rw [hready]
  rfl

/-- Some member is reached by relay only. -/
def State.relaysOnly (s : State) : Bool := s.others.any fun r => (s.upPair r).isEmpty && (s.relayTo r).isSome

theorem State.relaysOnly_eq_false (h : ∀ r ∈ s.others, s.upPair r ≠ []) : s.relaysOnly = false := by
  refine List.any_eq_false.mpr fun r hr => ?_
  rw [List.isEmpty_eq_false_iff.mpr (h r hr), Bool.false_and]
  exact Bool.false_ne_true

/-- The lead that holds once it is decided. -/
def State.leadOf (s : State) (j : Job) : Option Nat :=
  if j.lead.isSome || s.gtc.now.toNat + 2500 < strokeEnd j then j.lead else some (if s.relaysOnly then 2500 else 1500)

theorem State.decideLead_eq (hrun : s.strk.run = some j) : s.decideLead = s.withLead j s.gtc.now (s.leadOf j) := by
  have hs : s = s.withLead j s.gtc.now j.lead := by rw [State.withLead, ← hrun]
  unfold State.decideLead State.leadOf
  rw [hrun]
  dsimp only
  split
  · exact hs
  · rw [State.modRun, hrun]
    rfl

theorem State.leadOf_known {x : Nat} (h : j.lead = some x) : s.leadOf j = some x := by
  rw [State.leadOf, h]
  rfl

theorem State.leadOf_decided (h : j.lead = none) (hnow : strokeEnd j ≤ s.gtc.now.toNat + 2500) :
    s.leadOf j = some (if s.relaysOnly then 2500 else 1500) := by
  rw [State.leadOf, h]
  exact if_neg (by simpa using hnow)

/-- The GTC at the stall point. -/
theorem State.reach_toNat {a : Nat} (ha : a < 2 ^ 64) : (s.reach a).gtc.now.toNat = max s.gtc.now.toNat a := by
  have := s.gtc.now.isLt
  exact (BitVec.toNat_ofNat _ _).trans (Nat.mod_eq_of_lt (by omega))

/-- The instant of the stall point, when no step of a collective is open. -/
theorem State.stallPoint_state (hsteps : s.coll.steps = []) (hrun : s.strk.run = some j) :
    let u := (s.reach (strokeEnd j - 2500)).decideLead
    let lead := (s.reach (strokeEnd j - 2500)).leadOf j
    (u.reach (strokeEnd j - (u.strk.run.bind (·.lead)).getD 1500)).timeOut j.ext
      = s.withLead j ((s.reach (strokeEnd j - 2500)).reach (strokeEnd j - lead.getD 1500)).gtc.now lead := by
  have hlead : (s.reach (strokeEnd j - 2500)).decideLead = _ := State.decideLead_eq hrun
  dsimp only
  rw [hlead, State.timeOut]
  change List.foldl _ _ s.coll.steps = _
  rw [hsteps]
  rfl

/-- The member says to all that it has not finished, with a cause, and counts its own STALL (R287). -/
def State.sayStall (s : State) (j : Job) (cause : Nat) : State :=
  (s.sendAll 0x20 [j.stroke, j.ext, cause]).modRun fun k =>
    { k with stalls := k.stalls ++ [{ stroke := j.stroke, rank := s.grp.rank.toNat, ext := j.ext, cause := cause, own := true }] }

/-- The causes of unfinished work at the stall point. -/
def State.causes (s : State) (j : Job) (busy : List Nat) : List Nat := (busy.filter fun c => 1 ≤ c && c ≤ 7) ++ s.openWork j

/-- The stall point with no step open: the lead is decided, and the lowest cause of unfinished work said unless it has been. -/
theorem exec_stallPoint (hlive : s.live = true) (hrun : s.strk.run = some j) (hgoes : j.stopped = false) (hsteps : s.coll.steps = []) (busy : List Nat) :
    let lead := (s.reach (strokeEnd j - 2500)).leadOf j
    let u := s.withLead j ((s.reach (strokeEnd j - 2500)).reach (strokeEnd j - lead.getD 1500)).gtc.now lead
    exec (.stallPoint busy) s = .next (match (s.causes j busy).min? with
      | none => u
      | some c => if j.stalls.any fun x => x.own && x.stroke = j.stroke && x.ext = j.ext then u else u.sayStall j c) := by
  have hstate := State.stallPoint_state hsteps hrun
  dsimp only at hstate ⊢
  generalize ((s.reach (strokeEnd j - 2500)).reach _).gtc.now = now at hstate ⊢
  generalize (s.reach (strokeEnd j - 2500)).leadOf j = lead at hstate ⊢
  have hexec : exec (.stallPoint busy) s = execStallPoint busy s := rfl
  rw [hexec, execStallPoint, hlive, hrun]
  dsimp only
  rw [hgoes, hstate, State.causes, ← State.openWork_withLead hrun now lead]
  change (match ((busy.filter fun c => 1 ≤ c && c ≤ 7) ++ (s.withLead j now lead).openWork { j with lead := lead }).min? with
    | none => _
    | some c => if _ then _ else _) = _
  split
  · rfl
  · split <;> rfl

/-- Every other member that a usable pair link reaches has the STALL waiting on it. -/
theorem State.sayStall_told (hrun : s.strk.run = some j) (now : BitVec 64) (lead : Option Nat) (c : Nat) :
    toldAll s ((s.withLead j now lead).sayStall j c) 0x20 [j.stroke, j.ext, c] := by
  intro r l rest hr hroute
  have hsame : (s.withLead j now lead).routePair r = s.routePair r :=
    State.routePair_of_st (s := s) (t := s.withLead j now lead) rfl (fun _ => rfl) (by rw [hrun]; rfl) rfl rfl r
  exact (s.withLead j now lead).sendAll_toldAll 0x20 [j.stroke, j.ext, c] r l rest hr (hsame.trans hroute)

theorem State.sayStall_frame (u : State) (c : Nat) : ∃ k, u.sayStall j c = { u with
    links := k, strk := { u.strk with run := u.strk.run.map fun k =>
      { k with stalls := k.stalls ++ [{ stroke := j.stroke, rank := u.grp.rank.toNat, ext := j.ext, cause := c, own := true }] } } } := by
  obtain ⟨k, e⟩ := u.sendAll_frame 0x20 [j.stroke, j.ext, c]
  exact ⟨k, by rw [State.sayStall, e]; rfl⟩

/-- The lead is 1,500 ns or 2,500 ns at the stall point, the first where every member has a link (R272). -/
theorem State.leadOf_stallPoint (hend : strokeEnd j < 2 ^ 64) (hknown : ∀ x, j.lead = some x → x = 1500 ∨ x = 2500) :
    ∃ lead, (s.reach (strokeEnd j - 2500)).leadOf j = some lead ∧ (lead = 1500 ∨ lead = 2500) ∧ (∀ x, j.lead = some x → lead = x)
      ∧ (j.lead = none → (∀ r ∈ s.others, s.upPair r ≠ []) → lead = 1500) := by
  cases hlead : j.lead with
  | some x => exact ⟨x, State.leadOf_known hlead, hknown x hlead, fun y hy => Option.some.inj hy, nofun⟩
  | none =>
    have hnow : strokeEnd j ≤ (s.reach (strokeEnd j - 2500)).gtc.now.toNat + 2500 := by
      rw [State.reach_toNat (by omega)]
      omega
    refine ⟨_, State.leadOf_decided hlead hnow, ?_, nofun, fun _ hup => ?_⟩
    · split
      · exact .inr rfl
      · exact .inl rfl
    · have hrelay : (s.reach (strokeEnd j - 2500)).relaysOnly = false := State.relaysOnly_eq_false hup
      rw [hrelay]
      rfl

/-- The GTC reaches the stall point by way of the instant at which the lead is decided. -/
theorem State.reach_reach (s : State) {a b : Nat} (ha : a < 2 ^ 64) (hab : a ≤ b) : (s.reach a).reach b = s.reach b := by
  have hmax : max (s.reach a).gtc.now.toNat b = max s.gtc.now.toNat b := by
    rw [State.reach_toNat ha]
    omega
  rw [State.reach, hmax]
  rfl

/-! ### Stretched strokes (R286, R288, R289) -/

theorem lowestStall_isSome {l : List StallMsg} (h : l ≠ []) : ∃ m, lowestStall l = some m := by
  have hsome (acc : StallMsg) (l : List StallMsg) : ∃ m, l.foldl (fun acc x => match acc with
      | some a => if a.rank ≤ x.rank then acc else some x
      | none => some x) (some acc) = some m := by
    induction l generalizing acc with
    | nil => exact ⟨acc, rfl⟩
    | cons x l ih =>
      rw [List.foldl_cons]
      dsimp only
      split
      · exact ih acc
      · exact ih x
  obtain ⟨x, l, rfl⟩ := List.exists_cons_of_ne_nil h
  exact hsome x l

/-- A boundary with a STALL known stretches the stroke, or ends the job at the limit. -/
theorem exec_strokeBoundary_stalled (hlive : s.live = true) (hrun : s.strk.run = some j) (hgoes : j.stopped = false) (hstalls : stallsNow j ≠ []) :
    ∃ m, exec .strokeBoundary s =
      .next (if j.ext = j.desc.stallMax then (s.reach (strokeEnd j)).stretchLimit j m else (s.reach (strokeEnd j)).stretch) := by
  obtain ⟨m, hm⟩ := lowestStall_isSome hstalls
  refine ⟨m, ?_⟩
  have hexec : exec .strokeBoundary s = execStrokeBoundary s := rfl
  have hlow : lowestStall (j.stalls.filter fun x => x.stroke = j.stroke && x.ext = j.ext) = some m := hm
  rw [hexec, execStrokeBoundary, hlive, hrun]
  dsimp only
  rw [hgoes, hlow, Bool.not_true, if_neg Bool.false_ne_true, if_neg Bool.false_ne_true]
  dsimp only
  split <;> rfl

theorem State.stretch_eq (hrun : s.strk.run = some j) : s.stretch =
    { s with strk := { s.strk with run := some { j with ext := j.ext + 1, lead := none, isVoid := true }, isVoid := true } } := by
  rw [State.stretch, State.modRun, hrun]
  rfl

/-- Nothing of the jobs at all. -/
def Strk.nothing (_ : Strk) : Unit := ()

/-- What a stretched stroke leaves at its end: its flag, and a job that is another in its account of stretches alone. -/
theorem State.noteStretch_notes (hrun : s.strk.run = some j) : Aside Strk.nothing s (s.noteStretch j) ∧ (s.noteStretch j).strk.evt = stretchedEvt s j
    ∧ ∃ n o v, (s.noteStretch j).strk.run = some { j with stretches := n, overrun := o, isVoid := v } := by
  unfold State.noteStretch stretchedEvt
  split
  · exact ⟨.refl, rfl, j.stretches, j.overrun, j.isVoid, hrun⟩
  · dsimp only
    generalize (match lowestStall (j.stalls.filter fun x => x.stroke = j.stroke && x.ext = 0) with
      | some m => _
      | none => _) = ctx
    have hraise : s.raiseStrk 0 = { s with strk := { s.strk with evt := s.strk.evt.raise 0 } }.fire 142 := rfl
    have hfire := State.aside_fire (f := id) { s with strk := { s.strk with evt := s.strk.evt.raise 0 } } 142
    rw [← hraise] at hfire
    generalize s.raiseStrk 0 = u at hfire ⊢
    have hu : u.strk = { s.strk with evt := s.strk.evt.raise 0 } := hfire.strk
    refine ⟨⟨hfire.gtc, hfire.grp, hfire.psets, hfire.rings, rfl, hfire.quiesced, hfire.sent, hfire.leaving, hfire.early⟩, ?_, j.stretches + j.ext, true,
      true, ?_⟩
    · exact congrArg Strk.evt hu
    · rw [State.modRun_run]
      change u.strk.run.map _ = _
      rw [hu, hrun]
      rfl

theorem State.aside_poisonHeaders (s : State) (j : Job) : Aside Strk.course s (s.poisonHeaders j) := by
  refine Aside.refl.foldl _ fun u e => .ite ?_ .refl
  have hread := u.aside_placeRead (f := Strk.course) e.2
  generalize u.placeRead e.2 = r at hread
  obtain ⟨v, _ | l⟩ := r
  · exact .refl
  · exact u.aside_placeWrite _ _ _

/-- The end of a stretched stroke with its flags, and the job's end in it: by a flag of the stroke (R289, R290), a change beside the course, and a status. -/
theorem State.endsStretched (hrun : s.strk.run = some j) {i status origin detail at_ : Nat} {w : State}
    (hw : Aside Strk.course (((s.noteStretch j).poisonHeaders j).raiseStrk i) w) :
    (w.finishJob status origin detail at_).strk.run = none ∧ (w.finishJob status origin detail at_).strk.evt = (stretchedEvt s j).raise i
      ∧ (ringTakes s j.ring → recordOut s (w.finishJob status origin detail at_) j.ring status) := by
  obtain ⟨hnote, hevt, n, o, v, hjob⟩ := State.noteStretch_notes hrun
  have hpoison := (s.noteStretch j).aside_poisonHeaders j
  obtain ⟨f, c, r, hjob'⟩ := Strk.run_of_course hpoison.strk hjob
  generalize (s.noteStretch j).poisonHeaders j = p at hpoison hjob' hw
  have hraise : Aside id { p with strk := { p.strk with evt := p.strk.evt.raise i } } (p.raiseStrk i) := State.aside_fire _ 142
  have hraised : (p.raiseStrk i).strk = { p.strk with evt := p.strk.evt.raise i } := hraise.strk
  obtain ⟨f', c', r', hjob''⟩ := Strk.run_of_course hw.strk ((congrArg Strk.run hraised).trans hjob')
  have hend := State.finishJob_ends hjob'' status origin detail at_
  have hrings : w.rings = s.rings := hw.rings.trans (hraise.rings.trans (hpoison.rings.trans hnote.rings))
  have hquiesced : w.host.quiesced = s.host.quiesced := hw.quiesced.trans (hraise.quiesced.trans (hpoison.quiesced.trans hnote.quiesced))
  have hring : w.ring j.ring = s.ring j.ring := congrArg (sget (fun _ => Ring.reset) · j.ring) hrings
  refine ⟨congrArg Strk.run hend.strk, ?_, fun htakes => ?_⟩
  · have hw' : w.strk.evt = (p.raiseStrk i).strk.evt := Strk.evt_of_course hw.strk
    have hp : p.strk.evt = (s.noteStretch j).strk.evt := Strk.evt_of_course hpoison.strk
    rw [hend.strk]
    change w.strk.evt = _
    rw [hw', hraised, ← hevt, ← hp]
  · exact recordOut_mono (congrArg Ring.place hring) List.prefix_rfl
      (hend.record ⟨(congrArg Ring.cleared hring).trans htakes.1, hquiesced.trans htakes.2⟩)

theorem State.stretchLimit_ends (hrun : s.strk.run = some j) (m : StallMsg) :
    (s.stretchLimit j m).strk.run = none ∧ (s.stretchLimit j m).strk.evt = (stretchedEvt s j).raise 1
      ∧ (ringTakes s j.ring → recordOut s (s.stretchLimit j m) j.ring 0x11) := by
  refine State.endsStretched hrun (i := 1) ⟨rfl, rfl, rfl, rfl, ?_, rfl, List.prefix_rfl, id, id⟩
  simp [Strk.course, State.modRun, Function.comp_def]

/-! ### Records in time and late (R290, R291, R430) -/

theorem State.tooLate_ends (hrun : s.strk.run = some j) (sender detail : Nat) :
    (s.tooLate j sender detail).strk.run = none ∧ (s.tooLate j sender detail).strk.evt = (stretchedEvt s j).raise 2
      ∧ (ringTakes s j.ring → recordOut s (s.tooLate j sender detail) j.ring 0x10) := State.endsStretched hrun (i := 2) .refl

/-- The record has been taken, and the job ends in the state that this leaves. -/
theorem tooLate_of_takeRecord {u : State} {kind sender : Nat} {items : List Nat} (hrun : s.strk.run = some j)
    (htake : s.takeRecord kind sender items = some u) (detail : Nat) :
    (u.tooLate j sender detail).strk.run = none ∧ (u.tooLate j sender detail).strk.evt = (stretchedEvt s j).raise 2
      ∧ (ringTakes s j.ring → recordOut s (u.tooLate j sender detail) j.ring 0x10) := by
  obtain ⟨i, k, hu⟩ := State.takeRecord_frame htake
  have hend := State.tooLate_ends (s := u) (j := j) (by rw [hu]; exact hrun) sender detail
  rw [hu] at hend ⊢
  exact hend

theorem exec_stall {u : State} {peer n e cause : Nat} (htake : s.takeRecord 0x20 peer [n, e, cause] = some u) (hrun : s.strk.run = some j) :
    exec (.stall peer n e cause) s = .next (if u.stallLate j n e then u.tooLate j peer 2
      else u.modRun fun j => { j with stalls := j.stalls ++ [{ stroke := n, rank := peer, ext := e, cause := cause % 16, own := false }] }) := by
  obtain ⟨i, k, hu⟩ := State.takeRecord_frame htake
  have hexec : exec (.stall peer n e cause) s = execStall peer n e cause s := rfl
  have hrun' : u.strk.run = some j := by rw [hu]; exact hrun
  rw [hexec, execStall, htake]
  dsimp only
  rw [hrun']
  dsimp only
  split <;> rfl

theorem exec_rateMessage {u : State} {peer c clock factor : Nat} (htake : s.takeRecord 0x21 peer [c, clock, factor] = some u)
    (hrun : s.strk.run = some j) (hgoes : j.stopped = false) : exec (.rateMessage peer c clock factor) s = .next (if c ≤ j.stroke then u.tooLate j peer 3
      else u.modRun fun j => { j with rates := addRate j.rates { rank := peer, stroke := c, clock := clock, factor := factor } }) := by
  obtain ⟨i, k, hu⟩ := State.takeRecord_frame htake
  have hexec : exec (.rateMessage peer c clock factor) s = execRateMessage peer c clock factor s := rfl
  have hrun' : u.strk.run = some j := by rw [hu]; exact hrun
  rw [hexec, execRateMessage, htake]
  dsimp only
  rw [hrun']
  dsimp only
  rw [hgoes]
  by_cases hlate : c ≤ j.stroke <;> simp [hlate]

theorem exec_jobEnd {u : State} {peer c status detail : Nat} (htake : s.takeRecord 0x25 peer [c, status, detail] = some u)
    (hrun : s.strk.run = some j) (hgoes : j.stopped = false) : exec (.jobEnd peer c status detail) s = .next (if c ≤ j.stroke then u.tooLate j peer 4
      else u.modRun fun j => { j with ends := j.ends ++ [{ rank := peer, own := false, stroke := c, status := status, detail := detail }] }) := by
  obtain ⟨i, k, hu⟩ := State.takeRecord_frame htake
  have hexec : exec (.jobEnd peer c status detail) s = execJobEnd peer c status detail s := rfl
  have hrun' : u.strk.run = some j := by rw [hu]; exact hrun
  rw [hexec, execJobEnd, htake]
  dsimp only
  rw [hrun']
  dsimp only
  rw [hgoes]
  by_cases hlate : c ≤ j.stroke <;> simp [hlate, State.addEnd]

/-- A STALL for extension `e` of stroke `n` comes late to a job whose strokes go on when E_(n,e) has passed. -/
theorem State.stallLate_iff (hgoes : j.stopped = false) (n e : Nat) : s.stallLate j n e = true ↔
    n < j.stroke ∨ (n = j.stroke ∧ j.start + j.period + e * guardOf j.period j.desc.guard < s.gtc.now.toNat) := by
  simp [State.stallLate, hgoes]

end
end Sys2Proof.Machine

namespace Sys2Proof.Proofs
open Sys2Proof Sys2Proof.Machine Sys2Proof.Claims

/-- Settles O28: the state at the stall point and at a stretched boundary, and the end of a job by a flag of its stroke. -/
theorem stallsStretchEveryMember : Obligations.StallsStretchEveryMember := by
  unfold Obligations.StallsStretchEveryMember
  rintro s j ⟨hlive, hrun, hgoes⟩
  refine ⟨fun busy c hsteps hcause hnew => ?_, fun busy hsteps hcause hend hknown => ?_, fun hstalls hext => ?_, fun hstalls hext htakes => ?_,
    fun u peer n e cause htake => ?_, fun u peer c clock factor htake => ?_, fun u peer c status detail htake => ?_⟩
  · have hexec := exec_stallPoint hlive hrun hgoes hsteps busy
    dsimp only at hexec
    rw [show (s.causes j busy).min? = some c from hcause] at hexec
    dsimp only at hexec
    rw [hnew, if_neg Bool.false_ne_true] at hexec
    obtain ⟨k, hframe⟩ := State.sayStall_frame (j := j) (s.withLead j ((s.reach (strokeEnd j - 2500)).reach
      (strokeEnd j - ((s.reach (strokeEnd j - 2500)).leadOf j).getD 1500)).gtc.now ((s.reach (strokeEnd j - 2500)).leadOf j)) c
    refine ⟨_, { j with
        lead := (s.reach (strokeEnd j - 2500)).leadOf j
        stalls := j.stalls ++ [{ stroke := j.stroke, rank := s.grp.rank.toNat, ext := j.ext, cause := c, own := true }] },
      hexec, ?_, ?_, rfl, State.sayStall_told hrun _ _ c⟩
    · rw [hframe]
      rfl
    · rw [hframe]
      rfl
  · have hexec := exec_stallPoint hlive hrun hgoes hsteps busy
    obtain ⟨lead, hlead, hor, hsame, hdirect⟩ := State.leadOf_stallPoint hend hknown
    dsimp only at hexec
    rw [show (s.causes j busy).min? = none from hcause, hlead, Option.getD_some,
      State.reach_reach s (by omega) (show strokeEnd j - 2500 ≤ strokeEnd j - lead by omega)] at hexec
    exact ⟨lead, hor, hsame, hdirect, hexec⟩
  · obtain ⟨m, hexec⟩ := exec_strokeBoundary_stalled hlive hrun hgoes hstalls
    rw [if_neg hext, State.stretch_eq (s := s.reach (strokeEnd j)) hrun] at hexec
    exact ⟨_, hexec, rfl, rfl⟩
  · obtain ⟨m, hexec⟩ := exec_strokeBoundary_stalled hlive hrun hgoes hstalls
    rw [if_pos hext] at hexec
    obtain ⟨hnone, hevt, hrecord⟩ := State.stretchLimit_ends (s := s.reach (strokeEnd j)) hrun m
    exact ⟨_, hexec, hnone, hevt, hrecord htakes⟩
  · have hexec := exec_stall htake hrun
    have hnow : u.gtc = s.gtc := by
      obtain ⟨i, k, hu⟩ := State.takeRecord_frame htake
      rw [hu]
    have hiff := State.stallLate_iff (s := u) hgoes n e
    rw [hnow] at hiff
    refine ⟨fun hin => ?_, fun hlate htakes => ?_⟩
    · rwa [if_neg (mt hiff.mp hin)] at hexec
    · rw [if_pos (hiff.mpr hlate)] at hexec
      obtain ⟨hnone, hevt, hrecord⟩ := tooLate_of_takeRecord hrun htake 2
      exact ⟨_, hexec, hnone, hevt, hrecord htakes⟩
  · have hexec := exec_rateMessage htake hrun hgoes
    refine ⟨fun hin => ?_, fun hlate htakes => ?_⟩
    · rwa [if_neg (Nat.not_le.mpr hin)] at hexec
    · rw [if_pos hlate] at hexec
      obtain ⟨hnone, hevt, hrecord⟩ := tooLate_of_takeRecord hrun htake 3
      exact ⟨_, hexec, hnone, hevt, hrecord htakes⟩
  · have hexec := exec_jobEnd htake hrun hgoes
    refine ⟨fun hin => ?_, fun hlate htakes => ?_⟩
    · rwa [if_neg (Nat.not_le.mpr hin)] at hexec
    · rw [if_pos hlate] at hexec
      obtain ⟨hnone, hevt, hrecord⟩ := tooLate_of_takeRecord hrun htake 4
      exact ⟨_, hexec, hnone, hevt, hrecord htakes⟩

end Sys2Proof.Proofs
end

section
/-! PROOF. Discipline exchanges (R266 to R268, R318): the records of an exchange on the queues of the links, and what an estimate of the offset does to the lock, the
GTC and the running job. -/
namespace Sys2Proof.Machine
open Sys2Proof.Claims

/-! ### Departure of a record (R308, R318) -/

section
variable {s t u : State}

theorem State.dropUnrouted_none (h : s.coll.unrouted = []) : s.dropUnrouted = s := by
  have hs : ({ s with coll := { s.coll with unrouted := [] } } : State) = s := by rw [← h]
  unfold State.dropUnrouted
  rw [h]
  exact hs

theorem State.routeNext_none (h : s.coll.unrouted = []) (l : Nat) : s.routeNext l = s := by
  unfold State.routeNext
  rw [h]
  split <;> rfl

/-- The entry of a record of this module alone. -/
def recordEntry (slot : Line) : Slots := { msg := true, slots := [slot], chunk := none, sent := 0 }

section
variable {x : LinkState} {slot : Line}

theorem LinkState.sendable_record (hq : x.vc3 = [recordEntry slot]) (hcredit : 0 < x.credit.getD 3 0) : x.sendable 3 = 1 := by
  unfold LinkState.sendable LinkState.queue
  rw [hq]
  change min (min 8 (x.credit.getD 3 0)) 1 = 1
  omega

theorem LinkState.choose_record (hq : x.vc3 = [recordEntry slot]) (hcredit : 0 < x.credit.getD 3 0) : x.choose = some 3 := by
  rw [LinkState.choose, LinkState.sendable_record hq hcredit, if_pos Nat.one_ne_zero]

theorem LinkState.take_record (hq : x.vc3 = [recordEntry slot]) (seq : Nat) : x.take 3 1 seq = ([slot], { x with vc3 := [] }) := by
  unfold LinkState.take LinkState.queue
  rw [hq]
  rfl

/-- A record of this module takes no pool space. -/
theorem LinkState.gives_record (hq : x.vc3 = [recordEntry slot]) : x.gives 3 1 = [(linkCount, 0, 0)] := by
  unfold LinkState.gives LinkState.queue
  rw [hq]
  rfl

end

/-- The one record that waits on VC3 leaves with the next flit, and a DISC_SYNC is followed. -/
theorem State.sendFlit_record {l : Nat} {slot : Line} (hresend : (s.link l).resend = []) (hroom : (s.link l).replay.length < 256)
    (hunrouted : s.coll.unrouted = []) (hcredit : 0 < (s.link l).credit.getD 3 0) (hq : (s.link l).vc3 = [recordEntry slot]) :
    ∃ y h, s.sendFlit l = ((s.setLink l y).emit l h [slot]).followSync l slot := by
  have hpre : (if (s.link l).st = .up then s.dropUnrouted.routeNext l else s) = s := by
    rw [State.dropUnrouted_none hunrouted, State.routeNext_none hunrouted, ite_self]
  have hqueue : (s.link l).queue 3 = [recordEntry slot] := hq
  unfold State.sendFlit
  rw [hresend]
  dsimp only
  rw [hpre, if_neg (Nat.not_le.mpr hroom), LinkState.choose_record hq hcredit]
  dsimp only
  rw [hqueue, LinkState.sendable_record hq hcredit, LinkState.take_record hq, LinkState.gives_record hq]
  exact ⟨_, _, rfl⟩

/-! ### Bytes of a DISC_SYNC (R317) -/

theorem byteAt_recordSlot_kind {dest kind : Nat} (items : List Nat) (hk : kind < 256) : byteAt (s.recordSlot dest kind items) 0 = kind :=
  (BitVec.toNat_ofNat _ _).trans (Nat.mod_eq_of_lt hk)

theorem byteAt_recordSlot_sender (dest kind : Nat) (items : List Nat) : byteAt (s.recordSlot dest kind items) 1 = s.grp.rank.toNat := by
  have := s.grp.rank.isLt
  exact (BitVec.toNat_setWidth _ _).trans (Nat.mod_eq_of_lt (by omega))

theorem byteAt_recordSlot_dest {dest : Nat} (kind : Nat) (items : List Nat) (hd : dest < 256) : byteAt (s.recordSlot dest kind items) 2 = dest :=
  (BitVec.toNat_ofNat _ _).trans (Nat.mod_eq_of_lt hd)

theorem leAt_recordSlot_sync {dest n : Nat} (hn : n < 2 ^ 32) : leAt (s.recordSlot dest 0x11 [n]) 4 4 = n := by
  have hbody : recordBody 0x11 [n] = leBytes 4 n ++ List.replicate 64 0#8 := rfl
  have hstep := leAt_append_right [BitVec.ofNat 8 0x11, s.grp.rank.setWidth 8, BitVec.ofNat 8 dest, 0#8] (recordBody 0x11 [n]) 0 4
  rw [State.recordSlot]
  rw [hbody] at hstep ⊢
  exact hstep.trans (leAt_leBytes_append 4 (by omega) _)

/-- The DISC_FOLLOW of a DISC_SYNC that leaves waits on the same link. -/
theorem State.followSync_told {v : State} (hgrp : v.grp = s.grp) (hgtc : v.gtc = s.gtc) (l : Nat) {peer n : Nat} (hpeer : peer < 128) (hn : n < 2 ^ 32) :
    ∃ d, d < 8 ∧ told (v.followSync l (s.recordSlot peer 0x11 [n])) l peer 0x12 [n, 8 * s.gtc.now.toNat + d] := by
  have hown : (byteAt (s.recordSlot peer 0x11 [n]) 0 = 0x11 && byteAt (s.recordSlot peer 0x11 [n]) 1 = v.grp.rank.toNat) = true := by
    rw [byteAt_recordSlot_kind [n] (by omega), byteAt_recordSlot_sender, hgrp]
    simp
  refine ⟨v.draw.1.toNat % 8, Nat.mod_lt _ (by omega), ?_⟩
  unfold State.followSync
  rw [if_pos hown, byteAt_recordSlot_dest 0x11 [n] (by omega), leAt_recordSlot_sync hn, hgtc]
  exact v.draw.2.recordOn_told l peer 0x12 _

/-- The link state and the queues of a state that has the group and the queues of another. -/
structure SameQueues (s t : State) : Prop where
  grp : t.grp = s.grp
  queue : ∀ l k, (t.link l).queue k = (s.link l).queue k

theorem SameQueues.stillTold (h : SameQueues s t) {l dest kind : Nat} {items : List Nat} (ht : told s l dest kind items) : told t l dest kind items := by
  have hslot : t.recordSlot dest kind items = s.recordSlot dest kind items := by
    rw [State.recordSlot, h.grp]
    rfl
  rw [told, hslot, h.queue]
  exact ht

/-- A link disabled keeps its queues. -/
theorem SameQueues.disable (h : SameQueues s t) (a : Nat) : SameQueues s (t.modLink a fun x => { x with st := .disabled }) := by
  refine ⟨h.grp, fun l k => ?_⟩
  have hlink : (t.modLink a fun x => { x with st := .disabled }).link l = if l = a then { t.link a with st := .disabled } else t.link l := sget_sset_if _ _ _
  rw [hlink, ← h.queue]
  split
  · rename_i e
    rw [e]
    rfl
  · rfl

theorem State.sameQueues_disableLinks : SameQueues s s.disableLinks := by
  unfold State.disableLinks
  exact foldl_keeps (SameQueues s) _ _ _ (fun _ a ht => ht.disable a) ⟨rfl, fun _ _ => rfl⟩

theorem SameQueues.startQuiesce (h : SameQueues s t) : SameQueues s t.startQuiesce := by
  obtain ⟨hh, p, e⟩ := State.raiseHost_frame { t with host := { t.host with quiesceReq := true } } 2
  rw [State.startQuiesce, e]
  exact ⟨h.grp, h.queue⟩

theorem SameQueues.withMir (h : SameQueues s t) (m : Mir) : SameQueues s { t with mir := m } := ⟨h.grp, h.queue⟩

theorem State.sameQueues_releaseNext : SameQueues s s.releaseNext := by
  unfold State.releaseNext
  split
  · exact State.sameQueues_disableLinks.startQuiesce.withMir _
  · exact ⟨rfl, fun _ _ => rfl⟩

theorem exec_flitSend {l peer n : Nat} (hlive : s.live = true) (hl : l < 96) (hpeer : peer < 128) (hn : n < 2 ^ 32) (hup : (s.link l).st = .up)
    (hresend : (s.link l).resend = []) (hroom : (s.link l).replay.length < 256) (hunrouted : s.coll.unrouted = [])
    (hcredit : 0 < (s.link l).credit.getD 3 0) (hq : (s.link l).vc3 = [recordEntry (s.recordSlot peer 0x11 [n])]) :
    ∃ (t : State) (d : Nat), exec (.flitSend l) s = .next t ∧ d < 8 ∧ told t l peer 0x12 [n, 8 * s.gtc.now.toNat + d] := by
  obtain ⟨y, h, hsend⟩ := State.sendFlit_record hresend hroom hunrouted hcredit hq
  obtain ⟨d, hd, htold⟩ := State.followSync_told (s := s) (v := (s.setLink l y).emit l h [s.recordSlot peer 0x11 [n]]) rfl rfl l hpeer hn
  have hruns : (s.live && linkRuns (s.link l).st) = true := by
    rw [hlive, hup]
    rfl
  refine ⟨(s.sendFlit l).releaseNext, d, ?_, hd, State.sameQueues_releaseNext.stillTold (hsend ▸ htold)⟩
  change execFlitSend l s = _
  rw [execFlitSend, if_neg (show ¬ linkCount ≤ l from Nat.not_le.mpr hl), if_pos hruns]

/-! ### Records of an exchange -/

/-- The master has begun its next exchange. -/
def State.nextExchange (s : State) : State := { s with gtc := { s.gtc with exchNum := s.gtc.exchNum + 1 } }

theorem exec_disciplineExchange (hlive : s.live = true) (hready : s.ready = true) (hm : s.gtc.master = true) : exec .disciplineExchange s =
    .next (s.others.foldl (fun t r => t.sendRecord r 0x11 [s.gtc.exchNum] false) s.nextExchange) := by
  change execDisciplineExchange s = _
  rw [execDisciplineExchange, hlive, hready, hm]
  rfl

/-- The module's own exchange with its master, when it bears the number. -/
theorem State.exchange_eq {peer n : Nat} {x : Exchange} (hm : s.gtc.master = false) (hrank : s.gtc.masterRank.toNat = peer) (hx : s.gtc.exch = some x)
    (hn : x.num = n) : s.exchange peer n = some x := by
  rw [State.exchange, hm, hrank, hx]
  simp [hn]

/-- The exchange a DISC_SYNC begins. -/
def State.syncHeard (s : State) (n : Nat) (t2 : Int) : State :=
  { s with gtc := { s.gtc with holdover := false, exch := some { num := n, t1 := none, t2 := t2, t3 := none } } }

theorem exec_discSync {peer n : Nat} {t2 : Int} (htake : s.takeRecord 0x11 peer [n] = some u) (hready : s.ready = true) (hfollows : s.follows peer = true)
    (hm : s.gtc.master = false) (hrank : s.gtc.masterRank.toNat = peer) : exec (.discSync peer n t2) s = .next (u.syncHeard n t2) := by
  obtain ⟨⟨i, k, hu⟩, -⟩ := State.takeRecord_links htake
  have hr : u.ready = true := by rw [hu]; exact hready
  have hf : u.follows peer = true := by rw [hu]; exact hfollows
  have hadopt : u.adopt peer = u := by
    have hsame : (!u.gtc.master && u.gtc.masterRank.toNat = peer) = true := by
      rw [hu]
      simp [hm, hrank]
    rw [State.adopt, if_pos hsame]
  change execDiscSync peer n t2 s = _
  rw [execDiscSync, htake]
  dsimp only
  rw [hr, hf, hadopt]
  rfl

/-- The master has told t1, and the member has answered at t3. -/
def State.dreqSent (s : State) (x : Exchange) (t1 t3 : Int) : State := { s with gtc := { s.gtc with exch := some { x with t1 := some t1, t3 := some t3 } } }

theorem exec_discFollow {peer n : Nat} {x : Exchange} {t1 t3 : Int} (htake : s.takeRecord 0x12 peer [n, t1.toNat] = some u) (hm : s.gtc.master = false)
    (hrank : s.gtc.masterRank.toNat = peer) (hx : s.gtc.exch = some x) (hn : x.num = n) :
    exec (.discFollow peer n t1 t3) s = .next ((u.dreqSent x t1 t3).sendRecord peer 0x13 [n] false) := by
  obtain ⟨⟨i, k, hu⟩, -⟩ := State.takeRecord_links htake
  have hexch : u.exchange peer n = some x := by
    rw [hu]
    exact State.exchange_eq (s := { s with inbox := i, links := k }) hm hrank hx hn
  change execDiscFollow peer n t1 t3 s = _
  rw [execDiscFollow, htake]
  dsimp only
  rw [hexch]
  rfl

theorem exec_discDreq {peer n : Nat} {t4 : Int} (htake : s.takeRecord 0x13 peer [n] = some u) (hm : s.gtc.master = true) :
    exec (.discDreq peer n t4) s = .next (u.sendRecord peer 0x14 [n, t4.toNat] false) := by
  obtain ⟨⟨i, k, hu⟩, -⟩ := State.takeRecord_links htake
  have hmaster : u.gtc.master = true := by rw [hu]; exact hm
  change execDiscDreq peer n t4 s = _
  rw [execDiscDreq, htake]
  dsimp only
  rw [if_pos hmaster]

theorem exec_discDresp {peer : Nat} {x : Exchange} {t1 t3 t4 : Int} (htake : s.takeRecord 0x14 peer [x.num, t4.toNat] = some u)
    (hm : s.gtc.master = false) (hrank : s.gtc.masterRank.toNat = peer) (hx : s.gtc.exch = some x) (h1 : x.t1 = some t1) (h3 : x.t3 = some t3) :
    exec (.discDresp peer x.num t4) s = .next (u.estimate (twiceOffset t1 x.t2 t3 t4 (s.asymOf peer))) := by
  obtain ⟨⟨i, k, hu⟩, hst⟩ := State.takeRecord_links htake
  have hexch : u.exchange peer x.num = some x := by
    rw [hu]
    exact State.exchange_eq (s := { s with inbox := i, links := k }) hm hrank hx rfl
  have hasym : u.asymOf peer = s.asymOf peer := by
    have hup : u.linkUp = s.linkUp := by
      funext l
      rw [State.linkUp, State.linkUp, hst]
    have hpair : u.upPair peer = s.upPair peer := by
      rw [State.upPair, State.upPair, hup, hu]
      rfl
    unfold State.asymOf
    rw [hpair, hu]
    rfl
  change execDiscDresp peer x.num t4 s = _
  rw [execDiscDresp, htake]
  dsimp only
  rw [hexch]
  dsimp only
  rw [h1, h3, ← hasym]

/-! ### The end of the jobs by an offset beyond 1 µs (R268) -/

/-- What an operation leaves when it sets registers of the GTC, and then works beside the course of the jobs. -/
def OnlyGtc {α : Type} (f : Strk → α) (s t : State) : Prop := Aside f { s with gtc := t.gtc } t

theorem OnlyGtc.trans {α : Type} {f : Strk → α} (h : OnlyGtc f s t) (h' : OnlyGtc f t u) : OnlyGtc f s u :=
  ⟨rfl, h'.grp.trans h.grp, h'.psets.trans h.psets, h'.rings.trans h.rings, h'.strk.trans h.strk, h'.quiesced.trans h.quiesced,
    List.IsPrefix.trans h.sent h'.sent, fun hl => h'.leaving (h.leaving hl), fun he => h'.early (h.early he)⟩

theorem State.onlyGtc_raiseGtc {α : Type} {f : Strk → α} (i : Nat) : OnlyGtc f s (s.raiseGtc i) := by
  have h : Aside f { s with gtc := { s.gtc with evt := s.gtc.evt.raise i } } (s.raiseGtc i) :=
    (State.aside_fire _ 142).trans (State.aside_logEvent _ _ _ _)
  rw [OnlyGtc, State.raiseGtc_gtc]
  exact h

theorem State.finishJob_idle {α : Type} {f : Strk → α} (hrun : s.strk.run = none) (status origin detail at_ : Nat) :
    Aside f s (s.finishJob status origin detail at_) := by
  rw [State.finishJob, State.endJob_idle _ hrun]
  exact .ite (State.aside_releaseLoans _) .refl

/-- No job runs when the running one has been ended, and the one queued has not changed. -/
theorem State.finishJob_leaves (status origin detail at_ : Nat) :
    (s.finishJob status origin detail at_).gtc = s.gtc ∧ (s.finishJob status origin detail at_).strk.run = none
      ∧ ∀ j, s.strk.run = some j → ringTakes s j.ring → recordOut s (s.finishJob status origin detail at_) j.ring status := by
  cases hrun : s.strk.run with
  | none =>
    have h := State.finishJob_idle (f := id) hrun status origin detail at_
    exact ⟨h.gtc, (congrArg Strk.run h.strk).trans hrun, fun _ hi => by cases hi⟩
  | some j =>
    have h := State.finishJob_ends hrun status origin detail at_
    refine ⟨h.gtc, congrArg Strk.run h.strk, fun i hi htakes => ?_⟩
    cases hi
    exact h.record htakes

/-- The queued job refused. -/
def State.dropQueued (s : State) : State :=
  match s.strk.queued with
  | some j => { s with strk := { s.strk with queued := none } }.complete (s.refusal j.ring j.desc 0x10 1)
  | none => s

theorem State.dropQueued_leaves : s.dropQueued.gtc = s.gtc ∧ s.dropQueued.strk = { s.strk with queued := none } ∧ s.pcieOut <+: s.dropQueued.pcieOut := by
  unfold State.dropQueued
  split
  · rename_i j _
    obtain ⟨r, h⟩ := State.aside_complete (f := id) { s with strk := { s.strk with queued := none } } (s.refusal j.ring j.desc 0x10 1)
    exact ⟨h.gtc, h.strk, h.sent⟩
  · rename_i hnone
    refine ⟨rfl, ?_, List.prefix_rfl⟩
    rw [← hnone]

/-- An offset beyond 1 µs makes a step due and ends the running job and the queued one. -/
theorem State.offsetFault_leaves : s.offsetFault.gtc = { s.gtc with evt := s.gtc.evt.raise 3, stepDue := true } ∧ s.offsetFault.strk.run = none
    ∧ s.offsetFault.strk.queued = none ∧ ∀ j, s.strk.run = some j → ringTakes s j.ring → recordOut s s.offsetFault j.ring 0x10 := by
  have hraised := State.onlyGtc_raiseGtc (s := s) (f := id) 3
  have hgtc := State.raiseGtc_gtc s 3
  let v := s.raiseGtc 3
  obtain ⟨hfg, hfr, hfrec⟩ := State.finishJob_leaves (s := v) 0x10 0x7F 1 s.gtc.now.toNat
  let w := v.finishJob 0x10 0x7F 1 s.gtc.now.toNat
  obtain ⟨hdg, hds, hdp⟩ := State.dropQueued_leaves (s := w)
  have hshape : s.offsetFault = { w.dropQueued with gtc := { w.dropQueued.gtc with stepDue := true } } := rfl
  rw [hshape]
  have hrings : ∀ r, v.ring r = s.ring r := fun r => congrArg (sget (fun _ => Ring.reset) · r) hraised.rings
  refine ⟨?_, (congrArg Strk.run hds).trans hfr, congrArg Strk.queued hds, fun j hj htakes => ?_⟩
  · dsimp only
    rw [hdg, hfg, hgtc]
  · have htv : ringTakes v j.ring := ⟨(congrArg Ring.cleared (hrings _)).trans htakes.1, hraised.quiesced.trans htakes.2⟩
    have hrun : v.strk.run = some j := (congrArg Strk.run hraised.strk).trans hj
    exact recordOut_mono (congrArg Ring.place (hrings _)) hdp (hfrec j hrun htv)

/-! ### The lock (R266, R267) -/

/-- The ring of the running job. -/
def Strk.runRing (k : Strk) : Option Nat := k.run.map (·.ring)

theorem State.unlock_locked : ∃ e, s.unlock.gtc = { s.gtc with locked := false, evt := e } := by
  cases h : s.gtc.locked with
  | true => exact ⟨_, State.unlock_gtc h⟩
  | false =>
    refine ⟨s.gtc.evt, ?_⟩
    rw [State.unlock, h, Bool.not_false, if_pos rfl, ← h]

theorem State.onlyGtc_unlock : OnlyGtc Strk.runRing s s.unlock := by
  unfold State.unlock
  split
  · exact Aside.refl
  · have h := State.onlyGtc_raiseGtc (s := { s with gtc := { s.gtc with locked := false } }) (f := id) 0
    generalize State.raiseGtc { s with gtc := { s.gtc with locked := false } } 0 = v at h ⊢
    have hs : OnlyGtc id s v := h
    dsimp only
    split
    · rename_i j hj
      have hring : Strk.runRing s.strk = some j.ring := by
        rw [← show v.strk = s.strk from hs.strk, Strk.runRing, hj]
        rfl
      exact ⟨rfl, hs.grp, hs.psets, hs.rings, hring.symm, hs.quiesced, hs.sent, hs.leaving, hs.early⟩
    · exact hs.weaken

/-- Estimates held after a further one: the last 64. -/
def Gtc.windowWith (g : Gtc) (o : Int) : List Int := (g.window ++ [o]).drop (g.window.length + 1 - 64)

/-- 64 estimates within 2 ns. -/
def settled (w : List Int) : Bool := w.length = 64 && w.all fun x => x.natAbs ≤ 4000

theorem settled_iff {w : List Int} : settled w = true ↔ w.length = 64 ∧ ∀ y ∈ w, y.natAbs ≤ 4000 := by
  simp [settled]

/-- The newest estimate is one of those held. -/
theorem Gtc.mem_windowWith (g : Gtc) (o : Int) : o ∈ g.windowWith o := by
  rw [Gtc.windowWith, List.drop_append_of_le_length (by omega)]
  exact List.mem_append_right _ (List.mem_singleton.mpr rfl)

/-- The estimate noted. -/
def State.noted (s : State) (o : Int) : State :=
  { s.draw.2 with gtc := { s.draw.2.gtc with
      offset := offsetField o, window := s.gtc.windowWith o, exch := none, slewPpm := s.draw.1.toInt % 201 - 100 } }

theorem State.onlyGtc_noted (s : State) (o : Int) : OnlyGtc Strk.runRing s (s.noted o) :=
  ⟨rfl, rfl, rfl, rfl, rfl, rfl, List.prefix_rfl, id, id⟩

/-- The lock lost with an estimate beyond 4 ns. -/
def State.doubted (s : State) (o : Int) : State := if 8000 < o.natAbs then (s.noted o).unlock else s.noted o

/-- The lock gained with the last of 64 estimates within 2 ns. -/
def State.relocked (s : State) (o : Int) : State :=
  if settled (s.gtc.windowWith o) then { s.doubted o with gtc := { (s.doubted o).gtc with locked := true } } else s.doubted o

theorem State.estimate_eq (o : Int) : s.estimate o = if 2000000 < o.natAbs then (s.relocked o).offsetFault else s.relocked o := rfl

theorem State.onlyGtc_relocked (o : Int) : OnlyGtc Strk.runRing s (s.relocked o) := by
  have hdoubted : OnlyGtc Strk.runRing s (s.doubted o) := by
    unfold State.doubted
    split
    · exact (s.onlyGtc_noted o).trans State.onlyGtc_unlock
    · exact s.onlyGtc_noted o
  unfold State.relocked
  split
  · exact ⟨rfl, hdoubted.grp, hdoubted.psets, hdoubted.rings, hdoubted.strk, hdoubted.quiesced, hdoubted.sent, hdoubted.leaving, hdoubted.early⟩
  · exact hdoubted

theorem State.doubted_gtc (o : Int) : ∃ e, (s.doubted o).gtc = { (s.noted o).gtc with locked := s.gtc.locked && decide (o.natAbs ≤ 8000), evt := e } := by
  unfold State.doubted
  split
  · rename_i h
    obtain ⟨e, he⟩ := State.unlock_locked (s := s.noted o)
    refine ⟨e, he.trans ?_⟩
    rw [decide_eq_false (by omega), Bool.and_false]
  · rename_i h
    refine ⟨(s.noted o).gtc.evt, ?_⟩
    rw [decide_eq_true (by omega), Bool.and_true]
    rfl

/-- The GTC after an estimate: the lock is held by 64 estimates within 2 ns, and else kept within 4 ns. -/
theorem State.relocked_gtc (o : Int) : ∃ e, (s.relocked o).gtc =
    { (s.noted o).gtc with locked := settled (s.gtc.windowWith o) || (s.gtc.locked && decide (o.natAbs ≤ 8000)), evt := e } := by
  obtain ⟨e, he⟩ := State.doubted_gtc (s := s) o
  refine ⟨e, ?_⟩
  unfold State.relocked
  cases settled (s.gtc.windowWith o) with
  | true => rw [if_pos rfl, he, Bool.true_or]
  | false => rw [if_neg Bool.false_ne_true, he, Bool.false_or]

/-- What an estimate of the offset leaves of the GTC, the jobs and their rings. -/
structure Estimated (s : State) (o : Int) (t : State) : Prop where
  offset : t.gtc.offset = offsetField o
  window : t.gtc.window = s.gtc.windowWith o
  now : t.gtc.now = s.gtc.now
  locked : t.gtc.locked = (settled (s.gtc.windowWith o) || (s.gtc.locked && decide (o.natAbs ≤ 8000)))
  faulty : 2000000 < o.natAbs → t.gtc.stepDue = true ∧ t.strk.run = none ∧ t.strk.queued = none
    ∧ ∀ j, s.strk.run = some j → ringTakes s j.ring → recordOut s t j.ring 0x10
  sound : o.natAbs ≤ 2000000 → t.gtc.stepDue = s.gtc.stepDue ∧ t.strk.run.isSome = s.strk.run.isSome

theorem State.estimate_estimates (o : Int) : Estimated s o (s.estimate o) := by
  have hjobs := State.onlyGtc_relocked (s := s) o
  obtain ⟨e, hgtc⟩ := State.relocked_gtc (s := s) o
  rw [State.estimate_eq]
  generalize s.relocked o = v at hjobs hgtc ⊢
  have hrun : v.strk.run.map (·.ring) = s.strk.run.map (·.ring) := hjobs.strk
  split
  · rename_i hbig
    obtain ⟨hg, hnone, hqueued, hrec⟩ := State.offsetFault_leaves (s := v)
    rw [hgtc] at hg
    have hring : ∀ r, v.ring r = s.ring r := fun r => congrArg (sget (fun _ => Ring.reset) · r) hjobs.rings
    refine ⟨congrArg Gtc.offset hg, congrArg Gtc.window hg, (congrArg Gtc.now hg).trans rfl, congrArg Gtc.locked hg,
      fun _ => ⟨congrArg Gtc.stepDue hg, hnone, hqueued, fun j hj htakes => ?_⟩, fun h => absurd h (by omega)⟩
    rw [hj] at hrun
    obtain ⟨i, hi, hij⟩ := Option.map_eq_some_iff.mp hrun
    have hij : i.ring = j.ring := hij
    rw [← hij] at htakes ⊢
    have htv : ringTakes v i.ring := ⟨(congrArg Ring.cleared (hring _)).trans htakes.1, hjobs.quiesced.trans htakes.2⟩
    exact recordOut_mono (congrArg Ring.place (hring _)) List.prefix_rfl (hrec i hi htv)
  · rename_i hsmall
    refine ⟨congrArg Gtc.offset hgtc, congrArg Gtc.window hgtc, (congrArg Gtc.now hgtc).trans rfl, congrArg Gtc.locked hgtc, fun h => absurd h hsmall,
      fun _ => ⟨(congrArg Gtc.stepDue hgtc).trans rfl, ?_⟩⟩
    rw [← Option.isSome_map (f := fun j : Job => j.ring), hrun, Option.isSome_map]

/-- A state whose GTC, jobs and rings are those of another leaves by an estimate what the other does. -/
theorem Estimated.of_takeRecord {o : Int} {kind sender : Nat} {items : List Nat} (htake : s.takeRecord kind sender items = some u) (h : Estimated u o t) :
    Estimated s o t := by
  obtain ⟨⟨i, k, rfl⟩, -⟩ := State.takeRecord_links htake
  exact ⟨h.offset, h.window, h.now, h.locked, h.faulty, h.sound⟩

end
end Sys2Proof.Machine

namespace Sys2Proof.Proofs
open Sys2Proof Sys2Proof.Machine Sys2Proof.Claims

/-- Settles O32: each record of an exchange waits on the link it is sent on, and an estimate is read off as one stage after another. -/
theorem exchangesDisciplineTheClock : Obligations.ExchangesDisciplineTheClock := by
  unfold Obligations.ExchangesDisciplineTheClock
  intro s hlive hready
  refine ⟨fun hm => ?_, fun l peer n hl hpeer hn hup hresend hroom hunrouted hcredit hq => ?_, fun u peer n t2 htake hfollows hm hrank => ?_,
    fun u peer n l rest x t1 t3 htake hm hrank hx hn hroute => ?_, fun u peer n l rest t4 htake hm hroute => ?_,
    fun u peer x t1 t3 t4 htake hm hrank hx h1 h3 => ?_⟩
  · obtain ⟨hq, htold⟩ := s.nextExchange.foldl_sendRecord s.others 0x11 [s.gtc.exchNum] false
    refine ⟨_, exec_disciplineExchange hlive hready hm, ?_, htold⟩
    rw [hq.frame]
    rfl
  · exact exec_flitSend hlive hl hpeer hn hup hresend hroom hunrouted hcredit hq
  · obtain ⟨⟨i, k, hu⟩, -⟩ := State.takeRecord_links htake
    rw [exec_discSync htake hready hfollows hm hrank, State.syncHeard, hu]
  · have hq := (u.dreqSent x t1 t3).queues_sendRecord peer 0x13 [n] false
    obtain ⟨⟨i, k, hu⟩, -⟩ := State.takeRecord_links htake
    have hr : (u.dreqSent x t1 t3).routePair peer = l :: rest := (State.takeRecord_routePair htake peer).trans hroute
    refine ⟨_, exec_discFollow htake hm hrank hx hn, ?_, State.sendRecord_told hr 0x13 [n] false⟩
    rw [hq.frame, State.dreqSent, hu]
  · have hq := u.queues_sendRecord peer 0x14 [n, t4.toNat] false
    obtain ⟨⟨i, k, hu⟩, -⟩ := State.takeRecord_links htake
    have hr : u.routePair peer = l :: rest := (State.takeRecord_routePair htake peer).trans hroute
    refine ⟨_, exec_discDreq htake hm, ?_, State.sendRecord_told hr 0x14 [n, t4.toNat] false⟩
    rw [hq.frame, hu]
  · have h := (State.estimate_estimates (s := u) (twiceOffset t1 x.t2 t3 t4 (s.asymOf peer))).of_takeRecord htake
    have hlocked := h.locked
    dsimp only
    generalize hlast : (s.gtc.window ++ [twiceOffset t1 x.t2 t3 t4 (s.asymOf peer)]).drop (s.gtc.window.length + 1 - 64) = last
    have hlast : s.gtc.windowWith (twiceOffset t1 x.t2 t3 t4 (s.asymOf peer)) = last := hlast
    have hmem := s.gtc.mem_windowWith (twiceOffset t1 x.t2 t3 t4 (s.asymOf peer))
    rw [hlast] at hlocked hmem
    refine ⟨_, exec_discDresp htake hm hrank hx h1 h3, h.offset, h.window.trans hlast, h.now, fun hlen hall => ?_, fun hbig => ?_, fun hsmall hnot => ?_,
      h.faulty, h.sound⟩
    · rw [hlocked, settled_iff.mpr ⟨hlen, hall⟩, Bool.true_or]
    · have hunsettled : settled last = false := Bool.eq_false_iff.mpr fun hs => by
        have := (settled_iff.mp hs).2 _ hmem
        omega
      rw [hlocked, hunsettled, decide_eq_false (by omega), Bool.and_false, Bool.or_false]
    · have hunsettled : settled last = false := Bool.eq_false_iff.mpr fun hs => hnot (settled_iff.mp hs)
      rw [hlocked, hunsettled, decide_eq_true hsmall, Bool.and_true, Bool.false_or]

end Sys2Proof.Proofs
end

section
/-! PROOF. The beginning of a stroke (R97, R271, R273, R279, R292): the running job at the stroke's start, and the dies' counters without takers. -/
namespace Sys2Proof.Machine
open Sys2Proof.Claims

/-! ### Registers of the two dies -/

theorem State.well_of_wells {s t : State} (h : t.wells = s.wells) (d : Nat) : t.well d = s.well d := by rw [State.well, State.well, h]

/-- A change of both dies' registers, read at either. -/
theorem State.modWells_well (s : State) (g : Nat → Well → Well) {d : Nat} (hd : d < 2) :
    ((List.range 2).foldl (fun s d => s.modWell d (g d)) s).well d = g d (s.well d) := by
  have hwells : (List.range 2).foldl (fun s d => s.modWell d (g d)) s = (s.modWell 0 (g 0)).modWell 1 (g 1) := rfl
  rw [hwells]
  simp only [State.modWell_eq]
  rcases Nat.lt_succ_iff_lt_or_eq.mp hd with h | rfl
  · rw [Nat.lt_one_iff.mp h, State.setWell_well_other _ _ _ _ (by decide), State.setWell_well]
  · rw [State.setWell_well, State.setWell_well_other _ _ _ _ (by decide)]

section
variable {α : Type} {f : Strk → α} {s : State}

/-- Row-ready counters reset with their stroke (R216). -/
theorem State.endWells_rowrdy (s : State) {d : Nat} (hd : d < 2) : (s.endWells.well d).rowrdy = [] :=
  congrArg Well.rowrdy (s.modWells_well _ hd)

/-! ### Units at the start of a stroke -/

/-- The units take a stroke entry. -/
def State.takeEntry (s : State) (ordered : Bool) (e : StrokeEntry) : State := ((s.setQuills e).clearSlots.setCounters ordered e.counters).setBlotters

theorem State.aside_setQuills (s : State) (e : StrokeEntry) : Aside f s (s.setQuills e) := Aside.refl.foldl _ fun _ _ => .of_eq rfl

theorem State.aside_clearSlots (s : State) : Aside f s s.clearSlots := Aside.refl.foldl _ fun _ _ => .of_eq rfl

theorem State.aside_setCounters (s : State) (ordered : Bool) (cs : List CounterCfg) : Aside f s (s.setCounters ordered cs) :=
  (s.aside_mapQuills _).trans (Aside.refl.foldl _ fun _ _ => .of_eq rfl)

theorem State.aside_setBlotters (s : State) : Aside f s s.setBlotters := Aside.refl.foldl _ fun _ _ => .of_eq rfl

theorem State.aside_takeEntry (s : State) (ordered : Bool) (e : StrokeEntry) : Aside f s (s.takeEntry ordered e) :=
  (s.aside_setQuills e).trans ((State.aside_clearSlots _).trans ((State.aside_setCounters _ _ _).trans (State.aside_setBlotters _)))

/-- Counters begin a stroke without takers, and row-ready counters as they are. -/
theorem State.setCounters_well (s : State) (ordered : Bool) (cs : List CounterCfg) {d : Nat} (hd : d < 2) :
    ((s.setCounters ordered cs).well d).takers = [] ∧ ((s.setCounters ordered cs).well d).rowrdy = (s.well d).rowrdy := by
  obtain ⟨q, hq⟩ := s.mapQuills_frame fun _ x => { x with tags := [], asked := [], tickets := [] }
  unfold State.setCounters
  rw [hq]
  dsimp only
  rw [State.modWells_well _ _ hd]
  exact ⟨rfl, rfl⟩

theorem State.setBlotters_well (s : State) {d : Nat} (hd : d < 2) :
    (s.setBlotters.well d).takers = (s.well d).takers ∧ (s.setBlotters.well d).rowrdy = (s.well d).rowrdy := by
  unfold State.setBlotters
  rw [State.modWells_well _ _ hd]
  exact ⟨rfl, rfl⟩

theorem State.takeEntry_well (s : State) (ordered : Bool) (e : StrokeEntry) {d : Nat} (hd : d < 2) :
    ((s.takeEntry ordered e).well d).takers = [] ∧ ((s.takeEntry ordered e).well d).rowrdy = (s.well d).rowrdy := by
  have hslots : (s.setQuills e).clearSlots.wells = s.wells := by
    have hquills : (s.setQuills e).wells = s.wells := foldl_keeps (fun t : State => t.wells = s.wells) _ _ _ (fun _ _ h => h) rfl
    exact foldl_keeps (fun t : State => t.wells = s.wells) _ _ _ (fun _ _ h => h) hquills
  obtain ⟨htakers, hrow⟩ := (s.setQuills e).clearSlots.setCounters_well ordered e.counters hd
  obtain ⟨htakers', hrow'⟩ := ((s.setQuills e).clearSlots.setCounters ordered e.counters).setBlotters_well hd
  exact ⟨htakers'.trans htakers, hrow'.trans (hrow.trans (congrArg Well.rowrdy (State.well_of_wells hslots d)))⟩

/-! ### Collectives at the start of a stroke -/

/-- The steps of the entry's collectives are open, on the links that are UP. -/
def State.openColls (s : State) (e : StrokeEntry) : State :=
  { s with coll := { s.coll with steps := openSteps e.colls, pinned := (List.range linkCount).filter s.linkUp, lost := [] } }

theorem State.openColls_wells (s : State) (e : StrokeEntry) : (s.openColls e).wells = s.wells := rfl

theorem State.aside_openColls (s : State) (e : StrokeEntry) : Aside f s (s.openColls e) := ⟨rfl, rfl, rfl, rfl, rfl, rfl, List.prefix_rfl, id, id⟩

theorem State.drainRx_wells (s : State) (l vc : Nat) : (s.drainRx l vc).wells = s.wells := by
  unfold State.drainRx
  split
  · rfl
  · dsimp only
    split
    · rfl
    · obtain ⟨k, e⟩ := State.freeSlots_frame (s := s.modLink l _) l vc _
      rw [e]
      rfl

theorem State.drainAll_wells (s : State) : s.drainAll.wells = s.wells :=
  foldl_keeps (fun t : State => t.wells = s.wells) _ _ _ (fun t l h => ((t.drainRx l 0).drainRx_wells l 1).trans ((t.drainRx_wells l 0).trans h)) rfl

/-- No chunk has come before the stroke that it is for. -/
theorem State.takeEarly_none (h : s.coll.early = []) : Aside f s s.takeEarly ∧ s.takeEarly.wells = s.wells := by
  have hempty : Aside f s { s with coll := { s.coll with early := [] } } := ⟨rfl, rfl, rfl, rfl, rfl, rfl, List.prefix_rfl, id, fun _ => rfl⟩
  unfold State.takeEarly
  rw [h]
  exact ⟨hempty.trans (State.aside_drainAll _), State.drainAll_wells _⟩

/-- The units, counters and collectives of a stroke that begins. -/
def State.startUnits (s : State) (ordered : Bool) (e : StrokeEntry) : State := ((s.takeEntry ordered e).openColls e).takeEarly

theorem State.startUnits_starts (s : State) (ordered : Bool) (e : StrokeEntry) (hearly : s.coll.early = []) : Aside id s (s.startUnits ordered e)
    ∧ ∀ d, d < 2 → ((s.startUnits ordered e).well d).takers = [] ∧ ((s.startUnits ordered e).well d).rowrdy = (s.well d).rowrdy := by
  have hopen : Aside id s ((s.takeEntry ordered e).openColls e) := (s.aside_takeEntry ordered e).trans (State.aside_openColls _ e)
  obtain ⟨htake, hwells⟩ := State.takeEarly_none (f := id) (hopen.early hearly)
  unfold State.startUnits
  refine ⟨hopen.trans htake, fun d hd => ?_⟩
  have hd' : ((s.takeEntry ordered e).openColls e).takeEarly.well d = (s.takeEntry ordered e).well d :=
    State.well_of_wells (hwells.trans (State.openColls_wells _ e)) d
  rw [hd']
  exact s.takeEntry_well ordered e hd

/-! ### The running job -/

/-- The job at the start of stroke `n`, of which the rate is `r`. -/
def Job.atStroke (j : Job) (e : StrokeEntry) (r : Nat × Nat) (n start : Nat) : Job :=
  { j with
    stroke := n, start := start, period := periodOf j.desc.basePeriod e.factor j.desc.baseClock r.1 r.2, clock := r.1, factor := r.2, ext := 0, lead := none,
    stalls := j.stalls.filter fun (x : StallMsg) => x.stroke ≥ n, written := [], poisoned := [],
    isVoid := j.isVoid || r.1 ≠ j.desc.baseClock || r.2 ≠ 64 }

/-- The stroke registers with that job. -/
def Strk.atStroke (k : Strk) (evt : Events) (j : Job) : Strk :=
  { k with evt := evt, run := some j, clock := BitVec.ofNat 5 j.clock, isVoid := j.isVoid }

/-- A stroke at another rate than the one before sets its flag (R292). -/
def State.rated (s : State) (j : Job) (r : Nat × Nat) (n : Nat) : State :=
  if n ≠ j.first && (r.1 ≠ j.clock || r.2 ≠ j.factor) then s.raiseStrk 3 else s

theorem State.rated_rates (s : State) (j : Job) (r : Nat × Nat) (n : Nat) : ∃ evt, Aside id { s with strk := { s.strk with evt := evt } } (s.rated j r n)
    ∧ (s.rated j r n).wells = s.wells := by
  unfold State.rated
  split
  · obtain ⟨h, p, e⟩ := s.raiseStrk_frame 3
    refine ⟨s.strk.evt.raise 3, State.aside_fire { s with strk := { s.strk with evt := s.strk.evt.raise 3 } } 142, ?_⟩
    rw [e]
  · exact ⟨s.strk.evt, Aside.refl, rfl⟩

/-- The running job replaced by itself at a stroke's start. -/
def State.begun (s : State) (k : Job) : State := { s with strk := s.strk.atStroke s.strk.evt k }

theorem State.enterStroke_eq {j : Job} {p : ProgramSet} {e : StrokeEntry} {n : Nat} (hrun : s.strk.run = some j) (hset : s.runSet = some p)
    (hentry : entryAt p j.desc.params n = some e) (start : Nat) :
    let r := rateAt j (s.grp.rank.toNat :: s.others) n
    s.enterStroke n start = ((s.rated j r n).begun (j.atStroke e r n start)).startUnits j.desc.ordered e := by
  unfold State.enterStroke
  rw [hrun, hset]
  dsimp only
  rw [hentry]
  dsimp only
  unfold State.startUnits State.openColls State.takeEntry State.begun State.rated Strk.atStroke Job.atStroke
  dsimp only

/-- Stroke `n` begins: the job stands at it, and no counter has a taker. -/
theorem State.enterStroke_enters {j : Job} {p : ProgramSet} {e : StrokeEntry} {n : Nat} (hrun : s.strk.run = some j) (hset : s.runSet = some p)
    (hentry : entryAt p j.desc.params n = some e) (hearly : s.coll.early = []) (start : Nat) :
    ∃ evt, Aside id { s with strk := s.strk.atStroke evt (j.atStroke e (rateAt j (s.grp.rank.toNat :: s.others) n) n start) } (s.enterStroke n start)
      ∧ ∀ d, d < 2 → ((s.enterStroke n start).well d).takers = [] ∧ ((s.enterStroke n start).well d).rowrdy = (s.well d).rowrdy := by
  rw [State.enterStroke_eq hrun hset hentry]
  generalize rateAt j (s.grp.rank.toNat :: s.others) n = r
  obtain ⟨evt, hrated, hwells⟩ := s.rated_rates j r n
  generalize s.rated j r n = v at hrated hwells
  refine ⟨evt, ?_⟩
  have hstrk : v.strk.atStroke v.strk.evt (j.atStroke e r n start) = s.strk.atStroke evt (j.atStroke e r n start) :=
    congrArg (fun k : Strk => k.atStroke k.evt (j.atStroke e r n start)) hrated.strk
  have hbegun : Aside id { s with strk := s.strk.atStroke evt (j.atStroke e r n start) } (v.begun (j.atStroke e r n start)) :=
    ⟨hrated.gtc, hrated.grp, hrated.psets, hrated.rings, hstrk, hrated.quiesced, hrated.sent, hrated.leaving, hrated.early⟩
  obtain ⟨hunits, hstart⟩ := (v.begun (j.atStroke e r n start)).startUnits_starts j.desc.ordered e (hbegun.early hearly)
  have hbegunWells : (v.begun (j.atStroke e r n start)).wells = s.wells := hwells
  exact ⟨hbegun.trans hunits, fun d hd => ⟨(hstart d hd).1, (hstart d hd).2.trans (congrArg Well.rowrdy (State.well_of_wells hbegunWells d))⟩⟩

end
end Sys2Proof.Machine
end

section
/-! PROOF. How a job is fetched, refused or queued, and launched (R269, R271, R420 to R423, R427). -/
namespace Sys2Proof.Machine
open Sys2Proof.Claims

section
variable {s : State}

/-! ### Refusals (R423) -/

/-- A refusal of a state that has the jobs, the rings and the endpoint of another: its record goes out, and no job changes. -/
theorem State.refuses {v : State} (hstrk : v.strk = s.strk) (hrings : v.rings = s.rings) (hquiet : v.host.quiesced = s.host.quiesced) (c : CplRec) :
    (v.complete c).strk = s.strk ∧ (ringTakes s c.ring → recordOut s (v.complete c) c.ring c.status) := by
  obtain ⟨r, h⟩ := v.aside_complete (f := id) c
  have hring : v.ring c.ring = s.ring c.ring := congrArg (sget (fun _ => Ring.reset) · c.ring) hrings
  refine ⟨h.strk.trans hstrk, fun htakes => ?_⟩
  have htv : ringTakes v c.ring := ⟨(congrArg Ring.cleared hring).trans htakes.1, hquiet.trans htakes.2⟩
  exact recordOut_mono (congrArg Ring.place hring) List.prefix_rfl (v.complete_sends c htv)

theorem State.aside_ruled (s : State) (pset kind : Nat) (r : Option (Nat × Nat × Nat)) : Aside id s (s.ruled pset kind r) := by
  have hrule (x : Rule) : Aside id s { s with rule := x } := ⟨rfl, rfl, rfl, rfl, rfl, rfl, List.prefix_rfl, id, id⟩
  unfold State.ruled
  dsimp only
  split
  · exact (hrule _).trans (State.aside_logEvent _ _ _ _)
  · exact hrule _

/-- The status that a descriptor gets, 0 where it is queued: that of the first case that holds. -/
def State.fetchStatus (u : State) (b : List Byte) (ns : Nat) : Nat :=
  let d := readDesc b
  if badByte b ≠ none then 0x01 else if d.groupTag ≠ u.groupTag then 0x07 else if u.lifeAllows (u.effective d) = false then 0x06
    else if (u.launchRuling d).isSome then 0x02 else if u.gtc.locked = false then 0x03
    else if d.launch < u.gtc.now.toNat + ns + 100000 then 0x04 else 0

/-- What a descriptor's fetch leaves for its status. -/
def FetchLeaves (u : State) (r : Nat) (d : JobDesc) (t : State) (status : Nat) : Prop :=
  (status = 0 → t.strk = { u.strk with queued := some (newJob r (u.effective d)) } ∧ t.ring r = u.ring r)
    ∧ (status ≠ 0 → t.strk = u.strk ∧ (ringTakes u r → recordOut u t r status))

theorem FetchLeaves.refused {u v : State} {r status : Nat} (d : JobDesc) (hstrk : v.strk = u.strk) (hrings : v.rings = u.rings)
    (hquiet : v.host.quiesced = u.host.quiesced) (hstatus : status ≠ 0) (detail : Nat) :
    FetchLeaves u r d (v.complete (v.refusal r d status detail)) status :=
  ⟨fun h => absurd h hstatus, fun _ => State.refuses hstrk hrings hquiet (v.refusal r d status detail)⟩

theorem State.takeJob_takes (u : State) (r : Nat) (b : List Byte) {ns : Nat} (hns : u.gtc.now.toNat + ns < 2 ^ 64) :
    FetchLeaves u r (readDesc b) (u.takeJob r b ns) (u.fetchStatus b ns) := by
  unfold State.takeJob State.fetchStatus
  dsimp only
  cases hbad : badByte b with
  | some o => exact .refused _ rfl rfl rfl (by decide) o
  | none =>
    rw [if_neg (not_not.mpr rfl)]
    dsimp only
    split
    · exact .refused _ rfl rfl rfl (by decide) _
    · cases hlife : u.lifeAllows (u.effective (readDesc b)) with
      | false => exact .refused _ rfl rfl rfl (by decide) _
      | true =>
        have hruled := (u.reach (u.gtc.now.toNat + ns)).aside_ruled (u.effective (readDesc b)).pset 1 (u.launchRuling (readDesc b))
        have hnow : (u.reach (u.gtc.now.toNat + ns)).gtc.now.toNat = u.gtc.now.toNat + ns := by
          rw [State.reach_toNat hns]
          omega
        generalize (u.reach (u.gtc.now.toNat + ns)).ruled (u.effective (readDesc b)).pset 1 (u.launchRuling (readDesc b)) = v at hruled ⊢
        have hlocked : v.gtc.locked = u.gtc.locked := (congrArg Gtc.locked hruled.gtc).trans rfl
        have hvnow : v.gtc.now.toNat = u.gtc.now.toNat + ns := (congrArg (fun g : Gtc => g.now.toNat) hruled.gtc).trans hnow
        have hstrk : v.strk = u.strk := hruled.strk
        have hrings : v.rings = u.rings := hruled.rings
        have hquiet : v.host.quiesced = u.host.quiesced := hruled.quiesced
        simp only [Bool.not_true, Bool.false_eq_true, if_false]
        cases u.launchRuling (readDesc b) with
        | some x => exact .refused _ hstrk hrings hquiet (by decide) x.1
        | none =>
          dsimp only [Option.isSome_none]
          rw [hlocked, hvnow]
          cases u.gtc.locked with
          | false => exact .refused _ hstrk hrings hquiet (by decide) 0
          | true =>
            simp only [Bool.not_true, Bool.false_eq_true, if_false]
            split
            · exact .refused _ hstrk hrings hquiet (by decide) _
            · refine ⟨fun _ => ⟨?_, congrArg (sget (fun _ => Ring.reset) · r) hrings⟩, fun h => absurd rfl h⟩
              have hqueued := congrArg (fun k : Strk => ({ k with queued := some (newJob r (u.effective (readDesc b))) } : Strk)) hstrk
              exact hqueued

/-! ### The fetch (R420, R421) -/

/-- The ring is served, and its descriptor taken. -/
def State.served (s : State) (r : Nat) : State :=
  { s with host := { s.host with lastRing := r } }.setRing r { s.ring r with head := BitVec.ofNat 12 (((s.ring r).head.toNat + 1) % ringSize (s.ring r)) }

theorem fitBytes_length {b : List Byte} {n : Nat} (h : b.length = n) : fitBytes n b = b := by
  rw [fitBytes, List.take_append_of_le_length (by omega), ← h, List.take_length]

theorem exec_jobFetch (hlive : s.live = true) (hready : s.ready = true) (hreq : s.host.quiesceReq = false) (hqueued : s.strk.queued = none) {r : Nat}
    (hring : s.nextRing = some r) (ns : Nat) :
    exec (.jobFetch none ns) s
        = .next (({ s with host := { s.host with lastRing := r } }.modRing r fun x => { x with en := false }).raiseRing r 1)
      ∧ ∀ b : List Byte, b.length = 256 → exec (.jobFetch (some b) ns) s = .next ((s.served r).takeJob r b ns) := by
  have hgoes : (!s.live || !s.ready || s.host.quiesceReq || s.strk.queued.isSome) = false := by
    rw [hlive, hready, hreq, hqueued]
    rfl
  refine ⟨?_, fun b hb => ?_⟩
  · change execJobFetch none ns s = _
    rw [execJobFetch, hgoes, if_neg Bool.false_ne_true, hring]
  · change execJobFetch (some b) ns s = _
    rw [execJobFetch, hgoes, if_neg Bool.false_ne_true, hring]
    dsimp only
    rw [fitBytes_length hb]
    rfl

/-- An error completion disables the ring and sets its flag (R421). -/
theorem State.ringOff_leaves (s : State) (r : Nat) : ((s.modRing r fun x => { x with en := false }).raiseRing r 1).strk = s.strk
    ∧ ((s.modRing r fun x => { x with en := false }).raiseRing r 1).ring r = { s.ring r with en := false, evt := (s.ring r).evt.raise 1 } := by
  have hfire := State.aside_fire (f := id) ((s.modRing r fun x => { x with en := false }).modRing r fun x => { x with evt := x.evt.raise 1 }) 146
  refine ⟨hfire.strk, (congrArg (sget (fun _ => Ring.reset) · r) hfire.rings).trans ?_⟩
  change (((s.modRing r _).modRing r _).ring r) = _
  simp only [State.modRing_eq, State.setRing_ring]

/-! ### The launch (R269, R271, R433) -/

variable {α : Type} {f : Strk → α}

theorem State.aside_loadWells (s : State) (p : ProgramSet) : Aside f s (s.loadWells p) := Aside.refl.foldl _ fun _ _ => .of_eq rfl

theorem State.aside_loadImages (s : State) (p : ProgramSet) : Aside f s (s.loadImages p) :=
  Aside.refl.foldl _ fun u _ => Aside.refl.foldl (t := u) _ fun v _ => Aside.refl.foldl (t := v) _ fun _ _ => .of_eq rfl

theorem State.aside_loadPipes (s : State) (p : ProgramSet) : Aside f s (s.loadPipes p) := Aside.refl.foldl _ fun _ _ => .of_eq rfl

theorem State.aside_loadStreams (s : State) (p : ProgramSet) (params : List Word) (first : Nat) (resume : Bool) (epoch : Nat) (recs : List JobRec) :
    Aside f s (s.loadStreams p params first resume epoch recs) := by
  unfold State.loadStreams
  dsimp only
  exact Aside.foldl (.of_eq rfl) _ fun _ _ => .of_eq rfl

/-- Registers of the mirror are beside a job's course where they leave no stroke. -/
theorem Aside.withMir (s : State) (m : Mir) (h : m.leaving = s.mir.leaving) : Aside f s { s with mir := m } :=
  ⟨rfl, rfl, rfl, rfl, rfl, rfl, List.prefix_rfl, h.trans, id⟩

theorem State.aside_promote (s : State) (e : Nat) : Aside f s (s.promote e) := by
  unfold State.promote
  split
  · exact .ite (.withMir _ _ rfl) .refl
  · exact .refl

theorem State.aside_listWord (s : State) (t : ListSlot) : Aside f s (s.listWord t).1 := by
  have hline := s.aside_moverNow (f := f) (lineStep t.list (t.slot / 16))
  exact .ite_fst (hline.trans (State.aside_kvBad _ 0)).pair (.ite_fst hline.pair hline.pair)

theorem State.aside_named (s : State) (w : Nat) : Aside f s (s.named w).1 := .ite_fst Aside.refl.pair (.ite_fst (s.aside_kvBad _).pair Aside.refl.pair)

theorem State.aside_slotEntry (s : State) (t : ListSlot) : Aside f s (s.slotEntry t).1 := by
  have hword := s.aside_listWord (f := f) t
  unfold State.slotEntry
  dsimp only
  split
  · exact hword
  · exact hword.trans (State.aside_named _ _)

theorem State.aside_kvRef (s : State) (i : Nat) : Aside f s (s.kvRef i) :=
  .ite .refl (.ite (s.aside_kvBad i) (.ite ((s.aside_raiseKvt 1 i).trans (.of_eq rfl)) (.of_eq rfl)))

/-- A job's references are noted in it beside its course. -/
theorem State.aside_modRefs (s : State) (i : Nat) : Aside Strk.course s (s.modRun fun j => { j with refs := j.refs ++ [i] }) := by
  refine ⟨rfl, rfl, rfl, rfl, ?_, rfl, List.prefix_rfl, id, id⟩
  simp [Strk.course, State.modRun, Function.comp_def]

theorem State.aside_takePrefixes (s : State) (resume : Bool) (slots : List ListSlot) : Aside Strk.course s (s.takePrefixes resume slots) := by
  refine Aside.refl.foldl _ fun u t => ?_
  have hentry := u.aside_slotEntry (f := Strk.course) t
  dsimp only
  split
  · exact hentry
  · exact (hentry.trans (.ite .refl (State.aside_kvRef _ _))).trans (State.aside_modRefs _ _)

theorem State.aside_allDirty (s : State) : Aside f s s.allDirty := by
  unfold State.allDirty
  split
  · exact .withMir _ _ rfl
  · exact .refl

theorem State.aside_sendPartner (s : State) (kind : Nat) (items : List Nat) : Aside f s (s.sendPartner kind items) := by
  obtain ⟨k, e⟩ := s.sendPartner_frame kind items
  exact .of_eq e

theorem State.aside_hello (s : State) : Aside f s s.hello := by
  unfold State.hello
  split
  · exact .refl
  · exact .ite .refl (Aside.trans (t := if s.mir.st = .none then { s with mir := { s.mir with st := .forming } } else s) (.ite (.withMir _ _ rfl) .refl)
      (State.aside_sendPartner _ _ _))

/-- What a launch leaves of the jobs once the first stroke has begun: a change of rate leaves it as it is. -/
def Strk.launched (k : Strk) : Option (JobDesc × Nat × Nat) × Option Job × Bool × BitVec 5 :=
  (k.run.map fun j => (j.desc, j.stroke, j.start), k.queued, k.ordered, k.guard)

theorem State.aside_sendRate (s : State) (clock factor : Nat) : Aside Strk.launched s (s.sendRate clock factor) := by
  have hsent := s.aside_sendAll (f := Strk.launched) 0x21 [s.strokeNum + 2, clock, factor]
  unfold State.sendRate
  dsimp only
  generalize s.sendAll 0x21 [s.strokeNum + 2, clock, factor] = u at hsent ⊢
  refine hsent.trans ⟨rfl, rfl, rfl, rfl, ?_, rfl, List.prefix_rfl, id, id⟩
  simp [Strk.launched, State.modRun, Function.comp_def]

theorem State.aside_changeRate (s : State) (old : Nat × Nat) (oldRung : Nat) (down : Bool) : Aside Strk.launched s (s.changeRate old oldRung down) := by
  have hclock (c : BitVec 5) : Aside Strk.launched s { s with strk := { s.strk with clock := c } } := ⟨rfl, rfl, rfl, rfl, rfl, rfl, List.prefix_rfl, id, id⟩
  unfold State.changeRate
  dsimp only
  refine Aside.trans ?_ (.ite (State.aside_raiseAlert _ 1) .refl)
  refine Aside.trans ?_ (State.aside_logEvent _ _ _ _)
  exact (Aside.ite .refl (.ite (s.aside_sendRate _ _) (hclock _))).trans (.of_eq rfl)

/-- Everything that a launch loads before the first stroke. -/
def State.loaded (s : State) (d : JobDesc) (p : ProgramSet) (first : Nat) : State :=
  let s' := (((s.loadWells p).loadImages p).loadPipes p).loadStreams p d.params first (d.kind = 2) (if d.kind = 2 then d.epoch else 0) (s.recordsOf d)
  ((if d.kind = 2 && d.standin then s'.promote d.epoch else s').takePrefixes (d.kind = 2) p.prefixes).allDirty.hello

theorem State.aside_loaded (s : State) (d : JobDesc) (p : ProgramSet) (first : Nat) : Aside Strk.course s (s.loaded d p first) := by
  have hstreams := (((s.aside_loadWells p).trans (State.aside_loadImages _ p)).trans (State.aside_loadPipes _ p)).trans
    (State.aside_loadStreams (f := Strk.course) _ p d.params first (d.kind = 2) (if d.kind = 2 then d.epoch else 0) (s.recordsOf d))
  exact ((hstreams.trans (.ite (State.aside_promote _ _) .refl)).trans (State.aside_takePrefixes _ _ _)).trans
    ((State.aside_allDirty _).trans (State.aside_hello _))

/-- The first stroke begins, and a member that cannot keep the base clock says so. -/
def State.started (s : State) (d : JobDesc) (first : Nat) : State :=
  let u := s.enterStroke first d.launch
  if u.combinedRate.1 < d.baseClock || 64 < u.combinedRate.2 then u.changeRate (d.baseClock, 64) u.scr.throttle.rung true else u

/-- The job that runs once it is launched, with no reference noted yet. -/
def State.launchedJob (s : State) (j : Job) : Job :=
  let alone := s.mir.gone && (match s.partner with | some q => !s.others.contains q | none => false)
  { j with
    first := s.firstStroke j.desc, stroke := s.firstStroke j.desc, isVoid := !s.gtc.locked, epoch := if j.desc.kind = 2 then j.desc.epoch else 0,
    unmirrored := (j.desc.kind = 2 && j.desc.standin && s.holding) || alone }

/-- The stroke registers with it. -/
def Strk.launch (k : Strk) (j : Job) : Strk :=
  { k with run := some j, queued := none, guard := BitVec.ofNat 5 j.desc.guard, ordered := j.desc.ordered, isVoid := j.isVoid }

/-- A launch, from a state in which nothing is loaded yet. -/
theorem State.launch_eq {j : Job} {x : Machine.PSet} (hset : s.psets.getD j.desc.pset none = some x) : ∃ (b : State) (kvt : Kvt) (mir : Mir),
    b = State.modRing { s with strk := s.strk.launch (s.launchedJob j), kvt := kvt, mir := mir } j.ring (fun y => { y with prog := 0 })
      ∧ s.launch j = (b.loaded j.desc x.set (s.firstStroke j.desc)).started j.desc (s.firstStroke j.desc) := by
  unfold State.launch
  rw [hset]
  exact ⟨_, _, _, rfl, rfl⟩

/-- The first stroke of a launch: the job stands at it, and its ring has counted none. -/
theorem State.started_starts {j : Job} {p : ProgramSet} {e : StrokeEntry} {n : Nat} (hrun : s.strk.run = some j) (hset : s.runSet = some p)
    (hentry : entryAt p j.desc.params n = some e) (hearly : s.coll.early = []) :
    (∃ k, (s.started j.desc n).strk.run = some k ∧ k.desc = j.desc ∧ k.stroke = n ∧ k.start = j.desc.launch)
      ∧ (s.started j.desc n).strk.queued = s.strk.queued ∧ (s.started j.desc n).strk.ordered = s.strk.ordered
      ∧ (s.started j.desc n).strk.guard = s.strk.guard ∧ (s.started j.desc n).rings = s.rings := by
  obtain ⟨evt, henter, -⟩ := State.enterStroke_enters hrun hset hentry hearly j.desc.launch
  have hrest : Aside Strk.launched (s.enterStroke n j.desc.launch) (s.started j.desc n) := by
    unfold State.started
    exact .ite (State.aside_changeRate _ _ _ _) .refl
  have hall := henter.weaken.trans hrest
  obtain ⟨hk, hqueued, hordered, hguard⟩ : _ ∧ _ ∧ _ ∧ _ := by simpa [Strk.launched, Strk.atStroke, Job.atStroke] using hall.strk
  obtain ⟨k, hk, hdesc, hstroke, hstart⟩ := hk
  exact ⟨⟨k, hk, hdesc, hstroke, hstart⟩, hqueued, hordered, hguard, hall.rings⟩

/-- A launch leaves the queued job at the start of its first stroke. -/
theorem State.launch_launches {j : Job} {x : Machine.PSet} {e : StrokeEntry} (hset : s.psets.getD j.desc.pset none = some x)
    (hentry : entryAt x.set j.desc.params (s.firstStroke j.desc) = some e) (hearly : s.coll.early = []) :
    ∃ k, (s.launch j).strk.run = some k ∧ (s.launch j).strk.queued = none ∧ k.desc = j.desc ∧ k.stroke = s.firstStroke j.desc
      ∧ k.start = j.desc.launch ∧ ((s.launch j).ring j.ring).prog = 0 ∧ (s.launch j).strk.ordered = j.desc.ordered
      ∧ (s.launch j).strk.guard = BitVec.ofNat 5 j.desc.guard := by
  obtain ⟨b, kvt, mir, hb, hlaunch⟩ := State.launch_eq hset
  have hbstrk : b.strk = s.strk.launch (s.launchedJob j) := by rw [hb]; rfl
  have hbcoll : b.coll.early = [] := by rw [hb]; exact hearly
  have hbsets : b.psets = s.psets := by rw [hb]; rfl
  have hbring : (b.ring j.ring).prog = 0 := by rw [hb, State.modRing_eq, State.setRing_ring]
  have hload := b.aside_loaded j.desc x.set (s.firstStroke j.desc)
  rw [hlaunch]
  generalize b.loaded j.desc x.set (s.firstStroke j.desc) = v at hload
  obtain ⟨f, n, r, hrun⟩ := Strk.run_of_course hload.strk (congrArg Strk.run hbstrk)
  have hvset : v.runSet = some x.set := by
    rw [State.runSet, hrun]
    dsimp only
    rw [hload.psets, hbsets, State.launchedJob, hset]
  obtain ⟨⟨k, hk, hdesc, hstroke, hstart⟩, hqueued, hordered, hguard, hrings⟩ := State.started_starts hrun hvset hentry (hload.early hbcoll)
  have hring : (v.started j.desc (s.firstStroke j.desc)).ring j.ring = b.ring j.ring := congrArg (sget (fun _ => Ring.reset) · j.ring) (hrings.trans hload.rings)
  have hvq : v.strk.queued = none := (congrArg Strk.queued hload.strk).trans (congrArg Strk.queued hbstrk)
  have hvo : v.strk.ordered = j.desc.ordered := (congrArg Strk.ordered hload.strk).trans (congrArg Strk.ordered hbstrk)
  have hvg : v.strk.guard = BitVec.ofNat 5 j.desc.guard := (congrArg Strk.guard hload.strk).trans (congrArg Strk.guard hbstrk)
  exact ⟨k, hk, hqueued.trans hvq, hdesc, hstroke, hstart, (congrArg Ring.prog hring).trans hbring, hordered.trans hvo, hguard.trans hvg⟩

/-- JOB_LAUNCH with a job queued: it overlaps another, or it is launched, where no image that it does not resume forbids it. -/
theorem exec_jobLaunch {j : Job} (hlive : s.live = true) (hstep : s.mir.releaseStep < 4) (hqueued : s.strk.queued = some j) :
    (s.strk.run.isSome = true ∨ j.desc.launch < s.strk.lastEnd → exec .jobLaunch s = .next
        (State.complete { s.reach j.desc.launch with strk := { s.strk with queued := none } } ((s.reach j.desc.launch).refusal j.ring j.desc 0x05 0)))
      ∧ (s.strk.run = none → s.strk.lastEnd ≤ j.desc.launch → s.holding = false ∨ s.resumesImage j.desc = true →
          exec .jobLaunch s = .next ((s.reach j.desc.launch).launch j)) := by
  have hgoes : ¬ ((!s.live || 4 ≤ s.mir.releaseStep) = true) := by
    rw [hlive]
    simpa using hstep
  have hexec : exec .jobLaunch s = execJobLaunch s := rfl
  rw [hexec, execJobLaunch, hqueued]
  dsimp only
  rw [if_neg hgoes]
  refine ⟨fun h => ?_, fun hrun hend himage => ?_⟩
  · exact if_pos (show (s.strk.run.isSome || j.desc.launch < s.strk.lastEnd) = true by simpa using h)
  · have hclear : ¬ ((s.strk.run.isSome || j.desc.launch < s.strk.lastEnd) = true) := by
      rw [hrun]
      simpa using hend
    have hfree : ¬ ((s.holding && !s.resumesImage j.desc) = true) := by
      rcases himage with h | h <;> simp [h]
    exact (if_neg hclear).trans (if_neg hfree)

end
end Sys2Proof.Machine

namespace Sys2Proof.Proofs
open Sys2Proof Sys2Proof.Machine Sys2Proof.Claims

/-- Settles O30: the fetch by the cases of the descriptor's status, the launch by what it loads and the first stroke that it begins. -/
theorem jobsAreFetchedThenLaunched : Obligations.JobsAreFetchedThenLaunched := by
  unfold Obligations.JobsAreFetchedThenLaunched
  refine ⟨fun s r hlive hready hreq hqueued hring => ⟨fun ns => ?_, fun b ns hb hns => ?_⟩, fun s j hlive hstep hqueued =>
    ⟨fun x e hrun hend hset hentry hearly himage => ?_, fun hover htakes => ?_⟩⟩
  · exact ⟨_, (exec_jobFetch hlive hready hreq hqueued hring ns).1, State.ringOff_leaves _ r⟩
  · obtain ⟨hqueue, hrefuse⟩ := (s.served r).takeJob_takes r b hns
    have hexec := (exec_jobFetch hlive hready hreq hqueued hring ns).2 b hb
    refine ⟨fun hstatus => ⟨_, hexec, hqueue hstatus⟩, fun hstatus htakes => ?_⟩
    obtain ⟨hstrk, hrecord⟩ := hrefuse hstatus
    have hring : ((s.served r).ring r).place = (s.ring r).place := by
      rw [State.served, State.setRing_ring]
      rfl
    have htaken : ringTakes (s.served r) r := ⟨(congrArg (fun p => p.2.2) hring).trans htakes.1, htakes.2⟩
    exact ⟨_, hexec, hstrk, recordOut_mono hring List.prefix_rfl (hrecord htaken)⟩
  · obtain ⟨k, hk⟩ := State.launch_launches (s := s.reach j.desc.launch) hset hentry hearly
    exact ⟨_, k, (exec_jobLaunch hlive hstep hqueued).2 hrun hend himage, hk⟩
  · obtain ⟨hstrk, hrecord⟩ := State.refuses (s := { s with strk := { s.strk with queued := none } })
      (v := { s.reach j.desc.launch with strk := { s.strk with queued := none } }) rfl rfl rfl ((s.reach j.desc.launch).refusal j.ring j.desc 0x05 0)
    exact ⟨_, (exec_jobLaunch hlive hstep hqueued).1 hover, hstrk, hrecord htakes⟩

end Sys2Proof.Proofs
end

section
/-! PROOF. The publication at a boundary (R189, R231, R240, R255, R273): blocks, pages and adds that it publishes are beside the course of the job, and where no change of
a block and no add waits it notes no failure. -/
namespace Sys2Proof.Machine
open Sys2Proof.Claims

section
variable {α : Type} {f : Strk → α} {s : State}

/-! ### Blocks (R186, R189, R238) -/

theorem State.aside_putListWord (s : State) (t : ListSlot) (w : Nat) : Aside Strk.course s (s.putListWord t w) :=
  (s.aside_moverNow _).trans (State.aside_t2Write _ _ _ _)

theorem State.aside_applyKv (s : State) (c : KvChange) : Aside Strk.course s (s.applyKv c) := by
  cases c with
  | fill i n => exact .ite .refl (.of_eq rfl)
  | retarget t w => exact s.aside_putListWord t w
  | freeze i => exact .refl

theorem State.aside_putGroup (s : State) (p : KvPool) (e : KvEntry) (h c g : Nat) (t : Rat) (vs : List FV) :
    Aside Strk.course s (s.putGroup none p e h c g t vs) := by
  unfold State.putGroup
  dsimp only
  split
  · exact (s.aside_moverNow _).trans (State.aside_t2Write _ _ _ _)
  · split
    · exact ((s.aside_moverNow _).trans (State.aside_t2Write _ _ _ _)).trans ((State.aside_moverNow _ _).trans (State.aside_t2Write _ _ _ _))
    · exact ((s.aside_moverNow _).trans (State.aside_t2Write _ _ _ _)).trans ((State.aside_moverNow _ _).trans (State.aside_t2Write _ _ _ _))

theorem State.aside_freezeNow (s : State) (i : Nat) : Aside Strk.course s (s.freezeNow i) := by
  unfold State.freezeNow
  dsimp only
  split
  · exact .refl
  · refine Aside.trans ?_ (.of_eq rfl)
    split
    · exact .refl
    · refine .ite .refl (Aside.refl.foldl _ fun u h => ?_)
      refine (u.aside_moverNow _).foldl _ fun v c => ?_
      exact (v.aside_moverNow _).trans (State.aside_putGroup _ _ _ _ _ _ _ _)

theorem State.aside_applyFreeze (s : State) (c : KvChange) : Aside Strk.course s (s.applyFreeze c) := by
  cases c with
  | freeze i => exact s.aside_freezeNow i
  | fill i n => exact .refl
  | retarget t w => exact .refl

/-- The table of blocks alone has changed, and the changes that wait are the same. -/
def OnlyTable (s t : State) : Prop := ∃ k, t = { s with kvt := k } ∧ k.pending = s.kvt.pending

theorem OnlyTable.refl : OnlyTable s s := ⟨s.kvt, rfl, rfl⟩

theorem OnlyTable.trans {t u : State} (h : OnlyTable s t) (h' : OnlyTable t u) : OnlyTable s u := by
  obtain ⟨k, rfl, hk⟩ := h
  obtain ⟨l, rfl, hl⟩ := h'
  exact ⟨l, rfl, hl.trans hk⟩

theorem OnlyTable.aside {t : State} (h : OnlyTable s t) : Aside f s t := by
  obtain ⟨k, e, -⟩ := h
  exact .of_eq e

theorem State.onlyTable_expireLeases (s : State) (n : Nat) : OnlyTable s (s.expireLeases n) := by
  refine foldl_keeps (OnlyTable s) _ _ _ (fun u i hu => ?_) .refl
  dsimp only
  split
  · exact hu.trans ⟨_, rfl, rfl⟩
  · exact hu

theorem State.onlyTable_freeEntries (s : State) (point budget : Nat) (is : List Nat) : OnlyTable s (s.freeEntries point budget is) := by
  induction is generalizing s budget with
  | nil => unfold State.freeEntries; exact .refl
  | cons i rest ih =>
    unfold State.freeEntries
    dsimp only
    split
    · exact ih s budget
    · split
      · exact OnlyTable.trans (t := { s with kvt := { s.kvt with held := s.kvt.held ++ [(i, point)] } }) ⟨_, rfl, rfl⟩ (ih _ _)
      · cases budget with
        | zero => exact OnlyTable.trans (t := { s with kvt := { s.kvt with deferred := insertNat i s.kvt.deferred } }) ⟨_, rfl, rfl⟩ (ih _ _)
        | succ n => exact OnlyTable.trans (t := (s.dropHold i).freeOne i (s.kv i)) ⟨_, rfl, rfl⟩ (ih _ _)

theorem State.aside_publishKv (s : State) (n point : Nat) : Aside Strk.course s (s.publishKv n point) := by
  have hexpire : Aside Strk.course s (s.expireLeases n) := (s.onlyTable_expireLeases n).aside
  unfold State.publishKv
  dsimp only
  generalize s.expireLeases n = u at hexpire ⊢
  have happly := (hexpire.foldl u.kvt.pending fun v c => v.aside_applyKv c).foldl u.kvt.pending fun v c => v.aside_applyFreeze c
  generalize u.kvt.pending.foldl State.applyFreeze (u.kvt.pending.foldl State.applyKv u) = v at happly ⊢
  exact happly.trans ((v.onlyTable_freeEntries point _ _).aside.trans (.of_eq rfl))

/-- Without a change of a block that waits, leases expire and blocks become free, and nothing else happens. -/
theorem State.publishKv_idle {n point : Nat} (h : s.kvt.pending = []) : ∃ k, s.publishKv n point = { s with kvt := k } := by
  obtain ⟨k, hk, hpending⟩ := s.onlyTable_expireLeases n
  have hnone : (s.expireLeases n).kvt.pending = [] := by
    rw [hk]
    exact hpending.trans h
  unfold State.publishKv
  dsimp only
  rw [hnone]
  obtain ⟨l, hl, -⟩ := (s.expireLeases n).onlyTable_freeEntries point (8192 - (s.expireLeases n).kvt.counted) (s.expireLeases n).freeOrder
  change ∃ k, ({ State.freeEntries _ _ _ _ with kvt := _ } : State) = _
  rw [List.foldl_nil, List.foldl_nil, hl, hk]
  exact ⟨_, rfl⟩

/-! ### Pages (R231, R249) -/

theorem State.aside_publishFrom (s : State) (seen : List Nat) (cs : List PageChange) : Aside f s (s.publishFrom seen cs) := by
  induction cs generalizing s seen with
  | nil => exact .refl
  | cons c rest ih => exact .ite (.of_eq rfl) ((s.aside_makeChange c).trans (ih _ _))

theorem State.aside_pageBoundary (s : State) : Aside f s s.pageBoundary := by
  unfold State.pageBoundary
  dsimp only
  have hcount : Aside f s { s with loan := { s.loan with recalls := s.loan.recalls.map fun (r : RecallDue) => { r with wait := r.wait - 1 } } } := .of_eq rfl
  generalize ({ s with loan := { s.loan with recalls := s.loan.recalls.map fun (r : RecallDue) => { r with wait := r.wait - 1 } } } : State) = u at hcount ⊢
  have hhome := hcount.foldl (s.loan.recalls.filter fun r => r.wait = 1) fun v (r : RecallDue) => v.aside_goHome r.t3
  generalize (s.loan.recalls.filter fun r => r.wait = 1).foldl (fun s r => s.goHome r.t3) u = v at hhome ⊢
  have hpages : Aside f v v.publishPages := Aside.trans (t := { v with pmapPending := [] }) (.of_eq rfl) (State.aside_publishFrom _ _ _)
  exact hhome.trans (hpages.trans (State.aside_finishRecalls _))

theorem State.makeChange_wells (s : State) (c : PageChange) : (s.makeChange c).wells = s.wells := by
  have hunshadow : (s.unshadowHome c.index).wells = s.wells := by
    obtain ⟨m, e⟩ := s.unshadowHome_frame c.index
    rw [e]
  unfold State.makeChange
  dsimp only
  split
  · exact hunshadow
  · split
    · obtain ⟨m, e⟩ := (s.setPage c.index ((s.page c.index).apply c.op)).shadowHome_frame c.index
      rw [e]
      rfl
    · rfl
  · exact hunshadow
  · rfl
  · rename_i tag _
    obtain ⟨r, k, e⟩ := (s.setPage c.index ((s.page c.index).apply c.op)).startFill_frame c.index tag
    rw [e]
    rfl
  · rfl

theorem State.goHome_wells (s : State) (t3 : List Nat) : (s.goHome t3).wells = s.wells := by
  refine foldl_keeps (fun t : State => t.wells = s.wells) _ _ _ (fun t i h => ?_) rfl
  split
  · exact h
  · unfold State.changePage
    split
    · exact h
    · exact (t.makeChange_wells _).trans h

theorem State.publishFrom_wells (s : State) (seen : List Nat) (cs : List PageChange) : (s.publishFrom seen cs).wells = s.wells := by
  induction cs generalizing s seen with
  | nil => rfl
  | cons c rest ih =>
    unfold State.publishFrom
    dsimp only
    split
    · rfl
    · exact (ih _ _).trans (s.makeChange_wells c)

theorem State.sendList_wells (s : State) (dest kind lead n : Nat) (es : List (List Nat)) : (s.sendList dest kind lead n es).wells = s.wells := by
  obtain ⟨k, e⟩ := s.sendList_frame dest kind lead n es
  rw [e]

theorem State.finishRecalls_wells (s : State) : s.finishRecalls.wells = s.wells := by
  refine foldl_keeps (fun t : State => t.wells = s.wells) _ _ _ (fun t r h => ?_) rfl
  split
  · dsimp only [State.dropHeld]
    split
    · exact (State.sendList_wells _ _ _ _ _ _).trans h
    · exact (State.sendList_wells _ _ _ _ _ _).trans h
  · exact h

theorem State.pageBoundary_wells (s : State) : s.pageBoundary.wells = s.wells := by
  unfold State.pageBoundary
  dsimp only
  rw [State.finishRecalls_wells, State.publishPages, State.publishFrom_wells]
  exact foldl_keeps (fun t : State => t.wells = s.wells) _ _ _ (fun t r h => (t.goHome_wells r.t3).trans h) rfl

/-! ### Adds (R255) -/

theorem State.aside_applyAdd (s : State) (src : Line) (dst : Place) : Aside Strk.course s (s.applyAdd src dst) := by
  unfold State.applyAdd
  dsimp only
  split
  · rename_i d _
    have hread : Aside Strk.course s (s.readWellLine d dst.at_).1 := s.aside_eccWell _ _ _
    exact (((hread.ite (hread.trans (State.aside_raiseWell _ _ 1)))).trans (State.aside_wellWrite _ _ _ _)).trans (.of_eq rfl)
  · have hread : Aside Strk.course s (s.readPage (lineIdx dst.at_) (lineFld dst.at_)).1 := s.aside_eccStack _ _ _
    exact .ite (s.aside_pmapBad _) (.ite (s.aside_roWrite _ _)
      (((hread.ite (hread.trans (State.aside_raiseWell _ _ 1))).trans (State.aside_t2Write _ _ _ _)).trans (.of_eq rfl)))
  · exact s.aside_pmapBad _
  · exact .refl

theorem State.aside_applyLogs (s : State) : Aside Strk.course s s.applyLogs :=
  (Aside.refl.foldl _ fun u (a : AddRec) => u.aside_applyAdd a.src a.dst).trans (.of_eq rfl)

/-- Without an add in either log nothing is added. -/
theorem State.applyLogs_idle (h : ∀ d, d < 2 → (s.well d).addlog = []) : Aside f s s.applyLogs := by
  unfold State.applyLogs
  rw [h 0 (by decide), h 1 (by decide)]
  exact .of_eq rfl

/-- All that a boundary publishes. -/
def State.published (s : State) (j : Job) (point : Nat) : State :=
  let u := (s.publishKv j.stroke point).pageBoundary
  if j.desc.ordered then u.applyLogs else u

theorem State.aside_published (s : State) (j : Job) (point : Nat) : Aside Strk.course s (s.published j point) :=
  have hpages := (s.aside_publishKv j.stroke point).trans (State.aside_pageBoundary _)
  hpages.trans (.ite (State.aside_applyLogs _) .refl)

/-- With no change of a block and no add to publish, nothing is noted in the job. -/
theorem State.published_idle (j : Job) (point : Nat) (hpending : s.kvt.pending = []) (hlogs : ∀ d, d < 2 → (s.well d).addlog = []) :
    Aside id s (s.published j point) := by
  obtain ⟨k, hk⟩ := State.publishKv_idle (n := j.stroke) (point := point) hpending
  have hkv : Aside id s (s.publishKv j.stroke point) := .of_eq hk
  have hwells : (s.publishKv j.stroke point).pageBoundary.wells = s.wells := by
    rw [State.pageBoundary_wells, hk]
  have hpages := hkv.trans (State.aside_pageBoundary _)
  exact hpages.trans (.ite (State.applyLogs_idle fun d hd => (congrArg Well.addlog (State.well_of_wells hwells d)).trans (hlogs d hd)) .refl)

end
end Sys2Proof.Machine
end

section
/-! PROOF. The boundary between strokes (R216, R271, R273, R292, R426): from the end of one stroke through its publication to the start of the next, or to the end of the
job. -/
namespace Sys2Proof.Machine
open Sys2Proof.Claims

section
variable {s : State} {j : Job}

/-! ### Before and after the publication -/

/-- Without a poisoned stage no header line is poisoned. -/
theorem State.poisonHeaders_none (h : j.poisoned = []) : s.poisonHeaders j = s := by
  unfold State.poisonHeaders
  rw [h]
  exact foldl_keeps (fun t : State => t = s) _ _ _ (fun _ _ ht => ht) rfl

theorem State.noteStretch_frame (s : State) (j : Job) : ∃ h p k, s.noteStretch j = { s with host := h, pcieOut := p, strk := k } := by
  unfold State.noteStretch
  split
  · exact ⟨_, _, _, rfl⟩
  · obtain ⟨h, p, e⟩ := s.raiseStrk_frame 0
    rw [e]
    exact ⟨_, _, _, rfl⟩

theorem State.commitDue_none (h : j.commit = none) : s.commitDue j = s := by rw [State.commitDue, h]

/-- Mirror points depend on the program sets and on the descriptor of the running job. -/
theorem State.pointDue_congr {t : State} (hsets : t.psets = s.psets) (hdesc : t.strk.run.map (·.desc) = s.strk.run.map (·.desc)) (n : Nat) :
    t.pointDue n = s.pointDue n := by
  have hset : t.runSet = s.runSet := by
    have hrun (u : State) : u.runSet = (u.strk.run.map (·.desc)).bind fun d => (u.psets.getD d.pset none).map (·.set) := by
      unfold State.runSet
      cases u.strk.run with
      | none => rfl
      | some i =>
        change _ = (u.psets.getD i.desc.pset none).map (·.set)
        dsimp only
        cases u.psets.getD i.desc.pset none <;> rfl
    rw [hrun, hrun, hdesc, hsets]
  have hparams : t.runParams = s.runParams := by
    have hrun (u : State) : u.runParams = ((u.strk.run.map (·.desc)).map (·.params)).getD [] := by
      unfold State.runParams
      cases u.strk.run <;> rfl
    rw [hrun, hrun, hdesc]
  rw [State.pointDue, State.pointDue, State.runMarks, State.runMarks, hset, hparams]

/-- Requests of encodes are beside the course of the job, and of the wells. -/
theorem State.queueEncodes_frame (s : State) (n : Nat) : ∃ c, s.queueEncodes n = { s with ctxs := c } := by
  unfold State.queueEncodes
  split
  · exact ⟨_, rfl⟩
  · split
    · exact ⟨_, rfl⟩
    · refine foldl_keeps (fun t : State => ∃ c, t = { s with ctxs := c }) _ _ _ (fun t q ht => ?_) ⟨_, rfl⟩
      obtain ⟨c, rfl⟩ := ht
      split
      · exact ⟨_, rfl⟩
      · split
        · exact ⟨_, rfl⟩
        · exact ⟨_, rfl⟩

/-- The stroke's units are cleared, and its encodes queued. -/
def State.strokeDone (s : State) (n : Nat) : State := s.endWells.queueEncodes n

theorem State.aside_strokeDone {α : Type} {f : Strk → α} (s : State) (n : Nat) : Aside f s (s.strokeDone n) := by
  obtain ⟨c, e⟩ := s.endWells.queueEncodes_frame n
  exact s.aside_endWells.trans (.of_eq e)

theorem State.strokeDone_rowrdy (s : State) (n : Nat) {d : Nat} (hd : d < 2) : ((s.strokeDone n).well d).rowrdy = [] := by
  obtain ⟨c, e⟩ := s.endWells.queueEncodes_frame n
  rw [State.strokeDone, e]
  exact s.endWells_rowrdy hd

/-- The stroke counted in RING_PROG. -/
def State.counted (s : State) (r : Nat) : State := s.modRing r fun x => { x with prog := x.prog + 1 }

theorem State.progress_progresses {α : Type} {f : Strk → α} (s : State) (j : Job) : Aside f (s.counted j.ring) (s.progress j) ∧ (s.progress j).wells = s.wells := by
  unfold State.progress
  dsimp only
  split
  · obtain ⟨h, p, e⟩ := State.fire_frame (s := s.counted j.ring) (64 + j.ring)
    refine ⟨State.aside_fire (s.counted j.ring) _, ?_⟩
    rw [State.counted] at e
    rw [e]
    rfl
  · exact ⟨Aside.refl, rfl⟩

theorem State.counted_prog (s : State) (r : Nat) : ((s.counted r).ring r).prog = (s.ring r).prog + 1 := by
  rw [State.counted, State.modRing_eq, State.setRing_ring]

theorem State.counted_place (s : State) (r : Nat) : ((s.counted r).ring r).place = (s.ring r).place := by
  rw [State.counted, State.modRing_eq, State.setRing_ring]
  rfl

/-- JOB_END of a failure noted in the stroke, for a stroke after the next (R430). -/
theorem State.sendFailure_sends (hrun : s.strk.run = some j) (hends : j.ends = []) : Aside Strk.nothing s s.sendFailure
    ∧ ∃ es, s.sendFailure.strk.run = some { j with failure := none, ends := es } ∧ ∀ e, bestEnd es = some e → e.stroke = j.stroke + 2 := by
  unfold State.sendFailure
  rw [hrun]
  dsimp only [Option.bind_some]
  cases hfail : j.failure with
  | none =>
    refine ⟨.refl, [], hrun.trans ?_, nofun⟩
    rw [← hfail, ← hends]
  | some x =>
    have hsent := s.aside_sendAll (f := id) 0x25 [s.strokeNum + 2, x.1, x.2]
    have hnum : s.strokeNum = j.stroke := by rw [State.strokeNum, hrun]
    dsimp only
    unfold State.sendJobEnd
    dsimp only
    rw [hnum] at hsent ⊢
    generalize s.sendAll 0x25 [j.stroke + 2, x.1, x.2] = u at hsent ⊢
    have hu : u.strk.run = some j := (congrArg Strk.run hsent.strk).trans hrun
    refine ⟨⟨hsent.gtc, hsent.grp, hsent.psets, hsent.rings, rfl, hsent.quiesced, hsent.sent, hsent.leaving, hsent.early⟩,
      j.ends ++ [{ rank := s.grp.rank.toNat, own := true, stroke := j.stroke + 2, status := x.1, detail := x.2 }], ?_, fun e he => ?_⟩
    · rw [State.modRun_run, State.addEnd, State.modRun_run, hu]
      rfl
    · rw [hends] at he
      cases he
      rfl

theorem State.sendFailure_none (hrun : s.strk.run = some j) (h : j.failure = none) : s.sendFailure = s := by
  unfold State.sendFailure
  rw [hrun]
  dsimp only [Option.bind_some]
  rw [h]

/-- The work of a boundary before it ends the stroke, `point` being the mirror point that holds blocks freed now. -/
def State.stroked (s : State) (j : Job) (point : Nat) : State := (((s.noteStretch j).poisonHeaders j).published j point).sendFailure.strokeDone j.stroke

/-- A boundary at which no mirror point is committed or due. -/
theorem State.boundary_eq (hcommit : j.commit = none) (hpoint : ∀ point, (s.stroked j point).pointDue j.stroke = false) :
    ∃ point, s.boundary j = ((s.stroked j point).progress j).afterStroke j.stroke (strokeEnd j) := by
  unfold State.boundary
  dsimp only
  rw [State.commitDue_none hcommit]
  refine ⟨j.epoch + 1 + (if ((s.noteStretch j).poisonHeaders j).pointDue j.stroke then 1 else 0), ?_⟩
  generalize j.epoch + 1 + (if ((s.noteStretch j).poisonHeaders j).pointDue j.stroke then 1 else 0) = point
  have hdue := hpoint point
  unfold State.stroked State.published State.strokeDone at hdue ⊢
  dsimp only at hdue ⊢
  rw [hdue, if_neg Bool.false_ne_true]

/-! ### After the boundary -/

/-- The job's next stroke stands in it. -/
def State.atNext (s : State) (n : Nat) : State := s.modRun fun j => { j with stroke := n + 1 }

theorem State.afterStroke_continues {n b : Nat} (hrun : s.strk.run = some j) (habort : j.collAbort = none) (hmore : n + 1 < j.desc.strokes)
    (hends : ∀ e, bestEnd j.ends = some e → e.stroke = n + 2) (hleaving : s.mir.leaving = none) :
    s.afterStroke n b = (s.atNext n).enterStroke (n + 1) b := by
  have hstays : ¬ s.mir.leaving = some n := by
    rw [hleaving]
    exact nofun
  unfold State.afterStroke
  rw [hrun]
  dsimp only
  rw [habort]
  dsimp only
  rw [if_neg (Nat.not_le.mpr hmore)]
  cases hbest : bestEnd j.ends with
  | none => exact if_neg hstays
  | some e =>
    have he := hends e hbest
    have hlater : ¬ ((e.stroke ≤ n + 1 || s.mir.leaving = some n) = true) := by
      rw [he, hleaving]
      simp
    exact if_neg hlater

theorem State.afterStroke_done {n b : Nat} (hrun : s.strk.run = some j) (habort : j.collAbort = none) (hlast : j.desc.strokes ≤ n + 1)
    (hends : j.ends = []) : s.afterStroke n b = (s.atNext n).finishJob 0 0x7F 0 b := by
  unfold State.afterStroke
  rw [hrun]
  dsimp only
  rw [habort]
  dsimp only
  rw [if_pos hlast, hends]
  rfl

theorem exec_strokeBoundary (h : running s j) (hstalls : stallsNow j = []) (hwork : s.openWork j = []) :
    exec .strokeBoundary s = .next ((s.reach (strokeEnd j)).boundary j) := by
  obtain ⟨hlive, hrun, hgoes⟩ := h
  have hexec : exec .strokeBoundary s = execStrokeBoundary s := rfl
  have hlow : lowestStall (j.stalls.filter fun x => x.stroke = j.stroke && x.ext = j.ext) = none := congrArg lowestStall hstalls
  rw [hexec, execStrokeBoundary, hlive, hrun]
  dsimp only
  rw [hgoes, hlow, hwork]
  rfl

/-! ### From stroke to stroke -/

/-- The end of a stroke leaves the job the same but for its account of stretches, of failures and of ends. -/
theorem State.stroked_strokes (hrun : s.strk.run = some j) (hends : j.ends = []) (point : Nat) : Aside Strk.nothing s (s.stroked j point)
    ∧ ∃ n o v c r es, (s.stroked j point).strk.run = some { j with
        stretches := n, overrun := o, isVoid := v, failure := none, noCommit := c, refs := r, ends := es }
      ∧ ∀ e, bestEnd es = some e → e.stroke = j.stroke + 2 := by
  obtain ⟨hnote, -, n, o, v, hj⟩ := State.noteStretch_notes hrun
  have hpub : Aside Strk.course (s.noteStretch j) _ := ((s.noteStretch j).aside_poisonHeaders j).trans (State.aside_published _ j point)
  obtain ⟨f, c, r, hj'⟩ := Strk.run_of_course hpub.strk hj
  obtain ⟨hsent, es, hj'', hbest⟩ := State.sendFailure_sends hj' hends
  have hdone := State.aside_strokeDone (f := id) (((s.noteStretch j).poisonHeaders j).published j point).sendFailure j.stroke
  have hpub' : Aside Strk.nothing (s.noteStretch j) (((s.noteStretch j).poisonHeaders j).published j point) :=
    ⟨hpub.gtc, hpub.grp, hpub.psets, hpub.rings, rfl, hpub.quiesced, hpub.sent, hpub.leaving, hpub.early⟩
  exact ⟨((hnote.trans hpub').trans hsent).trans hdone.weaken, n, o, v, c, r, es, (congrArg Strk.run hdone.strk).trans hj'', hbest⟩

theorem State.stroked_point (hrun : s.strk.run = some j) (hends : j.ends = []) (hpoint : s.pointDue j.stroke = false) (point : Nat) :
    (s.stroked j point).pointDue j.stroke = false := by
  obtain ⟨haside, n, o, v, c, r, es, hrun', -⟩ := State.stroked_strokes hrun hends point
  rw [State.pointDue_congr haside.psets (by rw [hrun, hrun']; rfl), hpoint]

/-- The next stroke of the job begins where the last one ends. -/
theorem State.boundary_begins {p : ProgramSet} {e : StrokeEntry} (hrun : s.strk.run = some j) (hends : j.ends = []) (habort : j.collAbort = none)
    (hcommit : j.commit = none) (hleaving : s.mir.leaving = none) (hpoint : s.pointDue j.stroke = false) (hearly : s.coll.early = [])
    (hmore : j.stroke + 1 < j.desc.strokes) (hset : s.runSet = some p) (hentry : entryAt p j.desc.params (j.stroke + 1) = some e) :
    let r := rateAt j (s.grp.rank.toNat :: s.others) (j.stroke + 1)
    ∃ k, (s.boundary j).strk.run = some k ∧ k.stroke = j.stroke + 1 ∧ k.start = strokeEnd j ∧ k.ext = 0 ∧ k.clock = r.1 ∧ k.factor = r.2
      ∧ k.period = periodOf j.desc.basePeriod e.factor j.desc.baseClock r.1 r.2 ∧ ((s.boundary j).ring j.ring).prog = (s.ring j.ring).prog + 1
      ∧ ∀ d, d < 2 → ((s.boundary j).well d).takers = [] ∧ ((s.boundary j).well d).rowrdy = [] := by
  obtain ⟨point, hboundary⟩ := State.boundary_eq hcommit (State.stroked_point hrun hends hpoint)
  obtain ⟨hstroked, n, o, v, c, r, es, hjob, hbest⟩ := State.stroked_strokes hrun hends point
  have hrow : ∀ d, d < 2 → ((s.stroked j point).well d).rowrdy = [] := fun d hd => State.strokeDone_rowrdy _ j.stroke hd
  rw [hboundary]
  generalize s.stroked j point = w at hstroked hjob hrow
  obtain ⟨hprog, hwells⟩ := w.progress_progresses (f := id) j
  have hprogRing : ((w.progress j).ring j.ring).prog = (s.ring j.ring).prog + 1 := by
    rw [State.ring, hprog.rings]
    refine (w.counted_prog j.ring).trans ?_
    rw [State.ring, hstroked.rings]
    rfl
  have hcounted : (w.progress j).strk.run = _ := (congrArg Strk.run hprog.strk).trans hjob
  have hpsets : (w.progress j).psets = s.psets := hprog.psets.trans hstroked.psets
  have hgrp : (w.progress j).grp = s.grp := hprog.grp.trans hstroked.grp
  have hearly' : (w.progress j).coll.early = [] := hprog.early (hstroked.early hearly)
  rw [State.afterStroke_continues hcounted habort hmore hbest (hprog.leaving (hstroked.leaving hleaving))]
  generalize w.progress j = x at hwells hprogRing hcounted hpsets hgrp hearly'
  have hnext : (x.atNext j.stroke).strk.run = some { j with
      stretches := n, overrun := o, isVoid := v, failure := none, noCommit := c, refs := r, ends := es, stroke := j.stroke + 1 } := by
    rw [State.atNext, State.modRun_run, hcounted]
    rfl
  have hsets : (x.atNext j.stroke).psets = s.psets := hpsets
  have hset' : (x.atNext j.stroke).runSet = some p := by
    rw [← hset, State.runSet, State.runSet, hnext, hrun]
    dsimp only
    rw [hsets]
  have hranks : (x.atNext j.stroke).grp.rank.toNat :: (x.atNext j.stroke).others = s.grp.rank.toNat :: s.others := by
    have hg : (x.atNext j.stroke).grp = s.grp := hgrp
    rw [State.others, State.others, hg]
  obtain ⟨evt, henter, hstart⟩ := State.enterStroke_enters hnext hset' hentry hearly' (strokeEnd j)
  rw [hranks] at henter
  refine ⟨_, congrArg Strk.run henter.strk, rfl, rfl, rfl, rfl, rfl, rfl, ?_, fun d hd => ⟨(hstart d hd).1, (hstart d hd).2.trans ?_⟩⟩
  · rw [State.ring, henter.rings]
    exact hprogRing
  · exact (congrArg Well.rowrdy (State.well_of_wells hwells d)).trans (hrow d hd)

/-! ### The last stroke -/

/-- With nothing to publish that could be refused, the end of a stroke leaves the job and its jobs' registers as the stretches have. -/
theorem State.stroked_idle (hrun : s.strk.run = some j) (hfailure : j.failure = none) (hpoisoned : j.poisoned = []) (hpending : s.kvt.pending = [])
    (hlogs : ∀ d, d < 2 → (s.well d).addlog = []) (point : Nat) : Aside id (s.noteStretch j) (s.stroked j point) := by
  obtain ⟨-, -, n, o, v, hj⟩ := State.noteStretch_notes hrun
  obtain ⟨h, p, k, hframe⟩ := s.noteStretch_frame j
  have hkvt : (s.noteStretch j).kvt.pending = [] := by rw [hframe]; exact hpending
  have hwells : ∀ d, d < 2 → ((s.noteStretch j).well d).addlog = [] := by rw [hframe]; exact hlogs
  unfold State.stroked
  rw [State.poisonHeaders_none hpoisoned]
  have hpub := State.published_idle j point hkvt hwells
  rw [State.sendFailure_none ((congrArg Strk.run hpub.strk).trans hj) hfailure]
  exact hpub.trans (State.aside_strokeDone _ _)

/-- The job has run its last stroke, and ends with DONE. -/
theorem State.boundary_ends (hrun : s.strk.run = some j) (hends : j.ends = []) (hfailure : j.failure = none) (habort : j.collAbort = none)
    (hcommit : j.commit = none) (hpoint : s.pointDue j.stroke = false) (hlast : j.desc.strokes ≤ j.stroke + 1) (hpoisoned : j.poisoned = [])
    (hpending : s.kvt.pending = []) (hlogs : ∀ d, d < 2 → (s.well d).addlog = []) :
    (s.boundary j).strk.run = none ∧ (s.boundary j).strk.lastEnd = strokeEnd j ∧ (ringTakes s j.ring → recordOut s (s.boundary j) j.ring 0) := by
  obtain ⟨point, hboundary⟩ := State.boundary_eq hcommit (State.stroked_point hrun hends hpoint)
  obtain ⟨hnote, -, n, o, v, hj⟩ := State.noteStretch_notes hrun
  have hidle := State.stroked_idle hrun hfailure hpoisoned hpending hlogs point
  rw [hboundary]
  generalize s.stroked j point = w at hidle
  obtain ⟨hprog, -⟩ := w.progress_progresses (f := id) j
  have hjob : (w.progress j).strk.run = _ := (congrArg Strk.run hprog.strk).trans ((congrArg Strk.run hidle.strk).trans hj)
  rw [State.afterStroke_done hjob habort hlast hends]
  have hnext : ((w.progress j).atNext j.stroke).strk.run = some { j with stretches := n, overrun := o, isVoid := v, stroke := j.stroke + 1 } := by
    rw [State.atNext, State.modRun_run, hjob]
    rfl
  have hend := State.finishJob_ends hnext 0 0x7F 0 (strokeEnd j)
  have hplace : (((w.progress j).atNext j.stroke).ring j.ring).place = (s.ring j.ring).place := by
    have hcount : (w.progress j).ring j.ring = (w.counted j.ring).ring j.ring := congrArg (sget (fun _ => Ring.reset) · j.ring) hprog.rings
    have hring : w.ring j.ring = s.ring j.ring := congrArg (sget (fun _ => Ring.reset) · j.ring) (hidle.rings.trans hnote.rings)
    exact (congrArg Ring.place hcount).trans ((w.counted_place j.ring).trans (congrArg Ring.place hring))
  refine ⟨congrArg Strk.run hend.strk, congrArg Strk.lastEnd hend.strk, fun htakes => ?_⟩
  have hquiet : ((w.progress j).atNext j.stroke).host.quiesced = s.host.quiesced := hprog.quiesced.trans (hidle.quiesced.trans hnote.quiesced)
  exact recordOut_mono hplace List.prefix_rfl (hend.record ⟨(congrArg (fun x => x.2.2) hplace).trans htakes.1, hquiet.trans htakes.2⟩)

end
end Sys2Proof.Machine

namespace Sys2Proof.Proofs
open Sys2Proof Sys2Proof.Machine Sys2Proof.Claims

/-- Settles O29: the boundary's work is beside the job's course, and what stands after it is the next stroke's start or the job's end. -/
theorem boundariesBeginTheNextStroke : Obligations.BoundariesBeginTheNextStroke := by
  unfold Obligations.BoundariesBeginTheNextStroke
  intro s j hj hstalls hwork hends hfailure habort hcommit hleaving hpoint hearly
  have hexec := exec_strokeBoundary hj hstalls hwork
  obtain ⟨-, hrun, -⟩ := hj
  refine ⟨fun p e hmore hset hentry => ?_, fun hlast htakes hpoisoned hpending hlogs => ?_⟩
  · obtain ⟨k, hk⟩ := State.boundary_begins (s := s.reach (strokeEnd j)) hrun hends habort hcommit hleaving hpoint hearly hmore hset hentry
    exact ⟨_, k, hexec, hk⟩
  · obtain ⟨hnone, hlastEnd, hrecord⟩ :=
      State.boundary_ends (s := s.reach (strokeEnd j)) hrun hends hfailure habort hcommit hpoint hlast hpoisoned hpending hlogs
    exact ⟨_, hexec, hnone, hlastEnd, hrecord htakes⟩

end Sys2Proof.Proofs
end
